-- ==== Sys2Proof/Word.lean ====
section
/-!
DEFINITION. The word types of the Plynter ISA and their plainest arithmetic.
All scalar registers are 64 bits wide (spec/04_encoding.md R57), an instruction is one 32-bit word, memory is
addressed by bytes.
-/
namespace Sys2Proof

/-- A scalar register, a CSR, an engine register or an address (R57, R75). -/
abbrev Word := BitVec 64

/-- One byte of memory. -/
abbrev Byte := BitVec 8

/-- One instruction word (R82). -/
abbrev IWord := BitVec 32

/-- A program counter value: 48 bits (R83, R142). -/
abbrev Pc := BitVec 48

/-- A scalar operand code (R57). -/
abbrev Reg := BitVec 6

end Sys2Proof
end

