-- ==== Sys2Proof/Config.lean ====
section
/-!
DEFINITION. What is fixed for the part (spec/02_machine.md R17) and the values that the spec leaves open. An opaque constant has no
body: nothing can be proved about its value, so a claim that mentions it holds for every value (logs 7, 12, 13).
-/
namespace Sys2Proof.Config

/-- Clusters of a die, cores of a cluster, slots of a core (R17). -/
def clustersPerDie : Nat := 32
def coresPerCluster : Nat := 16
def slotsPerCore : Nat := 4
def dies : Nat := 8
def cores : Nat := 4096
def clusters : Nat := 256
def slots : Nat := 16384

/-- Sizes in bytes: HBM of the package, one TCM, one scratchpad, one die's SRAM (R17). -/
def hbmBytes : Nat := 1536 * 2 ^ 30
def tcmBytes : Nat := 2 ^ 17
def padBytes : Nat := 2 ^ 21
def sramBytes : Nat := 2 ^ 25

/-- A result that the spec leaves undefined after an instruction that goes on, drawn with the state's counter. -/
opaque freeWord : Nat → Word

/-- RNE at a tie between two grid points of a format with p = 1: such a format has no fraction bit, and R40 names no other rule
(DESIGN CHOICE, log 12). The arguments are the format code, the sign and the exponent of the smaller point; true takes the larger magnitude. -/
opaque tieP1 : Nat → Bool → Int → Bool

/-- A Falcon-1024 signature under the part's attestation key (R300, DESIGN CHOICE, log 7). -/
opaque falconSign : BitVec 512 → BitVec 256 → BitVec 12 → Nat → BitVec 10240

end Sys2Proof.Config
end

