-- ==== Sys2Proof/Machine/SMap.lean ====
section
/-!
DEFINITION. Sparse maps from Nat keys in one canonical form: keys strictly rising, no entry equal to the default.
Memory, and every array of units of which most are in their reset state, are held in this form, so that equal contents are
equal data.
-/
namespace Sys2Proof

/-- A sparse map: key and value pairs, keys rising, none equal to the default of the map. -/
abbrev SMap (α : Type) := List (Nat × α)

namespace SMap

/-- The value at a key; an unlisted key holds the default. -/
def get (d : α) (m : SMap α) (k : Nat) : α :=
  match m with
  | [] => d
  | (k', v) :: rest => if k' = k then v else get d rest k

/-- Drops every entry of a key. -/
def erase (m : SMap α) (k : Nat) : SMap α :=
  match m with
  | [] => []
  | (k', v) :: rest => if k' = k then erase rest k else (k', v) :: erase rest k

/-- Places an entry before the first larger key. -/
def insert (m : SMap α) (k : Nat) (v : α) : SMap α :=
  match m with
  | [] => [(k, v)]
  | (k', v') :: rest => if k < k' then (k, v) :: (k', v') :: rest else (k', v') :: insert rest k v

/-- Writes a value at a key, keeping the canonical form. -/
def set [DecidableEq α] (d : α) (m : SMap α) (k : Nat) (v : α) : SMap α :=
  if v = d then erase m k else insert (erase m k) k v

/-- Keys strictly rise above a bound. -/
def rising (lo : Option Nat) (m : SMap α) : Bool :=
  match m with
  | [] => true
  | (k, _) :: rest => (match lo with | none => true | some b => b < k) && rising (some k) rest

/-- The canonical form: rising keys, no default value listed. -/
def wf [DecidableEq α] (d : α) (m : SMap α) : Bool :=
  rising none m && m.all (fun e => decide (e.2 ≠ d))

end SMap

end Sys2Proof
end

