-- ==== Sys2Proof/Syntax.lean ====
section
/-!
DEFINITION. The syntax of the machine's steps: one constructor of Instr per row of spec/opcode_table.json.
The first 184 are the instruction words of spec/04_encoding.md (R82 to R98); the switch marker of R84 is their last field.
The last 77 are the rows that have no word: the steps of ports, engines, homes, the foreman, the host and the fabric.
Their operands name the unit that takes the step, or carry what comes from outside the device.
-/
namespace Sys2Proof

/-- What an access that arrives from another device asks for (spec/07_memory.md R134, R151). -/
inductive RemoteOp where
  /-- A load. -/
  | load
  /-- A store of the value's low bytes. -/
  | store
  /-- An atomic with the aop code of R90. -/
  | amo (aop : Nat)
  /-- A compare and swap with its expected value (R329). -/
  | cas (expected : Word)
  /-- FEGET, FESET and FECLR (R347). -/
  | feget
  | feset
  | feclr
  /-- A counter add (R327). -/
  | cadd
  /-- A watch on a counter, answered when it reaches the target (R337). -/
  | cwait (target : Word)
  /-- A barrier operation on a level-3 barrier, by its fn value, with its other operand (R92, R316). -/
  | barrier (fn : Nat) (arg : Word)
  /-- A residual operation, by its fn value, with its other operand; terms are in the data (R92, R228). -/
  | resid (fn : Nat) (arg : Word)
  /-- A task record sent to a core's inbox (R114). -/
  | record (core : Nat)
  /-- A CPYR chunk with its format and its key: slot, serial and chunk number; resent says that it was sent before (R206). -/
  | reduce (fmt slot serial chunk : Nat) (resent : Bool)
  /-- A ferryman message (R282): 0 a credit, 1 a chunk, 2 the withdrawal of credits, 3 and 4 that the sender is parked by a gang switch and
  that it goes on (R255); to a die and slot index, from a rank, of a run. -/
  | ferry (kind die idx rank run : Nat)
  /-- A command of the sender's engine registers ownership of size bytes for one of its chunks, gives up the bytes of a chunk, or gives
  up all that it still owns (R165, R166). -/
  | own (cid chunk : Nat)
  | disown (cid chunk : Nat)
  | disownAll (cid : Nat)
  /-- The sender's slot withdraws its full/empty accesses that wait here (R144). -/
  | withdraw
  /-- The engines of the first dies are to hold the map of a BXMAP; none, that its task no longer has one here (R217). -/
  | mapRoom (dies : Nat)
  deriving DecidableEq, Repr

/-- An access that another device sends to this one (R135, R151): its sender, context and mode, the path 4 address,
the full/empty qualifier, the operation, its size in bytes and its data; longer data stand as bytes. slot is the sender's slot, whose
accesses to one home keep their order (R155); eng is the command of the sender's engine that writes, whose own units it may write
(R165). -/
structure RemoteAcc where
  src   : Nat
  ctx   : Nat
  user  : Bool
  addr  : Word
  q     : BitVec 2
  op    : RemoteOp
  size  : Nat
  value : BitVec 4096
  data  : List Byte := []
  slot  : Nat := 0
  eng   : Option Nat := none
  /-- The part of a bit-axis command that the device has, whose own failures its lead reports (R220). -/
  part  : Bool := false
  deriving DecidableEq, Repr

/-- The apertures through which the host reaches the device (spec/16_fabric_host.md R273), and its own memory. -/
inductive HostSpace where
  /-- The register window. -/
  | reg
  /-- The HBM window. -/
  | hbm
  /-- The SRAM window. -/
  | sram
  /-- Host memory itself. -/
  | host
  deriving DecidableEq, Repr

/-- The steps of the machine, one constructor per row of the opcode table. -/
inductive Instr where
  /-- ADD (R311). Writes the sum of ra and rb, mod 2^64, to rd. -/
  | add (rd : Reg) (ra : Reg) (rb : Reg) (sw : Bool)
  /-- SUB (R311). Writes the difference of ra and rb, mod 2^64, to rd. -/
  | sub (rd : Reg) (ra : Reg) (rb : Reg) (sw : Bool)
  /-- AND (R315). Writes the bitwise AND of ra and rb to rd. -/
  | and (rd : Reg) (ra : Reg) (rb : Reg) (sw : Bool)
  /-- OR (R315). Writes the bitwise OR of ra and rb to rd. -/
  | or (rd : Reg) (ra : Reg) (rb : Reg) (sw : Bool)
  /-- XOR (R315). Writes the bitwise XOR of ra and rb to rd. -/
  | xor (rd : Reg) (ra : Reg) (rb : Reg) (sw : Bool)
  /-- SHL (R379). Shifts ra left by rb[5:0] bits. -/
  | shl (rd : Reg) (ra : Reg) (rb : Reg) (sw : Bool)
  /-- SHR (R379). Shifts ra right logically by rb[5:0] bits. -/
  | shr (rd : Reg) (ra : Reg) (rb : Reg) (sw : Bool)
  /-- SRA (R379). Shifts ra right arithmetically by rb[5:0] bits. -/
  | sra (rd : Reg) (ra : Reg) (rb : Reg) (sw : Bool)
  /-- SLT (R381). Sets rd to 1 when ra is less than rb as signed values, otherwise to 0. -/
  | slt (rd : Reg) (ra : Reg) (rb : Reg) (sw : Bool)
  /-- SLTU (R381). Sets rd to 1 when ra is less than rb as unsigned values, otherwise to 0. -/
  | sltu (rd : Reg) (ra : Reg) (rb : Reg) (sw : Bool)
  /-- MIN (R357). Writes the smaller of ra and rb, compared as signed values. -/
  | min (rd : Reg) (ra : Reg) (rb : Reg) (sw : Bool)
  /-- MAX (R357). Writes the larger of ra and rb, compared as signed values. -/
  | max (rd : Reg) (ra : Reg) (rb : Reg) (sw : Bool)
  /-- MINU (R357). Writes the smaller of ra and rb, compared as unsigned values. -/
  | minu (rd : Reg) (ra : Reg) (rb : Reg) (sw : Bool)
  /-- MAXU (R357). Writes the larger of ra and rb, compared as unsigned values. -/
  | maxu (rd : Reg) (ra : Reg) (rb : Reg) (sw : Bool)
  /-- SEL (R378). Writes rb to rd when ra is non-zero, otherwise leaves rd unchanged. -/
  | sel (rd : Reg) (ra : Reg) (rb : Reg) (sw : Bool)
  /-- MIX (R362). Writes mix64(ra + rb times the fixed constant) to rd. -/
  | mix (rd : Reg) (ra : Reg) (rb : Reg) (sw : Bool)
  /-- CLZ (R330). Counts the leading zero bits of ra. -/
  | clz (rd : Reg) (ra : Reg) (sw : Bool)
  /-- CTZ (R330). Counts the trailing zero bits of ra. -/
  | ctz (rd : Reg) (ra : Reg) (sw : Bool)
  /-- POPC (R330). Counts the one bits of ra. -/
  | popc (rd : Reg) (ra : Reg) (sw : Bool)
  /-- MUL (R363). Writes the low 64 bits of the product of ra and rb. -/
  | mul (rd : Reg) (ra : Reg) (rb : Reg) (sw : Bool)
  /-- MULH (R363). Writes the high 64 bits of the signed 128-bit product. -/
  | mulh (rd : Reg) (ra : Reg) (rb : Reg) (sw : Bool)
  /-- MULHU (R363). Writes the high 64 bits of the unsigned 128-bit product. -/
  | mulhu (rd : Reg) (ra : Reg) (rb : Reg) (sw : Bool)
  /-- DIV (R342). Writes the signed quotient, truncated toward zero, with defined results for division by zero and overflow. -/
  | div (rd : Reg) (ra : Reg) (rb : Reg) (sw : Bool)
  /-- DIVU (R342). Writes the unsigned quotient, truncated. -/
  | divu (rd : Reg) (ra : Reg) (rb : Reg) (sw : Bool)
  /-- REM (R342). Writes the signed remainder, which takes the sign of ra. -/
  | rem (rd : Reg) (ra : Reg) (rb : Reg) (sw : Bool)
  /-- REMU (R342). Writes the unsigned remainder. -/
  | remu (rd : Reg) (ra : Reg) (rb : Reg) (sw : Bool)
  /-- ADDI (R311). Adds the sign-extended 13-bit immediate to ra. -/
  | addi (rd : Reg) (ra : Reg) (imm : BitVec 13) (sw : Bool)
  /-- ANDI (R315). ANDs ra with the sign-extended immediate. -/
  | andi (rd : Reg) (ra : Reg) (imm : BitVec 13) (sw : Bool)
  /-- ORI (R315). ORs ra with the sign-extended immediate. -/
  | ori (rd : Reg) (ra : Reg) (imm : BitVec 13) (sw : Bool)
  /-- XORI (R315). XORs ra with the sign-extended immediate. -/
  | xori (rd : Reg) (ra : Reg) (imm : BitVec 13) (sw : Bool)
  /-- SLTI (R381). Sets rd to 1 when ra is less than the immediate as signed values. -/
  | slti (rd : Reg) (ra : Reg) (imm : BitVec 13) (sw : Bool)
  /-- SLTIU (R381). Sets rd to 1 when ra is less than the sign-extended immediate as unsigned values. -/
  | sltiu (rd : Reg) (ra : Reg) (imm : BitVec 13) (sw : Bool)
  /-- SHLI (R379). Shifts ra left by an immediate amount. -/
  | shli (rd : Reg) (ra : Reg) (n : BitVec 6) (sw : Bool)
  /-- SHRI (R379). Shifts ra right logically by an immediate amount. -/
  | shri (rd : Reg) (ra : Reg) (n : BitVec 6) (sw : Bool)
  /-- SRAI (R379). Shifts ra right arithmetically by an immediate amount. -/
  | srai (rd : Reg) (ra : Reg) (n : BitVec 6) (sw : Bool)
  /-- LUI (R356). Writes the sign-extended imm19 times 2^13 to rd. -/
  | lui (rd : Reg) (imm : BitVec 19) (sw : Bool)
  /-- ADDPC (R312). Writes the PC plus the sign-extended imm19 times 2^13 to rd. -/
  | addpc (rd : Reg) (imm : BitVec 19) (sw : Bool)
  /-- BFX (R323). Extracts a bit field of ra, zero-extended. -/
  | bfx (rd : Reg) (ra : Reg) (pos : BitVec 6) (len : BitVec 6) (sw : Bool)
  /-- BFI (R323). Inserts the low bits of ra into a bit field of rd. -/
  | bfi (rd : Reg) (ra : Reg) (pos : BitVec 6) (len : BitVec 6) (sw : Bool)
  /-- LDB (R354). Loads a byte, sign-extended, with an optional full/empty qualifier. -/
  | ldb (rt : Reg) (ra : Reg) (off : BitVec 11) (q : BitVec 2) (sw : Bool)
  /-- LDBU (R354). Loads a byte, zero-extended. -/
  | ldbu (rt : Reg) (ra : Reg) (off : BitVec 11) (q : BitVec 2) (sw : Bool)
  /-- LDH (R354). Loads a halfword, sign-extended. -/
  | ldh (rt : Reg) (ra : Reg) (off : BitVec 11) (q : BitVec 2) (sw : Bool)
  /-- LDHU (R354). Loads a halfword, zero-extended. -/
  | ldhu (rt : Reg) (ra : Reg) (off : BitVec 11) (q : BitVec 2) (sw : Bool)
  /-- LDW (R354). Loads a word, sign-extended. -/
  | ldw (rt : Reg) (ra : Reg) (off : BitVec 11) (q : BitVec 2) (sw : Bool)
  /-- LDWU (R354). Loads a word, zero-extended. -/
  | ldwu (rt : Reg) (ra : Reg) (off : BitVec 11) (q : BitVec 2) (sw : Bool)
  /-- LDD (R354). Loads a doubleword. -/
  | ldd (rt : Reg) (ra : Reg) (off : BitVec 11) (q : BitVec 2) (sw : Bool)
  /-- STB (R383). Stores a byte, with an optional full/empty qualifier. -/
  | stb (rt : Reg) (ra : Reg) (off : BitVec 11) (q : BitVec 2) (sw : Bool)
  /-- STH (R383). Stores a halfword. -/
  | sth (rt : Reg) (ra : Reg) (off : BitVec 11) (q : BitVec 2) (sw : Bool)
  /-- STW (R383). Stores a word. -/
  | stw (rt : Reg) (ra : Reg) (off : BitVec 11) (q : BitVec 2) (sw : Bool)
  /-- STD (R383). Stores a doubleword. -/
  | std (rt : Reg) (ra : Reg) (off : BitVec 11) (q : BitVec 2) (sw : Bool)
  /-- AMO_ADD (R313). Atomic add at home; returns the old value. -/
  | amoAdd (rd : Reg) (ra : Reg) (rb : Reg) (sc : BitVec 2) (wd : Bool) (sw : Bool)
  /-- AMO_AND (R313). Atomic AND at home; returns the old value. -/
  | amoAnd (rd : Reg) (ra : Reg) (rb : Reg) (sc : BitVec 2) (wd : Bool) (sw : Bool)
  /-- AMO_OR (R313). Atomic OR at home; returns the old value. -/
  | amoOr (rd : Reg) (ra : Reg) (rb : Reg) (sc : BitVec 2) (wd : Bool) (sw : Bool)
  /-- AMO_XOR (R313). Atomic XOR at home; returns the old value. -/
  | amoXor (rd : Reg) (ra : Reg) (rb : Reg) (sc : BitVec 2) (wd : Bool) (sw : Bool)
  /-- AMO_MIN (R313). Atomic signed minimum at home; returns the old value. -/
  | amoMin (rd : Reg) (ra : Reg) (rb : Reg) (sc : BitVec 2) (wd : Bool) (sw : Bool)
  /-- AMO_MAX (R313). Atomic signed maximum at home; returns the old value. -/
  | amoMax (rd : Reg) (ra : Reg) (rb : Reg) (sc : BitVec 2) (wd : Bool) (sw : Bool)
  /-- AMO_MINU (R313). Atomic unsigned minimum at home; returns the old value. -/
  | amoMinu (rd : Reg) (ra : Reg) (rb : Reg) (sc : BitVec 2) (wd : Bool) (sw : Bool)
  /-- AMO_MAXU (R313). Atomic unsigned maximum at home; returns the old value. -/
  | amoMaxu (rd : Reg) (ra : Reg) (rb : Reg) (sc : BitVec 2) (wd : Bool) (sw : Bool)
  /-- AMO_SWAP (R313). Atomic swap at home; returns the old value. -/
  | amoSwap (rd : Reg) (ra : Reg) (rb : Reg) (sc : BitVec 2) (wd : Bool) (sw : Bool)
  /-- AMO_FADD32 (R313). Atomic FP32 add at home, rounded RNE, with no flag; returns the old value. -/
  | amoFadd32 (rd : Reg) (ra : Reg) (rb : Reg) (sc : BitVec 2) (sw : Bool)
  /-- AMO_NIB (R170). Atomically replaces one nibble of a byte; returns the old nibble. -/
  | amoNib (rd : Reg) (ra : Reg) (rb : Reg) (sc : BitVec 2) (sw : Bool)
  /-- CAS (R329). Compare-and-swap at home; returns the old value. -/
  | cas (rd : Reg) (ra : Reg) (rb : Reg) (sc : BitVec 2) (wd : Bool) (sw : Bool)
  /-- FEGET (R347). Reads the full/empty bit of a granule. -/
  | feget (rd : Reg) (ra : Reg) (sw : Bool)
  /-- FESET (R348). Sets a granule full and releases the qualified accesses waiting on it. -/
  | feset (ra : Reg) (sw : Bool)
  /-- FECLR (R348). Sets a granule empty and releases a waiting .fc store. -/
  | feclr (ra : Reg) (sw : Bool)
  /-- BEQ (R322). Branches when ra equals rb. -/
  | beq (ra : Reg) (rb : Reg) (disp : BitVec 13) (sw : Bool)
  /-- BNE (R322). Branches when ra differs from rb. -/
  | bne (ra : Reg) (rb : Reg) (disp : BitVec 13) (sw : Bool)
  /-- BLT (R322). Branches when ra is less than rb as signed values. -/
  | blt (ra : Reg) (rb : Reg) (disp : BitVec 13) (sw : Bool)
  /-- BGE (R322). Branches when ra is greater than or equal to rb as signed values. -/
  | bge (ra : Reg) (rb : Reg) (disp : BitVec 13) (sw : Bool)
  /-- BLTU (R322). Branches when ra is less than rb as unsigned values. -/
  | bltu (ra : Reg) (rb : Reg) (disp : BitVec 13) (sw : Bool)
  /-- BGEU (R322). Branches when ra is greater than or equal to rb as unsigned values. -/
  | bgeu (ra : Reg) (rb : Reg) (disp : BitVec 13) (sw : Bool)
  /-- J (R352). Jumps PC-relative. -/
  | j (disp : BitVec 25) (sw : Bool)
  /-- CALL (R328). Pushes a call frame and jumps PC-relative. -/
  | call (disp : BitVec 25) (sw : Bool)
  /-- CALLR (R328). Pushes a call frame and jumps to ra. -/
  | callr (ra : Reg) (sw : Bool)
  /-- JR (R352). Jumps to ra. -/
  | jr (ra : Reg) (sw : Bool)
  /-- RET (R369). Returns from a call frame, filling the frame below if it is spilled. -/
  | ret (sw : Bool)
  /-- ENTER (R343). Sets the frame size to k, spilling old frames as needed. -/
  | enter (k : BitVec 6) (sw : Bool)
  /-- SHRINK (R380). Reduces the frame size to k and releases registers. -/
  | shrink (k : BitVec 6) (sw : Bool)
  /-- MIF (R122). Pushes a mask entry and narrows the active bit by a condition. -/
  | mif (ra : Reg) (sw : Bool)
  /-- MELSE (R122). Inverts the condition of the top mask entry. -/
  | melse (sw : Bool)
  /-- MEND (R122). Pops the mask stack and restores the active bit. -/
  | mend (sw : Bool)
  /-- FORK (R113). Pushes a task record onto the core's deque, or runs it nested when the deque is full. -/
  | fork (ra : Reg) (sw : Bool)
  /-- JOIN (R115). Waits on a counter, running records from the own deque nested while it waits. -/
  | join (ra : Reg) (rb : Reg) (sw : Bool)
  /-- SPAWN (R382). Sends a 64-byte task record to a core's inbox. -/
  | spawn (ra : Reg) (rb : Reg) (sw : Bool)
  /-- RETIRE (R370). Ends the task after its stores are performed and adds 1 to its counter. -/
  | retire (sw : Bool)
  /-- YIELD (R410). Acts as a quantum expiry for tasks at levels 4–11, otherwise as a NOP. -/
  | yield (sw : Bool)
  /-- TGATE (R390). Holds a record in the gate table until a counter reaches a target. -/
  | tgate (rd : Reg) (ra : Reg) (rb : Reg) (sw : Bool)
  /-- TSPAWN (R395). Places tile records round-robin on idle slots or in the spawn queue. -/
  | tspawn (rd : Reg) (ra : Reg) (rb : Reg) (sw : Bool)
  /-- STRAND (R120). Forms a strand with follower slots along the cluster chain. -/
  | strand (ra : Reg) (sw : Bool)
  /-- UNSTRAND (R124). Releases the strand once the followers have drained. -/
  | unstrand (sw : Bool)
  /-- POPNEW (R237). Opens a population and reserves slots for its clones. -/
  | popnew (rd : Reg) (ra : Reg) (rb : Reg) (sw : Bool)
  /-- POPJOIN (R238). Makes the slot a member of the population and returns its index. -/
  | popjoin (rd : Reg) (ra : Reg) (sw : Bool)
  /-- RESAMPLE (R241). Arrives at the resampling collective with a weight. -/
  | resample (rd : Reg) (ra : Reg) (rb : Reg) (sw : Bool)
  /-- POPLEAVE (R239). Ends the slot's population membership. -/
  | popleave (ra : Reg) (sw : Bool)
  /-- POPINFO (R240). Returns the generation and the member count. -/
  | popinfo (rd : Reg) (ra : Reg) (sw : Bool)
  /-- RSNEW (R227). Arms or frees the segments of a residual object and advances a counter. -/
  | rsnew (ra : Reg) (rb : Reg) (sw : Bool)
  /-- RSPOST (R229). Posts a contributor's 64 terms into a segment's rods, indivisibly at home. -/
  | rspost (rd : Reg) (ra : Reg) (rb : Reg) (sw : Bool)
  /-- RSREAD (R230). Parks until the need mask is met or the segment closes, then converts the rods out. -/
  | rsread (rd : Reg) (ra : Reg) (rb : Reg) (sw : Bool)
  /-- RSTRY (R230). Reads the segment like RSREAD but never parks. -/
  | rstry (rd : Reg) (ra : Reg) (rb : Reg) (sw : Bool)
  /-- RSSTAT (R231). Returns the segment's state word. -/
  | rsstat (rd : Reg) (ra : Reg) (sw : Bool)
  /-- RSSEAL (R231). Seals the segment, wakes parked reads and returns the state word. -/
  | rsseal (rd : Reg) (ra : Reg) (sw : Bool)
  /-- FENCE_REL (R160). Release fence: waits until earlier stores within scope are performed, and returns PEERFAIL. -/
  | fenceRel (rd : Reg) (sc : BitVec 2) (sw : Bool)
  /-- FENCE_ACQ (R161). Acquire fence: waits for earlier loads and waits, and empties the read-only cache at wide scopes. -/
  | fenceAcq (rd : Reg) (sc : BitVec 2) (sw : Bool)
  /-- FENCE_AR (R161). Combined release and acquire fence. -/
  | fenceAr (rd : Reg) (sc : BitVec 2) (sw : Bool)
  /-- CWAIT (R337). Parks until a counter is at least rb. -/
  | cwait (ra : Reg) (rb : Reg) (sw : Bool)
  /-- CADD (R327). Adds rb to a counter at its home and fires the watches it meets. -/
  | cadd (ra : Reg) (rb : Reg) (sw : Bool)
  /-- BARNEW (R317). Allocates a barrier from a pool and returns its handle. -/
  | barnew (rd : Reg) (ra : Reg) (rb : Reg) (sw : Bool)
  /-- BARLINK (R319). Links a child barrier to a parent barrier. -/
  | barlink (ra : Reg) (rb : Reg) (sw : Bool)
  /-- BARARR (R318). Counts an arrival at a barrier and returns the phase it counts toward. -/
  | bararr (rd : Reg) (ra : Reg) (sw : Bool)
  /-- BARWAIT (R321). Parks until the barrier's phase differs from rb. -/
  | barwait (ra : Reg) (rb : Reg) (sw : Bool)
  /-- BARFREE (R320). Removes a reference from a barrier. -/
  | barfree (ra : Reg) (sw : Bool)
  /-- BARREF (R320). Adds a reference to a barrier. -/
  | barref (ra : Reg) (sw : Bool)
  /-- ENQ (R180). Puts an entry onto a ring at its home and returns a status. -/
  | enq (rd : Reg) (ra : Reg) (rb : Reg) (sw : Bool)
  /-- DEQ (R180). Takes an entry from a ring at its home and writes a status to rb. -/
  | deq (rd : Reg) (ra : Reg) (rb : Reg) (sw : Bool)
  /-- TSTAMP (R396). Reads the global timestamp. -/
  | tstamp (rd : Reg) (sw : Bool)
  /-- VADD (R398). Adds two slices element by element. -/
  | vadd (md : BitVec 2) (ma : BitVec 2) (mb : BitVec 2) (od : Bool) (oa : Bool) (ob : Bool) (xi : Reg) (k : BitVec 5) (sw : Bool)
  /-- VSUB (R398). Subtracts two slices element by element. -/
  | vsub (md : BitVec 2) (ma : BitVec 2) (mb : BitVec 2) (od : Bool) (oa : Bool) (ob : Bool) (xi : Reg) (k : BitVec 5) (sw : Bool)
  /-- VMUL (R398). Multiplies two slices element by element. -/
  | vmul (md : BitVec 2) (ma : BitVec 2) (mb : BitVec 2) (od : Bool) (oa : Bool) (ob : Bool) (xi : Reg) (k : BitVec 5) (sw : Bool)
  /-- VFMA (R398). Computes x·y + z, rounded once. -/
  | vfma (md : BitVec 2) (ma : BitVec 2) (mb : BitVec 2) (od : Bool) (oa : Bool) (ob : Bool) (xi : Reg) (k : BitVec 5) (sw : Bool)
  /-- VFMS (R398). Computes x·y − z, rounded once. -/
  | vfms (md : BitVec 2) (ma : BitVec 2) (mb : BitVec 2) (od : Bool) (oa : Bool) (ob : Bool) (xi : Reg) (k : BitVec 5) (sw : Bool)
  /-- VFNMA (R398). Computes −x·y + z, rounded once. -/
  | vfnma (md : BitVec 2) (ma : BitVec 2) (mb : BitVec 2) (od : Bool) (oa : Bool) (ob : Bool) (xi : Reg) (k : BitVec 5) (sw : Bool)
  /-- VMIN (R47). Writes the element-wise minimum. -/
  | vmin (md : BitVec 2) (ma : BitVec 2) (mb : BitVec 2) (od : Bool) (oa : Bool) (ob : Bool) (xi : Reg) (k : BitVec 5) (sw : Bool)
  /-- VMAX (R47). Writes the element-wise maximum. -/
  | vmax (md : BitVec 2) (ma : BitVec 2) (mb : BitVec 2) (od : Bool) (oa : Bool) (ob : Bool) (xi : Reg) (k : BitVec 5) (sw : Bool)
  /-- VSCALE (R406). Scales each element by 2 to the power of a truncated exponent. -/
  | vscale (md : BitVec 2) (ma : BitVec 2) (mb : BitVec 2) (od : Bool) (oa : Bool) (ob : Bool) (xi : Reg) (k : BitVec 5) (sw : Bool)
  /-- VCMPEQ (R401). Writes an all-ones mask where the elements are equal. -/
  | vcmpeq (md : BitVec 2) (ma : BitVec 2) (mb : BitVec 2) (od : Bool) (oa : Bool) (ob : Bool) (xi : Reg) (k : BitVec 5) (sw : Bool)
  /-- VCMPLT (R401). Writes an all-ones mask where x is less than y. -/
  | vcmplt (md : BitVec 2) (ma : BitVec 2) (mb : BitVec 2) (od : Bool) (oa : Bool) (ob : Bool) (xi : Reg) (k : BitVec 5) (sw : Bool)
  /-- VCMPLE (R401). Writes an all-ones mask where x is less than or equal to y. -/
  | vcmple (md : BitVec 2) (ma : BitVec 2) (mb : BitVec 2) (od : Bool) (oa : Bool) (ob : Bool) (xi : Reg) (k : BitVec 5) (sw : Bool)
  /-- VSEL (R407). Selects y where x is non-zero, otherwise keeps d. -/
  | vsel (md : BitVec 2) (ma : BitVec 2) (mb : BitVec 2) (od : Bool) (oa : Bool) (ob : Bool) (xi : Reg) (k : BitVec 5) (sw : Bool)
  /-- VAND (R399). Bitwise AND of the element patterns. -/
  | vand (md : BitVec 2) (ma : BitVec 2) (mb : BitVec 2) (od : Bool) (oa : Bool) (ob : Bool) (xi : Reg) (k : BitVec 5) (sw : Bool)
  /-- VOR (R399). Bitwise OR of the element patterns. -/
  | vor (md : BitVec 2) (ma : BitVec 2) (mb : BitVec 2) (od : Bool) (oa : Bool) (ob : Bool) (xi : Reg) (k : BitVec 5) (sw : Bool)
  /-- VXOR (R399). Bitwise XOR of the element patterns. -/
  | vxor (md : BitVec 2) (ma : BitVec 2) (mb : BitVec 2) (od : Bool) (oa : Bool) (ob : Bool) (xi : Reg) (k : BitVec 5) (sw : Bool)
  /-- VSHL (R408). Shifts each element left. -/
  | vshl (md : BitVec 2) (ma : BitVec 2) (mb : BitVec 2) (od : Bool) (oa : Bool) (ob : Bool) (xi : Reg) (k : BitVec 5) (sw : Bool)
  /-- VSHR (R408). Shifts each element right logically. -/
  | vshr (md : BitVec 2) (ma : BitVec 2) (mb : BitVec 2) (od : Bool) (oa : Bool) (ob : Bool) (xi : Reg) (k : BitVec 5) (sw : Bool)
  /-- VSRA (R408). Shifts each element right arithmetically. -/
  | vsra (md : BitVec 2) (ma : BitVec 2) (mb : BitVec 2) (od : Bool) (oa : Bool) (ob : Bool) (xi : Reg) (k : BitVec 5) (sw : Bool)
  /-- VABS (R398). Writes the element-wise absolute value. -/
  | vabs (md : BitVec 2) (ma : BitVec 2) (od : Bool) (oa : Bool) (xi : Reg) (k : BitVec 5) (sw : Bool)
  /-- VNEG (R398). Writes the element-wise negation. -/
  | vneg (md : BitVec 2) (ma : BitVec 2) (od : Bool) (oa : Bool) (xi : Reg) (k : BitVec 5) (sw : Bool)
  /-- VCVT (R402). Converts elements between formats. -/
  | vcvt (md : BitVec 2) (ma : BitVec 2) (od : Bool) (oa : Bool) (xi : Reg) (k : BitVec 5) (sw : Bool)
  /-- VRSQS (R45). Writes a 13-bit reciprocal square root seed. -/
  | vrsqs (md : BitVec 2) (ma : BitVec 2) (od : Bool) (oa : Bool) (xi : Reg) (k : BitVec 5) (sw : Bool)
  /-- VRCPS (R45). Writes a 13-bit reciprocal seed. -/
  | vrcps (md : BitVec 2) (ma : BitVec 2) (od : Bool) (oa : Bool) (xi : Reg) (k : BitVec 5) (sw : Bool)
  /-- VXEXP (R406). Writes the true exponent of each element. -/
  | vxexp (md : BitVec 2) (ma : BitVec 2) (od : Bool) (oa : Bool) (xi : Reg) (k : BitVec 5) (sw : Bool)
  /-- VMOV (R403). Copies element bit patterns. -/
  | vmov (md : BitVec 2) (ma : BitVec 2) (od : Bool) (oa : Bool) (xi : Reg) (k : BitVec 5) (sw : Bool)
  /-- TZERO (R397). Zeroes a whole tile register. -/
  | tzero (md : BitVec 2) (sw : Bool)
  /-- TTR (R397). Transposes a tile at 32-bit width. -/
  | ttr (md : BitVec 2) (ma : BitVec 2) (sw : Bool)
  /-- VGET (R400). Reads one element of a row into a scalar register. -/
  | vget (mt : BitVec 2) (xs : Reg) (xi : Reg) (k : BitVec 6) (sw : Bool)
  /-- VPUT (R400). Writes a scalar into one element of a row. -/
  | vput (mt : BitVec 2) (xs : Reg) (xi : Reg) (k : BitVec 6) (sw : Bool)
  /-- VBCAST (R400). Writes a scalar into every element of a row. -/
  | vbcast (mt : BitVec 2) (xs : Reg) (xi : Reg) (sw : Bool)
  /-- VREDS (R405). Writes the once-rounded sum of a row to a scalar. -/
  | vreds (mt : BitVec 2) (xs : Reg) (xi : Reg) (sw : Bool)
  /-- VREDM (R405). Writes the largest element of a row to a scalar. -/
  | vredm (mt : BitVec 2) (xs : Reg) (xi : Reg) (sw : Bool)
  /-- TLD (R392). Loads a tile slice from memory. -/
  | tld (mt : BitVec 2) (o : Bool) (ra : Reg) (xi : Reg) (k : BitVec 5) (q : BitVec 2) (sw : Bool)
  /-- TST (R392). Stores a tile slice to memory. -/
  | tst (mt : BitVec 2) (o : Bool) (ra : Reg) (xi : Reg) (k : BitVec 5) (q : BitVec 2) (sw : Bool)
  /-- CPY (R204). Issues a strided copy command to the copy unit. -/
  | cpy (ra : Reg) (rb : Reg) (bar : Bool) (nf : Bool) (sw : Bool)
  /-- CPYR (R205). Issues a copy that reduces into the destination at home. -/
  | cpyr (ra : Reg) (rb : Reg) (bar : Bool) (nf : Bool) (sw : Bool)
  /-- CPYT_E2P (R207). Issues a conversion from element layout to plane layout. -/
  | cpytE2p (ra : Reg) (rb : Reg) (bar : Bool) (nf : Bool) (sw : Bool)
  /-- CPYT_P2E (R207). Issues a conversion from plane layout to element layout. -/
  | cpytP2e (ra : Reg) (rb : Reg) (bar : Bool) (nf : Bool) (sw : Bool)
  /-- MLEASE (R186). Claims free accumulators and requests a loom lease. -/
  | mlease (m : BitVec 4) (nf : Bool) (sw : Bool)
  /-- MREL (R186). Ends the lease and frees the slot's accumulators. -/
  | mrel (nf : Bool) (sw : Bool)
  /-- MMUL (R193). Queues a matrix multiply-accumulate into an accumulator. -/
  | mmul (ra : Reg) (rb : Reg) (acc : BitVec 2) (nf : Bool) (sw : Bool)
  /-- MROT (R195). Queues a multiply-accumulate that also rotates its operands to neighbouring clusters. -/
  | mrot (ra : Reg) (rb : Reg) (acc : BitVec 2) (nf : Bool) (sw : Bool)
  /-- MDRAIN (R197). Queues a conversion of the accumulator to memory. -/
  | mdrain (ra : Reg) (acc : BitVec 2) (nf : Bool) (sw : Bool)
  /-- MZERO (R187). Claims and validates an accumulator and queues its zeroing. -/
  | mzero (acc : BitVec 2) (nf : Bool) (sw : Bool)
  /-- MSTAT (R188). Pushes the accumulator's state to eq, optionally clearing it and restarting halted commands. -/
  | mstat (acc : BitVec 2) (clr : Bool) (nf : Bool) (sw : Bool)
  /-- BXMAP (R217). Checks the bit roles and installs the committed map at every participant. -/
  | bxmap (nf : Bool) (sw : Bool)
  /-- BXAPPLY (R218). Applies a small matrix along the chosen index bits. -/
  | bxapply (ra : Reg) (rb : Reg) (nf : Bool) (sw : Bool)
  /-- BXSWAP (R221). Exchanges the roles of two index bits and moves the data to match. -/
  | bxswap (ra : Reg) (rb : Reg) (nf : Bool) (sw : Bool)
  /-- BXRESUME (R220). Resumes or abandons a halted bit-axis command. -/
  | bxresume (ra : Reg) (nf : Bool) (sw : Bool)
  /-- COLLOAD (R331). Loads a ferryman program and snapshots its registers. -/
  | colload (ra : Reg) (rb : Reg) (nf : Bool) (sw : Bool)
  /-- COLGO (R331). Starts a run of the loaded ferryman program. -/
  | colgo (nf : Bool) (sw : Bool)
  /-- COLSTAT (R278). Pushes the ferryman program status to eq. -/
  | colstat (nf : Bool) (sw : Bool)
  /-- SCFG (R376). Arms a stream register from its configuration. -/
  | scfg (st : Bool) (nf : Bool) (sw : Bool)
  /-- SDONE (R377). Disarms a stream, waiting for pushed stores to be performed. -/
  | sdone (st : Bool) (nf : Bool) (sw : Bool)
  /-- ERD (R344). Reads the slot's copy of an engine register. -/
  | erd (x : Reg) (eng : BitVec 3) (ereg : BitVec 8) (sw : Bool)
  /-- ERW (R345). Writes the slot's copy of an engine register. -/
  | erw (x : Reg) (eng : BitVec 3) (ereg : BitVec 8) (sw : Bool)
  /-- FMT (R350). Sets the pending format prefix for the next instruction. -/
  | fmt (fa : BitVec 6) (fb : BitVec 6) (fd : BitVec 6) (sm : BitVec 3) (sat : Bool) (rm : BitVec 2)
  /-- CSRR (R334). Reads a CSR. -/
  | csrr (rd : Reg) (csr : BitVec 12) (sw : Bool)
  /-- CSRW (R335). Writes a CSR field by field and returns the old value. -/
  | csrw (rd : Reg) (ra : Reg) (csr : BitVec 12) (sw : Bool)
  /-- CSRS (R335). Sets bits of a CSR and returns the old value. -/
  | csrs (rd : Reg) (ra : Reg) (csr : BitVec 12) (sw : Bool)
  /-- CSRC (R335). Clears bits of a CSR and returns the old value. -/
  | csrc (rd : Reg) (ra : Reg) (csr : BitVec 12) (sw : Bool)
  /-- TRAP (R394). Takes a TRAP synchronous trap. -/
  | trap (sw : Bool)
  /-- ERET (R346). Returns from a handler, restoring STATUS, the prefix and held operands. -/
  | eret (sw : Bool)
  /-- WFI (R409). Parks until an enabled interrupt cause is pending. -/
  | wfi (sw : Bool)
  /-- BKPT (R324). Traps with BKPT, or halts when ihalt is set. -/
  | bkpt (sw : Bool)
  /-- TLBINV (R391). Removes translations from every TLB of the package. -/
  | tlbinv (ra : Reg) (sw : Bool)
  /-- ROINV (R372). Empties the cluster's read-only cache. -/
  | roinv (sw : Bool)
  /-- TMARK (R393). Writes a kind 7 trace record. -/
  | tmark (ra : Reg) (sw : Bool)
  /-- INTERRUPT_ENTRY (R252). A slot takes an enabled pending interrupt at an instruction boundary. -/
  | interruptEntry (slot : Nat)
  /-- TIMER_COMPARE (R252). TSTAMP reaches TCMP and pends the timer interrupt. -/
  | timerCompare (slot : Nat)
  /-- TAKE_RECORD (R107). An idle slot searches its sources, takes a record or resumes a saved task, and starts it. -/
  | takeRecord (slot : Nat)
  /-- IDLE_SEARCH_RETRY (R107). An idle slot searches again, at most 256 cycles after an unsuccessful theft. -/
  | idleSearchRetry (slot : Nat)
  /-- DEQUE_THEFT (R111). A theft request taken at a core's deque port removes the oldest record. -/
  | dequeTheft (slot : Nat) (core : Nat)
  /-- INBOX_DELIVERY (R109). A delivered record is validated and written into the inbox ring, or waits while the ring is full. -/
  | inboxDelivery (core : Nat)
  /-- BACKSTOP_WRITE (R253). A record that has waited 1 µs at a full inbox is written to the backstop ring. -/
  | backstopWrite (core : Nat)
  /-- BACKSTOP_REFILL (R253). The inbox port moves backstop records into the inbox as entries free. -/
  | backstopRefill (core : Nat)
  /-- SPAWN_QUEUE_DISPATCH (R119). When a slot becomes idle, the dispatcher delivers the oldest matching spawn-queue record. -/
  | spawnQueueDispatch (die : Nat)
  /-- QUANTUM_EXPIRY (R129). A task's quantum expires and the task is saved if a counted record waits. -/
  | quantumExpiry (slot : Nat)
  /-- QUANTUM_SAVE_DONE (R129). The slot state save completes and the slot runs the waiting record. -/
  | quantumSaveDone (slot : Nat)
  /-- STRAND_FORM (R120). All follower slots are held, and the strand starts with the copied state. -/
  | strandForm (slot : Nat)
  /-- WATCH_WAKE (R130). A home wakes a slot parked on a counter, barrier, segment or ring condition, and the wait completes. -/
  | watchWake (slot : Nat)
  /-- WATCH_REPOLL (R130). A waiter without a watch entry re-polls its home every 256 cycles. -/
  | watchRepoll (slot : Nat)
  /-- FE_REISSUE (R144). A refused qualified access is reissued every 256 cycles. -/
  | feReissue (idx : Nat)
  /-- ACCESS_AT_HOME (R155). A load, store, atomic or qualified access arrives at its home and is performed or held. -/
  | accessAtHome (idx : Nat)
  /-- REPLAY_RETRY (R153). A parked remote access is retried after its backoff interval. -/
  | replayRetry (core : Nat)
  /-- REPLAY_DROP (R153). An access not performed 100 µs after its first retry-later reply is dropped with those behind it, and PEERFAIL is set. -/
  | replayDrop (core : Nat)
  /-- BARRIER_PARENT_ARRIVAL (R318). A completed child's arrival reaches its parent barrier's home. -/
  | barrierParentArrival (idx : Nat)
  /-- LEASE_GRANT (R182). The cluster unit grants the free loom to the requesting slot with the lowest PRIO. -/
  | leaseGrant (cluster : Nat)
  /-- LEASE_LAPSE (R183). A lease lapses after 2,048 cycles with no queued command of the holder. -/
  | leaseLapse (cluster : Nat)
  /-- MMUL_EXECUTE (R193). The loom checks and applies an MMUL chunk by chunk, then adds to its counter. -/
  | mmulExecute (cluster : Nat)
  /-- MROT_CHUNK (R195). An MROT chunk is read as .fc, applied and delivered to the neighbouring clusters. -/
  | mrotChunk (cluster : Nat)
  /-- MROT_DELIVERY (R195). A delivered MROT granule waits for empty, is written and is set full. -/
  | mrotDelivery (idx : Nat)
  /-- MDRAIN_EXECUTE (R197). The loom converts and writes the accumulator's valid region. -/
  | mdrainExecute (cluster : Nat)
  /-- MZERO_EXECUTE (R187). The loom zeroes the accumulator in queue order. -/
  | mzeroExecute (cluster : Nat)
  /-- ACCUMULATOR_FREE (R181). A released accumulator is freed when its busy bit clears. -/
  | accumulatorFree (cluster : Nat) (acc : Nat)
  /-- COPY_CHUNK (R203). The copy unit translates, reads and writes one chunk of a copy command. -/
  | copyChunk (cluster : Nat) (idx : Nat)
  /-- CPYR_CHUNK_APPLY (R206). A home applies a CPYR chunk indivisibly, or filters it out as a duplicate key. -/
  | cpyrChunkApply (idx : Nat)
  /-- COPY_SIGNAL (R208). After all chunks are performed, the copy unit subtracts the barrier bytes and adds to the counter. -/
  | copySignal (cluster : Nat) (idx : Nat)
  /-- STREAM_READAHEAD (R213). The copy unit reads a stream element ahead of its pop. -/
  | streamReadahead (slot : Nat) (st : Bool)
  /-- BX_MAP_INSTALL (R217). A participant installs the committed map, and the command completes when all hold it. -/
  | bxMapInstall (die : Nat) (idx : Nat)
  /-- BX_GROUP (R218). A participant reads, transforms and commits one group of a BXAPPLY. -/
  | bxGroup (die : Nat) (idx : Nat)
  /-- BX_SWAP_PAIR (R221). A participant exchanges one pair of a BXSWAP. -/
  | bxSwapPair (die : Nat) (idx : Nat)
  /-- BX_COMPLETE (R219). The lead engine advances CTR after every participant finishes. -/
  | bxComplete (die : Nat) (idx : Nat)
  /-- FERRY_END (R281). END step: adds 1 to CTR and sets the program done. -/
  | ferryEnd (die : Nat) (idx : Nat)
  /-- FERRY_SEND (R281). SEND step: takes a credit and sends a chunk. -/
  | ferrySend (die : Nat) (idx : Nat)
  /-- FERRY_RECV (R281). RECV step: takes the next chunk into the buffer and optionally forwards it. -/
  | ferryRecv (die : Nat) (idx : Nat)
  /-- FERRY_RRS (R281). RRS step: reduces the received chunk into the own chunk and optionally forwards it. -/
  | ferryRrs (die : Nat) (idx : Nat)
  /-- FERRY_COPY (R281). COPY step: copies the own chunk to an address. -/
  | ferryCopy (die : Nat) (idx : Nat)
  /-- FERRY_WAIT (R281). WAIT step: parks until a counter reaches a bound. -/
  | ferryWait (die : Nat) (idx : Nat)
  /-- FERRY_LOOP (R281). LOOP step: advances a loop counter and branches. -/
  | ferryLoop (die : Nat) (idx : Nat)
  /-- FERRY_SIGNAL (R281). SIGNAL step: adds 1 to a counter. -/
  | ferrySignal (die : Nat) (idx : Nat)
  /-- FERRY_CHUNK_ARRIVAL (R282). A chunk from a sending rank lands in a granted staging entry. -/
  | ferryChunkArrival (die : Nat) (idx : Nat) (rank : Nat) (run : Nat) (data : List Byte)
  /-- FERRY_STEP_TIMEOUT (R284). A step waiting longer than STEPTMO halts the program with TIMEOUT. -/
  | ferryStepTimeout (die : Nat) (idx : Nat)
  /-- RESAMPLE_PHASE2 (R241). Once every member has arrived, the lead drover computes the copy counts and retires the members with zero copies. -/
  | resamplePhase2 (die : Nat) (idx : Nat)
  /-- CLONE_PLACEMENT (R242). The drover places a clone on a free reserved slot or an admitting idle slot. -/
  | clonePlacement (die : Nat) (idx : Nat)
  /-- RESIDUAL_DEADLINE (R232). A segment's deadline passes and its parked reads wake. -/
  | residualDeadline (slot : Nat)
  /-- WQ_DECIDE (R276). The queue port reads the record at cons, decides it and writes the outcome byte. -/
  | wqDecide (die : Nat) (q : Nat)
  /-- WQ_LAP_TIMEOUT (R276). A lap bit still unmatched after 2 µs halts the queue with code 0x01. -/
  | wqLapTimeout (die : Nat) (q : Nat)
  /-- RESET (R296). After reset the boot ROM trains HBM, verifies the image and starts the foremen. -/
  | reset (devid : BitVec 12) (trained : Bool)
  /-- ILLOP_ENCODING (R101). A word that is not an instruction (the all-zero word, a reserved opcode, an unassigned fn, vfn, cmd or aop, a non-zero reserved field) issues and takes a precise ILLOP trap with TVAL = the word. -/
  | illopEncoding (w : IWord)
  /-- DIVISION_RESULT (R342). The core's shared divider finishes a division, writes rd within 66 cycles of issue and becomes free for the next division. -/
  | divisionResult (core : Nat)
  /-- KEY_FILTER_EXPIRY (R206). The oldest key in a home's CPYR filter passes 150 µs of age, so it may leave the full filter and a CPYR chunk waiting at the home is applied. -/
  | keyFilterExpiry (home : Nat)
  /-- FERRY_CREDIT_ARRIVAL (R282). A staging credit of the matching run number, granted by a receiving rank, reaches the sending ferryman, and a SEND or forward that was waiting for it proceeds. -/
  | ferryCreditArrival (die : Nat) (idx : Nat) (rank : Nat) (run : Nat)
  /-- DOORBELL_WRITE (R272). A doorbell write stores the mailbox value and pends the host message interrupt. -/
  | doorbellWrite (core : Nat) (v : Word)
  /-- DBG_HALT_REQUEST (R263). A DBGCTL write requests a halt of the slot at an instruction boundary. -/
  | dbgHaltRequest (slot : Nat)
  /-- DBG_RESUME (R263). A DBGCTL write resumes a halted slot at its saved PC. -/
  | dbgResume (slot : Nat)
  /-- DBG_RAISE_INTERRUPT (R263). A DBGCTL write pends the debug interrupt of the slot. -/
  | dbgRaiseInterrupt (slot : Nat)
  /-- CLFREEZE_WRITE (R262). A CLFREEZE write freezes the cluster's slots and engines, or releases them. -/
  | clfreezeWrite (cluster : Nat) (v : Word)
  /-- REGISTER_WINDOW_WRITE (R272). A write to a device register with no row of its own, such as the slot or context table. -/
  | registerWindowWrite (die : Nat) (off : Nat) (v : Word)
  /-- HOST_ACCESS (R273). A host access through an aperture is performed at its device home. -/
  | hostAccess (space : HostSpace) (off : Nat) (write : Bool) (size : Nat) (value : BitVec 512)
  /-- GANG_STOP (R255). At the agreed time T, the partition's slots, engines and messages stop. -/
  | gangStop (ctx : Nat)
  /-- PARTITION_SAVE (R256). After every part reports stopped, the foreman saves the partition image. -/
  | partitionSave (ctx : Nat)
  /-- GANG_RESUME (R258). At T′ the image is restored, held messages are re-injected and the partition continues. -/
  | gangResume (ctx : Nat)
  /-- FLIT_CRC_RETRY (R270). A flit that fails its CRC is resent from the replay buffer. -/
  | flitCrcRetry (die : Nat) (link : Nat)
  /-- LINK_RETIRE (R270). A link that fails to retrain is retired and its pairs move to the next live port. -/
  | linkRetire (die : Nat) (link : Nat)
  /-- CONTEXT_ERROR (R291). An uncorrectable error in slot data stops and saves the owning partition and informs the host. -/
  | contextError (slot : Nat)
  /-- L2_SCRUB (R289). Each L2 slice reads and corrects its whole channel every 24 hours. -/
  | l2Scrub (slice : Nat)
  /-- THERMAL_TRIP (R295). A junction sensor trip or coolant beyond the inlet limit raises fatal error 0x02. -/
  | thermalTrip (die : Nat)
  /-- FATAL_ERROR (R267). A fatal error stops every partition and die 0's foreman writes the dump. -/
  | fatalError (cause : Nat) (die : Nat) (addr : Nat)
  /-- BOOT_LOAD (R299). A host write of BOOTSTAT.load verifies and starts the image in recovery. -/
  | bootLoad
  /-- ATTESTATION_REQUEST (R300). A host nonce is answered with a signed measurement. -/
  | attestationRequest (nonce : BitVec 256)
  /-- WQ_ERROR_CLEAR (R276). Writing 1 to error clears it, and the port continues from cons. -/
  | wqErrorClear (die : Nat) (q : Nat)
  /-- WQ_KICK (R274). A write of the producer index kicks a work queue. -/
  | wqKick (die : Nat) (q : Nat) (prod : BitVec 32)
  /-- REMOTE_RECEIVE (R151). A remote access is checked at the receiver, which replies performed, retry-later or refused. -/
  | remoteReceive (acc : RemoteAcc)
  /-- MEMORY_REPLY (R104). A reply arrives, writes its destination and ends the request's outstanding count. -/
  | memoryReply (idx : Nat) (code : Nat) (value : BitVec 4096)
  deriving DecidableEq, Repr

end Sys2Proof
end

