-- ==== Sys2Proof/Machine/State.lean ====
section
/-!
DEFINITION. The state of the device: every piece of state that spec/ gives the C3 (INVENTORY.md lists them with their rules),
as plain data, and State.reset. Units that are all alike (slots, cores, clusters, dies) are held in sparse maps whose default
is the unit's reset state.
-/
namespace Sys2Proof.Machine

/-! ## Stops -/

/-- The machine never stops with a fault: the spec describes an effect for every step. The constructor is raised by no
meaning; it stands for a step of a part that has no power, which is outside the model (safe). -/
inductive Fault where
  /-- Raised by nothing: a step of a part without power (safe). -/
  | unpowered
  deriving DecidableEq, Repr

/-- Why a step is refused. -/
inductive Refusal where
  /-- Raised by exec's arm of a row that has no meaning yet; safe. -/
  | notModelled (mnemonic : String)
  deriving DecidableEq, Repr

/-! ## Small types -/

/-- Causes of synchronous traps (spec/15_traps_debug.md R247). -/
inductive Cause where
  | illop | illreg | illfmt | slice | align | path | xlat | prot | priv | stack | accown | accinv | queue | popmem | trap | bkpt
  deriving DecidableEq, Repr

/-- A trap with its TVAL (R247). -/
structure Trap where
  cause : Cause
  tval  : Word
  deriving DecidableEq, Repr

/-- The four neighbour links (spec/02_machine.md R20). -/
inductive Dir where
  | north | south | east | west
  deriving DecidableEq, Repr

/-- What a slot is doing (R107, R116). -/
inductive Phase where
  | idle | running
  deriving DecidableEq, Repr

/-- Kinds of frame (R62, R64). -/
inductive FrameKind where
  | call | bottom | nested
  deriving DecidableEq, Repr

/-- A resident frame (R62 to R64): its base as a physical window entry, its size, the PC that its RET or RETIRE resumes. -/
structure Frame where
  base : Nat
  size : Nat
  ret  : Pc
  kind : FrameKind
  deriving DecidableEq, Repr

/-- An entry of the mask stack (R122). -/
structure MaskEntry where
  parent : Bool
  cond   : Bool
  deriving DecidableEq, Repr

/-- The run of a task record on a slot (R59, R116): the record, whether there is one, and how many ib words were read. -/
structure Run where
  record : List Word
  given  : Bool
  ibRead : Nat
  deriving DecidableEq, Repr

/-- A stream register (R60, R211 to R215): its plain value; when armed, its direction, its configuration snapshot (BASE, WIDTH,
C0, C1, C2, S0, S1, S2, DIR), the next element number and the elements read ahead. -/
structure Stream where
  value : Word
  armed : Bool
  bad   : Bool
  write : Bool
  cfg   : List Word
  next  : Nat
  ahead : List Word
  deriving DecidableEq, Repr

def Stream.reset : Stream :=
  { value := 0, armed := false, bad := false, write := false, cfg := [], next := 0, ahead := [] }

/-- Where a result that is still outstanding goes. -/
inductive Dst where
  /-- Discarded (z). -/
  | none
  /-- A global. -/
  | glob (n : Nat)
  /-- A physical window entry. -/
  | win (e : Nat)
  /-- A push toward a neighbour; its entry is held (R355). -/
  | link (d : Dir)
  /-- sa (false) or sb (true), plain or armed for writing (R355). -/
  | stream (b : Bool)
  /-- The elements read ahead of sa (false) or sb (true) (R213). -/
  | ahead (b : Bool)
  /-- The next element of sa (false) or sb (true) armed for writing (R214, R355): the store's physical address and width, whether it
  is a checked access (R226), and its address. -/
  | elem (b : Bool) (pa w : Nat) (checked : Bool) (a : Word)
  /-- The same in a register window of this device (R133): its die and offset. -/
  | elemReg (b : Bool) (die off : Nat)
  /-- The same on another device: its address and width. -/
  | elemFar (b : Bool) (device : Nat) (a : Word) (w : Nat)
  /-- Bytes of a slice of a tile: tile, column, index, element width, byte offset in the slice (R392). -/
  | slice (mt : Nat) (col : Bool) (i w off : Nat)
  deriving DecidableEq, Repr

/-- An operation that a home performs on the bytes of one access. -/
inductive HomeOp where
  /-- A load; sign says whether the value is sign-extended (R354). -/
  | load (sign : Bool)
  /-- A store of the low bytes (R383). -/
  | store (v : BitVec 512)
  /-- An atomic by its aop code (R313). -/
  | amo (aop : Nat) (v : Word)
  /-- CAS with its expected and new value (R329). -/
  | cas (e v : Word)
  | feget
  | feset
  | feclr
  /-- A counter add (R327). -/
  | cadd (v : Word)
  /-- A request of another device that is more than one access: a watch on a counter (R337), or an operation on a residual object (R228). -/
  | outside
  deriving DecidableEq, Repr

/-- An access that waits at its home (R144, R165): who issued it, its place in the slot's program order, the PC of its
instruction, its physical address and size, its qualifier, what it does, and where its result goes. For its withdrawal it keeps the
words its instruction popped, its prefix, and the number of accesses that the instruction made (R144, R250). -/
structure Held where
  slot : Nat
  seq  : Nat
  pc   : Pc
  addr : Nat
  size : Nat
  q    : BitVec 2
  op   : HomeOp
  dst  : Dst
  popA : Option Word
  popB : Option Word
  popC : Option Word
  pfx  : Option IWord
  /-- 0 once the task has ended that asked for a value (R370). -/
  parts : Nat
  /-- The store is an element pushed to sa (false) or sb (true) (R215), which held the value before. -/
  push : Option (Bool × Word) := none
  /-- The address that its instruction named, for the trap of a checked access. -/
  va : Word := 0
  /-- The slot waits until the access is performed, and takes PROT if its bytes are armed by then (R225, R226). -/
  checked : Bool := false
  /-- The handlers that the slot was in when the access was withdrawn (R144). -/
  level : Nat := 0
  /-- An access of another device or of the host, which is answered when it is performed (R151, R273). -/
  far  : Option RemoteAcc := none
  /-- The number of the next engine command at its arrival: ownership registered later does not delay it (R165). -/
  stamp : Nat := 0
  deriving DecidableEq, Repr

/-- A reply on its way to its slot (R104): its home, its value and destination. Those of one home to one core keep their order (R22). -/
structure Reply where
  slot  : Nat
  home  : Nat
  dst   : Dst
  sign  : Bool
  size  : Nat
  value : BitVec 512
  /-- The place of its instruction in the slot's program order. -/
  seq   : Nat := 0
  deriving DecidableEq, Repr

/-- A request of a core to another device (R151 to R154). parked: none while no reply has come; some (first, next, interval) once a
retry-later reply has come, with the times of the first such reply and of the next retry, and the interval, in ns. queued: it waits
in the replay queue behind another one and has had no reply of its own (R152). -/
structure Remote where
  slot   : Nat
  device : Nat
  acc    : RemoteAcc
  dst    : Dst
  sign   : Bool
  parked : Option (Nat × Nat × Nat)
  /-- The slot waits for the reply before it issues anything more (R226, R337). -/
  hold   : Bool
  /-- The engine command that makes the request for its slot, and what the request is for; for a TLD or TST, one more than the number of the
  part that the granule belongs to (R104, R392). -/
  eng    : Option Nat := none
  tag    : Nat := 0
  queued : Bool := false
  /-- The place of its instruction in the slot's program order. -/
  seq    : Nat := 0
  /-- The store is an element pushed to sa (false) or sb (true) (R215), which held the value before. -/
  push   : Option (Bool × Word) := none
  /-- An element read ahead of a pop, which does not count under R104 (R213), or a load of a task that has ended (R370). -/
  ahead  : Bool := false
  /-- The unit whose replay queue the request uses (R152, replayUnit): a core, or an engine. -/
  unit   : Nat := 0
  /-- Its withdrawal has been sent after it, from that many handlers deep (R144). -/
  withdrawn : Option Nat := none
  deriving DecidableEq, Repr

/-- The fields of an FMT word (R82, R86). -/
structure FmtWord where
  fa  : Nat
  fb  : Nat
  fd  : Nat
  sm  : Nat
  sat : Bool
  rm  : Nat
  deriving DecidableEq, Repr

/-- The prefix in force when there is none (R86). -/
def FmtWord.dflt : FmtWord := { fa := 0x3F, fb := 0x3F, fd := 0x3F, sm := 0, sat := false, rm := 0 }

/-- What a parked slot waits for. The instruction at the slot's PC stays restartable (R252). -/
inductive Wait where
  /-- CWAIT on a counter (R337): the physical address and the target. -/
  | counter (addr : Nat) (target : Word)
  /-- JOIN with its deque empty (R115). -/
  | join (addr : Nat) (target : Word)
  /-- BARWAIT (R321): the barrier and the phase. -/
  | barrier (handle : Nat) (phase : Nat)
  /-- RSREAD (R230): segment, destination register, block address, need mask, format. -/
  | segment (seg : Nat) (rd : Reg) (block : Word) (need : Word) (fd : Nat)
  /-- BARWAIT that a flip has met (R321). -/
  | flipped
  /-- ENQ or DEQ that has begun on a ring and waits for the owner of the entry's bytes: the control block and the entry (R179, R340). -/
  | ring (block entry size : Nat)
  /-- RETIRE, until the slot's stores and atomics have been performed (R116, R370). -/
  | stores
  /-- RSREAD whose segment was armed afresh or freed: it ends with this value (R227). -/
  | segmentGone (rd : Reg) (v : Word)
  /-- WFI (R409). -/
  | interrupt
  /-- TSPAWN, until the spawn queue has room for v records (R119). -/
  | spawnRoom (die v : Nat)
  /-- STRAND, until every follower is held (R120). -/
  | strand (count : Nat)
  /-- The release of a strand, until another follower has executed what was forwarded to it (R124). -/
  | release
  /-- MLEASE, until the grant (R182). -/
  | lease
  /-- RESAMPLE, until the collective completes (R241): block, weight, destination register, and where its value will go. -/
  | resample (block : Nat) (weight : Nat) (rd : Reg) (dst : Dst)
  /-- POPJOIN during phase 2 (R238). -/
  | popjoin (block : Nat)
  /-- JOIN of a counter on another device, until its value is back: the address and the target (R115, R151). -/
  | joinProbe (a target : Word)
  /-- FORK of a strand member, until its core's deque has room (R351). -/
  | dequeRoom
  /-- A value of another device that the instruction needs before it can be tried again (R151). -/
  | reply
  /-- The answers to what the instruction has sent, on which it completes: a checked write (R226), a link to a barrier of another device
  (R319), ownership registered at other devices (R165). It is not restartable. -/
  | answer
  /-- RSREAD or RSTRY of a segment of another device whose elements are here, until they are performed at the destination block; its word then
  goes to the destination (R230, R373). It is not restartable. -/
  | written (d : Dst) (v : Word)
  /-- A TLD or TST that a prefix governs, until its parts held at their homes have been performed (R86). -/
  | tile
  /-- A wait at a home of another device: CWAIT or BARWAIT, until the wake comes back (R226, R337). -/
  | remoteWait
  /-- A marked instruction's outstanding results (R84). -/
  | marker
  deriving DecidableEq, Repr

/-- A bind record (R125), as its eight words. -/
abbrev BindWords := List Word

/-- Why a slot takes no record (R107, R119, R237). What a strand request reserves follows from its wait (R120, strandWants). -/
inductive Reserve where
  /-- By TSPAWN, with the record placed: it searches its inbox only. -/
  | tspawn (record : List Word)
  /-- By a population of the block at an address. -/
  | pop (block : Nat)
  deriving DecidableEq, Repr

/-- A forwarded instruction in a follower's buffer (R121): the leader's PC, the word and the PC that follows it. -/
structure Fwd where
  pc   : Pc
  word : IWord
  next : Pc
  deriving DecidableEq, Repr

/-! ## The slot -/

/-- The registers and the rest of a slot's own state that a task runs with (spec/15_traps_debug.md R257, R108). -/
structure Task where
  /-- The task's number on its slot: engine commands and accumulators name their task by it (R108, R412). -/
  num      : Nat
  pc       : Pc
  globals  : Vector Word 7
  win      : Vector Word 128
  /-- Resident frames, the current one first (R63). -/
  frames   : List Frame
  /-- Number of spilled frames (R63). -/
  spilled  : Nat
  /-- m0 to m3, 16 rows each: row r of tile m at 16·m + r (R66). -/
  tiles    : Vector (BitVec 512) 64
  status   : Word
  tvec     : Word
  tepc     : Word
  tcause   : Word
  tval     : Word
  tstatus  : Word
  tprefix  : Word
  tscratch : Word
  iemask   : Word
  /-- IPEND bits 2 and 5; bit 1 is derived, bits 3 and 4 are the core's (R252). -/
  ipend    : Word
  tcmp     : Word
  fflags   : Word
  member   : Word
  lineage  : Word
  ctxid    : Word
  prio     : Word
  stealdom : Word
  spillb   : Word
  spillp   : Word
  peerfail : Word
  /-- The pending FMT word; in force while STATUS.PP is 1 (R74, R86). -/
  pending  : IWord
  mask     : List MaskEntry
  active   : Bool
  /-- Held operands of ra, rb and the third field (R250). -/
  heldA    : Option Word
  heldB    : Option Word
  heldC    : Option Word
  /-- What the buffer's three words hold where their valid bits are clear, as a debugger wrote them (R257). -/
  heldIdle : Vector Word 3
  /-- Held operands set aside while a handler runs, with the PC they belong to (R250). -/
  keptA    : Option Word
  keptB    : Option Word
  keptC    : Option Word
  eq       : List Word
  /-- Engine registers by eng·256 + number; unlisted reads 0 (R75). -/
  eregs    : SMap Word
  sa       : Stream
  sb       : Stream
  serialCopy : BitVec 32
  serialLoom : BitVec 32
  serialBx   : BitVec 32
  /-- The task's run first, then the runs of its hosts (R62, R116). -/
  runs     : List Run
  wait     : Option Wait
  /-- The word of the instruction that is parked. -/
  waitWord : IWord
  /-- The wait's condition has been met at its home (R130). -/
  met      : Bool
  /-- Blocks of another device's memory that the instruction at the PC has read, by address; none for one dropped (R153). -/
  fetched  : List (Word × Option (BitVec 512))
  /-- YIELD asks for the quantum check at the next boundary (R410). -/
  yielded  : Bool
  /-- Program-order number of the next instruction. -/
  seq      : Nat
  /-- Destinations whose results are outstanding (the scoreboard). -/
  pend     : List Dst
  /-- Waiting qualified accesses withdrawn by a trap, sent again at ERET (R144). -/
  pulled   : List Held
  /-- The same at homes of other devices, with the handlers that the slot was in at the withdrawal (R144). -/
  pulledFar : List (Nat × Remote)
  /-- Trap entries whose ERET has not come: SUP was set by a trap (R121, R263). -/
  handlers : Nat
  /-- The instruction that runs once without matching its execute comparator, since it has matched before (R260). -/
  pass     : Option Pc
  /-- The instructions whose execute comparator has led to the handlers that the slot is in, the innermost first; none for a handler entered
  otherwise (R260). -/
  matched  : List (Option Pc)
  /-- Timestamp of the last start or resume (R129). -/
  qstart   : Nat
  /-- The bind record that the task started under (R108, R129). -/
  bind     : BindWords
  /-- Membership: the block's physical address and the member index (R238, R365). -/
  popOf    : Option (Nat × Nat)
  /-- The follower slots of a strand that this slot leads, and the frame depth of the STRAND (R120, R369). -/
  followers : List Nat
  strandDepth : Nat
  /-- The leader, when the slot follows (R120). -/
  leader   : Option Nat
  /-- Forwarded instructions not yet executed (R121, R123). -/
  fwd      : List Fwd
  deriving DecidableEq, Repr

/-- A task at reset: CSR values of R69, one bottom frame of 8, everything else zero or empty (DESIGN CHOICE, log 2). -/
def Task.reset : Task :=
  { num := 0, pc := 0, globals := Vector.replicate 7 0, win := Vector.replicate 128 0,
    frames := [{ base := 0, size := 8, ret := 0, kind := .bottom }], spilled := 0,
    tiles := Vector.replicate 64 0,
    status := 0x1, tvec := 0, tepc := 0, tcause := 0, tval := 0, tstatus := 0, tprefix := 0, tscratch := 0,
    iemask := 0, ipend := 0, tcmp := 0xFFFFFFFFFFFFFFFF, fflags := 0, member := 0, lineage := 0, ctxid := 0,
    prio := 0, stealdom := 0, spillb := 0, spillp := 0, peerfail := 0,
    pending := 0, mask := [], active := true,
    heldA := none, heldB := none, heldC := none, heldIdle := Vector.replicate 3 0, keptA := none, keptB := none, keptC := none,
    eq := [], eregs := [], sa := .reset, sb := .reset,
    serialCopy := 0, serialLoom := 0, serialBx := 0,
    runs := [{ record := [], given := false, ibRead := 0 }],
    wait := none, waitWord := 0, met := false, fetched := [], yielded := false, seq := 0, pend := [], pulled := [], pulledFar := [], handlers := 0, pass := none,
    matched := [],
    qstart := 0, bind := [], popOf := none,
    followers := [], strandDepth := 0, leader := none, fwd := [] }

/-- A slot: the task it runs, the task saved by quantum expiry, its breakpoint registers and its place in scheduling. -/
structure Slot where
  phase   : Phase
  t       : Task
  /-- The task saved by quantum expiry (R129). -/
  saved   : Option Task
  /-- The task's state is being saved (R129). -/
  saving  : Bool
  bkpta   : Vector Word 4
  bkptctl : Word
  halted  : Bool
  /-- A halt asked for at the next instruction boundary (R261, R263). -/
  haltReq : Bool
  /-- Stopped by a gang switch (R255). -/
  stopped : Bool
  reserve : Option Reserve
  /-- Number of the tasks that have started on the slot. -/
  epoch   : Nat
  /-- The last theft attempt found nothing; the slot searches again (R107). -/
  searched : Bool
  /-- The core last tried by theft, and the place in the queue list that it last took from (R107, R111). -/
  lastTried : Option Nat
  lastQueue : Nat
  /-- The spawn queue's dispatcher has delivered a record for the slot since it became idle (R119). -/
  served   : Bool
  /-- The record for which the task is being saved, already taken from its source (R129). -/
  chosen   : Option (List Word)
  deriving DecidableEq, Repr

def Slot.reset : Slot :=
  { phase := .idle, t := .reset, saved := none, saving := false, bkpta := Vector.replicate 4 0, bkptctl := 0,
    halted := false, haltReq := false, stopped := false, reserve := none, epoch := 0, searched := false,
    lastTried := none, lastQueue := 7, served := false, chosen := none }

/-! ## The core -/

/-- A record on its way to a core's inbox port (R114, R118, R119): the core, the record, the slot that sent it, which counts it as an
outstanding request (R104; none for a gate, a dispatcher or another device), and the sender's context. -/
structure RecordMsg where
  core   : Nat
  record : List Word
  slot   : Option Nat
  ctx    : Nat
  deriving DecidableEq, Repr


/-- The shared divider (R342): the slot, destination and value of the division in progress. -/
structure Division where
  slot  : Nat
  dst   : Dst
  value : Word
  deriving DecidableEq, Repr

/-- State of a core (R20, R69, R109, R110, R252, R253, R265, R272). -/
structure Core where
  ibbase : Word
  ibsize : Word
  ibhead : Word
  ibtail : Word
  dqbase : Word
  dqtop  : Word
  dqbot  : Word
  peertab : Vector Word 16
  trcctl  : Word
  trctrig : Word
  trcptr  : Word
  trcstat : Word
  /-- Trace records (word 1 ++ word 0) by index (R265). -/
  trace   : SMap (BitVec 128)
  /-- Records still to write after the trigger; none before it (R266). -/
  tracePost : Option Nat
  ipend3  : Bool
  ipend4  : Bool
  mailbox : Word
  /-- Queues filled by the four neighbours, oldest word first (R20). -/
  qn : List Word
  qs : List Word
  qe : List Word
  qw : List Word
  /-- Entries of those queues held for loads in flight (R355). -/
  rn : Nat
  rs : Nat
  re : Nat
  rw : Nat
  /-- Records at the inbox port with their arrival time, oldest first (R109, R253). -/
  port     : List (Nat × RecordMsg)
  /-- The backstop ring, oldest first; the spec gives it no place in die SRAM, and no address reaches it here (R253, DESIGN CHOICE, log 106). -/
  backstop : List (List Word)
  /-- The slot (0 to 3) that issued last, whether it gave up the port, and the slots whose last attempt to issue stalled on the scoreboard
  since then (R103). -/
  last     : Nat
  lost     : Bool
  stalls   : BitVec 4
  divider  : Option Division
  deriving DecidableEq, Repr

def Core.reset : Core :=
  { ibbase := 0, ibsize := 0, ibhead := 0, ibtail := 0, dqbase := 0, dqtop := 0, dqbot := 0,
    peertab := Vector.replicate 16 0, trcctl := 0, trctrig := 0, trcptr := 0, trcstat := 0, trace := [], tracePost := none,
    ipend3 := false, ipend4 := false, mailbox := 0, qn := [], qs := [], qe := [], qw := [],
    rn := 0, rs := 0, re := 0, rw := 0, port := [], backstop := [], last := 0, lost := false, stalls := 0, divider := none }

/-! ## The cluster -/

/-- The class of an accumulator (R68). -/
inductive AccClass where
  | open | float | integer
  deriving DecidableEq, Repr

/-- An accumulator (R68, R181): elements by 32·i + j. -/
structure Acc where
  elems   : SMap (BitVec 32)
  cls     : AccClass
  owner   : Option Nat
  /-- The task number of the owner: a task saved on the slot keeps its own (R412). -/
  epoch   : Nat
  valid   : Bool
  freeing : Bool
  nv : Bool
  of : Bool
  uf : Bool
  nx : Bool
  /-- It holds an uncorrectable error (R198, R290). -/
  spoiled : Bool
  deriving DecidableEq, Repr

def Acc.reset : Acc :=
  { elems := [], cls := .open, owner := none, epoch := 0, valid := false, freeing := false, nv := false, of := false, uf := false, nx := false,
    spoiled := false }

/-- The queued loom commands (R184). -/
inductive LoomOp where
  | mmul | mrot | mdrain | mzero
  deriving DecidableEq, Repr

/-- Who issued an engine command, and how it is checked (R76, R148): the slot and its task number, mode and context; with the unit that runs
it, by the number of its replay queue (R152). -/
structure Issuer where
  slot  : Nat
  epoch : Nat
  user  : Bool
  ctx   : Nat
  unit  : Nat := 0
  deriving DecidableEq, Repr

/-- A loom command in its cluster queue (R182, R193). -/
structure LoomCmd where
  cid    : Nat
  who    : Issuer
  prio   : Nat
  op     : LoomOp
  acc    : Nat
  ra     : Word
  rb     : Word
  fmt    : FmtWord
  regs   : SMap Word
  serial : BitVec 32
  /-- Chunks committed, or rows drained. -/
  done   : Nat
  /-- Flags of the chunks committed (R53). -/
  flags  : BitVec 5
  /-- A gang switch has parked it, so it waits for a grant again (R200). -/
  parked : Bool
  deriving DecidableEq, Repr

/-- A lease of the loom (R182, R183): the holder, the commands left, and the timestamp since which the holder has had no command
queued. -/
structure Lease where
  slot  : Nat
  left  : Nat
  since : Nat
  deriving DecidableEq, Repr

/-- What the loom keeps for a slot that uses it (R188, R199). -/
structure LoomUser where
  halted  : Bool
  skipped : Nat
  lastDone : BitVec 32
  deriving DecidableEq, Repr

def LoomUser.reset : LoomUser := { halted := false, skipped := 0, lastDone := 0 }

/-- The copy commands (R201). -/
inductive CopyOp where
  | cpy | cpyr | e2p | p2e
  deriving DecidableEq, Repr

/-- A copy command in its cluster queue (R203, R209): row and off name the next chunk; sent says that a CPYR chunk is on its way to
its home; signalled, that the bytes have been subtracted from the barrier (R208); begun, that its checks have been made (R209); buf holds
what the chunk in hand will write, once its source has been read. -/
structure CopyCmd where
  cid    : Nat
  who    : Issuer
  op     : CopyOp
  bar    : Bool
  ra     : Word
  rb     : Word
  regs   : SMap Word
  serial : BitVec 32
  done   : Nat
  row    : Nat
  off    : Nat
  sent   : Bool
  signalled : Bool
  begun  : Bool
  buf    : Option (List Byte)
  deriving DecidableEq, Repr

/-- An entry of the gate table (R118, R390). -/
structure Gate where
  record : List Word
  addr   : Nat
  target : Word
  core   : Nat
  ctx    : Nat
  deriving DecidableEq, Repr

/-- A barrier (R174, R317, R318). -/
structure Barrier where
  ctx    : Nat
  phase  : Nat
  arr    : Int
  bytes  : Int
  a      : Nat
  b      : Nat
  refs   : Nat
  /-- The parent's handle; a parent on another device is its handle plus 2^32 times one more than the device ID. -/
  parent : Option Nat
  held   : Bool
  /-- Other devices that have linked children to it. -/
  far    : List Nat
  deriving DecidableEq, Repr

/-- State of a cluster (R68, R118, R142, R182, R209, R262). -/
structure Cluster where
  acc0 : Acc
  acc1 : Acc
  acc2 : Acc
  acc3 : Acc
  loomq  : List LoomCmd
  lease  : Option Lease
  /-- MLEASE requests that wait: slot, PRIO and LEASELEN (R182). -/
  asks   : List (Nat × Nat × Nat)
  lastHolder : Nat
  /-- By slot ID. -/
  loomUsers : SMap LoomUser
  copyq  : List CopyCmd
  gates  : List Gate
  /-- Lines of the read-only cache: context, virtual line number and the 128 bytes (R142). -/
  rolines : List (Nat × Nat × BitVec 1024)
  frozen : Bool
  deriving DecidableEq, Repr

def Cluster.reset : Cluster :=
  { acc0 := .reset, acc1 := .reset, acc2 := .reset, acc3 := .reset, loomq := [], lease := none, asks := [], lastHolder := 16383,
    loomUsers := [], copyq := [], gates := [], rolines := [], frozen := false }

/-! ## The die -/

/-- A committed bit-axis map (R217): NBITS, the roles (kind and position) from bit 0, EFMT, the devices by index, BASE. -/
structure BxMap where
  nbits : Nat
  roles : List (Nat × Nat)
  efmt  : Nat
  group : List Nat
  base  : Word
  deriving DecidableEq, Repr

/-- The bit-axis commands (R201). -/
inductive BxOp where
  | map | apply | swap | resume
  deriving DecidableEq, Repr

/-- A bit-axis command (R217 to R221): once started it has passed its checks and holds its map. -/
structure BxCmd where
  cid    : Nat
  who    : Issuer
  op     : BxOp
  ra     : Word
  rb     : Word
  /-- BXRESUME named z (R220). -/
  raZ    : Bool
  regs   : SMap Word
  serial : BitVec 32
  map     : Option BxMap
  halted  : Bool
  /-- Groups or pairs committed by each participant, in (device, die) order (R220). -/
  committed : SMap Nat
  /-- Participants that failed, with code and address (R220). -/
  failed  : List (Nat × Nat × Word)
  /-- The matrix, read once, as the codes of its parts (R218). -/
  matrix  : List Nat
  /-- Elements of the group or pair that each participant has in hand, computed and not all written (R218, R221). -/
  pending : SMap (List (List Nat))
  deriving DecidableEq, Repr

/-- A committed map with its owner (R217, R412). -/
structure BxOwner where
  slot  : Nat
  epoch : Nat
  map   : BxMap
  deriving DecidableEq, Repr

/-- A ferryman program context (R278 to R288). -/
structure FerryCtx where
  /-- The step's number among the engine commands, for its ownership. -/
  cid    : Nat
  who    : Issuer
  regs   : SMap Word
  steps  : List (BitVec 128)
  /-- 1 loaded, 2 running, 3 done, 4 halted, 5 parked. -/
  state  : Nat
  pc     : Nat
  done   : Nat
  code   : Nat
  iter   : List Nat
  run    : Nat
  /-- The next run number (R288). -/
  nextRun : Nat
  /-- Peers of RANKTAB: device, die and slot index (R279). -/
  ranks  : List (Nat × Nat × Nat)
  /-- A forwarding chunk that waits for its credit (R281). -/
  forward : Option (List Byte)
  /-- The step has begun (R281). -/
  began  : Bool
  /-- Staged chunks: sending rank, run number and bytes, in arrival order (R282). -/
  staged  : List (Nat × Nat × List Byte)
  /-- Timestamp at which the step began to wait (R284). -/
  since   : Nat
  /-- The slot is idle, so the context is freed when the program ends (R332). -/
  orphan  : Bool
  deriving DecidableEq, Repr

/-- A staging credit that a slot's program holds (R282, R288): the slot index, the granting rank, the run. -/
structure Credit where
  idx  : Nat
  /-- The context of the program that granted it. -/
  ctx  : Nat
  /-- The device, die and slot index of the peer that granted it. -/
  peer : Nat × Nat × Nat
  rank : Nat
  run  : Nat
  deriving DecidableEq, Repr

/-- A population in the lead drover (R237): the block's physical address, context, caller's core, and the weights of members that
have arrived (index, slot, weight). -/
structure Population where
  block  : Nat
  ctx    : Nat
  core   : Nat
  /-- Members that have not left: member index and slot. -/
  members : List (Nat × Nat)
  arrived : List (Nat × Nat)
  /-- Clones still to be placed: parent slot, parent's index, copy number, new index (R242). -/
  clones  : List (Nat × Nat × Nat × Nat)
  /-- Members of the generation that phase 2 makes: slot, old index, new index, copy number (R242, R243). -/
  coming  : List (Nat × Nat × Nat × Nat)
  deriving DecidableEq, Repr

/-- A work queue's control block (R274) and the state of its port (R276). -/
structure WorkQueue where
  base : Word
  cfg  : Word
  prod : BitVec 32
  cons : BitVec 32
  outaddr : Word
  refused  : BitVec 32
  accepted : BitVec 32
  code  : Nat
  error : Bool
  /-- Timestamp of the first read of the record at cons, while its lap bit does not match. -/
  firstRead : Option Nat
  /-- Accepted records that wait in the device backlog. -/
  backlog : List (List Word)
  deriving DecidableEq, Repr

def WorkQueue.reset : WorkQueue :=
  { base := 0, cfg := 0, prod := 0, cons := 0, outaddr := 0, refused := 0, accepted := 0, code := 0, error := false,
    firstRead := none, backlog := [] }

/-- State of a die (R105, R119, R126, R145, R174, R217, R237, R272, R278, R292 to R294). -/
structure Die where
  discards : Word
  /-- Slot table words by 8·(slot index) + word (R126). -/
  slotTab  : SMap Word
  /-- Context table (R145). -/
  ctxTab   : SMap Word
  wqs      : SMap WorkQueue
  /-- Spawn queue: record, STEALDOM, caller's core and context (R119). -/
  spawnq   : List (List Word × Nat × Nat × Nat)
  /-- Last placement as a package cluster ID; none before the first, which reads die·32 + 31 (R119). -/
  lastPlace : Option Nat
  bxq      : List BxCmd
  bxmaps   : List BxOwner
  ferry    : List FerryCtx
  /-- Staging credits held (R282, R288). -/
  credits  : List Credit
  pops     : List Population
  /-- Event ring records (word 1 ++ word 0) by index, and the free-running index (R293). -/
  events   : SMap (BitVec 128)
  eventIdx : Word
  retired  : BitVec 32
  /-- Times of the last correctable events of a unit, newest first, at most 16 (R292): key utype·65,536 + unit. -/
  eccTimes : SMap (List Nat)
  /-- Links of the die that are retired (R270). -/
  deadLinks : List Nat
  deriving DecidableEq, Repr

def Die.reset : Die :=
  { discards := 0, slotTab := [], ctxTab := [], wqs := [], spawnq := [], lastPlace := none, bxq := [], bxmaps := [], ferry := [], credits := [],
    pops := [], events := [], eventIdx := 0, retired := 0, eccTimes := [], deadLinks := [] }

/-! ## The device -/

/-- Where the boot stands (R296 to R299). -/
inductive Boot where
  /-- Reset has been applied; the boot ROM has not run. -/
  | start
  /-- The foremen run (BOOTSTAT.ready). -/
  | ready
  /-- Waiting for a host image, with the fail code (R297). -/
  | recovery (fail : Nat)
  deriving DecidableEq, Repr

/-- Ownership of destination bytes by an engine command (R165): the command, the chunk (or row or group) that will write them,
and the physical bytes lo to hi − 1. -/
structure Own where
  cid   : Nat
  chunk : Nat
  lo    : Nat
  hi    : Nat
  /-- Registered by another device: its ID and its engine's command (R165); cid is then a number of this device's own. -/
  far   : Option (Nat × Nat) := none
  deriving DecidableEq, Repr

/-- A watch at a home (R130): the slot parked, or re-polling because the home's 64 entries were in use. -/
structure Watch where
  slot  : Nat
  home  : Nat
  entry : Bool
  deriving DecidableEq, Repr

/-- A granule of an MROT delivery on its way (R195): its address, bytes, and the command it belongs to, with its context. -/
structure Delivery where
  cid   : Nat
  ctx   : Nat
  addr  : Nat
  bytes : BitVec 128
  deriving DecidableEq, Repr

/-- A CPYR chunk on its way to its home, or waiting there for room in the key filter (R206); one of another device has no command
here, and far names its device and command there. -/
structure ChunkMsg where
  cid   : Nat
  cluster : Nat
  chunk : Nat
  home  : Nat
  lo    : Nat
  fmt   : Nat
  key   : Nat × Nat × Nat × Nat
  resent : Bool
  bytes : List Byte
  far   : Option (Nat × Nat)
  /-- The context of its command (R255). -/
  ctx   : Nat
  deriving DecidableEq, Repr

/-- A key of a home's CPYR filter (R206): device, slot, serial, chunk, and the time it was entered. -/
structure FilterKey where
  key  : Nat × Nat × Nat × Nat
  time : Nat
  deriving DecidableEq, Repr

/-- The TLBs (R17, R149): the µTLB of a core, the one of a cluster, and the last-level one of a die. -/
inductive TlbUnit where
  | core (c : Nat) | cluster (c : Nat) | die (d : Nat)
  deriving DecidableEq, Repr

/-- A translation that a TLB holds (R149): the TLB, context, leaf level, virtual page, page frame base and the leaf's bits [5:2]. -/
structure TlbEntry where
  unit  : TlbUnit
  ctx   : Nat
  level : Nat
  vpage : Nat
  base  : Nat
  flags : Nat
  deriving DecidableEq, Repr

/-- A ferryman message on its way (R282): the die and slot index it goes to, the sending rank, its run number, the bytes of
a chunk (a credit has none), the sender's context, and the sender. -/
structure FerryMsg where
  die   : Nat
  idx   : Nat
  rank  : Nat
  run   : Nat
  chunk : Bool
  bytes : List Byte
  ctx   : Nat
  /-- The device, die and slot index of the sender. -/
  peer  : Nat × Nat × Nat
  deriving DecidableEq, Repr

/-- A saved partition image (R256): the slots of the context as they stopped, and by cluster its accumulators, its queued commands and
its gates, with its barriers, its watches and what stands in its per-pair queues: requests, records, CPYR chunks, MROT deliveries, arrivals
of barriers and ferryman messages. -/
structure Image where
  ctx   : Nat
  slots : List (Nat × Slot)
  accs  : List (Nat × Nat × Acc)
  loomq : List (Nat × LoomCmd)
  copyq : List (Nat × CopyCmd)
  gates : List (Nat × Gate)
  barriers : List (Nat × Barrier)
  watches  : List Watch
  held     : List Held
  remote   : List Remote
  records  : List RecordMsg
  chunks   : List ChunkMsg
  deliveries : List Delivery
  arrivals : List Nat
  ferryMsgs : List FerryMsg
  deriving DecidableEq, Repr

/-- An array other than memory in which one bit is in error (R289, R292): a slot's registers, tiles or window stack, an accumulator of a
cluster, or a cluster's read-only cache. -/
inductive Flaw where
  | slot (n : Nat) | acc (cluster i : Nat) | cache (cluster : Nat)
  deriving DecidableEq, Repr

/-- An error that a read has met (R289, R290): in the word of a physical address. -/
inductive EccEvent where
  /-- One bit, corrected. -/
  | corrected (addr : Nat)
  /-- One bit of an array of a cluster other than its memory, corrected. -/
  | array (cluster : Nat)
  /-- Uncorrectable, met by an engine or a scrub. -/
  | lost (addr : Nat)
  /-- Uncorrectable, in data returned to a slot of a context. -/
  | slotData (addr ctx slot : Nat)
  /-- Uncorrectable, in a page table that a die's hardware walked. -/
  | pageTable (addr die : Nat)
  deriving DecidableEq, Repr

/-- Data of another device that an engine command has read, or the outcome of what it sent there (R151 to R153): the command, what
for, the address, and the data; none for a request that failed, with its error code. -/
structure EngDatum where
  cid   : Nat
  tag   : Nat
  addr  : Word
  value : Option (BitVec 4096)
  code  : Nat
  deriving DecidableEq, Repr

/-- An attestation that the foreman has given (R300): the measurement, the nonce, DEVID, the security version and the signature. -/
structure Attestation where
  measure : BitVec 512
  nonce   : BitVec 256
  devid   : BitVec 12
  version : Nat
  sign    : BitVec 10240
  deriving DecidableEq, Repr

/-- Which agent moves when the agenda is empty. -/
inductive Turn where
  /-- The slot in force issues its next instruction. -/
  | issue
  /-- A pending step of another unit goes first, if there is one. -/
  | background
  deriving DecidableEq, Repr

/-- The state of the device. -/
structure State where
  /-- The slot that issues, and its state; every other slot stands in others (R103). -/
  cur     : Nat
  slot    : Slot
  others  : SMap Slot
  cores   : SMap Core
  clusters : SMap Cluster
  dies    : SMap Die
  /-- Memory bytes by physical address (Machine/Mem.lean); unlisted bytes read 0. -/
  mem     : List Host.Cell
  /-- Empty granules, by physical address / 16, rising; every other granule is full (R143). -/
  empty   : List Nat
  /-- Bases of armed residual segments, rising (R224, R225). -/
  armed   : List Nat
  own     : List Own
  /-- Devices at which a command of this one has registered ownership (R165): the command, its issuer and the device. -/
  claims  : List (Nat × Issuer × Nat)
  /-- Accesses held at their homes, in arrival order (R144, R165). -/
  held    : List Held
  replies : List Reply
  remote  : List Remote
  engData : List EngDatum
  /-- Requests that other devices sent and the replies given: 0 performed, 1 retry-later, 2 refused, and the value. -/
  answered : List (Nat × BitVec 4096)
  /-- Waits of other devices here, with the barrier or the physical address of the segment (R226, R321). -/
  farWaits : List (RemoteAcc × Nat)
  /-- Watches of other devices on counters here, with the counter's physical address (R337). -/
  farWatches : List (RemoteAcc × Nat)
  watches : List Watch
  /-- Barriers by handle (R174). -/
  barriers : SMap (Option Barrier)
  /-- Arrivals of children on their way to a parent's home (R318). -/
  arrivals : List Nat
  deliveries : List Delivery
  chunks  : List ChunkMsg
  /-- CPYR key filters by home, newest first (R206). -/
  filters : SMap (List FilterKey)
  tlb     : List TlbEntry
  /-- Records on their way to a core's inbox port, oldest first (R114, R118, R119). -/
  inflight : List RecordMsg
  /-- Ferryman credits and chunks on their way inside the package (R282). -/
  ferryMsgs : List FerryMsg
  /-- Slots of other devices whose ferryman programs have told that they are parked (R255, R284): device, die and slot index. -/
  farParked : List (Nat × Nat × Nat)
  devid   : BitVec 12
  tstamp  : Word
  boot    : Boot
  /-- The measurement (R296), as 64 bytes. -/
  measure : BitVec 512
  /-- The image in the board's flash, and the fused key digest and minimum security version (R296). -/
  flash   : List Host.Cell
  fuseKey : BitVec 512
  fuseVersion : Nat
  /-- Contexts stopped by a gang switch (R255), and their saved images (R256). -/
  stopped : List Nat
  images  : List Image
  /-- Contexts left stopped by a context error (R291). -/
  failed  : List Nat
  /-- Clusters with a lasting fault, whose partitions are being stopped before they are retired (R294). -/
  retiring : List Nat
  /-- A fatal error whose dump is not finished (R267): cause, detecting die, address, and the time of its detection. -/
  fatal   : Option (Nat × Nat × Nat)
  fatalTime : Word
  /-- Words of memory, as physical address / 8, in which one bit is in error, and those with an uncorrectable error (R289, R290). The
  environment puts words here: no step of the table does (model's own, DESIGN CHOICE, log 55). -/
  faint   : List Nat
  spoiled : List Nat
  /-- Arrays in which one bit is in error; the environment puts them here (model's own, DESIGN CHOICE, log 55). -/
  flaws   : List Flaw
  /-- Errors met, oldest first, which the foremen have still to act on (R290 to R294). -/
  errors  : List EccEvent
  /-- The security version of the image that runs (R296). -/
  version : Nat
  /-- Interrupt vectors sent to the host (R276, R291), and attestations given, oldest first (R300). -/
  hostIrq : List Nat
  attest  : List Attestation
  /-- Value of the last host read (R273). -/
  hostRead : BitVec 512
  /-- The number of the next engine command, by which ownership and queues name it. -/
  nextCid : Nat
  /-- Steps that the environment has scheduled: the first is the next step (model's own, DESIGN CHOICE, log 5). -/
  agenda  : List Instr
  turn    : Turn
  /-- Which of the other units moves next (model's own, DESIGN CHOICE, log 5). -/
  rotor   : Nat
  /-- Nanoseconds that pass at the next steps; 1 when the list is empty (model's own, DESIGN CHOICE, log 4). -/
  elapse  : List Nat
  /-- Counter that free values are drawn with (model's own). -/
  freeCtr : Nat
  deriving DecidableEq, Repr

/-- The machine right after reset: slot 0 of core 0 in force, no slot running a task, no bind, no memory byte listed, the boot ROM
about to run (R69, R71, R143, R296; values the spec does not give: DESIGN CHOICE, log 2). -/
def State.reset : State :=
  { cur := 0, slot := .reset, others := [], cores := [], clusters := [], dies := [], mem := [], empty := [], armed := [], own := [], claims := [], held := [],
    replies := [], remote := [], engData := [], answered := [], farWaits := [], farWatches := [], watches := [], barriers := [], arrivals := [], deliveries := [], chunks := [],
    filters := [], tlb := [], inflight := [], ferryMsgs := [], farParked := [], devid := 0, tstamp := 0, boot := .start, measure := 0, flash := [],
    fuseKey := 0, fuseVersion := 0, stopped := [], images := [], failed := [], retiring := [], fatal := none, fatalTime := 0, faint := [], spoiled := [], flaws := [], errors := [], version := 0, hostIrq := [], attest := [],
    hostRead := 0, nextCid := 0, agenda := [], turn := .issue, rotor := 0, elapse := [], freeCtr := 0 }

end Sys2Proof.Machine
end

