-- ==== Sys2Proof/Machine/Flags.lean ====
section
/-!
DEFINITION. The exception flags (spec/03_numbers.md R42, R44; spec/04_encoding.md R72) and how instructions raise them.
-/
namespace Sys2Proof.Machine

/-- Exception flags in the layout of FFLAGS (R72): nv, dz, of, uf, nx from bit 0. -/
abbrev Flags := BitVec 5

def flagNV : Flags := 1
def flagDZ : Flags := 2
def flagOF : Flags := 4
def flagUF : Flags := 8
def flagNX : Flags := 16

/-- A flag raised on a condition. -/
def flagIf (c : Bool) (f : Flags) : Flags := if c then f else 0

/-- The flags of several elements together (R388). -/
def flagsOf (fs : List Flags) : Flags := fs.foldl (· ||| ·) 0

/-- R44: an instruction ORs its flags into the slot's FFLAGS. -/
def raiseFlags (s : State) (f : Flags) : State :=
  { s with slot := { s.slot with t := { s.slot.t with fflags := s.slot.t.fflags ||| f.zeroExtend 64 } } }

end Sys2Proof.Machine
end

