-- ==== Sys2Proof/Machine/Num.lean ====
section
/-!
DEFINITION. Numbers and arithmetic (spec/03_numbers.md): the formats, the value of a code, exact arithmetic on sign, magnitude and
exponent, and the one rounding that lands a value in a format.
-/
namespace Sys2Proof.Machine

/-! ## Formats -/

/-- How the codes of a format are read. -/
inductive FmtClass where
  /-- binary8 family and binary4p2: one NaN, no negative zero (R30, R31, R35). -/
  | small
  /-- IEEE layout with signed zeros, infinities and NaNs (R36). -/
  | ieee
  /-- Two's complement or unsigned integer (R37). -/
  | int
  /-- FX96 (R39). -/
  | fixed
  deriving DecidableEq, Repr

/-- A format (R28): its code, class, width in bits, whether it has a sign, whether it is extended (has infinities), its fraction
width and its bias. -/
structure Fmt where
  code   : Nat
  cls    : FmtClass
  width  : Nat
  signed : Bool
  hasInf : Bool
  t      : Nat
  bias   : Nat
  deriving DecidableEq, Repr

def fmtBF16 : Fmt := { code := 0x21, cls := .ieee, width := 16, signed := true, hasInf := true, t := 7, bias := 127 }
def fmtFP16 : Fmt := { code := 0x22, cls := .ieee, width := 16, signed := true, hasInf := true, t := 10, bias := 15 }
def fmtFP32 : Fmt := { code := 0x23, cls := .ieee, width := 32, signed := true, hasInf := true, t := 23, bias := 127 }
def fmtInt (code width : Nat) (signed : Bool) : Fmt :=
  { code := code, cls := .int, width := width, signed := signed, hasInf := false, t := 0, bias := 0 }
def fmtINT32 : Fmt := fmtInt 0x28 32 true
def fmtFX96 : Fmt := { code := 0x29, cls := .fixed, width := 96, signed := true, hasInf := false, t := 0, bias := 0 }
def fmtB4p2 : Fmt := { code := 0x20, cls := .small, width := 4, signed := true, hasInf := false, t := 1, bias := 1 }

/-- A member of the binary8 family (R30, R31); none for p = 0. -/
def fmtB8 (code : Nat) : Option Fmt :=
  let p := code % 8
  if p = 0 then none
  else
    let u := code.testBit 4
    some { code := code, cls := .small, width := 8, signed := !u, hasInf := code.testBit 3, t := p - 1,
           bias := if u then 2 ^ (8 - p) else 2 ^ (7 - p) }

/-- The format of a code of R28; reserved codes and the default have none. -/
def fmtOfCode (code : Nat) : Option Fmt :=
  if code < 0x20 then fmtB8 code
  else match code with
    | 0x20 => some fmtB4p2
    | 0x21 => some fmtBF16
    | 0x22 => some fmtFP16
    | 0x23 => some fmtFP32
    | 0x24 => some (fmtInt 0x24 8 true)
    | 0x25 => some (fmtInt 0x25 8 false)
    | 0x26 => some (fmtInt 0x26 4 true)
    | 0x27 => some (fmtInt 0x27 16 true)
    | 0x28 => some fmtINT32
    | 0x29 => some fmtFX96
    | _ => none

/-- The format of a code of a consumer whose default is d (R29). -/
def fmtOr (d : Fmt) (code : Nat) : Option Fmt := if code = 0x3F then some d else fmtOfCode code

def Fmt.isFloat (f : Fmt) : Bool := f.cls = .small || f.cls = .ieee
def Fmt.isInt (f : Fmt) : Bool := f.cls = .int
def Fmt.isB8 (f : Fmt) : Bool := f.cls = .small && f.width = 8

/-- The significand width p of R27 and R52: the hidden bit and the fraction; the bit width of an integer. -/
def Fmt.prec (f : Fmt) : Nat := if f.isInt then f.width else f.t + 1

/-- The canonical NaN (R36). -/
def Fmt.nan (f : Fmt) : Nat :=
  match f.cls with
  | .small => if f.signed then 2 ^ (f.width - 1) else 2 ^ f.width - 1
  | .ieee => (2 ^ (f.width - 1 - f.t) - 1) <<< f.t ||| 2 ^ (f.t - 1)
  | _ => 0

/-- Number of magnitude bits. -/
def Fmt.magBits (f : Fmt) : Nat := if f.signed then f.width - 1 else f.width

/-- The magnitude code of infinity, where the format has one: 0x7F or 0xFE (R30, R31), or the top exponent (R36). -/
def Fmt.infCode (f : Fmt) : Nat :=
  match f.cls with
  | .ieee => (2 ^ (f.width - 1 - f.t) - 1) <<< f.t
  | _ => if f.signed then 2 ^ f.magBits - 1 else 2 ^ f.magBits - 2

/-- The magnitude code of the largest finite value (R32, R35, R36). -/
def Fmt.maxCode (f : Fmt) : Nat :=
  if f.hasInf then f.infCode - 1
  else if f.signed then 2 ^ f.magBits - 1 else 2 ^ f.magBits - 2

/-- Exponent of the least subnormal step: 1 − b − t. -/
def Fmt.emin (f : Fmt) : Int := 1 - (f.bias : Int) - (f.t : Int)

/-- Attaches a sign to a magnitude code. -/
def Fmt.withSign (f : Fmt) (neg : Bool) (c : Nat) : Nat := if neg then c + 2 ^ (f.width - 1) else c

/-- The largest finite value of a sign, as a code. -/
def Fmt.maxfin (f : Fmt) (neg : Bool) : Nat := f.withSign neg f.maxCode

/-! ## Values -/

/-- A number: NaN, an infinity, or a finite value (−1)^neg · m · 2^e; the sign of a zero is kept. -/
inductive Num where
  | nan
  | inf (neg : Bool)
  | fin (neg : Bool) (m : Nat) (e : Int)
  deriving DecidableEq, Repr

def Num.zero (neg : Bool) : Num := .fin neg 0 0
def Num.isNan : Num → Bool | .nan => true | _ => false
def Num.isInf : Num → Bool | .inf _ => true | _ => false
def Num.isZero : Num → Bool | .fin _ m _ => m = 0 | _ => false
def Num.neg : Num → Num
  | .nan => .nan
  | .inf n => .inf (!n)
  | .fin n m e => .fin (!n) m e
def Num.abs : Num → Num
  | .nan => .nan
  | .inf _ => .inf false
  | .fin _ m e => .fin false m e
def Num.isNeg : Num → Bool
  | .nan => false
  | .inf n => n
  | .fin n _ _ => n

/-- The value of a magnitude code of a float format. -/
def Fmt.magValue (f : Fmt) (neg : Bool) (c : Nat) : Num :=
  let e := c >>> f.t
  let fr := c % 2 ^ f.t
  if e = 0 then .fin neg fr f.emin else .fin neg (2 ^ f.t + fr) (f.emin + (e - 1 : Nat))

/-- The value of a code (R30 to R37). -/
def Fmt.value (f : Fmt) (c : Nat) : Num :=
  match f.cls with
  | .int =>
    if f.signed && c.testBit (f.width - 1) then .fin true (2 ^ f.width - c) 0 else .fin false c 0
  | .fixed => .fin false c 0
  | .small =>
    if c = f.nan then .nan
    else
      let neg := f.signed && c.testBit (f.width - 1)
      let m := c % 2 ^ f.magBits
      if f.hasInf && m = f.infCode then .inf neg else f.magValue neg m
  | .ieee =>
    let neg := c.testBit (f.width - 1)
    let m := c % 2 ^ f.magBits
    if m > f.infCode then .nan else if m = f.infCode then .inf neg else f.magValue neg m

/-! ## Rounding -/

/-- The rounding modes of R40: nearest even, toward zero, down, up. -/
inductive RMode where
  | rne | rz | rd | ru
  deriving DecidableEq, Repr

def rmodeOfCode (c : Nat) : RMode :=
  match c % 4 with
  | 0 => .rne
  | 1 => .rz
  | 2 => .rd
  | _ => .ru

/-- Drops sh low bits of a positive magnitude m by a mode, for a value of sign neg (R40). tie decides a tie in nearest mode from
the kept part. -/
def roundShift (rm : RMode) (neg : Bool) (m sh : Nat) (tie : Nat → Bool) : Nat × Bool :=
  let n := m >>> sh
  let r := m % 2 ^ sh
  if r = 0 then (n, false)
  else
    let up := match rm with
      | .rne => if 2 * r = 2 ^ sh then tie n else decide (2 * r > 2 ^ sh)
      | .rz => false
      | .rd => neg
      | .ru => !neg
    (if up then n + 1 else n, true)

/-- The tie rule of a format: to the even neighbour, and where no fraction bit exists (p = 1) the open choice (DESIGN CHOICE, log 12). -/
def Fmt.tie (f : Fmt) (neg : Bool) (q : Int) (n : Nat) : Bool :=
  if f.t = 0 && f.isFloat then Config.tieP1 f.code neg q else n % 2 = 1

/-- R41: the result of an overflow and its flags. -/
def Fmt.overflow (f : Fmt) (neg : Bool) (rm : RMode) (sat : Bool) : Nat × Flags :=
  if sat then (f.maxfin neg, flagNX)
  else if f.hasInf then
    let toInf := match rm with
      | .rne => true
      | .rz => false
      | .rd => neg
      | .ru => !neg
    (if toInf then f.withSign neg f.infCode else f.maxfin neg, flagOF ||| flagNX)
  else (f.maxfin neg, flagOF ||| flagNX)

/-- R41: a finite non-zero value is tiny, after rounding with an unbounded exponent range. -/
def Fmt.tiny (f : Fmt) (neg : Bool) (m : Nat) (e : Int) (rm : RMode) : Bool :=
  let qp := (m.log2 : Int) + e - f.t
  let rp := if e ≥ qp then m <<< (e - qp).toNat else (roundShift rm neg m (qp - e).toNat (f.tie neg qp)).1
  qp < f.emin && (qp + 1 < f.emin || rp < 2 ^ (f.t + 1))

/-- R40 on a finite non-zero value of a sign the format has. -/
def Fmt.roundFin (f : Fmt) (neg : Bool) (m : Nat) (e : Int) (rm : RMode) (sat : Bool) : Nat × Flags :=
  let top := (m.log2 : Int) + e
  let q := max (top - f.t) f.emin
  let r := if e ≥ q then (m <<< (e - q).toNat, false) else roundShift rm neg m (q - e).toNat (f.tie neg q)
  let code := (q - f.emin).toNat * 2 ^ f.t + r.1
  if r.1 ≠ 0 ∧ code > f.maxCode then f.overflow neg rm sat
  else
    let fl := flagIf r.2 flagNX ||| flagIf (r.2 && f.tiny neg m e rm) flagUF
    if r.1 = 0 then (if f.cls = .ieee && neg then f.withSign true 0 else 0, fl)
    else (f.withSign neg code, fl)

/-- R40: round to a floating-point format. -/
def Fmt.roundFloat (f : Fmt) (x : Num) (rm : RMode) (sat : Bool) : Nat × Flags :=
  match x with
  | .nan => (f.nan, 0)
  | .inf neg =>
    if !f.signed && neg then (f.nan, flagNV)
    else if f.hasInf && !sat then (f.withSign neg f.infCode, 0)
    else f.overflow neg rm sat
  | .fin neg m e =>
    if m = 0 then (if neg && f.cls = .ieee then f.withSign true 0 else 0, 0)
    else if !f.signed && neg then (f.nan, flagNV)
    else f.roundFin neg m e rm sat

/-- A finite value rounded to an integer by a mode, with no range limit (R43, R56), and whether it was inexact. -/
def roundInt (neg : Bool) (m : Nat) (e : Int) (rm : RMode) : Int × Bool :=
  let r := if e ≥ 0 then (m <<< e.toNat, false) else roundShift rm neg m (-e).toNat (fun n => n % 2 = 1)
  (if neg then -(r.1 : Int) else (r.1 : Int), r.2)

/-- The ends of the range of an integer format (R37). -/
def Fmt.intMin (f : Fmt) : Int := if f.signed then -(2 ^ (f.width - 1) : Nat) else 0
def Fmt.intMax (f : Fmt) : Int := if f.signed then (2 ^ (f.width - 1) : Nat) - 1 else (2 ^ f.width : Nat) - 1

/-- Two's complement code of an integer in a width. -/
def intCode (w : Nat) (n : Int) : Nat := (n % (2 ^ w : Nat)).toNat

/-- R43: conversion to an integer format; NaN gives 0, a value outside the range the nearest end, both with NV. -/
def Fmt.roundToInt (f : Fmt) (x : Num) (rm : RMode) : Nat × Flags :=
  match x with
  | .nan => (0, flagNV)
  | .inf neg => (intCode f.width (if neg then f.intMin else f.intMax), flagNV)
  | .fin neg m e =>
    let r := roundInt neg m e rm
    if r.1 < f.intMin then (intCode f.width f.intMin, flagNV)
    else if r.1 > f.intMax then (intCode f.width f.intMax, flagNV)
    else (intCode f.width r.1, flagIf r.2 flagNX)

/-- The helper round(x, f, rm) of R56, for float and integer formats. -/
def Fmt.round (f : Fmt) (x : Num) (rm : RMode) (sat : Bool) : Nat × Flags :=
  if f.isInt then f.roundToInt x rm else f.roundFloat x rm sat

/-! ## Exact arithmetic -/

/-- A signed magnitude at an exponent. -/
def signed (neg : Bool) (m : Nat) : Int := if neg then -(m : Int) else (m : Int)

/-- Finite value from an integer at an exponent; zneg is the sign of a zero. -/
def Num.ofInt (n e : Int) (zneg : Bool) : Num :=
  if n = 0 then .fin zneg 0 0 else .fin (n < 0) n.natAbs e

/-- The exact sum of two finite values as an integer at the smaller exponent. -/
def addAt (n1 : Int) (e1 : Int) (n2 : Int) (e2 : Int) : Int × Int :=
  if n1 = 0 then (n2, e2)
  else if n2 = 0 then (n1, e1)
  else
    let e := min e1 e2
    (n1 * (2 ^ (e1 - e).toNat : Nat) + n2 * (2 ^ (e2 - e).toNat : Nat), e)

/-- Exact addition (R42, R47): ∞ − ∞ is invalid; an exact zero from opposite signs is +0, or −0 when rm is down. -/
def Num.add (x y : Num) (rm : RMode) : Num × Flags :=
  match x, y with
  | .nan, _ => (.nan, 0)
  | _, .nan => (.nan, 0)
  | .inf a, .inf b => if a = b then (.inf a, 0) else (.nan, flagNV)
  | .inf a, .fin _ _ _ => (.inf a, 0)
  | .fin _ _ _, .inf b => (.inf b, 0)
  | .fin n1 m1 e1, .fin n2 m2 e2 =>
    let r := addAt (signed n1 m1) e1 (signed n2 m2) e2
    let zneg := if m1 = 0 ∧ m2 = 0 ∧ n1 = n2 then n1 else decide (rm = .rd)
    (Num.ofInt r.1 r.2 zneg, 0)

/-- Exact multiplication (R42): 0 × ∞ is invalid. -/
def Num.mul (x y : Num) : Num × Flags :=
  match x, y with
  | .nan, _ => (.nan, 0)
  | _, .nan => (.nan, 0)
  | .inf a, .inf b => (.inf (a != b), 0)
  | .inf a, .fin n m _ => if m = 0 then (.nan, flagNV) else (.inf (a != n), 0)
  | .fin n m _, .inf b => if m = 0 then (.nan, flagNV) else (.inf (n != b), 0)
  | .fin n1 m1 e1, .fin n2 m2 e2 => (.fin (n1 != n2) (m1 * m2) (e1 + e2), 0)

/-- Exact product and sum, x·y + z (R47): a NaN third operand does not hide an invalid product. -/
def Num.fma (x y z : Num) (rm : RMode) : Num × Flags :=
  let p := x.mul y
  if p.2 = flagNV then (.nan, flagNV)
  else
    let s := p.1.add z rm
    (s.1, p.2 ||| s.2)

/-- Order of two numbers that are not NaN, with −0 below +0 (R46, R47). -/
def Num.lt (x y : Num) : Bool :=
  match x, y with
  | .nan, _ => false
  | _, .nan => false
  | .inf a, .inf b => a && !b
  | .inf a, .fin _ _ _ => a
  | .fin _ _ _, .inf b => !b
  | .fin n1 m1 e1, .fin n2 m2 e2 =>
    if m1 = 0 ∧ m2 = 0 then n1 && !n2
    else (addAt (signed n1 m1) e1 (-(signed n2 m2)) e2).1 < 0

/-- Numeric comparison, where −0 equals +0. -/
def Num.cmpLt (x y : Num) : Bool := if x.isZero && y.isZero then false else x.lt y
def Num.cmpEq (x y : Num) : Bool :=
  !x.isNan && !y.isNan && !(x.cmpLt y) && !(y.cmpLt x)

/-- The scale byte of R38. -/
def scaleValue (b : Nat) : Num := if b = 0xFF then .nan else .fin false 1 ((b : Int) - 127)

/-- Bitwise integer square root: the largest r below 2^k with r·r ≤ n, found from the high bit (used by R45). -/
def isqrtBits (n : Nat) : Nat → Nat → Nat
  | 0, r => r
  | k + 1, r => if (r + 2 ^ k) * (r + 2 ^ k) ≤ n then isqrtBits n k (r + 2 ^ k) else isqrtBits n k r

/-- Rounds r·2^e (with sticky for a part below the last bit) to FP32 values of at most 13 significant bits (R45). A result is tiny by the
value so rounded, not by one rounded to the 24 bits of R41 (DESIGN CHOICE, log 88). -/
def round13 (neg : Bool) (r : Nat) (sticky : Bool) (e : Int) : Nat × Flags :=
  let m := 2 * r + (if sticky then 1 else 0)
  let sh := m.log2 - 12
  let q := roundShift .rne neg m sh (fun n => n % 2 = 1)
  let v := fmtFP32.roundFin neg q.1 (e - 1 + sh) .rne false
  let tiny := (q.1.log2 : Int) + (e - 1 + sh) < fmtFP32.emin + 23
  (v.1, v.2 ||| flagIf q.2 flagNX ||| flagIf (q.2 && tiny) flagUF)

/-- VRSQS on one value (R45). -/
def rsqrt13 (x : Num) : Nat × Flags :=
  match x with
  | .nan => (fmtFP32.nan, 0)
  | .inf neg => if neg then (fmtFP32.nan, flagNV) else (0, 0)
  | .fin neg m e =>
    if m = 0 then (fmtFP32.withSign neg fmtFP32.infCode, flagDZ)
    else if neg then (fmtFP32.nan, flagNV)
    else
      let m2 := if e % 2 = 0 then m else 2 * m
      let e2 := if e % 2 = 0 then e else e - 1
      let n := 2 ^ 64 / m2
      let r := isqrtBits n 33 0
      round13 false r (r * r * m2 ≠ 2 ^ 64) (-(e2 / 2) - 32)

/-- VRCPS on one value (R45). -/
def recip13 (x : Num) : Nat × Flags :=
  match x with
  | .nan => (fmtFP32.nan, 0)
  | .inf neg => (fmtFP32.withSign neg 0, 0)
  | .fin neg m e =>
    if m = 0 then (fmtFP32.withSign neg fmtFP32.infCode, flagDZ)
    else
      let r := 2 ^ 48 / m
      round13 neg r (r * m ≠ 2 ^ 48) (-e - 48)

/-! ## Sums -/

/-- An exact sum of finite terms as an integer at an exponent. -/
def sumAt (xs : List (Int × Int)) : Int × Int := xs.foldl (fun a t => addAt a.1 a.2 t.1 t.2) (0, 0)

/-- A finite number as an integer at an exponent. -/
def Num.at : Num → Int × Int
  | .fin n m e => (signed n m, e)
  | _ => (0, 0)

/-- The class of a list of terms: NaN, an infinity, both infinities, or finite (R46, R53). -/
def anyNan (xs : List Num) : Bool := xs.any Num.isNan
def hasInfOf (neg : Bool) (xs : List Num) : Bool := xs.any (fun x => x = .inf neg)

/-- VREDS before its rounding (R46): the exact sum of the elements, with the sign of an exact zero. A row with a NaN and both infinities gives
NaN without NV: R42 does not say which of its two cases comes first (DESIGN CHOICE, log 99). -/
def exactSum (xs : List Num) (rm : RMode) : Num × Flags :=
  if anyNan xs then (.nan, 0)
  else if hasInfOf false xs && hasInfOf true xs then (.nan, flagNV)
  else if hasInfOf false xs then (.inf false, 0)
  else if hasInfOf true xs then (.inf true, 0)
  else
    let r := sumAt (xs.map Num.at)
    let allNegZero := xs.all (fun x => x.isZero && x.isNeg)
    let someNonZero := xs.any (fun x => !x.isZero)
    (Num.ofInt r.1 r.2 (allNegZero || (decide (rm = .rd) && someNonZero)), 0)

/-- The sticky-window sum of R49 of finite terms: the kept sum at exponent q and the sticky bit. -/
def windowSum (terms : List (Int × Int)) : Int × Int × Bool :=
  let nz := terms.filter (fun t => t.1 ≠ 0)
  match nz with
  | [] => (0, 0, false)
  | t0 :: rest =>
    let top := rest.foldl (fun a t => max a ((t.1.natAbs.log2 : Int) + t.2)) ((t0.1.natAbs.log2 : Int) + t0.2)
    let q := top - 63
    nz.foldl
      (fun a t =>
        if t.2 ≥ q then (a.1 + t.1 * (2 ^ (t.2 - q).toNat : Nat), a.2.1, a.2.2)
        else
          let sh := (q - t.2).toNat
          let k := t.1.natAbs >>> sh
          (a.1 + signed (t.1 < 0) k, a.2.1, a.2.2 || decide (k <<< sh ≠ t.1.natAbs)))
      (0, q, false)

/-- R49's last step: the kept sum rounded to FP32, a halfway sum going away from zero when the sticky bit is set; a sticky result is inexact,
and so underflows when it is tiny (R53). A kept sum of 0 with the sticky bit is inexact and not tiny: R53 does not say whether the kept or the
exact sum is judged (DESIGN CHOICE, log 99). -/
def windowRound (n q : Int) (sticky : Bool) : Nat × Flags :=
  if n = 0 then (0, flagIf sticky flagNX)
  else
    let neg := decide (n < 0)
    let m := n.natAbs
    let top := (m.log2 : Int) + q
    let g := max (top - 23) fmtFP32.emin
    let half := q < g && decide (2 * (m % 2 ^ (g - q).toNat) = 2 ^ (g - q).toNat)
    let r := if sticky && half then fmtFP32.roundFin neg (m + 1) q .rne false else fmtFP32.roundFin neg m q .rne false
    (r.1, r.2 ||| flagIf sticky flagNX ||| flagIf (sticky && fmtFP32.tiny neg m q .rne) flagUF)

/-- zero_sum of R49: −0 when every term is −0, else +0. -/
def zeroSum (terms : List Num) : Nat := if terms.all (fun t => t.isNeg) then fmtFP32.withSign true 0 else 0

/-- One chunk added to an FP32 accumulator (R48, R49, R53). prods are the exact products with their flags; window says that A or B
is BF16 or FP32. Where neither is, R48 names no sign for an exact zero sum: it is −0 when the accumulator and every product are −0, else +0
(DESIGN CHOICE, log 89). -/
def chunkAdd (window : Bool) (acc : Nat) (prods : List (Num × Flags)) : Nat × Flags :=
  let a := fmtFP32.value acc
  let ps := prods.map Prod.fst
  let terms := a :: ps
  let invalid := prods.any (fun p => p.2 = flagNV) || (hasInfOf false terms && hasInfOf true terms)
  if invalid then (fmtFP32.nan, flagNV)
  else if anyNan terms then (fmtFP32.nan, 0)
  else if hasInfOf false terms then (fmtFP32.infCode, 0)
  else if hasInfOf true terms then (fmtFP32.withSign true fmtFP32.infCode, 0)
  else if window then
    if terms.all Num.isZero then (zeroSum terms, 0)
    else
      let w := windowSum (terms.map Num.at)
      windowRound w.1 w.2.1 w.2.2
  else
    let s := sumAt (ps.map Num.at)
    let r := addAt a.at.1 a.at.2 s.1 s.2
    fmtFP32.roundFloat (Num.ofInt r.1 r.2 (terms.all (fun t => t.isZero && t.isNeg))) .rne false

/-! ## Helpers of R55 and R56 -/

/-- The 64-bit mixer (R55). -/
def mix64 (x : Word) : Word :=
  let a := x ^^^ (x >>> 32)
  let b := a * 0xD6E8FEB86659FD93
  let c := b ^^^ (b >>> 32)
  let d := c * 0xD6E8FEB86659FD93
  d ^^^ (d >>> 32)

/-- sext(x, n) and zext(x, n) of R56. -/
def sextTo (x : Word) (n : Nat) : Word := (BitVec.truncate n x).signExtend 64
def zextTo (x : Word) (n : Nat) : Word := (BitVec.truncate n x).zeroExtend 64

/-- fx_from(v, e) of R56: v / 2^e rounded to the nearest integer, ties to even; zero for what the caller excludes. -/
def fxFrom (x : Num) (e : Int) : Int :=
  match x with
  | .fin neg m ex => (roundInt neg m (ex - e) .rne).1
  | _ => 0

/-- fx_to(n, e, f) of R56. -/
def fxTo (n e : Int) (f : Fmt) : Nat × Flags := f.roundFloat (Num.ofInt n e false) .rne false

end Sys2Proof.Machine
end

