-- ==== Sys2Proof/WellFormed.lean ====
section
/-!
DEFINITION. Well-formed instructions: the operand values that spec/04_encoding.md admits (R83, R85, R92, R97, R101),
and, for the rows without a word, that the named unit exists (spec/02_machine.md R17).
-/
namespace Sys2Proof

/-- pos + len must not exceed 64, with len 0 meaning 64 (R83). -/
def bitFieldOk (pos len : BitVec 6) : Bool :=
  if len == 0 then pos == 0 else pos.toNat + len.toNat ≤ 64

/-- ENTER and SHRINK take k in 8 to 48 (R87, R101). -/
def frameSizeOk (k : BitVec 6) : Bool := 8 ≤ k.toNat && k.toNat ≤ 48

/-- The engine registers that R77 to R81 list. -/
def engineRegOk (eng : BitVec 3) (ereg : BitVec 8) : Bool :=
  match eng.toNat with
  | 0 => ereg.toNat ≤ 0x0A
  | 1 => ereg.toNat ≤ 0x0F
  | 2 => ereg.toNat ≤ 0x37
  | 3 => ereg.toNat ≤ 0x0A
  | 4 => ereg.toNat ≤ 0x08 || (0x10 ≤ ereg.toNat && ereg.toNat ≤ 0x18)
  | _ => false

/-- The codes that pop or push: ln, ls, le, lw, ib and eq (R57), and the stream registers sa and sb. -/
def isQueueCode (r : Reg) : Bool := 56 ≤ r.toNat

/-- The rb of a DEQ must not be z or a queue code (R92). The queue codes of R11 are ln, ls, le, lw, ib, sa, sb and eq. -/
def statusReg (r : Reg) : Bool := r != 0 && !isQueueCode r

/-- A row that has a word. -/
def Instr.isWord (i : Instr) : Bool :=
  match i with
  | .interruptEntry _ => false
  | .timerCompare _ => false
  | .takeRecord _ => false
  | .idleSearchRetry _ => false
  | .dequeTheft _ _ => false
  | .inboxDelivery _ => false
  | .backstopWrite _ => false
  | .backstopRefill _ => false
  | .spawnQueueDispatch _ => false
  | .quantumExpiry _ => false
  | .quantumSaveDone _ => false
  | .strandForm _ => false
  | .watchWake _ => false
  | .watchRepoll _ => false
  | .feReissue _ => false
  | .accessAtHome _ => false
  | .memoryReply _ _ _ => false
  | .remoteReceive _ => false
  | .replayRetry _ => false
  | .replayDrop _ => false
  | .barrierParentArrival _ => false
  | .leaseGrant _ => false
  | .leaseLapse _ => false
  | .mmulExecute _ => false
  | .mrotChunk _ => false
  | .mrotDelivery _ => false
  | .mdrainExecute _ => false
  | .mzeroExecute _ => false
  | .accumulatorFree _ _ => false
  | .copyChunk _ _ => false
  | .cpyrChunkApply _ => false
  | .copySignal _ _ => false
  | .streamReadahead _ _ => false
  | .bxMapInstall _ _ => false
  | .bxGroup _ _ => false
  | .bxSwapPair _ _ => false
  | .bxComplete _ _ => false
  | .ferryEnd _ _ => false
  | .ferrySend _ _ => false
  | .ferryRecv _ _ => false
  | .ferryRrs _ _ => false
  | .ferryCopy _ _ => false
  | .ferryWait _ _ => false
  | .ferryLoop _ _ => false
  | .ferrySignal _ _ => false
  | .ferryChunkArrival _ _ _ _ _ => false
  | .ferryStepTimeout _ _ => false
  | .resamplePhase2 _ _ => false
  | .clonePlacement _ _ => false
  | .residualDeadline _ => false
  | .wqKick _ _ _ => false
  | .wqDecide _ _ => false
  | .wqLapTimeout _ _ => false
  | .wqErrorClear _ _ => false
  | .doorbellWrite _ _ => false
  | .dbgHaltRequest _ => false
  | .dbgResume _ => false
  | .dbgRaiseInterrupt _ => false
  | .clfreezeWrite _ _ => false
  | .registerWindowWrite _ _ _ => false
  | .hostAccess _ _ _ _ _ => false
  | .gangStop _ => false
  | .partitionSave _ => false
  | .gangResume _ => false
  | .flitCrcRetry _ _ => false
  | .linkRetire _ _ => false
  | .contextError _ => false
  | .l2Scrub _ => false
  | .thermalTrip _ => false
  | .fatalError _ _ _ => false
  | .reset _ _ => false
  | .bootLoad => false
  | .attestationRequest _ => false
  | .illopEncoding _ => false
  | .divisionResult _ => false
  | .keyFilterExpiry _ => false
  | .ferryCreditArrival _ _ _ _ => false
  | _ => true

/-- The operands are ones the spec admits. -/
def Instr.wellFormed (i : Instr) : Bool :=
  match i with
  | .bfx _ _ pos len _ => bitFieldOk pos len
  | .bfi _ _ pos len _ => bitFieldOk pos len
  | .enter k _ => frameSizeOk k
  | .shrink k _ => frameSizeOk k
  | .deq _ _ rb _ => statusReg rb
  | .erd _ eng ereg _ => engineRegOk eng ereg
  | .erw _ eng ereg _ => engineRegOk eng ereg
  | .ldb _ _ _ q _ => q != 3
  | .ldbu _ _ _ q _ => q != 3
  | .ldh _ _ _ q _ => q != 3
  | .ldhu _ _ _ q _ => q != 3
  | .ldw _ _ _ q _ => q != 3
  | .ldwu _ _ _ q _ => q != 3
  | .ldd _ _ _ q _ => q != 3
  | .stb _ _ _ q _ => q != 3
  | .sth _ _ _ q _ => q != 3
  | .stw _ _ _ q _ => q != 3
  | .std _ _ _ q _ => q != 3
  | .tld _ _ _ _ _ q _ => q != 3
  | .tst _ _ _ _ _ q _ => q != 3
  | .interruptEntry slot => slot < 16384
  | .timerCompare slot => slot < 16384
  | .takeRecord slot => slot < 16384
  | .idleSearchRetry slot => slot < 16384
  | .dequeTheft slot core => slot < 16384 && core < 4096
  | .inboxDelivery core => core < 4096
  | .backstopWrite core => core < 4096
  | .backstopRefill core => core < 4096
  | .spawnQueueDispatch die => die < 8
  | .quantumExpiry slot => slot < 16384
  | .quantumSaveDone slot => slot < 16384
  | .strandForm slot => slot < 16384
  | .watchWake slot => slot < 16384
  | .watchRepoll slot => slot < 16384
  | .memoryReply _ code _ => code < 4
  | .replayRetry core => core < 4096
  | .replayDrop core => core < 4096
  | .leaseGrant cluster => cluster < 256
  | .leaseLapse cluster => cluster < 256
  | .mmulExecute cluster => cluster < 256
  | .mrotChunk cluster => cluster < 256
  | .mdrainExecute cluster => cluster < 256
  | .mzeroExecute cluster => cluster < 256
  | .accumulatorFree cluster acc => cluster < 256 && acc < 4
  | .copyChunk cluster _ => cluster < 256
  | .copySignal cluster _ => cluster < 256
  | .streamReadahead slot _ => slot < 16384
  | .bxMapInstall die _ => die < 8
  | .bxGroup die _ => die < 8
  | .bxSwapPair die _ => die < 8
  | .bxComplete die _ => die < 8
  | .ferryEnd die _ => die < 8
  | .ferrySend die _ => die < 8
  | .ferryRecv die _ => die < 8
  | .ferryRrs die _ => die < 8
  | .ferryCopy die _ => die < 8
  | .ferryWait die _ => die < 8
  | .ferryLoop die _ => die < 8
  | .ferrySignal die _ => die < 8
  | .ferryChunkArrival die _ _ _ _ => die < 8
  | .ferryStepTimeout die _ => die < 8
  | .resamplePhase2 die _ => die < 8
  | .clonePlacement die _ => die < 8
  | .residualDeadline slot => slot < 16384
  | .wqKick die q _ => die < 8 && q < 16384
  | .wqDecide die q => die < 8 && q < 16384
  | .wqLapTimeout die q => die < 8 && q < 16384
  | .wqErrorClear die q => die < 8 && q < 16384
  | .doorbellWrite core _ => core < 4096
  | .dbgHaltRequest slot => slot < 16384
  | .dbgResume slot => slot < 16384
  | .dbgRaiseInterrupt slot => slot < 16384
  | .clfreezeWrite cluster _ => cluster < 256
  | .registerWindowWrite die _ _ => die < 8
  | .gangStop ctx => ctx < 65536
  | .partitionSave ctx => ctx < 65536
  | .gangResume ctx => ctx < 65536
  | .flitCrcRetry die _ => die < 8
  | .linkRetire die _ => die < 8
  | .contextError slot => slot < 16384
  | .l2Scrub slice => slice < 512
  | .thermalTrip die => die < 8
  | .fatalError _ die _ => die < 8
  | .divisionResult core => core < 4096
  | .ferryCreditArrival die _ _ _ => die < 8
  | _ => true

end Sys2Proof
end

