-- ==== Sys2Proof/Decode.lean ====
section
/-!
DEFINITION. Decoding (spec/04_encoding.md R82 to R98, R101), total on every word and every list of bytes, and the
encoder written from the same tables. A word that is no instruction is rejected by name; the step then runs the row
ILLOP_ENCODING on it (R101).
-/
namespace Sys2Proof

/-- Why a word is not an instruction (R101). -/
inductive Reject where
  /-- op 0x00, 0x0F, 0x1B, 0x1C or 0x3A to 0x3F, the all-zero word among them. -/
  | opcode
  /-- An fn, vfn, aop, cmd, eng or sub value that R87 to R98 do not assign. -/
  | function
  /-- A non-zero reserved field, unused operand field or modifier bit (R88, R96, R101). -/
  | reservedField
  /-- A shift, BFX or BFI immediate out of range (R83, R101). -/
  | immediate
  /-- ENTER or SHRINK with k outside 8 to 48 (R101). -/
  | frameSize
  /-- A full/empty qualifier of 11 (R85). -/
  | qualifier
  /-- A DEQ whose rb is z or a queue code (R92). -/
  | statusRegister
  /-- An engine register number that R77 to R81 do not list (R97, R344). -/
  | engineRegister
  /-- Fewer than four bytes. -/
  | tooShort
  deriving DecidableEq, Repr

/-! ## Fields of a word -/

/-- Bits [hi:lo] of a word, given lo and the width. -/
def field (w : IWord) (lo len : Nat) : BitVec len := w.extractLsb' lo len

/-- The bit at a place of a word. -/
def flag (w : IWord) (n : Nat) : Bool := w.getLsbD n

/-- Refuses with a reason unless the test holds. -/
def guardWith (ok : Bool) (r : Reject) (i : Instr) : Except Reject Instr :=
  if ok then .ok i else .error r

/-! ## One decoder per format -/

/-- The integer group, op 0x01 (R89). -/
def decodeInteger (w : IWord) : Except Reject Instr :=
  match (field w 1 7).toNat with
  | 0x0 => .ok (.add (field w 20 6) (field w 14 6) (field w 8 6) (flag w 0))
  | 0x1 => .ok (.sub (field w 20 6) (field w 14 6) (field w 8 6) (flag w 0))
  | 0x2 => .ok (.and (field w 20 6) (field w 14 6) (field w 8 6) (flag w 0))
  | 0x3 => .ok (.or (field w 20 6) (field w 14 6) (field w 8 6) (flag w 0))
  | 0x4 => .ok (.xor (field w 20 6) (field w 14 6) (field w 8 6) (flag w 0))
  | 0x5 => .ok (.shl (field w 20 6) (field w 14 6) (field w 8 6) (flag w 0))
  | 0x6 => .ok (.shr (field w 20 6) (field w 14 6) (field w 8 6) (flag w 0))
  | 0x7 => .ok (.sra (field w 20 6) (field w 14 6) (field w 8 6) (flag w 0))
  | 0x8 => .ok (.slt (field w 20 6) (field w 14 6) (field w 8 6) (flag w 0))
  | 0x9 => .ok (.sltu (field w 20 6) (field w 14 6) (field w 8 6) (flag w 0))
  | 0xa => .ok (.min (field w 20 6) (field w 14 6) (field w 8 6) (flag w 0))
  | 0xb => .ok (.max (field w 20 6) (field w 14 6) (field w 8 6) (flag w 0))
  | 0xc => .ok (.minu (field w 20 6) (field w 14 6) (field w 8 6) (flag w 0))
  | 0xd => .ok (.maxu (field w 20 6) (field w 14 6) (field w 8 6) (flag w 0))
  | 0xe => .ok (.sel (field w 20 6) (field w 14 6) (field w 8 6) (flag w 0))
  | 0xf => .ok (.mix (field w 20 6) (field w 14 6) (field w 8 6) (flag w 0))
  | 0x10 => guardWith ((field w 8 6) == 0) .reservedField (.clz (field w 20 6) (field w 14 6) (flag w 0))
  | 0x11 => guardWith ((field w 8 6) == 0) .reservedField (.ctz (field w 20 6) (field w 14 6) (flag w 0))
  | 0x12 => guardWith ((field w 8 6) == 0) .reservedField (.popc (field w 20 6) (field w 14 6) (flag w 0))
  | 0x20 => .ok (.mul (field w 20 6) (field w 14 6) (field w 8 6) (flag w 0))
  | 0x21 => .ok (.mulh (field w 20 6) (field w 14 6) (field w 8 6) (flag w 0))
  | 0x22 => .ok (.mulhu (field w 20 6) (field w 14 6) (field w 8 6) (flag w 0))
  | 0x24 => .ok (.div (field w 20 6) (field w 14 6) (field w 8 6) (flag w 0))
  | 0x25 => .ok (.divu (field w 20 6) (field w 14 6) (field w 8 6) (flag w 0))
  | 0x26 => .ok (.rem (field w 20 6) (field w 14 6) (field w 8 6) (flag w 0))
  | 0x27 => .ok (.remu (field w 20 6) (field w 14 6) (field w 8 6) (flag w 0))
  | _ => .error .function

/-- The full/empty group, op 0x1F (R90). -/
def decodeFe (w : IWord) : Except Reject Instr :=
  match (field w 1 7).toNat with
  | 0x0 => guardWith ((field w 8 6) == 0) .reservedField (.feget (field w 20 6) (field w 14 6) (flag w 0))
  | 0x1 => guardWith ((field w 20 6) == 0 && (field w 8 6) == 0) .reservedField (.feset (field w 14 6) (flag w 0))
  | 0x2 => guardWith ((field w 20 6) == 0 && (field w 8 6) == 0) .reservedField (.feclr (field w 14 6) (flag w 0))
  | _ => .error .function

/-- CALLR, JR and RET, op 0x28 (R91). -/
def decodeControl (w : IWord) : Except Reject Instr :=
  match (field w 1 7).toNat with
  | 0x0 => guardWith ((field w 20 6) == 0 && (field w 8 6) == 0) .reservedField (.callr (field w 14 6) (flag w 0))
  | 0x1 => guardWith ((field w 20 6) == 0 && (field w 8 6) == 0) .reservedField (.jr (field w 14 6) (flag w 0))
  | 0x2 => guardWith ((field w 20 6) == 0 && (field w 14 6) == 0 && (field w 8 6) == 0) .reservedField (.ret (flag w 0))
  | _ => .error .function

/-- The mask group, op 0x2B (R91). -/
def decodeMask (w : IWord) : Except Reject Instr :=
  match (field w 1 7).toNat with
  | 0x0 => guardWith ((field w 20 6) == 0 && (field w 8 6) == 0) .reservedField (.mif (field w 14 6) (flag w 0))
  | 0x1 => guardWith ((field w 20 6) == 0 && (field w 14 6) == 0 && (field w 8 6) == 0) .reservedField (.melse (flag w 0))
  | 0x2 => guardWith ((field w 20 6) == 0 && (field w 14 6) == 0 && (field w 8 6) == 0) .reservedField (.mend (flag w 0))
  | _ => .error .function

/-- The task group, op 0x2C (R91). -/
def decodeTask (w : IWord) : Except Reject Instr :=
  match (field w 1 7).toNat with
  | 0x0 => guardWith ((field w 20 6) == 0 && (field w 8 6) == 0) .reservedField (.fork (field w 14 6) (flag w 0))
  | 0x1 => guardWith ((field w 20 6) == 0) .reservedField (.join (field w 14 6) (field w 8 6) (flag w 0))
  | 0x2 => guardWith ((field w 20 6) == 0) .reservedField (.spawn (field w 14 6) (field w 8 6) (flag w 0))
  | 0x3 => guardWith ((field w 20 6) == 0 && (field w 14 6) == 0 && (field w 8 6) == 0) .reservedField (.retire (flag w 0))
  | 0x4 => guardWith ((field w 20 6) == 0 && (field w 14 6) == 0 && (field w 8 6) == 0) .reservedField (.yield (flag w 0))
  | 0x5 => .ok (.tgate (field w 20 6) (field w 14 6) (field w 8 6) (flag w 0))
  | 0x6 => .ok (.tspawn (field w 20 6) (field w 14 6) (field w 8 6) (flag w 0))
  | 0x7 => guardWith ((field w 20 6) == 0 && (field w 8 6) == 0) .reservedField (.strand (field w 14 6) (flag w 0))
  | 0x8 => guardWith ((field w 20 6) == 0 && (field w 14 6) == 0 && (field w 8 6) == 0) .reservedField (.unstrand (flag w 0))
  | _ => .error .function

/-- The population group, op 0x2D (R91). -/
def decodePop (w : IWord) : Except Reject Instr :=
  match (field w 1 7).toNat with
  | 0x0 => .ok (.popnew (field w 20 6) (field w 14 6) (field w 8 6) (flag w 0))
  | 0x1 => guardWith ((field w 8 6) == 0) .reservedField (.popjoin (field w 20 6) (field w 14 6) (flag w 0))
  | 0x2 => .ok (.resample (field w 20 6) (field w 14 6) (field w 8 6) (flag w 0))
  | 0x3 => guardWith ((field w 20 6) == 0 && (field w 8 6) == 0) .reservedField (.popleave (field w 14 6) (flag w 0))
  | 0x4 => guardWith ((field w 8 6) == 0) .reservedField (.popinfo (field w 20 6) (field w 14 6) (flag w 0))
  | _ => .error .function

/-- The residual group, op 0x2E (R91). -/
def decodeResid (w : IWord) : Except Reject Instr :=
  match (field w 1 7).toNat with
  | 0x0 => guardWith ((field w 20 6) == 0) .reservedField (.rsnew (field w 14 6) (field w 8 6) (flag w 0))
  | 0x1 => .ok (.rspost (field w 20 6) (field w 14 6) (field w 8 6) (flag w 0))
  | 0x2 => .ok (.rsread (field w 20 6) (field w 14 6) (field w 8 6) (flag w 0))
  | 0x3 => .ok (.rstry (field w 20 6) (field w 14 6) (field w 8 6) (flag w 0))
  | 0x4 => guardWith ((field w 8 6) == 0) .reservedField (.rsstat (field w 20 6) (field w 14 6) (flag w 0))
  | 0x5 => guardWith ((field w 8 6) == 0) .reservedField (.rsseal (field w 20 6) (field w 14 6) (flag w 0))
  | _ => .error .function

/-- A FENCE of a kind (R92, R159): ra and rb must be zero. -/
def decodeFence (w : IWord) : Except Reject Instr :=
  let ok := field w 14 6 == 0 && field w 8 6 == 0
  match (field w 1 2).toNat with
  | 1 => guardWith ok .reservedField (.fenceRel (field w 20 6) (field w 3 2) (flag w 0))
  | 2 => guardWith ok .reservedField (.fenceAcq (field w 20 6) (field w 3 2) (flag w 0))
  | 3 => guardWith ok .reservedField (.fenceAr (field w 20 6) (field w 3 2) (flag w 0))
  | _ => .error .function

/-- The sync group, op 0x2F (R92). -/
def decodeSync (w : IWord) : Except Reject Instr :=
  match (field w 1 7).toNat with
  | 0x10 => guardWith ((field w 20 6) == 0) .reservedField (.cwait (field w 14 6) (field w 8 6) (flag w 0))
  | 0x11 => guardWith ((field w 20 6) == 0) .reservedField (.cadd (field w 14 6) (field w 8 6) (flag w 0))
  | 0x12 => .ok (.barnew (field w 20 6) (field w 14 6) (field w 8 6) (flag w 0))
  | 0x13 => guardWith ((field w 20 6) == 0) .reservedField (.barlink (field w 14 6) (field w 8 6) (flag w 0))
  | 0x14 => guardWith ((field w 8 6) == 0) .reservedField (.bararr (field w 20 6) (field w 14 6) (flag w 0))
  | 0x15 => guardWith ((field w 20 6) == 0) .reservedField (.barwait (field w 14 6) (field w 8 6) (flag w 0))
  | 0x16 => guardWith ((field w 20 6) == 0 && (field w 8 6) == 0) .reservedField (.barfree (field w 14 6) (flag w 0))
  | 0x17 => guardWith ((field w 20 6) == 0 && (field w 8 6) == 0) .reservedField (.barref (field w 14 6) (flag w 0))
  | 0x18 => .ok (.enq (field w 20 6) (field w 14 6) (field w 8 6) (flag w 0))
  | 0x19 => guardWith (statusReg (field w 8 6)) .statusRegister (.deq (field w 20 6) (field w 14 6) (field w 8 6) (flag w 0))
  | 0x1a => guardWith ((field w 14 6) == 0 && (field w 8 6) == 0) .reservedField (.tstamp (field w 20 6) (flag w 0))
  | _ => if field w 5 3 == 0 then decodeFence w else .error .function

/-- The system group, op 0x39 (R98). -/
def decodeSystem (w : IWord) : Except Reject Instr :=
  match (field w 1 7).toNat with
  | 0x0 => guardWith ((field w 20 6) == 0 && (field w 14 6) == 0 && (field w 8 6) == 0) .reservedField (.trap (flag w 0))
  | 0x1 => guardWith ((field w 20 6) == 0 && (field w 14 6) == 0 && (field w 8 6) == 0) .reservedField (.eret (flag w 0))
  | 0x2 => guardWith ((field w 20 6) == 0 && (field w 14 6) == 0 && (field w 8 6) == 0) .reservedField (.wfi (flag w 0))
  | 0x3 => guardWith ((field w 20 6) == 0 && (field w 14 6) == 0 && (field w 8 6) == 0) .reservedField (.bkpt (flag w 0))
  | 0x4 => guardWith ((field w 20 6) == 0 && (field w 8 6) == 0) .reservedField (.tlbinv (field w 14 6) (flag w 0))
  | 0x5 => guardWith ((field w 20 6) == 0 && (field w 14 6) == 0 && (field w 8 6) == 0) .reservedField (.roinv (flag w 0))
  | 0x6 => guardWith ((field w 20 6) == 0 && (field w 8 6) == 0) .reservedField (.tmark (field w 14 6) (flag w 0))
  | _ => .error .function

/-- AMO, op 0x1D (R90). -/
def decodeAmo (w : IWord) : Except Reject Instr :=
  match (field w 4 4).toNat with
  | 0x0 => .ok (.amoAdd (field w 20 6) (field w 14 6) (field w 8 6) (field w 2 2) (flag w 1) (flag w 0))
  | 0x1 => .ok (.amoAnd (field w 20 6) (field w 14 6) (field w 8 6) (field w 2 2) (flag w 1) (flag w 0))
  | 0x2 => .ok (.amoOr (field w 20 6) (field w 14 6) (field w 8 6) (field w 2 2) (flag w 1) (flag w 0))
  | 0x3 => .ok (.amoXor (field w 20 6) (field w 14 6) (field w 8 6) (field w 2 2) (flag w 1) (flag w 0))
  | 0x4 => .ok (.amoMin (field w 20 6) (field w 14 6) (field w 8 6) (field w 2 2) (flag w 1) (flag w 0))
  | 0x5 => .ok (.amoMax (field w 20 6) (field w 14 6) (field w 8 6) (field w 2 2) (flag w 1) (flag w 0))
  | 0x6 => .ok (.amoMinu (field w 20 6) (field w 14 6) (field w 8 6) (field w 2 2) (flag w 1) (flag w 0))
  | 0x7 => .ok (.amoMaxu (field w 20 6) (field w 14 6) (field w 8 6) (field w 2 2) (flag w 1) (flag w 0))
  | 0x8 => .ok (.amoSwap (field w 20 6) (field w 14 6) (field w 8 6) (field w 2 2) (flag w 1) (flag w 0))
  | 0x9 => guardWith (!flag w 1) .reservedField (.amoFadd32 (field w 20 6) (field w 14 6) (field w 8 6) (field w 2 2) (flag w 0))
  | 0xa => guardWith (!flag w 1) .reservedField (.amoNib (field w 20 6) (field w 14 6) (field w 8 6) (field w 2 2) (flag w 0))
  | _ => .error .function

/-- The vector group, op 0x30 (R93). -/
def decodeVector (w : IWord) : Except Reject Instr :=
  match (field w 21 5).toNat with
  | 0x0 => .ok (.vadd (field w 19 2) (field w 17 2) (field w 15 2) (flag w 14) (flag w 13) (flag w 12) (field w 6 6) (field w 1 5) (flag w 0))
  | 0x1 => .ok (.vsub (field w 19 2) (field w 17 2) (field w 15 2) (flag w 14) (flag w 13) (flag w 12) (field w 6 6) (field w 1 5) (flag w 0))
  | 0x2 => .ok (.vmul (field w 19 2) (field w 17 2) (field w 15 2) (flag w 14) (flag w 13) (flag w 12) (field w 6 6) (field w 1 5) (flag w 0))
  | 0x3 => .ok (.vfma (field w 19 2) (field w 17 2) (field w 15 2) (flag w 14) (flag w 13) (flag w 12) (field w 6 6) (field w 1 5) (flag w 0))
  | 0x4 => .ok (.vfms (field w 19 2) (field w 17 2) (field w 15 2) (flag w 14) (flag w 13) (flag w 12) (field w 6 6) (field w 1 5) (flag w 0))
  | 0x5 => .ok (.vfnma (field w 19 2) (field w 17 2) (field w 15 2) (flag w 14) (flag w 13) (flag w 12) (field w 6 6) (field w 1 5) (flag w 0))
  | 0x6 => .ok (.vmin (field w 19 2) (field w 17 2) (field w 15 2) (flag w 14) (flag w 13) (flag w 12) (field w 6 6) (field w 1 5) (flag w 0))
  | 0x7 => .ok (.vmax (field w 19 2) (field w 17 2) (field w 15 2) (flag w 14) (flag w 13) (flag w 12) (field w 6 6) (field w 1 5) (flag w 0))
  | 0xe => .ok (.vscale (field w 19 2) (field w 17 2) (field w 15 2) (flag w 14) (flag w 13) (flag w 12) (field w 6 6) (field w 1 5) (flag w 0))
  | 0x10 => .ok (.vcmpeq (field w 19 2) (field w 17 2) (field w 15 2) (flag w 14) (flag w 13) (flag w 12) (field w 6 6) (field w 1 5) (flag w 0))
  | 0x11 => .ok (.vcmplt (field w 19 2) (field w 17 2) (field w 15 2) (flag w 14) (flag w 13) (flag w 12) (field w 6 6) (field w 1 5) (flag w 0))
  | 0x12 => .ok (.vcmple (field w 19 2) (field w 17 2) (field w 15 2) (flag w 14) (flag w 13) (flag w 12) (field w 6 6) (field w 1 5) (flag w 0))
  | 0x13 => .ok (.vsel (field w 19 2) (field w 17 2) (field w 15 2) (flag w 14) (flag w 13) (flag w 12) (field w 6 6) (field w 1 5) (flag w 0))
  | 0x14 => .ok (.vand (field w 19 2) (field w 17 2) (field w 15 2) (flag w 14) (flag w 13) (flag w 12) (field w 6 6) (field w 1 5) (flag w 0))
  | 0x15 => .ok (.vor (field w 19 2) (field w 17 2) (field w 15 2) (flag w 14) (flag w 13) (flag w 12) (field w 6 6) (field w 1 5) (flag w 0))
  | 0x16 => .ok (.vxor (field w 19 2) (field w 17 2) (field w 15 2) (flag w 14) (flag w 13) (flag w 12) (field w 6 6) (field w 1 5) (flag w 0))
  | 0x17 => .ok (.vshl (field w 19 2) (field w 17 2) (field w 15 2) (flag w 14) (flag w 13) (flag w 12) (field w 6 6) (field w 1 5) (flag w 0))
  | 0x18 => .ok (.vshr (field w 19 2) (field w 17 2) (field w 15 2) (flag w 14) (flag w 13) (flag w 12) (field w 6 6) (field w 1 5) (flag w 0))
  | 0x19 => .ok (.vsra (field w 19 2) (field w 17 2) (field w 15 2) (flag w 14) (flag w 13) (flag w 12) (field w 6 6) (field w 1 5) (flag w 0))
  | 0x8 => guardWith (field w 15 2 == 0 && !flag w 12) .reservedField (.vabs (field w 19 2) (field w 17 2) (flag w 14) (flag w 13) (field w 6 6) (field w 1 5) (flag w 0))
  | 0x9 => guardWith (field w 15 2 == 0 && !flag w 12) .reservedField (.vneg (field w 19 2) (field w 17 2) (flag w 14) (flag w 13) (field w 6 6) (field w 1 5) (flag w 0))
  | 0xa => guardWith (field w 15 2 == 0 && !flag w 12) .reservedField (.vcvt (field w 19 2) (field w 17 2) (flag w 14) (flag w 13) (field w 6 6) (field w 1 5) (flag w 0))
  | 0xb => guardWith (field w 15 2 == 0 && !flag w 12) .reservedField (.vrsqs (field w 19 2) (field w 17 2) (flag w 14) (flag w 13) (field w 6 6) (field w 1 5) (flag w 0))
  | 0xc => guardWith (field w 15 2 == 0 && !flag w 12) .reservedField (.vrcps (field w 19 2) (field w 17 2) (flag w 14) (flag w 13) (field w 6 6) (field w 1 5) (flag w 0))
  | 0xd => guardWith (field w 15 2 == 0 && !flag w 12) .reservedField (.vxexp (field w 19 2) (field w 17 2) (flag w 14) (flag w 13) (field w 6 6) (field w 1 5) (flag w 0))
  | 0xf => guardWith (field w 15 2 == 0 && !flag w 12) .reservedField (.vmov (field w 19 2) (field w 17 2) (flag w 14) (flag w 13) (field w 6 6) (field w 1 5) (flag w 0))
  | 0x1a => guardWith (field w 1 18 == 0) .reservedField (.tzero (field w 19 2) (flag w 0))
  | 0x1b => guardWith (field w 1 16 == 0) .reservedField (.ttr (field w 19 2) (field w 17 2) (flag w 0))
  | _ => .error .function

/-- The element group, op 0x31 (R94). -/
def decodeElement (w : IWord) : Except Reject Instr :=
  match (field w 21 5).toNat with
  | 0x0 => .ok (.vget (field w 19 2) (field w 13 6) (field w 7 6) (field w 1 6) (flag w 0))
  | 0x1 => .ok (.vput (field w 19 2) (field w 13 6) (field w 7 6) (field w 1 6) (flag w 0))
  | 0x2 => guardWith (field w 1 6 == 0) .reservedField (.vbcast (field w 19 2) (field w 13 6) (field w 7 6) (flag w 0))
  | 0x3 => guardWith (field w 1 6 == 0) .reservedField (.vreds (field w 19 2) (field w 13 6) (field w 7 6) (flag w 0))
  | 0x4 => guardWith (field w 1 6 == 0) .reservedField (.vredm (field w 19 2) (field w 13 6) (field w 7 6) (flag w 0))
  | _ => .error .function

/-- The engine commands, op 0x34 (R96): eng and cmd together select the command. -/
def decodeEngine (w : IWord) : Except Reject Instr :=
  match (field w 18 8).toNat with
  | 0x0 => guardWith (field w 2 3 == 0) .reservedField (.cpy (field w 12 6) (field w 6 6) (flag w 1) (flag w 5) (flag w 0))
  | 0x1 => guardWith (field w 2 3 == 0) .reservedField (.cpyr (field w 12 6) (field w 6 6) (flag w 1) (flag w 5) (flag w 0))
  | 0x2 => guardWith (field w 3 2 == 0) .reservedField
      (if flag w 2 then .cpytP2e (field w 12 6) (field w 6 6) (flag w 1) (flag w 5) (flag w 0) else .cpytE2p (field w 12 6) (field w 6 6) (flag w 1) (flag w 5) (flag w 0))
  | 0x20 => guardWith (field w 12 6 == 0 && field w 6 6 == 0) .reservedField (.mlease (field w 1 4) (flag w 5) (flag w 0))
  | 0x21 => guardWith (field w 12 6 == 0 && field w 6 6 == 0 && field w 1 4 == 0) .reservedField (.mrel (flag w 5) (flag w 0))
  | 0x22 => guardWith (field w 3 2 == 0) .reservedField (.mmul (field w 12 6) (field w 6 6) (field w 1 2) (flag w 5) (flag w 0))
  | 0x23 => guardWith (field w 3 2 == 0) .reservedField (.mrot (field w 12 6) (field w 6 6) (field w 1 2) (flag w 5) (flag w 0))
  | 0x24 => guardWith (field w 6 6 == 0 && field w 3 2 == 0) .reservedField (.mdrain (field w 12 6) (field w 1 2) (flag w 5) (flag w 0))
  | 0x25 => guardWith (field w 12 6 == 0 && field w 6 6 == 0 && field w 3 2 == 0) .reservedField (.mzero (field w 1 2) (flag w 5) (flag w 0))
  | 0x26 => guardWith (field w 12 6 == 0 && field w 6 6 == 0 && !flag w 4) .reservedField (.mstat (field w 1 2) (flag w 3) (flag w 5) (flag w 0))
  | 0x40 => guardWith (field w 12 6 == 0 && field w 6 6 == 0 && field w 1 4 == 0) .reservedField (.bxmap (flag w 5) (flag w 0))
  | 0x41 => guardWith (field w 1 4 == 0) .reservedField (.bxapply (field w 12 6) (field w 6 6) (flag w 5) (flag w 0))
  | 0x42 => guardWith (field w 1 4 == 0) .reservedField (.bxswap (field w 12 6) (field w 6 6) (flag w 5) (flag w 0))
  | 0x43 => guardWith (field w 6 6 == 0 && field w 1 4 == 0) .reservedField (.bxresume (field w 12 6) (flag w 5) (flag w 0))
  | 0x60 => guardWith (field w 1 4 == 0) .reservedField (.colload (field w 12 6) (field w 6 6) (flag w 5) (flag w 0))
  | 0x61 => guardWith (field w 12 6 == 0 && field w 6 6 == 0 && field w 1 4 == 0) .reservedField (.colgo (flag w 5) (flag w 0))
  | 0x62 => guardWith (field w 12 6 == 0 && field w 6 6 == 0 && field w 1 4 == 0) .reservedField (.colstat (flag w 5) (flag w 0))
  | 0x80 => guardWith (field w 12 6 == 0 && field w 6 6 == 0 && field w 2 3 == 0) .reservedField (.scfg (flag w 1) (flag w 5) (flag w 0))
  | 0x81 => guardWith (field w 12 6 == 0 && field w 6 6 == 0 && field w 2 3 == 0) .reservedField (.sdone (flag w 1) (flag w 5) (flag w 0))
  | _ => .error .function

/-- The major opcodes (R87). -/
def decodeWord (w : IWord) : Except Reject Instr :=
  match (field w 26 6).toNat with
  | 0x1 => decodeInteger w
  | 0x2 => .ok (.addi (field w 20 6) (field w 14 6) (field w 1 13) (flag w 0))
  | 0x3 => .ok (.andi (field w 20 6) (field w 14 6) (field w 1 13) (flag w 0))
  | 0x4 => .ok (.ori (field w 20 6) (field w 14 6) (field w 1 13) (flag w 0))
  | 0x5 => .ok (.xori (field w 20 6) (field w 14 6) (field w 1 13) (flag w 0))
  | 0x6 => .ok (.slti (field w 20 6) (field w 14 6) (field w 1 13) (flag w 0))
  | 0x7 => .ok (.sltiu (field w 20 6) (field w 14 6) (field w 1 13) (flag w 0))
  | 0x8 => guardWith (field w 7 7 == 0) .immediate (.shli (field w 20 6) (field w 14 6) (field w 1 6) (flag w 0))
  | 0x9 => guardWith (field w 7 7 == 0) .immediate (.shri (field w 20 6) (field w 14 6) (field w 1 6) (flag w 0))
  | 0xa => guardWith (field w 7 7 == 0) .immediate (.srai (field w 20 6) (field w 14 6) (field w 1 6) (flag w 0))
  | 0xb => .ok (.lui (field w 20 6) (field w 1 19) (flag w 0))
  | 0xc => .ok (.addpc (field w 20 6) (field w 1 19) (flag w 0))
  | 0xd => guardWith (!flag w 13 && bitFieldOk (field w 1 6) (field w 7 6)) .immediate (.bfx (field w 20 6) (field w 14 6) (field w 1 6) (field w 7 6) (flag w 0))
  | 0xe => guardWith (!flag w 13 && bitFieldOk (field w 1 6) (field w 7 6)) .immediate (.bfi (field w 20 6) (field w 14 6) (field w 1 6) (field w 7 6) (flag w 0))
  | 0x10 => guardWith (field w 1 2 != 3) .qualifier (.ldb (field w 20 6) (field w 14 6) (field w 3 11) (field w 1 2) (flag w 0))
  | 0x11 => guardWith (field w 1 2 != 3) .qualifier (.ldbu (field w 20 6) (field w 14 6) (field w 3 11) (field w 1 2) (flag w 0))
  | 0x12 => guardWith (field w 1 2 != 3) .qualifier (.ldh (field w 20 6) (field w 14 6) (field w 3 11) (field w 1 2) (flag w 0))
  | 0x13 => guardWith (field w 1 2 != 3) .qualifier (.ldhu (field w 20 6) (field w 14 6) (field w 3 11) (field w 1 2) (flag w 0))
  | 0x14 => guardWith (field w 1 2 != 3) .qualifier (.ldw (field w 20 6) (field w 14 6) (field w 3 11) (field w 1 2) (flag w 0))
  | 0x15 => guardWith (field w 1 2 != 3) .qualifier (.ldwu (field w 20 6) (field w 14 6) (field w 3 11) (field w 1 2) (flag w 0))
  | 0x16 => guardWith (field w 1 2 != 3) .qualifier (.ldd (field w 20 6) (field w 14 6) (field w 3 11) (field w 1 2) (flag w 0))
  | 0x17 => guardWith (field w 1 2 != 3) .qualifier (.stb (field w 20 6) (field w 14 6) (field w 3 11) (field w 1 2) (flag w 0))
  | 0x18 => guardWith (field w 1 2 != 3) .qualifier (.sth (field w 20 6) (field w 14 6) (field w 3 11) (field w 1 2) (flag w 0))
  | 0x19 => guardWith (field w 1 2 != 3) .qualifier (.stw (field w 20 6) (field w 14 6) (field w 3 11) (field w 1 2) (flag w 0))
  | 0x1a => guardWith (field w 1 2 != 3) .qualifier (.std (field w 20 6) (field w 14 6) (field w 3 11) (field w 1 2) (flag w 0))
  | 0x1d => decodeAmo w
  | 0x1e => guardWith (field w 4 4 == 0) .reservedField (.cas (field w 20 6) (field w 14 6) (field w 8 6) (field w 2 2) (flag w 1) (flag w 0))
  | 0x1f => decodeFe w
  | 0x20 => .ok (.beq (field w 20 6) (field w 14 6) (field w 1 13) (flag w 0))
  | 0x21 => .ok (.bne (field w 20 6) (field w 14 6) (field w 1 13) (flag w 0))
  | 0x22 => .ok (.blt (field w 20 6) (field w 14 6) (field w 1 13) (flag w 0))
  | 0x23 => .ok (.bge (field w 20 6) (field w 14 6) (field w 1 13) (flag w 0))
  | 0x24 => .ok (.bltu (field w 20 6) (field w 14 6) (field w 1 13) (flag w 0))
  | 0x25 => .ok (.bgeu (field w 20 6) (field w 14 6) (field w 1 13) (flag w 0))
  | 0x26 => .ok (.j (field w 1 25) (flag w 0))
  | 0x27 => .ok (.call (field w 1 25) (flag w 0))
  | 0x28 => decodeControl w
  | 0x29 => if field w 7 19 == 0 then guardWith (frameSizeOk (field w 1 6)) .frameSize (.enter (field w 1 6) (flag w 0)) else .error (if field w 14 12 == 0 then .frameSize else .reservedField)
  | 0x2a => if field w 7 19 == 0 then guardWith (frameSizeOk (field w 1 6)) .frameSize (.shrink (field w 1 6) (flag w 0)) else .error (if field w 14 12 == 0 then .frameSize else .reservedField)
  | 0x2b => decodeMask w
  | 0x2c => decodeTask w
  | 0x2d => decodePop w
  | 0x2e => decodeResid w
  | 0x2f => decodeSync w
  | 0x30 => decodeVector w
  | 0x31 => decodeElement w
  | 0x32 => if field w 20 3 == 0 then guardWith (field w 1 2 != 3) .qualifier (.tld (field w 24 2) (flag w 23) (field w 14 6) (field w 8 6) (field w 3 5) (field w 1 2) (flag w 0)) else .error .reservedField
  | 0x33 => if field w 20 3 == 0 then guardWith (field w 1 2 != 3) .qualifier (.tst (field w 24 2) (flag w 23) (field w 14 6) (field w 8 6) (field w 3 5) (field w 1 2) (flag w 0)) else .error .reservedField
  | 0x34 => decodeEngine w
  | 0x35 => if field w 1 7 == 0 then guardWith (engineRegOk (field w 17 3) (field w 9 8)) .engineRegister (if flag w 8 then .erw (field w 20 6) (field w 17 3) (field w 9 8) (flag w 0) else .erd (field w 20 6) (field w 17 3) (field w 9 8) (flag w 0)) else .error .reservedField
  | 0x36 => guardWith (field w 0 2 == 0) .reservedField (.fmt (field w 20 6) (field w 14 6) (field w 8 6) (field w 5 3) (flag w 4) (field w 2 2))
  | 0x37 => if flag w 1 then .ok (.csrw (field w 20 6) (field w 14 6) (field w 2 12) (flag w 0)) else guardWith (field w 14 6 == 0) .reservedField (.csrr (field w 20 6) (field w 2 12) (flag w 0))
  | 0x38 => if flag w 1 then .ok (.csrc (field w 20 6) (field w 14 6) (field w 2 12) (flag w 0)) else .ok (.csrs (field w 20 6) (field w 14 6) (field w 2 12) (flag w 0))
  | 0x39 => decodeSystem w
  | _ => .error .opcode

/-- Four bytes as a word, the first at the lowest address (R6). -/
def wordOfBytes (b0 b1 b2 b3 : Byte) : IWord := b3 ++ b2 ++ b1 ++ b0

/-- The instruction at the head of a list of bytes, and the bytes after it (R82: one 32-bit little-endian word). -/
def decode (bs : List Byte) : Except Reject (Instr × List Byte) :=
  match bs with
  | b0 :: b1 :: b2 :: b3 :: rest =>
    match decodeWord (wordOfBytes b0 b1 b2 b3) with
    | .ok i => .ok (i, rest)
    | .error e => .error e
  | _ => .error .tooShort

/-- The bytes of a word as memory holds them (R6). -/
def bytesOfWord (w : IWord) : List Byte :=
  [w.extractLsb' 0 8, w.extractLsb' 8 8, w.extractLsb' 16 8, w.extractLsb' 24 8]

/-- The instruction this decoder reads from a table word of nbits bits, laid out in memory (R6, R82); the bits above nbits are 0. -/
def decodeTableWord (nbits w : Nat) : Option Instr :=
  match decode (bytesOfWord (BitVec.ofNat 32 (w % 2 ^ nbits))) with
  | .ok (i, _) => some i
  | .error _ => none

/-! ## The encoder -/

/-- The word of an instruction (R82 to R98); a row without a word has none. -/
def encode (i : Instr) : Option IWord :=
  match i with
  | .add rd ra rb sw => some (0x1#6 ++ rd ++ ra ++ rb ++ 0x0#7 ++ BitVec.ofBool sw)
  | .sub rd ra rb sw => some (0x1#6 ++ rd ++ ra ++ rb ++ 0x1#7 ++ BitVec.ofBool sw)
  | .and rd ra rb sw => some (0x1#6 ++ rd ++ ra ++ rb ++ 0x2#7 ++ BitVec.ofBool sw)
  | .or rd ra rb sw => some (0x1#6 ++ rd ++ ra ++ rb ++ 0x3#7 ++ BitVec.ofBool sw)
  | .xor rd ra rb sw => some (0x1#6 ++ rd ++ ra ++ rb ++ 0x4#7 ++ BitVec.ofBool sw)
  | .shl rd ra rb sw => some (0x1#6 ++ rd ++ ra ++ rb ++ 0x5#7 ++ BitVec.ofBool sw)
  | .shr rd ra rb sw => some (0x1#6 ++ rd ++ ra ++ rb ++ 0x6#7 ++ BitVec.ofBool sw)
  | .sra rd ra rb sw => some (0x1#6 ++ rd ++ ra ++ rb ++ 0x7#7 ++ BitVec.ofBool sw)
  | .slt rd ra rb sw => some (0x1#6 ++ rd ++ ra ++ rb ++ 0x8#7 ++ BitVec.ofBool sw)
  | .sltu rd ra rb sw => some (0x1#6 ++ rd ++ ra ++ rb ++ 0x9#7 ++ BitVec.ofBool sw)
  | .min rd ra rb sw => some (0x1#6 ++ rd ++ ra ++ rb ++ 0xa#7 ++ BitVec.ofBool sw)
  | .max rd ra rb sw => some (0x1#6 ++ rd ++ ra ++ rb ++ 0xb#7 ++ BitVec.ofBool sw)
  | .minu rd ra rb sw => some (0x1#6 ++ rd ++ ra ++ rb ++ 0xc#7 ++ BitVec.ofBool sw)
  | .maxu rd ra rb sw => some (0x1#6 ++ rd ++ ra ++ rb ++ 0xd#7 ++ BitVec.ofBool sw)
  | .sel rd ra rb sw => some (0x1#6 ++ rd ++ ra ++ rb ++ 0xe#7 ++ BitVec.ofBool sw)
  | .mix rd ra rb sw => some (0x1#6 ++ rd ++ ra ++ rb ++ 0xf#7 ++ BitVec.ofBool sw)
  | .clz rd ra sw => some (0x1#6 ++ rd ++ ra ++ 0#6 ++ 0x10#7 ++ BitVec.ofBool sw)
  | .ctz rd ra sw => some (0x1#6 ++ rd ++ ra ++ 0#6 ++ 0x11#7 ++ BitVec.ofBool sw)
  | .popc rd ra sw => some (0x1#6 ++ rd ++ ra ++ 0#6 ++ 0x12#7 ++ BitVec.ofBool sw)
  | .mul rd ra rb sw => some (0x1#6 ++ rd ++ ra ++ rb ++ 0x20#7 ++ BitVec.ofBool sw)
  | .mulh rd ra rb sw => some (0x1#6 ++ rd ++ ra ++ rb ++ 0x21#7 ++ BitVec.ofBool sw)
  | .mulhu rd ra rb sw => some (0x1#6 ++ rd ++ ra ++ rb ++ 0x22#7 ++ BitVec.ofBool sw)
  | .div rd ra rb sw => some (0x1#6 ++ rd ++ ra ++ rb ++ 0x24#7 ++ BitVec.ofBool sw)
  | .divu rd ra rb sw => some (0x1#6 ++ rd ++ ra ++ rb ++ 0x25#7 ++ BitVec.ofBool sw)
  | .rem rd ra rb sw => some (0x1#6 ++ rd ++ ra ++ rb ++ 0x26#7 ++ BitVec.ofBool sw)
  | .remu rd ra rb sw => some (0x1#6 ++ rd ++ ra ++ rb ++ 0x27#7 ++ BitVec.ofBool sw)
  | .addi rd ra imm sw => some (0x2#6 ++ rd ++ ra ++ imm ++ BitVec.ofBool sw)
  | .andi rd ra imm sw => some (0x3#6 ++ rd ++ ra ++ imm ++ BitVec.ofBool sw)
  | .ori rd ra imm sw => some (0x4#6 ++ rd ++ ra ++ imm ++ BitVec.ofBool sw)
  | .xori rd ra imm sw => some (0x5#6 ++ rd ++ ra ++ imm ++ BitVec.ofBool sw)
  | .slti rd ra imm sw => some (0x6#6 ++ rd ++ ra ++ imm ++ BitVec.ofBool sw)
  | .sltiu rd ra imm sw => some (0x7#6 ++ rd ++ ra ++ imm ++ BitVec.ofBool sw)
  | .shli rd ra n sw => some (0x8#6 ++ rd ++ ra ++ 0#7 ++ n ++ BitVec.ofBool sw)
  | .shri rd ra n sw => some (0x9#6 ++ rd ++ ra ++ 0#7 ++ n ++ BitVec.ofBool sw)
  | .srai rd ra n sw => some (0xa#6 ++ rd ++ ra ++ 0#7 ++ n ++ BitVec.ofBool sw)
  | .lui rd imm sw => some (0xb#6 ++ rd ++ imm ++ BitVec.ofBool sw)
  | .addpc rd imm sw => some (0xc#6 ++ rd ++ imm ++ BitVec.ofBool sw)
  | .bfx rd ra pos len sw => some (0xd#6 ++ rd ++ ra ++ 0#1 ++ len ++ pos ++ BitVec.ofBool sw)
  | .bfi rd ra pos len sw => some (0xe#6 ++ rd ++ ra ++ 0#1 ++ len ++ pos ++ BitVec.ofBool sw)
  | .ldb rt ra off q sw => some (0x10#6 ++ rt ++ ra ++ off ++ q ++ BitVec.ofBool sw)
  | .ldbu rt ra off q sw => some (0x11#6 ++ rt ++ ra ++ off ++ q ++ BitVec.ofBool sw)
  | .ldh rt ra off q sw => some (0x12#6 ++ rt ++ ra ++ off ++ q ++ BitVec.ofBool sw)
  | .ldhu rt ra off q sw => some (0x13#6 ++ rt ++ ra ++ off ++ q ++ BitVec.ofBool sw)
  | .ldw rt ra off q sw => some (0x14#6 ++ rt ++ ra ++ off ++ q ++ BitVec.ofBool sw)
  | .ldwu rt ra off q sw => some (0x15#6 ++ rt ++ ra ++ off ++ q ++ BitVec.ofBool sw)
  | .ldd rt ra off q sw => some (0x16#6 ++ rt ++ ra ++ off ++ q ++ BitVec.ofBool sw)
  | .stb rt ra off q sw => some (0x17#6 ++ rt ++ ra ++ off ++ q ++ BitVec.ofBool sw)
  | .sth rt ra off q sw => some (0x18#6 ++ rt ++ ra ++ off ++ q ++ BitVec.ofBool sw)
  | .stw rt ra off q sw => some (0x19#6 ++ rt ++ ra ++ off ++ q ++ BitVec.ofBool sw)
  | .std rt ra off q sw => some (0x1a#6 ++ rt ++ ra ++ off ++ q ++ BitVec.ofBool sw)
  | .amoAdd rd ra rb sc wd sw => some (0x1d#6 ++ rd ++ ra ++ rb ++ 0x0#4 ++ sc ++ BitVec.ofBool wd ++ BitVec.ofBool sw)
  | .amoAnd rd ra rb sc wd sw => some (0x1d#6 ++ rd ++ ra ++ rb ++ 0x1#4 ++ sc ++ BitVec.ofBool wd ++ BitVec.ofBool sw)
  | .amoOr rd ra rb sc wd sw => some (0x1d#6 ++ rd ++ ra ++ rb ++ 0x2#4 ++ sc ++ BitVec.ofBool wd ++ BitVec.ofBool sw)
  | .amoXor rd ra rb sc wd sw => some (0x1d#6 ++ rd ++ ra ++ rb ++ 0x3#4 ++ sc ++ BitVec.ofBool wd ++ BitVec.ofBool sw)
  | .amoMin rd ra rb sc wd sw => some (0x1d#6 ++ rd ++ ra ++ rb ++ 0x4#4 ++ sc ++ BitVec.ofBool wd ++ BitVec.ofBool sw)
  | .amoMax rd ra rb sc wd sw => some (0x1d#6 ++ rd ++ ra ++ rb ++ 0x5#4 ++ sc ++ BitVec.ofBool wd ++ BitVec.ofBool sw)
  | .amoMinu rd ra rb sc wd sw => some (0x1d#6 ++ rd ++ ra ++ rb ++ 0x6#4 ++ sc ++ BitVec.ofBool wd ++ BitVec.ofBool sw)
  | .amoMaxu rd ra rb sc wd sw => some (0x1d#6 ++ rd ++ ra ++ rb ++ 0x7#4 ++ sc ++ BitVec.ofBool wd ++ BitVec.ofBool sw)
  | .amoSwap rd ra rb sc wd sw => some (0x1d#6 ++ rd ++ ra ++ rb ++ 0x8#4 ++ sc ++ BitVec.ofBool wd ++ BitVec.ofBool sw)
  | .amoFadd32 rd ra rb sc sw => some (0x1d#6 ++ rd ++ ra ++ rb ++ 0x9#4 ++ sc ++ 0#1 ++ BitVec.ofBool sw)
  | .amoNib rd ra rb sc sw => some (0x1d#6 ++ rd ++ ra ++ rb ++ 0xa#4 ++ sc ++ 0#1 ++ BitVec.ofBool sw)
  | .cas rd ra rb sc wd sw => some (0x1e#6 ++ rd ++ ra ++ rb ++ 0#4 ++ sc ++ BitVec.ofBool wd ++ BitVec.ofBool sw)
  | .feget rd ra sw => some (0x1f#6 ++ rd ++ ra ++ 0#6 ++ 0x0#7 ++ BitVec.ofBool sw)
  | .feset ra sw => some (0x1f#6 ++ 0#6 ++ ra ++ 0#6 ++ 0x1#7 ++ BitVec.ofBool sw)
  | .feclr ra sw => some (0x1f#6 ++ 0#6 ++ ra ++ 0#6 ++ 0x2#7 ++ BitVec.ofBool sw)
  | .beq ra rb disp sw => some (0x20#6 ++ ra ++ rb ++ disp ++ BitVec.ofBool sw)
  | .bne ra rb disp sw => some (0x21#6 ++ ra ++ rb ++ disp ++ BitVec.ofBool sw)
  | .blt ra rb disp sw => some (0x22#6 ++ ra ++ rb ++ disp ++ BitVec.ofBool sw)
  | .bge ra rb disp sw => some (0x23#6 ++ ra ++ rb ++ disp ++ BitVec.ofBool sw)
  | .bltu ra rb disp sw => some (0x24#6 ++ ra ++ rb ++ disp ++ BitVec.ofBool sw)
  | .bgeu ra rb disp sw => some (0x25#6 ++ ra ++ rb ++ disp ++ BitVec.ofBool sw)
  | .j disp sw => some (0x26#6 ++ disp ++ BitVec.ofBool sw)
  | .call disp sw => some (0x27#6 ++ disp ++ BitVec.ofBool sw)
  | .callr ra sw => some (0x28#6 ++ 0#6 ++ ra ++ 0#6 ++ 0x0#7 ++ BitVec.ofBool sw)
  | .jr ra sw => some (0x28#6 ++ 0#6 ++ ra ++ 0#6 ++ 0x1#7 ++ BitVec.ofBool sw)
  | .ret sw => some (0x28#6 ++ 0#6 ++ 0#6 ++ 0#6 ++ 0x2#7 ++ BitVec.ofBool sw)
  | .enter k sw => some (0x29#6 ++ 0#6 ++ 0#6 ++ 0#7 ++ k ++ BitVec.ofBool sw)
  | .shrink k sw => some (0x2a#6 ++ 0#6 ++ 0#6 ++ 0#7 ++ k ++ BitVec.ofBool sw)
  | .mif ra sw => some (0x2b#6 ++ 0#6 ++ ra ++ 0#6 ++ 0x0#7 ++ BitVec.ofBool sw)
  | .melse sw => some (0x2b#6 ++ 0#6 ++ 0#6 ++ 0#6 ++ 0x1#7 ++ BitVec.ofBool sw)
  | .mend sw => some (0x2b#6 ++ 0#6 ++ 0#6 ++ 0#6 ++ 0x2#7 ++ BitVec.ofBool sw)
  | .fork ra sw => some (0x2c#6 ++ 0#6 ++ ra ++ 0#6 ++ 0x0#7 ++ BitVec.ofBool sw)
  | .join ra rb sw => some (0x2c#6 ++ 0#6 ++ ra ++ rb ++ 0x1#7 ++ BitVec.ofBool sw)
  | .spawn ra rb sw => some (0x2c#6 ++ 0#6 ++ ra ++ rb ++ 0x2#7 ++ BitVec.ofBool sw)
  | .retire sw => some (0x2c#6 ++ 0#6 ++ 0#6 ++ 0#6 ++ 0x3#7 ++ BitVec.ofBool sw)
  | .yield sw => some (0x2c#6 ++ 0#6 ++ 0#6 ++ 0#6 ++ 0x4#7 ++ BitVec.ofBool sw)
  | .tgate rd ra rb sw => some (0x2c#6 ++ rd ++ ra ++ rb ++ 0x5#7 ++ BitVec.ofBool sw)
  | .tspawn rd ra rb sw => some (0x2c#6 ++ rd ++ ra ++ rb ++ 0x6#7 ++ BitVec.ofBool sw)
  | .strand ra sw => some (0x2c#6 ++ 0#6 ++ ra ++ 0#6 ++ 0x7#7 ++ BitVec.ofBool sw)
  | .unstrand sw => some (0x2c#6 ++ 0#6 ++ 0#6 ++ 0#6 ++ 0x8#7 ++ BitVec.ofBool sw)
  | .popnew rd ra rb sw => some (0x2d#6 ++ rd ++ ra ++ rb ++ 0x0#7 ++ BitVec.ofBool sw)
  | .popjoin rd ra sw => some (0x2d#6 ++ rd ++ ra ++ 0#6 ++ 0x1#7 ++ BitVec.ofBool sw)
  | .resample rd ra rb sw => some (0x2d#6 ++ rd ++ ra ++ rb ++ 0x2#7 ++ BitVec.ofBool sw)
  | .popleave ra sw => some (0x2d#6 ++ 0#6 ++ ra ++ 0#6 ++ 0x3#7 ++ BitVec.ofBool sw)
  | .popinfo rd ra sw => some (0x2d#6 ++ rd ++ ra ++ 0#6 ++ 0x4#7 ++ BitVec.ofBool sw)
  | .rsnew ra rb sw => some (0x2e#6 ++ 0#6 ++ ra ++ rb ++ 0x0#7 ++ BitVec.ofBool sw)
  | .rspost rd ra rb sw => some (0x2e#6 ++ rd ++ ra ++ rb ++ 0x1#7 ++ BitVec.ofBool sw)
  | .rsread rd ra rb sw => some (0x2e#6 ++ rd ++ ra ++ rb ++ 0x2#7 ++ BitVec.ofBool sw)
  | .rstry rd ra rb sw => some (0x2e#6 ++ rd ++ ra ++ rb ++ 0x3#7 ++ BitVec.ofBool sw)
  | .rsstat rd ra sw => some (0x2e#6 ++ rd ++ ra ++ 0#6 ++ 0x4#7 ++ BitVec.ofBool sw)
  | .rsseal rd ra sw => some (0x2e#6 ++ rd ++ ra ++ 0#6 ++ 0x5#7 ++ BitVec.ofBool sw)
  | .fenceRel rd sc sw => some (0x2f#6 ++ rd ++ 0#6 ++ 0#6 ++ 0#3 ++ sc ++ 1#2 ++ BitVec.ofBool sw)
  | .fenceAcq rd sc sw => some (0x2f#6 ++ rd ++ 0#6 ++ 0#6 ++ 0#3 ++ sc ++ 2#2 ++ BitVec.ofBool sw)
  | .fenceAr rd sc sw => some (0x2f#6 ++ rd ++ 0#6 ++ 0#6 ++ 0#3 ++ sc ++ 3#2 ++ BitVec.ofBool sw)
  | .cwait ra rb sw => some (0x2f#6 ++ 0#6 ++ ra ++ rb ++ 0x10#7 ++ BitVec.ofBool sw)
  | .cadd ra rb sw => some (0x2f#6 ++ 0#6 ++ ra ++ rb ++ 0x11#7 ++ BitVec.ofBool sw)
  | .barnew rd ra rb sw => some (0x2f#6 ++ rd ++ ra ++ rb ++ 0x12#7 ++ BitVec.ofBool sw)
  | .barlink ra rb sw => some (0x2f#6 ++ 0#6 ++ ra ++ rb ++ 0x13#7 ++ BitVec.ofBool sw)
  | .bararr rd ra sw => some (0x2f#6 ++ rd ++ ra ++ 0#6 ++ 0x14#7 ++ BitVec.ofBool sw)
  | .barwait ra rb sw => some (0x2f#6 ++ 0#6 ++ ra ++ rb ++ 0x15#7 ++ BitVec.ofBool sw)
  | .barfree ra sw => some (0x2f#6 ++ 0#6 ++ ra ++ 0#6 ++ 0x16#7 ++ BitVec.ofBool sw)
  | .barref ra sw => some (0x2f#6 ++ 0#6 ++ ra ++ 0#6 ++ 0x17#7 ++ BitVec.ofBool sw)
  | .enq rd ra rb sw => some (0x2f#6 ++ rd ++ ra ++ rb ++ 0x18#7 ++ BitVec.ofBool sw)
  | .deq rd ra rb sw => some (0x2f#6 ++ rd ++ ra ++ rb ++ 0x19#7 ++ BitVec.ofBool sw)
  | .tstamp rd sw => some (0x2f#6 ++ rd ++ 0#6 ++ 0#6 ++ 0x1a#7 ++ BitVec.ofBool sw)
  | .vadd md ma mb od oa ob xi k sw => some (0x30#6 ++ 0x0#5 ++ md ++ ma ++ mb ++ BitVec.ofBool od ++ BitVec.ofBool oa ++ BitVec.ofBool ob ++ xi ++ k ++ BitVec.ofBool sw)
  | .vsub md ma mb od oa ob xi k sw => some (0x30#6 ++ 0x1#5 ++ md ++ ma ++ mb ++ BitVec.ofBool od ++ BitVec.ofBool oa ++ BitVec.ofBool ob ++ xi ++ k ++ BitVec.ofBool sw)
  | .vmul md ma mb od oa ob xi k sw => some (0x30#6 ++ 0x2#5 ++ md ++ ma ++ mb ++ BitVec.ofBool od ++ BitVec.ofBool oa ++ BitVec.ofBool ob ++ xi ++ k ++ BitVec.ofBool sw)
  | .vfma md ma mb od oa ob xi k sw => some (0x30#6 ++ 0x3#5 ++ md ++ ma ++ mb ++ BitVec.ofBool od ++ BitVec.ofBool oa ++ BitVec.ofBool ob ++ xi ++ k ++ BitVec.ofBool sw)
  | .vfms md ma mb od oa ob xi k sw => some (0x30#6 ++ 0x4#5 ++ md ++ ma ++ mb ++ BitVec.ofBool od ++ BitVec.ofBool oa ++ BitVec.ofBool ob ++ xi ++ k ++ BitVec.ofBool sw)
  | .vfnma md ma mb od oa ob xi k sw => some (0x30#6 ++ 0x5#5 ++ md ++ ma ++ mb ++ BitVec.ofBool od ++ BitVec.ofBool oa ++ BitVec.ofBool ob ++ xi ++ k ++ BitVec.ofBool sw)
  | .vmin md ma mb od oa ob xi k sw => some (0x30#6 ++ 0x6#5 ++ md ++ ma ++ mb ++ BitVec.ofBool od ++ BitVec.ofBool oa ++ BitVec.ofBool ob ++ xi ++ k ++ BitVec.ofBool sw)
  | .vmax md ma mb od oa ob xi k sw => some (0x30#6 ++ 0x7#5 ++ md ++ ma ++ mb ++ BitVec.ofBool od ++ BitVec.ofBool oa ++ BitVec.ofBool ob ++ xi ++ k ++ BitVec.ofBool sw)
  | .vscale md ma mb od oa ob xi k sw => some (0x30#6 ++ 0xe#5 ++ md ++ ma ++ mb ++ BitVec.ofBool od ++ BitVec.ofBool oa ++ BitVec.ofBool ob ++ xi ++ k ++ BitVec.ofBool sw)
  | .vcmpeq md ma mb od oa ob xi k sw => some (0x30#6 ++ 0x10#5 ++ md ++ ma ++ mb ++ BitVec.ofBool od ++ BitVec.ofBool oa ++ BitVec.ofBool ob ++ xi ++ k ++ BitVec.ofBool sw)
  | .vcmplt md ma mb od oa ob xi k sw => some (0x30#6 ++ 0x11#5 ++ md ++ ma ++ mb ++ BitVec.ofBool od ++ BitVec.ofBool oa ++ BitVec.ofBool ob ++ xi ++ k ++ BitVec.ofBool sw)
  | .vcmple md ma mb od oa ob xi k sw => some (0x30#6 ++ 0x12#5 ++ md ++ ma ++ mb ++ BitVec.ofBool od ++ BitVec.ofBool oa ++ BitVec.ofBool ob ++ xi ++ k ++ BitVec.ofBool sw)
  | .vsel md ma mb od oa ob xi k sw => some (0x30#6 ++ 0x13#5 ++ md ++ ma ++ mb ++ BitVec.ofBool od ++ BitVec.ofBool oa ++ BitVec.ofBool ob ++ xi ++ k ++ BitVec.ofBool sw)
  | .vand md ma mb od oa ob xi k sw => some (0x30#6 ++ 0x14#5 ++ md ++ ma ++ mb ++ BitVec.ofBool od ++ BitVec.ofBool oa ++ BitVec.ofBool ob ++ xi ++ k ++ BitVec.ofBool sw)
  | .vor md ma mb od oa ob xi k sw => some (0x30#6 ++ 0x15#5 ++ md ++ ma ++ mb ++ BitVec.ofBool od ++ BitVec.ofBool oa ++ BitVec.ofBool ob ++ xi ++ k ++ BitVec.ofBool sw)
  | .vxor md ma mb od oa ob xi k sw => some (0x30#6 ++ 0x16#5 ++ md ++ ma ++ mb ++ BitVec.ofBool od ++ BitVec.ofBool oa ++ BitVec.ofBool ob ++ xi ++ k ++ BitVec.ofBool sw)
  | .vshl md ma mb od oa ob xi k sw => some (0x30#6 ++ 0x17#5 ++ md ++ ma ++ mb ++ BitVec.ofBool od ++ BitVec.ofBool oa ++ BitVec.ofBool ob ++ xi ++ k ++ BitVec.ofBool sw)
  | .vshr md ma mb od oa ob xi k sw => some (0x30#6 ++ 0x18#5 ++ md ++ ma ++ mb ++ BitVec.ofBool od ++ BitVec.ofBool oa ++ BitVec.ofBool ob ++ xi ++ k ++ BitVec.ofBool sw)
  | .vsra md ma mb od oa ob xi k sw => some (0x30#6 ++ 0x19#5 ++ md ++ ma ++ mb ++ BitVec.ofBool od ++ BitVec.ofBool oa ++ BitVec.ofBool ob ++ xi ++ k ++ BitVec.ofBool sw)
  | .vabs md ma od oa xi k sw => some (0x30#6 ++ 0x8#5 ++ md ++ ma ++ 0#2 ++ BitVec.ofBool od ++ BitVec.ofBool oa ++ 0#1 ++ xi ++ k ++ BitVec.ofBool sw)
  | .vneg md ma od oa xi k sw => some (0x30#6 ++ 0x9#5 ++ md ++ ma ++ 0#2 ++ BitVec.ofBool od ++ BitVec.ofBool oa ++ 0#1 ++ xi ++ k ++ BitVec.ofBool sw)
  | .vcvt md ma od oa xi k sw => some (0x30#6 ++ 0xa#5 ++ md ++ ma ++ 0#2 ++ BitVec.ofBool od ++ BitVec.ofBool oa ++ 0#1 ++ xi ++ k ++ BitVec.ofBool sw)
  | .vrsqs md ma od oa xi k sw => some (0x30#6 ++ 0xb#5 ++ md ++ ma ++ 0#2 ++ BitVec.ofBool od ++ BitVec.ofBool oa ++ 0#1 ++ xi ++ k ++ BitVec.ofBool sw)
  | .vrcps md ma od oa xi k sw => some (0x30#6 ++ 0xc#5 ++ md ++ ma ++ 0#2 ++ BitVec.ofBool od ++ BitVec.ofBool oa ++ 0#1 ++ xi ++ k ++ BitVec.ofBool sw)
  | .vxexp md ma od oa xi k sw => some (0x30#6 ++ 0xd#5 ++ md ++ ma ++ 0#2 ++ BitVec.ofBool od ++ BitVec.ofBool oa ++ 0#1 ++ xi ++ k ++ BitVec.ofBool sw)
  | .vmov md ma od oa xi k sw => some (0x30#6 ++ 0xf#5 ++ md ++ ma ++ 0#2 ++ BitVec.ofBool od ++ BitVec.ofBool oa ++ 0#1 ++ xi ++ k ++ BitVec.ofBool sw)
  | .tzero md sw => some (0x30#6 ++ 0x1a#5 ++ md ++ 0#2 ++ 0#2 ++ 0#3 ++ 0#6 ++ 0#5 ++ BitVec.ofBool sw)
  | .ttr md ma sw => some (0x30#6 ++ 0x1b#5 ++ md ++ ma ++ 0#2 ++ 0#3 ++ 0#6 ++ 0#5 ++ BitVec.ofBool sw)
  | .vget mt xs xi k sw => some (0x31#6 ++ 0x0#5 ++ mt ++ xs ++ xi ++ k ++ BitVec.ofBool sw)
  | .vput mt xs xi k sw => some (0x31#6 ++ 0x1#5 ++ mt ++ xs ++ xi ++ k ++ BitVec.ofBool sw)
  | .vbcast mt xs xi sw => some (0x31#6 ++ 0x2#5 ++ mt ++ xs ++ xi ++ 0#6 ++ BitVec.ofBool sw)
  | .vreds mt xs xi sw => some (0x31#6 ++ 0x3#5 ++ mt ++ xs ++ xi ++ 0#6 ++ BitVec.ofBool sw)
  | .vredm mt xs xi sw => some (0x31#6 ++ 0x4#5 ++ mt ++ xs ++ xi ++ 0#6 ++ BitVec.ofBool sw)
  | .tld mt o ra xi k q sw => some (0x32#6 ++ mt ++ BitVec.ofBool o ++ 0#3 ++ ra ++ xi ++ k ++ q ++ BitVec.ofBool sw)
  | .tst mt o ra xi k q sw => some (0x33#6 ++ mt ++ BitVec.ofBool o ++ 0#3 ++ ra ++ xi ++ k ++ q ++ BitVec.ofBool sw)
  | .cpy ra rb bar nf sw => some (0x34#6 ++ 0#3 ++ 0#5 ++ ra ++ rb ++ BitVec.ofBool nf ++ 0#3 ++ BitVec.ofBool bar ++ BitVec.ofBool sw)
  | .cpyr ra rb bar nf sw => some (0x34#6 ++ 0#3 ++ 1#5 ++ ra ++ rb ++ BitVec.ofBool nf ++ 0#3 ++ BitVec.ofBool bar ++ BitVec.ofBool sw)
  | .cpytE2p ra rb bar nf sw => some (0x34#6 ++ 0#3 ++ 2#5 ++ ra ++ rb ++ BitVec.ofBool nf ++ 0#3 ++ BitVec.ofBool bar ++ BitVec.ofBool sw)
  | .cpytP2e ra rb bar nf sw => some (0x34#6 ++ 0#3 ++ 2#5 ++ ra ++ rb ++ BitVec.ofBool nf ++ 1#3 ++ BitVec.ofBool bar ++ BitVec.ofBool sw)
  | .mlease m nf sw => some (0x34#6 ++ 1#3 ++ 0#5 ++ 0#6 ++ 0#6 ++ BitVec.ofBool nf ++ m ++ BitVec.ofBool sw)
  | .mrel nf sw => some (0x34#6 ++ 1#3 ++ 1#5 ++ 0#6 ++ 0#6 ++ BitVec.ofBool nf ++ 0#4 ++ BitVec.ofBool sw)
  | .mmul ra rb acc nf sw => some (0x34#6 ++ 1#3 ++ 2#5 ++ ra ++ rb ++ BitVec.ofBool nf ++ 0#2 ++ acc ++ BitVec.ofBool sw)
  | .mrot ra rb acc nf sw => some (0x34#6 ++ 1#3 ++ 3#5 ++ ra ++ rb ++ BitVec.ofBool nf ++ 0#2 ++ acc ++ BitVec.ofBool sw)
  | .mdrain ra acc nf sw => some (0x34#6 ++ 1#3 ++ 4#5 ++ ra ++ 0#6 ++ BitVec.ofBool nf ++ 0#2 ++ acc ++ BitVec.ofBool sw)
  | .mzero acc nf sw => some (0x34#6 ++ 1#3 ++ 5#5 ++ 0#6 ++ 0#6 ++ BitVec.ofBool nf ++ 0#2 ++ acc ++ BitVec.ofBool sw)
  | .mstat acc clr nf sw => some (0x34#6 ++ 1#3 ++ 6#5 ++ 0#6 ++ 0#6 ++ BitVec.ofBool nf ++ 0#1 ++ BitVec.ofBool clr ++ acc ++ BitVec.ofBool sw)
  | .bxmap nf sw => some (0x34#6 ++ 2#3 ++ 0#5 ++ 0#6 ++ 0#6 ++ BitVec.ofBool nf ++ 0#4 ++ BitVec.ofBool sw)
  | .bxapply ra rb nf sw => some (0x34#6 ++ 2#3 ++ 1#5 ++ ra ++ rb ++ BitVec.ofBool nf ++ 0#4 ++ BitVec.ofBool sw)
  | .bxswap ra rb nf sw => some (0x34#6 ++ 2#3 ++ 2#5 ++ ra ++ rb ++ BitVec.ofBool nf ++ 0#4 ++ BitVec.ofBool sw)
  | .bxresume ra nf sw => some (0x34#6 ++ 2#3 ++ 3#5 ++ ra ++ 0#6 ++ BitVec.ofBool nf ++ 0#4 ++ BitVec.ofBool sw)
  | .colload ra rb nf sw => some (0x34#6 ++ 3#3 ++ 0#5 ++ ra ++ rb ++ BitVec.ofBool nf ++ 0#4 ++ BitVec.ofBool sw)
  | .colgo nf sw => some (0x34#6 ++ 3#3 ++ 1#5 ++ 0#6 ++ 0#6 ++ BitVec.ofBool nf ++ 0#4 ++ BitVec.ofBool sw)
  | .colstat nf sw => some (0x34#6 ++ 3#3 ++ 2#5 ++ 0#6 ++ 0#6 ++ BitVec.ofBool nf ++ 0#4 ++ BitVec.ofBool sw)
  | .scfg st nf sw => some (0x34#6 ++ 4#3 ++ 0#5 ++ 0#6 ++ 0#6 ++ BitVec.ofBool nf ++ 0#3 ++ BitVec.ofBool st ++ BitVec.ofBool sw)
  | .sdone st nf sw => some (0x34#6 ++ 4#3 ++ 1#5 ++ 0#6 ++ 0#6 ++ BitVec.ofBool nf ++ 0#3 ++ BitVec.ofBool st ++ BitVec.ofBool sw)
  | .erd x eng ereg sw => some (0x35#6 ++ x ++ eng ++ ereg ++ 0#1 ++ 0#7 ++ BitVec.ofBool sw)
  | .erw x eng ereg sw => some (0x35#6 ++ x ++ eng ++ ereg ++ 1#1 ++ 0#7 ++ BitVec.ofBool sw)
  | .fmt fa fb fd sm sat rm => some (0x36#6 ++ fa ++ fb ++ fd ++ sm ++ BitVec.ofBool sat ++ rm ++ 0#2)
  | .csrr rd csr sw => some (0x37#6 ++ rd ++ 0#6 ++ csr ++ 0#1 ++ BitVec.ofBool sw)
  | .csrw rd ra csr sw => some (0x37#6 ++ rd ++ ra ++ csr ++ 1#1 ++ BitVec.ofBool sw)
  | .csrs rd ra csr sw => some (0x38#6 ++ rd ++ ra ++ csr ++ 0#1 ++ BitVec.ofBool sw)
  | .csrc rd ra csr sw => some (0x38#6 ++ rd ++ ra ++ csr ++ 1#1 ++ BitVec.ofBool sw)
  | .trap sw => some (0x39#6 ++ 0#6 ++ 0#6 ++ 0#6 ++ 0x0#7 ++ BitVec.ofBool sw)
  | .eret sw => some (0x39#6 ++ 0#6 ++ 0#6 ++ 0#6 ++ 0x1#7 ++ BitVec.ofBool sw)
  | .wfi sw => some (0x39#6 ++ 0#6 ++ 0#6 ++ 0#6 ++ 0x2#7 ++ BitVec.ofBool sw)
  | .bkpt sw => some (0x39#6 ++ 0#6 ++ 0#6 ++ 0#6 ++ 0x3#7 ++ BitVec.ofBool sw)
  | .tlbinv ra sw => some (0x39#6 ++ 0#6 ++ ra ++ 0#6 ++ 0x4#7 ++ BitVec.ofBool sw)
  | .roinv sw => some (0x39#6 ++ 0#6 ++ 0#6 ++ 0#6 ++ 0x5#7 ++ BitVec.ofBool sw)
  | .tmark ra sw => some (0x39#6 ++ 0#6 ++ ra ++ 0#6 ++ 0x6#7 ++ BitVec.ofBool sw)
  | .interruptEntry _ => none
  | .timerCompare _ => none
  | .takeRecord _ => none
  | .idleSearchRetry _ => none
  | .dequeTheft _ _ => none
  | .inboxDelivery _ => none
  | .backstopWrite _ => none
  | .backstopRefill _ => none
  | .spawnQueueDispatch _ => none
  | .quantumExpiry _ => none
  | .quantumSaveDone _ => none
  | .strandForm _ => none
  | .watchWake _ => none
  | .watchRepoll _ => none
  | .feReissue _ => none
  | .accessAtHome _ => none
  | .memoryReply _ _ _ => none
  | .remoteReceive _ => none
  | .replayRetry _ => none
  | .replayDrop _ => none
  | .barrierParentArrival _ => none
  | .leaseGrant _ => none
  | .leaseLapse _ => none
  | .mmulExecute _ => none
  | .mrotChunk _ => none
  | .mrotDelivery _ => none
  | .mdrainExecute _ => none
  | .mzeroExecute _ => none
  | .accumulatorFree _ _ => none
  | .copyChunk _ _ => none
  | .cpyrChunkApply _ => none
  | .copySignal _ _ => none
  | .streamReadahead _ _ => none
  | .bxMapInstall _ _ => none
  | .bxGroup _ _ => none
  | .bxSwapPair _ _ => none
  | .bxComplete _ _ => none
  | .ferryEnd _ _ => none
  | .ferrySend _ _ => none
  | .ferryRecv _ _ => none
  | .ferryRrs _ _ => none
  | .ferryCopy _ _ => none
  | .ferryWait _ _ => none
  | .ferryLoop _ _ => none
  | .ferrySignal _ _ => none
  | .ferryChunkArrival _ _ _ _ _ => none
  | .ferryStepTimeout _ _ => none
  | .resamplePhase2 _ _ => none
  | .clonePlacement _ _ => none
  | .residualDeadline _ => none
  | .wqKick _ _ _ => none
  | .wqDecide _ _ => none
  | .wqLapTimeout _ _ => none
  | .wqErrorClear _ _ => none
  | .doorbellWrite _ _ => none
  | .dbgHaltRequest _ => none
  | .dbgResume _ => none
  | .dbgRaiseInterrupt _ => none
  | .clfreezeWrite _ _ => none
  | .registerWindowWrite _ _ _ => none
  | .hostAccess _ _ _ _ _ => none
  | .gangStop _ => none
  | .partitionSave _ => none
  | .gangResume _ => none
  | .flitCrcRetry _ _ => none
  | .linkRetire _ _ => none
  | .contextError _ => none
  | .l2Scrub _ => none
  | .thermalTrip _ => none
  | .fatalError _ _ _ => none
  | .reset _ _ => none
  | .bootLoad => none
  | .attestationRequest _ => none
  | .divisionResult _ => none
  | .keyFilterExpiry _ => none
  | .ferryCreditArrival _ _ _ _ => none
  | .illopEncoding _ => none

/-- The word an instruction issues as: the value that TVAL takes in ILLOP, ILLFMT and PRIV traps (spec/15_traps_debug.md R247). -/
def Instr.word (i : Instr) : IWord :=
  match i with
  | .illopEncoding w => w
  | i => (encode i).getD 0

end Sys2Proof
end

