-- ==== Sys2Proof/Machine/Mem.lean ====
section
/-!
DEFINITION. Access to the parts of the state (slots, cores, clusters, dies), memory bytes, full/empty granules, homes and ownership
(spec/02_machine.md R18 to R24; spec/07_memory.md R139, R140, R143; spec/08_ordering.md R165, R169).

A byte of memory has one physical key: an HBM physical address stands for itself; a TCM byte is 2^44 + core · 2^17 + offset, a
scratchpad byte 2^45 + cluster · 2^21 + offset, a die SRAM byte 2^46 + die · 2^25 + offset, a byte of host memory 2^48 + address.
-/
namespace Sys2Proof.Machine

/-! ## Units -/

/-- The state of any slot by its ID (R18). -/
def State.slotAt (s : State) (n : Nat) : Slot := if n = s.cur then s.slot else s.others.get .reset n
def State.setSlot (s : State) (n : Nat) (x : Slot) : State :=
  if n = s.cur then { s with slot := x } else { s with others := s.others.set .reset n x }
def State.updSlot (s : State) (n : Nat) (f : Slot → Slot) : State := s.setSlot n (f (s.slotAt n))
def State.updTaskOf (s : State) (n : Nat) (f : Task → Task) : State := s.updSlot n (fun x => { x with t := f x.t })

/-- The task of the slot in force. -/
abbrev State.t (s : State) : Task := s.slot.t
def State.setT (s : State) (t : Task) : State := { s with slot := { s.slot with t := t } }

/-- Brings a slot in force. -/
def State.makeHot (s : State) (n : Nat) : State :=
  if n = s.cur then s
  else { s with cur := n, slot := s.others.get .reset n, others := (s.others.set .reset s.cur s.slot).erase n }

def State.coreAt (s : State) (c : Nat) : Core := s.cores.get .reset c
def State.setCore (s : State) (c : Nat) (x : Core) : State := { s with cores := s.cores.set .reset c x }
def State.clusterAt (s : State) (c : Nat) : Cluster := s.clusters.get .reset c
def State.setCluster (s : State) (c : Nat) (x : Cluster) : State := { s with clusters := s.clusters.set .reset c x }
def State.dieAt (s : State) (d : Nat) : Die := s.dies.get .reset d
def State.setDie (s : State) (d : Nat) (x : Die) : State := { s with dies := s.dies.set .reset d x }

/-- IDs of units from the ID of a slot or core (R18). -/
def coreOf (slot : Nat) : Nat := slot / 4
def clusterOf (slot : Nat) : Nat := slot / 64
def dieOf (slot : Nat) : Nat := slot / 2048
def State.core (s : State) : Nat := coreOf s.cur
def State.cluster (s : State) : Nat := clusterOf s.cur
def State.die (s : State) : Nat := dieOf s.cur

/-- The grid position of a core on its die (R19). -/
def gridRow (c : Nat) : Nat := 4 * (c / 128 % 4) + c / 4 % 4
def gridCol (c : Nat) : Nat := 4 * (c / 16 % 8) + c % 4
def coreAtGrid (die row col : Nat) : Nat := die * 512 + (row / 4 * 8 + col / 4) * 16 + row % 4 * 4 + col % 4

/-- The neighbour of a core (R20): rows wrap modulo 16, columns modulo 32. -/
def neighbour (c : Nat) (d : Dir) : Nat :=
  match d with
  | .north => coreAtGrid (c / 512) ((gridRow c + 15) % 16) (gridCol c)
  | .south => coreAtGrid (c / 512) ((gridRow c + 1) % 16) (gridCol c)
  | .east => coreAtGrid (c / 512) (gridRow c) ((gridCol c + 1) % 32)
  | .west => coreAtGrid (c / 512) (gridRow c) ((gridCol c + 31) % 32)

/-- Tree distance between two cores (R23). -/
def treeDistance (a b : Nat) : Nat :=
  if a = b then 0 else if a / 16 = b / 16 then 1 else if a / 128 = b / 128 then 2 else if a / 512 = b / 512 then 3 else 4

/-- The cores of a steal domain (R73): core, cluster, group of eight clusters, die, package. -/
def inDomain (dom a b : Nat) : Bool :=
  match dom with
  | 0 => a = b
  | 1 => a / 16 = b / 16
  | 2 => a / 128 = b / 128
  | 3 => a / 512 = b / 512
  | _ => true

/-! ## Physical addresses -/

def tcmAddr (core off : Nat) : Nat := 2 ^ 44 + core * 2 ^ 17 + off
def padAddr (cluster off : Nat) : Nat := 2 ^ 45 + cluster * 2 ^ 21 + off
def sramAddr (die off : Nat) : Nat := 2 ^ 46 + die * 2 ^ 25 + off
def hostAddr (a : Nat) : Nat := 2 ^ 48 + a

/-- The kinds of memory. -/
inductive Kind where
  | hbm | tcm | pad | sram | host
  deriving DecidableEq, Repr

def kindOf (a : Nat) : Kind :=
  if a < 2 ^ 44 then .hbm else if a < 2 ^ 45 then .tcm else if a < 2 ^ 46 then .pad else if a < 2 ^ 47 then .sram else .host

/-- TCM and scratchpad carry full/empty bits (R143). -/
def hasGranules (a : Nat) : Bool := kindOf a = .tcm || kindOf a = .pad

/-- Populated HBM addresses (R140). -/
def populated (pa : Nat) : Bool := pa < 2 ^ 41 && pa % 2 ^ 37 < 0x1800000000

/-- The channel of an HBM address (R140). -/
def channelOf (pa : Nat) : Nat :=
  (pa / 2 ^ 10 % 32) ^^^ (pa / 2 ^ 15 % 32) ^^^ (pa / 2 ^ 20 % 32) ^^^ (pa / 2 ^ 25 % 32) ^^^ (pa / 2 ^ 30 % 32) ^^^
    (pa / 2 ^ 35 % 4)

/-- Unit numbers (R268): a core's TCM, a scratchpad bank, an SRAM bank, an L2 slice, a register window, the host port, a cluster's unit
and engines, and a die's ferryman, drover and bit-axis engine (i = 0, 1, 2). -/
def unitTcm (core : Nat) : Nat := core
def unitPad (cluster bank : Nat) : Nat := 0x1000 + 128 * cluster + bank
def unitSram (die bank : Nat) : Nat := 0x9000 + 64 * die + bank
def unitSlice (slice : Nat) : Nat := 0x9200 + slice
def unitRegs (die : Nat) : Nat := 0x9400 + die
def unitHost : Nat := 0x9408
def unitCluster (cluster : Nat) : Nat := 0x9500 + cluster
def unitEngine (die i : Nat) : Nat := 0x9600 + 4 * die + i

/-- The home of an address (R24, R139), as its unit number (R268). -/
def homeOf (a : Nat) : Nat :=
  match kindOf a with
  | .tcm => unitTcm ((a - 2 ^ 44) / 2 ^ 17)
  | .pad => unitPad ((a - 2 ^ 45) / 2 ^ 21) (a / 2 ^ 5 % 128)
  | .sram => unitSram ((a - 2 ^ 46) / 2 ^ 25) (a / 2 ^ 8 % 64)
  | .hbm => unitSlice (a / 2 ^ 37 * 32 + channelOf a)
  | .host => unitHost

/-- Bytes from an address to the end of its home's span (R138, R139). -/
def spanLeft (a : Nat) : Nat :=
  match kindOf a with
  | .tcm => 2 ^ 17
  | .pad => 32 - a % 32
  | .sram => 256 - a % 256
  | .hbm => 1024 - a % 1024
  | .host => 2 ^ 48

/-- The parts of an access, one per home (R138): offset and size. fuel bounds the number of parts. -/
def splitParts (fuel a off n : Nat) : List (Nat × Nat) :=
  match fuel with
  | 0 => []
  | fuel + 1 =>
    if n = 0 then []
    else
      let m := min n (spanLeft (a + off))
      (off, m) :: splitParts fuel a (off + m) (n - m)

/-! ## Bytes -/

/-- What a byte that nothing has written reads as (DESIGN CHOICE, log 1). -/
def unwritten : Byte := 0

def readByte (s : State) (a : Nat) : Byte := SMap.get unwritten s.mem a
def writeByte (s : State) (a : Nat) (b : Byte) : State := { s with mem := SMap.set unwritten s.mem a b }

/-- Little-endian bytes of a number (R6). -/
def bytesOf (n : Nat) (v : Nat) : List Byte :=
  match n with
  | 0 => []
  | n + 1 => BitVec.ofNat 8 v :: bytesOf n (v / 256)

/-- The number that bytes spell, the first the least significant (R6). -/
def natOf (bs : List Byte) : Nat :=
  match bs with
  | [] => 0
  | b :: rest => b.toNat + 256 * natOf rest

def readBytes (s : State) (a n : Nat) : List Byte :=
  match n with
  | 0 => []
  | n + 1 => readByte s a :: readBytes s (a + 1) n

/-- Writes the named bytes and no other (R169). -/
def writeBytes (s : State) (a : Nat) (bs : List Byte) : State :=
  match bs with
  | [] => s
  | b :: rest => writeBytes (writeByte s a b) (a + 1) rest

def readNat (s : State) (a n : Nat) : Nat := natOf (readBytes s a n)

/-- The 8-byte words that lie whole in a range, and those that it touches. -/
def wordsInside (a n : Nat) : List Nat := (List.range ((a + n) / 8 - (a + 7) / 8)).map (fun i => (a + 7) / 8 + i)
def wordsTouched (a n : Nat) : List Nat := (List.range ((a + n + 7) / 8 - a / 8)).map (fun i => a / 8 + i)

/-- A write of whole words clears their errors; a partial one leaves them (R290). -/
def healWords (s : State) (a n : Nat) : State :=
  { s with faint := s.faint.filter (fun w => !(wordsInside a n).contains w), spoiled := s.spoiled.filter (fun w => !(wordsInside a n).contains w) }

/-- A read corrects words with one bit in error and writes them back; what it meets is noted (R289, R290). -/
def noteRead (s : State) (lost : Nat → EccEvent) (a n : Nat) : State :=
  { s with faint := s.faint.filter (fun w => !(wordsTouched a n).contains w),
           errors := s.errors ++ (s.faint.filter (fun w => (wordsTouched a n).contains w)).map (fun w => .corrected (8 * w))
             ++ (s.spoiled.filter (fun w => (wordsTouched a n).contains w)).map (fun w => lost (8 * w)) }

/-- An array other than memory that has one bit in error is used, and corrected (R289, R292). -/
def useFlaw (s : State) (f : Flaw) (cluster : Nat) : State :=
  if s.flaws.contains f then { s with flaws := s.flaws.erase f, errors := s.errors ++ [.array cluster] } else s

/-- Some word of a range has an uncorrectable error; some word that a write would change only in part. -/
def spoiledIn (s : State) (a n : Nat) : Bool := s.spoiled.any (fun w => (wordsTouched a n).contains w)
def spoiledPart (s : State) (a n : Nat) : Bool := s.spoiled.any (fun w => (wordsTouched a n).contains w && !(wordsInside a n).contains w)

def writeNat (s : State) (a n v : Nat) : State := writeBytes (healWords s a n) a (bytesOf n v)
def readWord (s : State) (a : Nat) : Word := BitVec.ofNat 64 (readNat s a 8)
def writeWord (s : State) (a : Nat) (v : Word) : State := writeNat s a 8 v.toNat

/-- The eight words of a record or block of 64 bytes. -/
def readWords (s : State) (a n : Nat) : List Word :=
  match n with
  | 0 => []
  | n + 1 => readWord s a :: readWords s (a + 8) n
def writeWords (s : State) (a : Nat) (ws : List Word) : State :=
  writeBytes (healWords s a (8 * ws.length)) a (ws.map (fun w => bytesOf 8 w.toNat)).flatten

/-- Canonical form of a memory: addresses rising, no entry that an unlisted address reads as. -/
def Memory.wf (m : List Host.Cell) : Bool := SMap.wf unwritten m

/-! ## Full/empty granules (R143) -/

/-- Insertion into and removal from a rising list. -/
def listInsert (xs : List Nat) (n : Nat) : List Nat :=
  match xs with
  | [] => [n]
  | x :: rest => if n < x then n :: x :: rest else if n = x then x :: rest else x :: listInsert rest n

def isFull (s : State) (a : Nat) : Bool := !(s.empty.contains (a / 16))
def setFull (s : State) (a : Nat) : State := { s with empty := s.empty.filter (· ≠ a / 16) }
def setEmpty (s : State) (a : Nat) : State := { s with empty := listInsert s.empty (a / 16) }

/-- The granules of a range, by one address in each. -/
def granulesOf (a n : Nat) : List Nat := (List.range ((a + n - 1) / 16 + 1 - a / 16)).map (fun i => (a / 16 + i) * 16)

def setFullRange (s : State) (a n : Nat) : State :=
  if hasGranules a then (granulesOf a n).foldl setFull s else s

/-! ## Armed residual segments (R224 to R226) -/

/-- The segment that would hold an address. -/
def segmentBase (a : Nat) : Nat := a / 1024 * 1024
def inArmed (s : State) (a n : Nat) : Bool :=
  s.armed.contains (segmentBase a) || s.armed.contains (segmentBase (a + n - 1))

/-- The home at which accesses of a slot are ordered: an armed segment in die SRAM has one (R225). -/
def orderHome (s : State) (a : Nat) : Nat :=
  if kindOf a = .sram && s.armed.contains (segmentBase a) then homeOf (segmentBase a + 768) else homeOf a

/-! ## Ownership by engine commands (R165) -/

/-- The size of an ownership unit at an address. -/
def unitSize (a : Nat) : Nat := if hasGranules a then 16 else 128

/-- Some unit that the range touches is owned by a command other than the one named. -/
def ownedBut (s : State) (cid : Option Nat) (a n : Nat) : Bool :=
  s.own.any (fun o =>
    (some o.cid ≠ cid) && (o.lo / unitSize o.lo * unitSize o.lo < (a + n + unitSize a - 1) / unitSize a * unitSize a)
      && (a / unitSize a * unitSize a < (o.hi + unitSize o.lo - 1) / unitSize o.lo * unitSize o.lo))

def owned (s : State) (a n : Nat) : Bool := ownedBut s none a n

/-- Owned by a command that registered before a moment, given as the number of the next command then (R165). -/
def ownedBefore (s : State) (stamp a n : Nat) : Bool :=
  ownedBut { s with own := s.own.filter (fun o => o.cid < stamp) } none a n

/-- Owned by a command other than the one of another device that is named (R165). -/
def ownedFar (s : State) (far : Option (Nat × Nat)) (stamp a n : Nat) : Bool :=
  ownedBefore { s with own := s.own.filter (fun o => o.far.isNone || o.far ≠ far) } stamp a n

/-- For an engine's own access: owned by an earlier command (R165: a later registration queues behind it). -/
def ownedEarlier (s : State) (cid a n : Nat) : Bool := ownedBefore s cid a n

/-- A command registers a range, to be written by one of its chunks. -/
def claim (s : State) (cid chunk lo n : Nat) : State :=
  if n = 0 then s else { s with own := s.own ++ [{ cid := cid, chunk := chunk, lo := lo, hi := lo + n }] }

/-- Ends the ownership of what a chunk has written, and of a whole command. -/
def releaseChunk (s : State) (cid chunk : Nat) : State := { s with own := s.own.filter (fun o => !(o.cid = cid && o.chunk = chunk)) }
def releaseCommand (s : State) (cid : Nat) : State := { s with own := s.own.filter (fun o => !(o.cid = cid)) }

end Sys2Proof.Machine
end

