-- ==== Sys2Proof/Machine/Addr.lean ====
section
/-!
DEFINITION. Address paths, the checks of R133 and translation (spec/07_memory.md R132 to R150, spec/08_ordering.md R171, R173, R179).
-/
namespace Sys2Proof.Machine

/-- The places an address can name: a path, or a region of path 4 (R132, R134). -/
inductive Tok where
  | generic | ro | tcm | pad | tcm4 | pad4 | sram4 | gen4 | sram | regs | host
  deriving DecidableEq, Repr

/-- Bits hi..lo of an address as a number. -/
def bitsOf (a : Word) (lo len : Nat) : Nat := a.toNat / 2 ^ lo % 2 ^ len

/-- The path of an address; none for paths 8 to 15 and regions 4 to 7 of path 4. -/
def tokOf (a : Word) : Option Tok :=
  match bitsOf a 60 4 with
  | 0 => some .generic
  | 1 => some .ro
  | 2 => some .tcm
  | 3 => some .pad
  | 4 =>
    match bitsOf a 45 3 with
    | 0 => some .tcm4
    | 1 => some .pad4
    | 2 => some .sram4
    | 3 => some .gen4
    | _ => none
  | 5 => some .sram
  | 6 => some .regs
  | 7 => some .host
  | _ => none

/-- The bits that the layout of a path marks zero are zero (R132, R134). -/
def zeroFieldsOk (tok : Tok) (a : Word) : Bool :=
  match tok with
  | .generic | .ro => bitsOf a 45 15 = 0
  | .tcm => bitsOf a 17 43 = 0
  | .pad => bitsOf a 21 39 = 0
  | .tcm4 => bitsOf a 17 16 = 0
  | .pad4 => bitsOf a 21 16 = 0
  | .sram4 => bitsOf a 25 17 = 0
  | .gen4 => true
  | .sram => bitsOf a 25 35 = 0
  | .regs => bitsOf a 35 25 = 0
  | .host => bitsOf a 48 12 = 0

/-- The kinds of access, which differ in the paths they may use and in the permission they need. -/
inductive Access where
  | load | store | atomic | fe | counterRead | counterAdd | ring | ringRead | record | residRead | residWrite | popRead | popWrite
  | engineRead | engineWrite | terms
  deriving DecidableEq, Repr

/-- Paths open to a kind of access (R114, R132, R171, R173, R179, R202, R228, R235, R347). -/
def Access.permits (k : Access) (tok : Tok) : Bool :=
  match k with
  | .load => true
  | .store => tok ≠ .ro
  | .atomic => tok ≠ .ro && tok ≠ .regs
  | .fe | .terms => tok = .tcm || tok = .pad || tok = .tcm4 || tok = .pad4
  | .counterRead | .counterAdd | .ring | .ringRead => tok ≠ .ro && tok ≠ .regs && tok ≠ .host
  | .record | .engineRead => tok ≠ .regs
  | .engineWrite => tok ≠ .regs && tok ≠ .ro
  | .residRead | .residWrite | .popRead | .popWrite => tok = .generic || tok = .sram || tok = .sram4 || tok = .gen4

/-- Kinds that must reach this device (R179, R235, R340, R390). -/
def Access.localOnly (k : Access) : Bool := k = .ring || k = .ringRead || k = .popRead || k = .popWrite || k = .terms

/-- Kinds that need write permission (R148). -/
def Access.writes (k : Access) : Bool :=
  match k with
  | .store | .atomic | .counterAdd | .ring | .residWrite | .popWrite | .engineWrite => true
  | _ => false

/-- The scope of an atomic that an address permits (R171). -/
def scopeOk (tok : Tok) (remote : Bool) (sc : BitVec 2) : Bool :=
  if remote then sc = 3
  else match tok with
    | .tcm | .tcm4 => sc = 0
    | .pad | .pad4 => sc = 0 || sc = 1
    | .generic | .sram | .sram4 | .gen4 => sc = 2
    | .host => sc = 3
    | .ro | .regs => false

/-- Who asks: its core, context and mode (R148). -/
structure Asker where
  core : Nat
  ctx  : Nat
  user : Bool
  deriving DecidableEq, Repr

/-- The asker of the slot in force. -/
def State.asker (s : State) : Asker :=
  { core := s.core, ctx := s.t.ctxid.toNat % 65536, user := !(s.t.status.getLsbD 0) }

/-- Where an access goes: memory of this device with the leaf's bits [5:2], a line of the read-only cache, a register window, or
another device. -/
inductive Place where
  | mem (pa flags : Nat)
  | ro (va pa : Nat)
  | reg (die off : Nat)
  | remote (device : Nat)
  deriving DecidableEq, Repr

/-! ## Translation (R145 to R149) -/

/-- Low bit of the index of a level, and so of the pages that its leaves map (R147). -/
def levelLow (level : Nat) : Nat := if level = 1 then 36 else if level = 2 then 25 else 14
def levelIdx (level va : Nat) : Nat :=
  if level = 1 then va / 2 ^ 36 % 2 ^ 9 else if level = 2 then va / 2 ^ 25 % 2 ^ 11 else va / 2 ^ 14 % 2 ^ 11

/-- One level of the walk of R147, and the levels below it; none is the fault XLAT. -/
def walkLevel (s : State) (core ctx va : Nat) : Nat → Nat → Nat → Option TlbEntry
  | 0, _, _ => none
  | fuel + 1, level, t =>
    let pa := t + 8 * levelIdx level va
    if !populated pa then none
    else
      let p := readNat s pa 8
      let low := levelLow level
      if p % 2 = 0 || p / 2 ^ 41 ≠ 0 || p / 2 ^ 6 % 2 ^ 8 ≠ 0 then none
      else if p / 2 % 2 = 1 then
        if p / 2 ^ 14 % 2 ^ (low - 14) ≠ 0 then none
        else some { unit := .core core, ctx := ctx, level := level, vpage := va / 2 ^ low, base := p / 2 ^ low % 2 ^ (41 - low) * 2 ^ low,
                    flags := p / 4 % 16 }
      else walkLevel s core ctx va fuel (level + 1) (p / 2 ^ 14 % 2 ^ 27 * 2 ^ 14)

/-- The walk of a virtual address for a core (R147), from the context table of its die (R145). -/
def walk (s : State) (core ctx va : Nat) : Option TlbEntry :=
  let e := ((s.dieAt (core / 512)).ctxTab.get 0 ctx).toNat
  if e % 2 = 0 then none else walkLevel s core ctx va 3 1 (e / 2 ^ 14 % 2 ^ 27 * 2 ^ 14)

def TlbEntry.hits (e : TlbEntry) (ctx va : Nat) : Bool := e.ctx = ctx && e.vpage = va / 2 ^ levelLow e.level

/-- The table entries that a walk reads, one for each level that it reaches (R147). -/
def walkEntries (s : State) (va : Nat) : Nat → Nat → Nat → List Nat
  | 0, _, _ => []
  | fuel + 1, level, t =>
    let pa := t + 8 * levelIdx level va
    let p := readNat s pa 8
    pa :: (if p % 2 = 0 || p / 2 % 2 = 1 then [] else walkEntries s va fuel (level + 1) (p / 2 ^ 14 % 2 ^ 27 * 2 ^ 14))

/-- What a core's walk meets of errors in the tables (R289, R290). -/
def noteWalk (s : State) (core ctx va : Nat) : State :=
  let e := ((s.dieAt (core / 512)).ctxTab.get 0 ctx).toNat
  if (s.faint.isEmpty && s.spoiled.isEmpty) || e % 2 = 0 then s
  else (walkEntries s va 3 1 (e / 2 ^ 14 % 2 ^ 27 * 2 ^ 14)).foldl (fun a p => noteRead a (.pageTable · (core / 512)) p 8) s

/-- The TLBs that serve a core, the nearest first, and how many translations one holds (R17, R149). -/
def tlbUnits (core : Nat) : List TlbUnit := [.core core, .cluster (core / 16), .die (core / 512)]
def TlbUnit.entries : TlbUnit → Nat
  | .core _ => 48
  | .cluster _ => 1024
  | .die _ => 24576

/-- A new entry of a TLB, which drops its oldest one when it is full (R149, DESIGN CHOICE, log 8). -/
def addTlb (tlb : List TlbEntry) (e : TlbEntry) : List TlbEntry :=
  if tlb.contains e then tlb
  else if (tlb.filter (fun f => f.unit = e.unit)).length < e.unit.entries then tlb ++ [e]
  else (match tlb.findIdx? (fun f => f.unit = e.unit) with | some i => tlb.eraseIdx i | none => tlb) ++ [e]

/-- Every TLB that serves a core takes a translation. -/
def fillTlbs (tlb : List TlbEntry) (core : Nat) (e : TlbEntry) : List TlbEntry :=
  (tlbUnits core).foldl (fun l u => addTlb l { e with unit := u }) tlb

/-- The translation that the nearest TLB of a core holds. -/
def tlbFind (s : State) (core ctx va : Nat) : Option TlbEntry :=
  (tlbUnits core).findSome? (fun u => s.tlb.find? (fun e => e.unit = u && e.hits ctx va))

/-- The translation of a virtual address for a core: one that a TLB of its holds, or a walk's; every TLB that serves the core then holds it,
until TLBINV or until it is replaced (R149, DESIGN CHOICE, log 8). -/
def translate (s : State) (core ctx va : Nat) : Option (State × Nat × Nat) :=
  let found := match tlbFind s core ctx va with
    | some e => some ({ s with tlb := fillTlbs s.tlb core e }, e)
    | none => (walk s core ctx va).map (fun e => (noteWalk { s with tlb := fillTlbs s.tlb core e } core ctx va, e))
  match found with
  | none => none
  | some (s', e) =>
    let pa := e.base + va % 2 ^ levelLow e.level
    if populated pa then some (s', pa, e.flags) else none

/-- Leaf bits (R146). -/
def leafW (flags : Nat) : Bool := flags.testBit 0
def leafX (flags : Nat) : Bool := flags.testBit 1
def leafU (flags : Nat) : Bool := flags.testBit 2
def leafR (flags : Nat) : Bool := flags.testBit 3

/-- Steps 4 and 5 of R133. -/
def translateFor (s : State) (who : Asker) (va : Nat) (needW : Bool) : Except Cause (State × Nat × Nat) :=
  match translate s who.core who.ctx va with
  | none => .error .xlat
  | some (s', pa, fl) => if (needW && !leafW fl) || (who.user && !leafU fl) then .error .prot else .ok (s', pa, fl)

/-- The physical address a local token names. -/
def directAddr (who : Asker) (tok : Tok) (a : Word) : Nat :=
  match tok with
  | .tcm => tcmAddr who.core (bitsOf a 0 17)
  | .pad => padAddr (who.core / 16) (bitsOf a 0 21)
  | .tcm4 => tcmAddr (bitsOf a 33 12) (bitsOf a 0 17)
  | .pad4 => padAddr (bitsOf a 37 8) (bitsOf a 0 21)
  | .sram => sramAddr (who.core / 512) (bitsOf a 0 25)
  | .sram4 => sramAddr (bitsOf a 42 3) (bitsOf a 0 25)
  | .host => hostAddr (bitsOf a 0 48)
  | .generic | .ro | .gen4 | .regs => 0

/-- A path 4 token. -/
def Tok.global (t : Tok) : Bool := t = .tcm4 || t = .pad4 || t = .sram4 || t = .gen4

/-- Step 1 of R133: PATH. sc is an atomic's scope, q a full/empty qualifier. -/
def pathOk (devid : BitVec 12) (k : Access) (a : Word) (size : Nat) (sc : Option (BitVec 2)) (q : BitVec 2) : Option (Tok × Bool) :=
  match tokOf a with
  | none => none
  | some tok =>
    let remote := tok.global && bitsOf a 48 12 ≠ devid.toNat
    if k.permits tok && zeroFieldsOk tok a && (q = 0 || Access.permits .fe tok) && !(tok = .regs && size ≠ 8)
        && !(remote && k.localOnly) && (match sc with | none => true | some c => scopeOk tok remote c)
    then some (tok, remote) else none

/-- The checks of R133 on an address, in their order, and the place it names. align is the alignment required. -/
def locate (s : State) (who : Asker) (k : Access) (a : Word) (size align : Nat) (sc : Option (BitVec 2)) (q : BitVec 2) :
    Except Cause (State × Place) :=
  match pathOk s.devid k a size sc q with
  | none => .error .path
  | some (tok, remote) =>
    if tok = .regs && who.user then .error .priv
    else if a.toNat % align ≠ 0 then .error .align
    else if remote then .ok (s, .remote (bitsOf a 48 12))
    else match tok with
      | .generic | .gen4 =>
        match translateFor s who (bitsOf a 0 45) (k.writes || q = 2) with
        | .error c => .error c
        | .ok (s', pa, fl) => .ok (s', .mem pa fl)
      | .ro =>
        match translateFor s who (bitsOf a 0 45) false with
        | .error c => .error c
        | .ok (s', pa, _) => .ok (s', .ro (bitsOf a 0 45) pa)
      | .regs => .ok (s, .reg (bitsOf a 32 3) (bitsOf a 0 32))
      | tok => .ok (s, .mem (directAddr who tok a) 0)

/-- A walk that has ended in XLAT or PROT has read the tables all the same (R289, R290): what it met, for the address of the fault. -/
def noteFault (s : State) (who : Asker) (a : Word) : State :=
  let walked := match tokOf a with
    | some .generic | some .ro => true
    | some .gen4 => bitsOf a 48 12 = s.devid.toNat
    | _ => false
  if walked && (tlbFind s who.core who.ctx (bitsOf a 0 45)).isNone then noteWalk s who.core who.ctx (bitsOf a 0 45) else s

/-- R226: the address can hold an armed segment, so a core's write to it is a checked access. -/
def checkedAccess (p : Place) (a : Word) : Bool :=
  match p with
  | .mem pa fl => kindOf pa = .sram || leafR fl
  | .remote _ => tokOf a = some .sram4 || tokOf a = some .gen4
  | _ => false

/-- The translation of a fetch (R142, R148): PC[47:45] must be zero, the leaf executable. -/
def fetchPlace (s : State) (who : Asker) (pc : Pc) : Except Cause (State × Nat) :=
  if pc.toNat / 2 ^ 45 ≠ 0 then .error .xlat
  else match translate s who.core who.ctx pc.toNat with
    | none => .error .xlat
    | some (s', pa, fl) => if !leafX fl || (who.user && !leafU fl) then .error .prot else .ok (s', pa)

/-! ## The read-only cache (R142) -/

/-- The line of a virtual address in a cluster's cache, filled from its home on a miss; of the 2,048 lines that 256 KiB hold, the oldest
is replaced (R142, DESIGN CHOICE, log 9). -/
def roLine (s : State) (cluster ctx va pa : Nat) : State × Nat :=
  let c := s.clusterAt cluster
  match c.rolines.find? (fun l => l.1 = ctx && l.2.1 = va / 128) with
  | some l => (useFlaw s (.cache cluster) cluster, l.2.2.toNat)
  | none =>
    let v := readNat s (pa / 128 * 128) 128
    let kept := if c.rolines.length < 2048 then c.rolines else c.rolines.drop 1
    ((noteRead s (.slotData · ctx (64 * cluster)) (pa / 128 * 128) 128).setCluster cluster
      { c with rolines := kept ++ [(ctx, va / 128, BitVec.ofNat 1024 v)] }, v)

/-- n bytes of a line, as a number. -/
def roRead (s : State) (cluster ctx va pa n : Nat) : State × Nat :=
  let r := roLine s cluster ctx va pa
  (r.1, r.2 / 2 ^ (8 * (va % 128)) % 2 ^ (8 * n))

/-- The line is held, so that no home is consulted (R354). -/
def roHit (s : State) (cluster ctx va : Nat) : Bool :=
  (s.clusterAt cluster).rolines.any (fun l => l.1 = ctx && l.2.1 = va / 128)

/-- An invalidating event empties the cluster's whole cache. -/
def roEmpty (s : State) (cluster : Nat) : State := s.setCluster cluster { s.clusterAt cluster with rolines := [] }

end Sys2Proof.Machine
end

