-- ==== Sys2Proof/Machine/Wake.lean ====
section
/-!
DEFINITION. Watches and gates (spec/06_execution.md R118, R130; spec/08_ordering.md R173, R175; spec/12 R230): which waits are
met, and the check that every write at a home makes of the slots and gates that watch it.
-/
namespace Sys2Proof.Machine

/-- The offsets of a residual segment's fields after its rods (R224). -/
def segArrived : Nat := 768
def segPoison : Nat := 776
def segClip : Nat := 784
def segDeadline : Nat := 792
def segState : Nat := 800
def segScale : Nat := 808
def segDups : Nat := 816
def segLates : Nat := 824

/-- A segment is armed by RSNEW and stays so until it is freed (R224, R227, DEDUCED, log 14). -/
def segArmed (s : State) (seg : Nat) : Bool := s.armed.contains seg

/-- Sealed, or past a non-zero deadline (R230). -/
def segClosed (s : State) (seg : Nat) : Bool :=
  readNat s (seg + segState) 8 % 2 = 1
    || (readNat s (seg + segDeadline) 8 ≠ 0 && readNat s (seg + segDeadline) 8 ≤ s.tstamp.toNat)

/-- Every contributor of the need mask has arrived (R230). -/
def segReady (s : State) (seg : Nat) (need : Word) : Bool :=
  let arr : Word := readWord s (seg + segArrived)
  need &&& 0xFFFFFFFFFFFF &&& ~~~arr = 0

/-- The core-scope interrupt bits and the timer as a slot reads its IPEND (R69, R252). -/
def pendingOf (s : State) (n : Nat) : Word :=
  let t := (s.slotAt n).t
  let k := s.coreAt (coreOf n)
  (t.ipend &&& 0x24) ||| (if t.tcmp.toNat ≤ s.tstamp.toNat then 2 else 0) ||| (if k.ipend3 then 8 else 0)
    ||| (if k.ipend4 then 16 else 0)

/-- Accesses of a slot that are outstanding: stores and atomics, or all (R104, R112, R160). -/
def opWrites : HomeOp → Bool
  | .load _ | .feget | .outside => false
  | _ => true

/-- A result that is to be stored as an element of a stream (R214). -/
def Dst.isElem : Dst → Bool
  | .elem _ _ _ _ _ | .elemReg _ _ _ | .elemFar _ _ _ _ => true
  | _ => false

/-- A withdrawn access counts as one of the slot's own while the slot runs the program that issued it (R15, R144). -/
def outstandingStores (s : State) (n : Nat) : Bool :=
  let t := (s.slotAt n).t
  s.held.any (fun h => h.slot = n && h.parts ≠ 0 && opWrites h.op)
    || s.remote.any (fun r => r.slot = n && r.eng.isNone && (match r.acc.op with | .load | .feget => false | _ => true))
    || t.pend.any Dst.isElem || t.pulled.any (fun h => t.handlers ≤ h.level && opWrites h.op)
    || t.pulledFar.any (fun p => t.handlers ≤ p.1 && p.2.acc.op = .store)

def outstandingReads (s : State) (n : Nat) : Bool :=
  s.held.any (fun h => h.slot = n && h.parts ≠ 0 && !(match h.op with | .store _ | .cadd _ | .feset | .feclr => true | _ => false))
    || s.remote.any (fun r => r.slot = n && r.eng.isNone && !r.ahead
      && (match r.acc.op with | .store | .cadd | .feset | .feclr | .record _ => false | _ => true))
    || s.replies.any (fun r => r.slot = n)

/-- An element of a stream whose store is a checked access (R226). -/
def Dst.waits : Dst → Bool
  | .elem _ _ _ checked _ => checked
  | .elemFar _ _ a _ => tokOf a = some .sram4 || tokOf a = some .gen4
  | _ => false

/-- Answers that the instruction at the slot's PC still waits for (R165, R226, R319). -/
def answersDue (s : State) (n : Nat) : Bool :=
  s.remote.any (fun r => r.slot = n && (match r.acc.op with | .own _ _ => true | _ => r.eng.isNone && r.hold))
    || (s.slotAt n).t.pend.any Dst.waits || s.held.any (fun h => h.slot = n && h.checked)

/-- Parts of the TLD or TST at the slot's PC that have not come back (R86). -/
def tilesDue (s : State) (n : Nat) : Bool :=
  let q := (s.slotAt n).t.seq
  s.held.any (fun h => h.slot = n && h.seq = q) || s.remote.any (fun r => r.slot = n && r.eng.isNone && r.seq = q)
    || s.replies.any (fun r => r.slot = n && (match r.dst with | .slice _ _ _ _ _ => true | _ => false))

/-- A follower has executed what was forwarded to it, and has no result outstanding (R124). -/
def followerDone (s : State) (n : Nat) : Bool :=
  let t := (s.slotAt n).t
  t.fwd.isEmpty && t.handlers = 0 && t.pend.isEmpty && t.wait.isNone

/-- A wait that nothing withdraws: its instruction has taken effect (R165, R226, R375). -/
def Wait.sure : Wait → Bool
  | .answer | .written _ _ => true
  | _ => false

/-- The condition of a wait, at this moment. -/
def waitHolds (s : State) (n : Nat) (w : Wait) : Bool :=
  match w with
  | .counter a v => v.toNat ≤ readNat s a 8
  | .join a v => v.toNat ≤ readNat s a 8
  | .barrier h ph =>
    match s.barriers.get none h with
    | none => true
    | some b => b.phase ≠ ph || b.refs = 0
  | .segment seg _ _ need _ => !segArmed s seg || segReady s seg need || segClosed s seg
  | .segmentGone _ _ | .flipped => true
  | .ring _ entry n => !owned s entry n
  | .stores => !outstandingStores s n
  | .interrupt => pendingOf s n &&& (s.slotAt n).t.iemask &&& 0x3E ≠ 0
  | .spawnRoom d v => (s.dieAt d).spawnq.length + v ≤ 1024
  | .release =>
    (s.slotAt n).t.followers.any (followerDone s)
  | .dequeRoom =>
    let k := s.coreAt (coreOf n)
    (k.dqbot.toNat + (2 ^ 32 - k.dqtop.toNat % 2 ^ 32)) % 2 ^ 32 < 2 ^ bitsOf k.dqbase 20 4
  | .popjoin blk => readNat s (blk + 48) 8 ≠ 2
  | .reply => !s.remote.any (fun r => r.slot = n && r.eng.isNone && r.hold)
  | .answer | .written _ _ => !answersDue s n
  | .tile => !tilesDue s n
  | .marker => !outstandingReads s n
  | .lease | .strand _ | .resample _ _ _ _ | .remoteWait | .joinProbe _ _ => false

/-- What a met wait goes on as: a BARWAIT that a flip has met completes, whatever becomes of the barrier (R321). -/
def metWait (s : State) (w : Wait) : Wait :=
  match w with
  | .barrier h ph => (match s.barriers.get none h with | some b => if b.phase ≠ ph then .flipped else w | none => w)
  | w => w

/-- A home's watches (R130): a met condition stays met, even if a later store lowers the word (R173). -/
def fireWatches (s : State) : State :=
  s.watches.foldl
    (fun a w =>
      let t := (a.slotAt w.slot).t
      match t.wait with
      | some k => if !t.met && waitHolds a w.slot k then a.updTaskOf w.slot (fun t => { t with met := true, wait := some (metWait a k) }) else a
      | none => a)
    s

/-- The gates of a cluster whose counter has reached its target deliver their records, in the step of the write (R118, R390). A
frozen cluster's gates pause (R262), and so do a stopped context's (R411). -/
def gateFires (s : State) (g : Gate) : Bool := g.target.toNat ≤ readNat s g.addr 8 && !s.stopped.contains g.ctx

def fireGatesOf (s : State) (c : Nat) : State :=
  let k := s.clusterAt c
  if k.frozen then s
  else
    let due := k.gates.filter (gateFires s)
    if due.isEmpty then s
    else
      let s1 := s.setCluster c { k with gates := k.gates.filter (fun g => !gateFires s g) }
      { s1 with inflight := s1.inflight ++ due.map (fun g => { core := g.core, record := g.record, slot := none, ctx := g.ctx }) }

def fireGates (s : State) : State := (s.clusters.map Prod.fst).foldl fireGatesOf s

/-- The number that stands for a sender of outside accesses where a home orders them by slot (R155, R273), past every slot here: a slot of
another device, the host, or an engine's command. -/
def farSlot (acc : RemoteAcc) : Nat :=
  match acc.eng with
  | none => 2 ^ 15 + acc.src * 2 ^ 14 + acc.slot
  | some c => 2 ^ 28 + c * 2 ^ 13 + acc.src

/-- Watches of other devices on counters that have reached their targets are answered (R173, R337). -/
def answerFarCounters (s : State) : State :=
  let done (w : RemoteAcc × Nat) : Bool := match w.1.op with | .cwait target => target.toNat ≤ readNat s w.2 8 | _ => false
  if s.farWatches.any done then
    { s with farWatches := s.farWatches.filter (fun w => !done w),
             answered := s.answered ++ (s.farWatches.filter done).map (fun _ => (0, 0)) }
  else s

/-- What a home does after each write. -/
def afterWrite (s : State) : State := fireGates (answerFarCounters (fireWatches s))

/-- Drops a slot's watch. -/
def dropWatch (s : State) (n : Nat) : State := { s with watches := s.watches.filter (fun w => w.slot ≠ n) }

/-- Registers a watch: a home keeps 64 entries, and a further waiter re-polls (R24, R130). -/
def addWatch (s : State) (n home : Nat) : State :=
  let used := (s.watches.filter (fun w => w.home = home && w.entry)).length
  { s with watches := s.watches ++ [{ slot := n, home := home, entry := decide (used < 64) }] }

end Sys2Proof.Machine
end

