-- ==== Sys2Proof/Machine/AtHome.lean ====
section
/-!
DEFINITION. What a home does with one access (spec/07_memory.md R143, R144, R157; spec/08_ordering.md R155, R165, R169 to R171;
spec/20_ref_a_c.md R313, R327, R329; spec/21_ref_d_m.md R347), the accesses that wait there, and the delivery of results.
-/
namespace Sys2Proof.Machine

/-! ## Atomics (R313) -/

/-- The new value f(old, v) of an atomic of 8·w bits. -/
def amoNew (aop w : Nat) (old v : Nat) : Nat :=
  let n := 8 * w
  let sg (x : Nat) : Int := (BitVec.ofNat n x).toInt
  match aop with
  | 0 => (old + v) % 2 ^ n
  | 1 => old &&& v
  | 2 => old ||| v
  | 3 => old ^^^ v
  | 4 => if sg v < sg old then v else old
  | 5 => if sg old < sg v then v else old
  | 6 => min old v
  | 7 => max old v
  | 8 => v
  | 9 => ((fmtFP32.round (((fmtFP32.value old).add (fmtFP32.value v) .rne).1) .rne false).1)
  | _ => if v.testBit 4 then old % 16 + v % 16 * 16 else old / 16 * 16 + v % 16

/-- The value that an atomic returns: the old value, or the old nibble (R170, R313). -/
def amoOld (aop old v : Nat) : Nat := if aop = 10 then (if v.testBit 4 then old / 16 else old % 16) else old

/-! ## One access -/

/-- The full/empty condition of an access (R143): every granule it touches is full, or empty. -/
def feReady (s : State) (a n : Nat) (q : BitVec 2) (op : HomeOp) : Bool :=
  match op with
  | .load _ => q = 0 || (granulesOf a n).all (isFull s)
  | .store _ => q ≠ 2 || (granulesOf a n).all (fun g => !isFull s g)
  | _ => true

/-- The state after an access and the value it returns. -/
def applyOp (s : State) (a n : Nat) (q : BitVec 2) (op : HomeOp) : State × Nat :=
  match op with
  | .load _ => (if q = 2 then (granulesOf a n).foldl setEmpty s else s, readNat s a n)
  | .store v =>
    let s1 := writeNat s a n v.toNat
    (afterWrite (if q = 0 then s1 else setFullRange s1 a n), 0)
  | .amo aop v =>
    let old := readNat s a n
    let x := v.toNat % 2 ^ (8 * n)
    (afterWrite (writeNat s a n (amoNew aop n old x)), amoOld aop old x)
  | .cas e v =>
    let old := readNat s a n
    if old = e.toNat % 2 ^ (8 * n) then (afterWrite (writeNat s a n v.toNat), old) else (s, old)
  | .feget => (s, if isFull s a then 1 else 0)
  | .feset => (setFull s a, 0)
  | .feclr => (setEmpty s a, 0)
  | .cadd v => (afterWrite (writeWord s a (readWord s a + v)), 0)
  | .outside => (s, 0)

/-- Errors that an access of a slot meets in the words it returns, and in the word that a counter add reads and changes at its home (R289,
R290, R292). -/
def noteAccess (s : State) (slot a n : Nat) (op : HomeOp) : State :=
  match op with
  | .load _ | .amo _ _ | .cas _ _ => noteRead s (.slotData · (s.slotAt slot).t.ctxid.toNat slot) a n
  | .cadd _ => noteRead s .lost a 8
  | _ => s

/-! ## Accesses that wait (R144, R165) -/

def overlaps (a n b m : Nat) : Bool := a / unitSize a = b / unitSize b || (a < b + m && b < a + n)

/-- The command of another device's engine that makes an access (R165). -/
def Held.owner (h : Held) : Option (Nat × Nat) :=
  match h.far with
  | some acc => acc.eng.map (fun c => (acc.src, c))
  | none => none

/-- A record that the slot has sent to the core of a TCM is still on its way, so a later access to that TCM comes after it (R22). -/
def recordAhead (s : State) (h : Held) : Bool :=
  h.far.isNone && s.inflight.any (fun m => m.slot = some h.slot && unitTcm m.core = orderHome s h.addr)

/-- The access could be performed now, but for what arrived before it: no command that registered before its arrival owns its units
(R165), and its granules are as its qualifier asks (R143). -/
def heldReady (s : State) (h : Held) : Bool :=
  !ownedFar s h.owner h.stamp h.addr h.size && feReady s h.addr h.size h.q h.op && !recordAhead s h

/-- The same slot's accesses at one home keep their order (R144, R155); the granules of one access do not wait for each other (R138). -/
def sameQueueAs (s : State) (h g : Held) : Bool :=
  g.slot = h.slot && (g.seq ≠ h.seq || g.far.isSome) && orderHome s g.addr = orderHome s h.addr

/-- Those of a list of held accesses, in arrival order, that could be performed now: each is ready, behind none of its slot's own, and
behind no other such access to the same unit. -/
def liveHeld (s : State) (hs : List Held) : List Held :=
  (hs.foldl (fun (p : List Held × List Held) g =>
    (p.1 ++ [g],
     if heldReady s g && !p.1.any (sameQueueAs s g) && !p.2.any (fun k => overlaps k.addr k.size g.addr g.size) then p.2 ++ [g] else p.2))
    ([], [])).2

/-- The access must wait behind these earlier ones: the slot's own at the same home, and any on the same unit that is about to be
performed (R24). -/
def behind (s : State) (h : Held) (earlier : List Held) : Bool :=
  earlier.any (sameQueueAs s h) || (liveHeld s earlier).any (fun g => overlaps g.addr g.size h.addr h.size)

/-! ## Links -/

/-- Words queued and entries held in the queue that a push toward a neighbour reaches (R20, R355). -/
def linkFill (s : State) (core : Nat) (d : Dir) : Nat :=
  let k := s.coreAt (neighbour core d)
  match d with
  | .north => k.qs.length + k.rs
  | .south => k.qn.length + k.rn
  | .east => k.qw.length + k.rw
  | .west => k.qe.length + k.re

def pushLink (s : State) (core : Nat) (d : Dir) (w : Word) : State :=
  let n := neighbour core d
  let k := s.coreAt n
  match d with
  | .north => s.setCore n { k with qs := k.qs ++ [w] }
  | .south => s.setCore n { k with qn := k.qn ++ [w] }
  | .east => s.setCore n { k with qw := k.qw ++ [w] }
  | .west => s.setCore n { k with qe := k.qe ++ [w] }

/-- Holds or gives back an entry of the queue toward a neighbour. -/
def holdLink (s : State) (core : Nat) (d : Dir) (up : Bool) : State :=
  let n := neighbour core d
  let k := s.coreAt n
  let f (x : Nat) : Nat := if up then x + 1 else x - 1
  match d with
  | .north => s.setCore n { k with rs := f k.rs }
  | .south => s.setCore n { k with rn := f k.rn }
  | .east => s.setCore n { k with rw := f k.rw }
  | .west => s.setCore n { k with re := f k.re }

/-- The words that wait in the queue filled by a neighbour. -/
def linkQueue (k : Core) (d : Dir) : List Word :=
  match d with
  | .north => k.qn
  | .south => k.qs
  | .east => k.qe
  | .west => k.qw

def popLink (s : State) (core : Nat) (d : Dir) : State :=
  let k := s.coreAt core
  match d with
  | .north => s.setCore core { k with qn := k.qn.drop 1 }
  | .south => s.setCore core { k with qs := k.qs.drop 1 }
  | .east => s.setCore core { k with qe := k.qe.drop 1 }
  | .west => s.setCore core { k with qw := k.qw.drop 1 }

/-! ## Tiles (R66, R67) -/

def tileRow (t : Task) (m r : Nat) : BitVec 512 := t.tiles[16 * (m % 4) + r % 16]!
def setTileRow (t : Task) (m r : Nat) (v : BitVec 512) : Task :=
  { t with tiles := t.tiles.setIfInBounds (16 * (m % 4) + r % 16) v }

/-- Replaces len bits at lo. -/
def putBits (x : BitVec 512) (lo len : Nat) (v : Nat) : BitVec 512 :=
  let mask : BitVec 512 := BitVec.ofNat 512 (2 ^ len - 1) <<< lo
  (x &&& ~~~mask) ||| (BitVec.ofNat 512 (v % 2 ^ len) <<< lo)

def getBits (x : BitVec 512) (lo len : Nat) : Nat := x.toNat / 2 ^ lo % 2 ^ len

/-- Element e of a row, and element (r, c), at a width of w bits. -/
def elemOf (t : Task) (m r c w : Nat) : Nat := getBits (tileRow t m r) (w * c) w
def setElem (t : Task) (m r c w v : Nat) : Task := setTileRow t m r (putBits (tileRow t m r) (w * c) w v)

/-- The elements of a slice: row i, or column i as element i of each row. -/
def sliceElems (t : Task) (m : Nat) (col : Bool) (i w : Nat) : List Nat :=
  if col then (List.range 16).map (fun r => elemOf t m r i w) else (List.range (512 / w)).map (fun c => elemOf t m i c w)

/-- Writes the first elements of a slice; the rest keep their bits. -/
def setSlice (t : Task) (m : Nat) (col : Bool) (i w : Nat) (vs : List Nat) : Task :=
  (vs.zipIdx).foldl (fun t p => if col then setElem t m p.2 i w p.1 else setElem t m i p.2 w p.1) t

/-- The bytes of a slice as memory holds them (R392), as a number. -/
def sliceNat (t : Task) (m : Nat) (col : Bool) (i w : Nat) : Nat :=
  (sliceElems t m col i w).reverse.foldl (fun a v => a * 2 ^ w + v) 0

/-- Writes len bytes of a slice's memory image, from a byte offset (R392). -/
def setSliceBytes (t : Task) (m : Nat) (col : Bool) (i w off len v : Nat) : Task :=
  let all : BitVec 512 := putBits (BitVec.ofNat 512 (sliceNat t m col i w)) (8 * off) (8 * len) v
  setSlice t m col i w ((List.range (if col then 16 else 512 / w)).map (fun e => getBits all (w * e) w))

/-! ## Results -/

/-- A loaded value as it reaches a scalar register (R354). -/
def loadValue (sign : Bool) (size v : Nat) : Word :=
  if sign then sextTo (BitVec.ofNat 64 v) (8 * size) else zextTo (BitVec.ofNat 64 v) (8 * size)

/-- Writes a result to a slot's destination (R355, R392). A stream takes it as its value; an element's store is made by its caller. -/
def writeDst (s : State) (n : Nat) (d : Dst) (sign : Bool) (size v : Nat) : State :=
  let w := loadValue sign size v
  match d with
  | .none => s
  | .glob g => s.updTaskOf n (fun t => { t with globals := t.globals.setIfInBounds g w })
  | .win e => s.updTaskOf n (fun t => { t with win := t.win.setIfInBounds e w })
  | .link dir => pushLink (holdLink s (coreOf n) dir false) (coreOf n) dir w
  | .stream b => s.updTaskOf n (fun t => if b then { t with sb := { t.sb with value := w } } else { t with sa := { t.sa with value := w } })
  | .ahead b => s.updTaskOf n (fun t => if b then { t with sb := { t.sb with ahead := t.sb.ahead ++ [w] } } else { t with sa := { t.sa with ahead := t.sa.ahead ++ [w] } })
  | .slice mt col i ew off => s.updTaskOf n (fun t => setSliceBytes t mt col i ew off size v)
  | .elem b _ _ _ _ | .elemReg b _ _ | .elemFar b _ _ _ =>
    s.updTaskOf n (fun t => if b then { t with sb := { t.sb with value := w } } else { t with sa := { t.sa with value := w } })

/-- A destination is no longer outstanding. -/
def clearPend (s : State) (n : Nat) (d : Dst) : State := s.updTaskOf n (fun t => { t with pend := t.pend.erase d })

/-- Whether a load sign-extends. -/
def opSign : HomeOp → Bool
  | .load b => b
  | _ => false

/-- A reply of a home to a core has still to arrive, so a later one comes after it (R22). -/
def replyWaits (s : State) (core home : Nat) : Bool := s.replies.any (fun r => coreOf r.slot = core && r.home = home)

/-- The reply of a performed access. -/
def replyOf (s : State) (h : Held) (v : Nat) : Reply :=
  { slot := h.slot, home := orderHome s h.addr, dst := h.dst, sign := opSign h.op, size := h.size, value := BitVec.ofNat 512 v,
    seq := h.seq }

/-- A result is outstanding. -/
def markPend (s : State) (n : Nat) (d : Dst) : State :=
  if d = .none then s else s.updTaskOf n (fun t => { t with pend := t.pend ++ [d] })

/-- An access that would be performed at its home at once. -/
def goesNow (s : State) (h : Held) : Bool := heldReady s h && !behind s h s.held

/-- Sends an access to its home: it is performed there in this step and answers (DESIGN CHOICE, log 3), unless it must wait there, or
its reply must wait for an earlier one. A write to an armed segment is refused there (R225), in a step of its own. -/
def request (s : State) (h : Held) : State × Option Nat :=
  if goesNow s h && !(opWrites h.op && inArmed s h.addr h.size) then
    let r := applyOp (noteAccess s h.slot h.addr h.size h.op) h.addr h.size h.q h.op
    if h.dst ≠ .none && replyWaits s (coreOf h.slot) (orderHome s h.addr) then
      (markPend { r.1 with replies := r.1.replies ++ [replyOf s h r.2] } h.slot h.dst, none)
    else (r.1, some r.2)
  else (markPend { s with held := s.held ++ [h] } h.slot h.dst, none)

/-- The parts of TLDs and TSTs among requests to other devices: the granules of one part are one request (R104, R392). -/
def farPartKeys (rs : List Remote) : List (Nat × Nat × Nat) :=
  ((rs.filter (fun r => r.tag ≠ 0)).map (fun r => (r.slot, r.seq, r.tag))).eraseDups

/-- The parts of TLDs and TSTs among accesses that are held (R104, R392). -/
def partKeys (s : State) (hs : List Held) : List (Nat × Nat × Nat) :=
  ((hs.filter (fun h => 1 < h.parts)).map (fun h => (h.slot, orderHome s h.addr, h.seq))).eraseDups

def Reply.isSlice (r : Reply) : Bool := match r.dst with | .slice _ _ _ _ _ => true | _ => false

/-- Requests of the slots that p names, which await a reply (R104): accesses at homes here and at other devices, replies on their way,
and records not yet taken at their port. -/
def requestCount (s : State) (p : Nat → Bool) : Nat :=
  let hs := s.held.filter (fun h => p h.slot)
  let keys := partKeys s hs
  let rs := s.remote.filter (fun r => p r.slot && r.eng.isNone && !r.ahead)
  (hs.filter (fun h => h.parts ≤ 1)).length + keys.length
    + (rs.filter (fun r => r.tag = 0)).length + (farPartKeys rs).length
    + (s.replies.filter (fun r => p r.slot && !r.isSlice && r.dst ≠ .ahead false && r.dst ≠ .ahead true)).length
    + (((s.replies.filter (fun r => p r.slot && r.isSlice)).map (fun r => (r.slot, r.home, r.seq))).eraseDups.filter
        (fun k => !keys.contains k)).length
    + (s.inflight.filter (fun m => m.slot.any p)).length
    + (s.cores.map (fun k => (k.2.port.filter (fun m => m.2.slot.any p)).length)).sum

/-- Requests that count against a slot and against a core (R69 OUTST, R104). -/
def outstandingOf (s : State) (n : Nat) : Nat := requestCount s (fun m => m = n)
def outstandingCore (s : State) (c : Nat) : Nat := requestCount s (fun m => coreOf m = c)

end Sys2Proof.Machine
end

