-- ==== Sys2Proof/Machine/Window.lean ====
section
/-!
DEFINITION. Register windows (spec/04_encoding.md R62 to R65; spec/20 R328, spec/21 R343, spec/22 R369, R370, R380): frames of the
physical window stack, spills to and fills from the slot's own TCM.
-/
namespace Sys2Proof.Machine

/-- The current frame. -/
def Task.frame (t : Task) : Frame := t.frames.headD { base := 0, size := 8, ret := 0, kind := .bottom }

/-- The physical entry of w(n) of the current frame (R63). -/
def Task.entry (t : Task) (n : Nat) : Nat := (t.frame.base + n) % 128

/-- Entries from one base up to another, around the stack. -/
def entriesUp (lo hi : Nat) : Nat := (hi + (128 - lo % 128)) % 128

/-- Entries of the resident frames below the current one. -/
def spanBelow : List Frame → Nat
  | f :: g :: rest => entriesUp g.base f.base + spanBelow (g :: rest)
  | _ => 0

/-- Resident entries (WINDEPTH [23:16]) and frames on the window stack (WINDEPTH [15:0]). -/
def Task.resident (t : Task) : Nat := spanBelow t.frames + t.frame.size
def Task.depth (t : Task) : Nat := t.frames.length + t.spilled

def setWin (t : Task) (e : Nat) (v : Word) : Task := { t with win := t.win.setIfInBounds (e % 128) v }
def getWin (t : Task) (e : Nat) : Word := t.win[e % 128]!

/-- Zeroes n entries from one on. -/
def zeroWin (t : Task) (e n : Nat) : Task :=
  match n with
  | 0 => t
  | n + 1 => zeroWin (setWin t e 0) (e + 1) n

/-- The spill area (R65): base, limit and next address, as TCM offsets. -/
def Task.spillBase (t : Task) : Nat := t.spillb.toNat % 2 ^ 17
def Task.spillLimit (t : Task) : Nat := t.spillb.toNat / 2 ^ 32 % 2 ^ 17
def Task.spillPtr (t : Task) : Nat := t.spillp.toNat % 2 ^ 17

def kindCode : FrameKind → Nat
  | .call => 0
  | .bottom => 1
  | .nested => 2

/-- The descriptor word of a frame (R64). -/
def descriptor (f : Frame) : Word :=
  BitVec.ofNat 64 (f.size * 2 ^ 48 + (if f.kind = .bottom then 0 else f.ret.toNat / 4 * 4) + kindCode f.kind)

/-- Spills the oldest resident frame (R64); none when it would reach the limit (R65). -/
def spillOldest (s : State) : Option State :=
  let t := s.t
  match t.frames.reverse with
  | f :: g :: rest =>
    let n := entriesUp f.base g.base
    if t.spillPtr + 8 * (n + 1) > t.spillLimit then none
    else
      let words := (List.range n).map (fun i => getWin t (f.base + i)) ++ [descriptor f]
      let s1 := writeWords s (tcmAddr s.core t.spillPtr) words
      some (afterWrite (s1.setT { s1.t with frames := (g :: rest).reverse, spilled := t.spilled + 1,
                                            spillp := BitVec.ofNat 64 (t.spillPtr + 8 * (n + 1)) }))
  | _ => none

/-- Spills oldest frames until the frames fit an extra number of entries and frames (R63). -/
def spillFor (fuel : Nat) (s : State) (size extra frames : Nat) : Option State :=
  match fuel with
  | 0 => none
  | fuel + 1 =>
    if spanBelow s.t.frames + size + extra ≤ 128 ∧ s.t.frames.length + frames ≤ 64 then some s
    else match spillOldest s with
      | none => none
      | some s1 => spillFor fuel s1 size extra frames

/-- A spill or fill by the slot follows its earlier accesses to its TCM, and those that are about to be performed on its bytes, and waits on
owned units (R24, R64, R165): it cannot go yet. -/
def spillBlocked (s : State) : Bool :=
  let a := tcmAddr s.core s.t.spillBase
  let n := s.t.spillLimit - s.t.spillBase + 8
  s.held.any (fun h => h.slot = s.cur && homeOf h.addr = s.core) || owned s a n || (liveHeld s s.held).any (fun h => overlaps h.addr h.size a n)

/-- ENTER k (R343). -/
def enterFrame (s : State) (k : Nat) : Option State :=
  match spillFor 65 s k 0 0 with
  | none => none
  | some s1 =>
    let t := s1.t
    let f := t.frame
    let t1 := if k > f.size then zeroWin t (f.base + f.size) (k - f.size) else t
    some (s1.setT { t1 with frames := { f with size := k } :: t1.frames.drop 1 })

/-- SHRINK k (R380). -/
def shrinkFrame (t : Task) (k : Nat) : Task :=
  if k < t.frame.size then { t with frames := { t.frame with size := k } :: t.frames.drop 1 } else t

/-- The call frame of CALL and CALLR (R62, R328). -/
def pushCall (s : State) (ret : Pc) : Option State :=
  if s.t.depth ≥ 65535 then none
  else match spillFor 65 s s.t.frame.size 0 1 with
    | none => none
    | some s1 =>
      let f := s1.t.frame
      some (s1.setT { s1.t with frames := { base := (f.base + f.size - 8) % 128, size := 8, ret := ret, kind := .call } :: s1.t.frames })

/-- The nested frame of a run started by JOIN or FORK, with its payload (R62). -/
def pushNested (s : State) (ret : Pc) (payload : List Word) : Option State :=
  if s.t.depth ≥ 65535 then none
  else match spillFor 65 s s.t.frame.size 8 1 with
    | none => none
    | some s1 =>
      let f := s1.t.frame
      let b := (f.base + f.size) % 128
      let t1 := { s1.t with frames := { base := b, size := 8, ret := ret, kind := .nested } :: s1.t.frames }
      some (s1.setT ((List.range 8).foldl (fun t i => setWin t (b + i) (payload.getD i 0)) t1))

/-- A spilled frame read back from its descriptor (R64, R65): the frame above has a base and a kind. none is the STACK trap. -/
def readDescriptor (s : State) (ptr above : Nat) (kind : FrameKind) : Option (Frame × Nat) :=
  if ptr < s.t.spillBase + 8 then none
  else
    let d := readNat s (tcmAddr s.core (ptr - 8)) 8
    let size := d / 2 ^ 48 % 64
    let n := if kind = .nested then size else size - 8
    let k := d % 4
    if k = 3 || size < 8 || size > 48 || ptr < s.t.spillBase + 8 * (n + 1) then none
    else
      some ({ base := (above + (128 - n)) % 128, size := size, ret := BitVec.ofNat 48 (d / 4 % 2 ^ 46 * 4),
              kind := if k = 0 then .call else if k = 1 then .bottom else .nested }, n)

/-- What a fill meets in the words it reads (R289, R290). -/
def noteFill (s : State) (off n : Nat) : State := noteRead s (.slotData · s.asker.ctx s.cur) (tcmAddr s.core off) n

/-- Fills the frame below the one of a base and kind, which becomes the only resident frame (R63, R64). -/
def fillFrame (s : State) (above : Nat) (kind : FrameKind) : Option State :=
  match readDescriptor s s.t.spillPtr above kind with
  | none => none
  | some (f, n) =>
    let lo := s.t.spillPtr - 8 * (n + 1)
    let t1 := (List.range n).foldl (fun t i => setWin t (f.base + i) (readWord s (tcmAddr s.core (lo + 8 * i)))) s.t
    some ((noteFill s lo (8 * (n + 1))).setT { t1 with frames := [f], spilled := s.t.spilled - 1, spillp := BitVec.ofNat 64 lo })

/-- Leaves the current frame for the one below, which is filled when it is spilled (R369). -/
def popFrame (s : State) : Option State :=
  match s.t.frames with
  | f :: g :: rest => some (s.setT { s.t with frames := g :: rest, pc := f.ret })
  | [f] => (fillFrame s f.base f.kind).map (fun s1 => s1.setT { s1.t with pc := f.ret })
  | [] => none

/-- Frames down to and including the nearest nested one, when that is resident: the nested frame and what is below it. -/
def dropToNested : List Frame → Option (Frame × List Frame)
  | [] => none
  | f :: rest => if f.kind = .nested then some (f, rest) else dropToNested rest

/-- Discards a run's spilled frames, reading only their descriptors, until its nested frame is gone (R63, R370). -/
def dropSpilled (fuel : Nat) (s : State) (above : Nat) (kind : FrameKind) : Option (State × Frame) :=
  match fuel with
  | 0 => none
  | fuel + 1 =>
    match readDescriptor s s.t.spillPtr above kind with
    | none => none
    | some (f, n) =>
      let s1 := (noteFill s (s.t.spillPtr - 8) 8).setT { s.t with spilled := s.t.spilled - 1, spillp := BitVec.ofNat 64 (s.t.spillPtr - 8 * (n + 1)) }
      if f.kind = .nested then some (s1, f) else dropSpilled fuel s1 f.base f.kind

/-- The frames that a nested run's RETIRE leaves: the host's, filled when it is spilled; the PC is the one to resume (R116). -/
def popNested (s : State) : Option State :=
  match dropToNested s.t.frames with
  | some (f, g :: rest) => some (s.setT { s.t with frames := g :: rest, pc := f.ret })
  | some (f, []) => (fillFrame s f.base f.kind).map (fun s1 => s1.setT { s1.t with pc := f.ret })
  | none =>
    let last := s.t.frames.getLastD s.t.frame
    match dropSpilled (s.t.spilled + 1) s last.base last.kind with
    | none => none
    | some (s1, f) => (fillFrame s1 f.base f.kind).map (fun s2 => s2.setT { s2.t with pc := f.ret })

end Sys2Proof.Machine
end

