-- ==== Sys2Proof/Machine/RegWindow.lean ====
section
/-!
DEFINITION. The register window of a die (spec/07_memory.md R133, R136, R145; spec/06_execution.md R126; spec/15_traps_debug.md R257,
R263, R264; spec/16_fabric_host.md R272, R274; spec/18_reliability_boot.md R293, R294, R297): reads and writes of its 8-byte words, and
the slot image, which also lies in save areas.
-/
namespace Sys2Proof.Machine

/-! ## The slot image (R257) -/

def word4 (b : BitVec 512) (i : Nat) : Word := b.extractLsb' (64 * i) 64
def setWord4 (b : BitVec 512) (i : Nat) (v : Word) : BitVec 512 := putBits b (64 * i) 64 v.toNat

def boolBit (b : Bool) (n : Nat) : Nat := if b then 2 ^ n else 0

/-- WINDEPTH and FRAME (R69). -/
def Task.windepth (t : Task) : Word := BitVec.ofNat 64 (t.depth % 65536 + (if t.num = 0 then 0 else t.resident * 65536))

/-- STATUS with its follower bit (R71). -/
def Task.statusWord (t : Task) : Word := (t.status &&& 7) ||| (if t.leader.isSome then 8 else 0)

/-- The 26 CSR words of the image, by position. -/
def imageCsr (s : State) (n : Nat) (x : Slot) (i : Nat) : Word :=
  let t := x.t
  if i < 21 then
    [t.statusWord, t.tvec, t.tepc, t.tcause, t.tval,
     t.tstatus, t.tprefix, t.tscratch, t.iemask, pendingOf s n,
     t.tcmp, t.fflags, t.member, t.lineage, t.prio,
     t.stealdom, t.spillb, t.spillp, t.windepth, BitVec.ofNat 64 t.frame.size,
     t.peerfail].getD i 0
  else if i = 25 then x.bkptctl
  else x.bkpta[i - 21]!

/-- The engine register at a position of the image: its key in eregs. -/
def imageEreg (i : Nat) : Nat :=
  if i < 11 then i
  else if i < 27 then 256 + (i - 11)
  else if i < 83 then 512 + (i - 27)
  else if i < 94 then 768 + (i - 83)
  else if i < 103 then 1024 + (i - 94)
  else 1024 + 16 + (i - 103)

def maskBits (m : List MaskEntry) (f : MaskEntry → Bool) : Nat :=
  (m.reverse.zipIdx).foldl (fun a p => a + boolBit (f p.1) p.2) 0

/-- The held-operand buffer (R250): in a handler, the one set aside unless an instruction of the handler holds a word. -/
def Task.buffer (t : Task) (i : Nat) : Option Word :=
  match i with
  | 0 => t.heldA.or t.keptA
  | 1 => t.heldB.or t.keptB
  | _ => t.heldC.or t.keptC

/-- Changes a word of the buffer. -/
def Task.setBuffer (t : Task) (i : Nat) (v : Option Word) : Task :=
  let inner (h : Option Word) : Bool := t.handlers = 0 || h.isSome
  match i with
  | 0 => if inner t.heldA then { t with heldA := v } else { t with keptA := v }
  | 1 => if inner t.heldB then { t with heldB := v } else { t with keptB := v }
  | _ => if inner t.heldC then { t with heldC := v } else { t with keptC := v }

/-- The buffer's words in the image, valid or not; a write changes the word and not its valid bit (R257, R263). -/
def bufferWord (t : Task) (i : Nat) : Word := (t.buffer i).getD (t.heldIdle[i]!)
def setBufferWord (t : Task) (i : Nat) (v : Word) : Task :=
  if (t.buffer i).isSome then t.setBuffer i (some v) else { t with heldIdle := t.heldIdle.setIfInBounds i v }

/-- A word whose valid bit is cleared is valid nowhere, in a handler or beside it. -/
def setBufferValid (t : Task) (i : Nat) (on : Bool) : Task :=
  let w := bufferWord t i
  if on then t.setBuffer i (some w)
  else
    let t1 := { t with heldIdle := t.heldIdle.setIfInBounds i w }
    match i with
    | 0 => { t1 with heldA := none, keptA := none }
    | 1 => { t1 with heldB := none, keptB := none }
    | _ => { t1 with heldC := none, keptC := none }

def streamWord (st : Stream) : Word := BitVec.ofNat 64 (boolBit st.armed 0 + boolBit st.bad 1 + st.next * 4)

/-- The word of a slot image at an 8-byte offset (R257). n is the slot's ID. -/
def imageWord (s : State) (n : Nat) (x : Slot) (off : Nat) : Word :=
  let t := x.t
  let run := t.runs.headD { record := [], given := false, ibRead := 0 }
  if off < 0x1000 then word4 (tileRow t (off / 1024) (off % 1024 / 64)) (off % 64 / 8)
  else if off < 0x1400 then getWin t ((off - 0x1000) / 8)
  else if off < 0x1438 then t.globals[(off - 0x1400) / 8]!
  else if off = 0x1438 then t.pc.zeroExtend 64
  else if off < 0x1440 then 0
  else if off < 0x1510 then imageCsr s n x ((off - 0x1440) / 8)
  else if off = 0x1520 then t.pending.zeroExtend 64 ||| (if t.status.getLsbD 2 then 0x100000000 else 0)
  else if off = 0x1528 then
    BitVec.ofNat 64 (maskBits t.mask MaskEntry.cond + maskBits t.mask MaskEntry.parent * 256 + t.mask.length * 65536 + boolBit t.active 20)
  else if off = 0x1530 then bufferWord t 0
  else if off = 0x1538 then bufferWord t 1
  else if off = 0x1540 then bufferWord t 2
  else if off = 0x1548 then
    BitVec.ofNat 64 (boolBit (t.buffer 0).isSome 0 + boolBit (t.buffer 1).isSome 1 + boolBit (t.buffer 2).isSome 2)
  else if off < 0x1580 then 0
  else if off < 0x1900 then t.eregs.get 0 (imageEreg ((off - 0x1580) / 8))
  else if off < 0x1980 then t.eq.getD ((off - 0x1900) / 8) 0
  else if off = 0x1980 then BitVec.ofNat 64 t.eq.length
  else if off = 0x1988 then streamWord t.sa
  else if off = 0x1990 then streamWord t.sb
  else if off = 0x1998 then t.serialLoom.zeroExtend 64
  else if off = 0x19A0 then t.serialCopy.zeroExtend 64
  else if off = 0x19A8 then t.serialBx.zeroExtend 64
  else if off < 0x19C0 then 0
  else if off < 0x1A00 then run.record.getD ((off - 0x19C0) / 8) 0
  else if off < 0x1C00 then
    match t.frames.reverse[(off - 0x1A00) / 8]? with
    | some f => descriptor f ||| BitVec.ofNat 64 (f.base % 128 * 2 ^ 54)
    | none => 0
  else if off = 0x1C00 then BitVec.ofNat 64 t.frames.length
  else if off = 0x1C08 then BitVec.ofNat 64 (run.ibRead + boolBit (!run.given) 3)
  else 0

def setImageCsr (x : Slot) (i : Nat) (v : Word) : Slot :=
  let t := x.t
  match i with
  | 0 => { x with t := { t with status := v &&& 7 } }
  | 1 => { x with t := { t with tvec := v &&& ~~~3 } }
  | 2 => { x with t := { t with tepc := v } }
  | 3 => { x with t := { t with tcause := v &&& 0x80000000000000FF } }
  | 4 => { x with t := { t with tval := v } }
  | 5 => { x with t := { t with tstatus := v &&& 0xF } }
  | 6 => { x with t := { t with tprefix := v &&& 0xFFFFFFFF } }
  | 7 => { x with t := { t with tscratch := v } }
  | 8 => { x with t := { t with iemask := v &&& 0x3E } }
  | 9 => { x with t := { t with ipend := v &&& 0x24 } }
  | 10 => { x with t := { t with tcmp := v } }
  | 11 => { x with t := { t with fflags := v &&& 0x1F } }
  | 12 => { x with t := { t with member := v &&& 0xFF } }
  | 13 => { x with t := { t with lineage := v } }
  | 14 => { x with t := { t with prio := v &&& 0xF } }
  | 15 => { x with t := { t with stealdom := v &&& 7 } }
  | 16 => { x with t := { t with spillb := v &&& 0x1FFF80001FFF8 } }
  | 17 => { x with t := { t with spillp := v &&& 0x1FFF8 } }
  | 18 | 19 => x
  | 20 => { x with t := { t with peerfail := v } }
  | 25 => { x with bkptctl := v &&& 0x3FFFF }
  | i => { x with bkpta := x.bkpta.setIfInBounds (i - 21) (v &&& 0xFFFFFFFFFFF8) }

def maskOf (v : Word) : List MaskEntry :=
  ((List.range (bitsOf v 16 4)).map (fun i => { parent := v.getLsbD (8 + i), cond := v.getLsbD i : MaskEntry })).reverse

def setStreamWord (st : Stream) (v : Word) : Stream :=
  { st with armed := v.getLsbD 0, bad := v.getLsbD 1, next := v.toNat / 4, ahead := [] }

def listSet (xs : List Word) (i : Nat) (v : Word) : List Word :=
  (xs ++ List.replicate (i + 1 - xs.length) 0).set i v

def setRun (t : Task) (f : Run → Run) : Task :=
  match t.runs with
  | r :: rest => { t with runs := f r :: rest }
  | [] => t

/-- The resident frames become n, the oldest ones kept; new ones are empty until their descriptors are written (R257). -/
def setFrameCount (t : Task) (n : Nat) : Task :=
  if n = 0 || 64 < n then t
  else
    let more : List Frame := List.replicate (n - t.frames.length) { base := 0, size := 0, ret := 0, kind := .call }
    { t with frames := more ++ t.frames.drop (t.frames.length - n) }

/-- A write to a slot image (R263): WINDEPTH and FRAME are read-only. -/
def setImageWord (x : Slot) (off : Nat) (v : Word) : Slot :=
  let t := x.t
  if off < 0x1000 then
    { x with t := setTileRow t (off / 1024) (off % 1024 / 64) (setWord4 (tileRow t (off / 1024) (off % 1024 / 64)) (off % 64 / 8) v) }
  else if off < 0x1400 then { x with t := setWin t ((off - 0x1000) / 8) v }
  else if off < 0x1438 then { x with t := { t with globals := t.globals.setIfInBounds ((off - 0x1400) / 8) v } }
  else if off = 0x1438 then { x with t := { t with pc := v.truncate 48 &&& ~~~3 } }
  else if off < 0x1440 then x
  else if off < 0x1510 then setImageCsr x ((off - 0x1440) / 8) v
  else if off = 0x1520 then
    { x with t := { t with pending := v.truncate 32, status := (t.status &&& 3) ||| (if v.getLsbD 32 then 4 else 0) } }
  else if off = 0x1528 then { x with t := { t with mask := maskOf v, active := v.getLsbD 20 } }
  else if off = 0x1530 then { x with t := setBufferWord t 0 v }
  else if off = 0x1538 then { x with t := setBufferWord t 1 v }
  else if off = 0x1540 then { x with t := setBufferWord t 2 v }
  else if off = 0x1548 then
    { x with t := setBufferValid (setBufferValid (setBufferValid t 0 (v.getLsbD 0)) 1 (v.getLsbD 1)) 2 (v.getLsbD 2) }
  else if off < 0x1580 then x
  else if off < 0x1900 then { x with t := { t with eregs := t.eregs.set 0 (imageEreg ((off - 0x1580) / 8)) v } }
  else if off < 0x1980 then
    if (off - 0x1900) / 8 < t.eq.length then { x with t := { t with eq := listSet t.eq ((off - 0x1900) / 8) v } } else x
  else if off = 0x1980 then
    { x with t := { t with eq := (t.eq ++ List.replicate 16 0).take (min 16 (bitsOf v 0 5)) } }
  else if off = 0x1988 then { x with t := { t with sa := setStreamWord t.sa v } }
  else if off = 0x1990 then { x with t := { t with sb := setStreamWord t.sb v } }
  else if off = 0x1998 then { x with t := { t with serialLoom := v.truncate 32 } }
  else if off = 0x19A0 then { x with t := { t with serialCopy := v.truncate 32 } }
  else if off = 0x19A8 then { x with t := { t with serialBx := v.truncate 32 } }
  else if off < 0x19C0 then x
  else if off < 0x1A00 then
    { x with t := setRun t (fun r => { r with record := listSet r.record ((off - 0x19C0) / 8) v }) }
  else if off < 0x1C00 then
    let i := (off - 0x1A00) / 8
    if i < t.frames.length then
      let j := t.frames.length - 1 - i
      let k := bitsOf v 0 2
      let f : Frame := { base := bitsOf v 54 7, size := bitsOf v 48 6, ret := BitVec.ofNat 48 (bitsOf v 2 46 * 4),
                         kind := if k = 0 then .call else if k = 1 then .bottom else .nested }
      { x with t := { t with frames := t.frames.set j f } }
    else x
  else if off = 0x1C00 then { x with t := setFrameCount t (bitsOf v 0 7) }
  else if off = 0x1C08 then { x with t := setRun t (fun r => { r with ibRead := min 6 (bitsOf v 0 3), given := !v.getLsbD 3 }) }
  else x

/-- The 1,024 words of a slot image, written to memory and read back (R129, R257). -/
def saveImage (s : State) (n : Nat) (x : Slot) (a : Nat) : State :=
  writeWords s a ((List.range 1024).map (fun i => imageWord s n x (8 * i)))

def loadImage (s : State) (x : Slot) (a : Nat) : Slot :=
  (List.range 1024).foldl (fun x i => setImageWord x (8 * i) (readWord s (a + 8 * i))) (setImageWord x 0x1C00 (readWord s (a + 0x1C00)))

/-! ## Views (R264) -/

def accOf (c : Cluster) (i : Nat) : Acc :=
  match i % 4 with
  | 0 => c.acc0
  | 1 => c.acc1
  | 2 => c.acc2
  | _ => c.acc3

def setAcc (c : Cluster) (i : Nat) (a : Acc) : Cluster :=
  match i % 4 with
  | 0 => { c with acc0 := a }
  | 1 => { c with acc1 := a }
  | 2 => { c with acc2 := a }
  | _ => { c with acc3 := a }

/-- Busy while commands that name the accumulator are queued (R68). -/
def accBusy (c : Cluster) (i : Nat) : Bool := c.loomq.any (fun k => k.acc = i)

def loomCode : LoomOp → Nat
  | .mmul => 2
  | .mrot => 3
  | .mdrain => 4
  | .mzero => 5

def copyCode : CopyOp → Nat
  | .cpy => 0
  | .cpyr => 1
  | .e2p | .p2e => 2

/-- A queue entry of the view: engine, command, slot, serial, then progress, ra and rb. -/
def queueEntry (eng cmd slot : Nat) (serial : BitVec 32) (done : Nat) (ra rb : Word) : List Word :=
  [BitVec.ofNat 64 (eng + cmd * 256 + slot * 65536 + serial.toNat * 2 ^ 32), BitVec.ofNat 64 done, ra, rb]

/-- A word of the engine view: the copy queue's entries follow the loom's, since R264 gives it no place of its own (DESIGN CHOICE, log 98). -/
def engineView (s : State) (cl off : Nat) : Word :=
  let c := s.clusterAt cl
  if off < 0x4000 then
    let i := off / 0x1000
    if accBusy c i && !c.frozen then 0xFFFFFFFFFFFFFFFF
    else
      let e := off % 0x1000 / 4
      BitVec.ofNat 64 (((accOf c i).elems.get 0 e).toNat + ((accOf c i).elems.get 0 (e + 1)).toNat * 2 ^ 32)
  else if off < 0x4020 then
    let i := (off - 0x4000) / 8
    let a := accOf c i
    BitVec.ofNat 64 ((a.owner.getD 0) + boolBit a.owner.isSome 14 + boolBit a.valid 15 + boolBit (accBusy c i) 16
      + boolBit a.nv 17 + boolBit a.of 18 + boolBit a.uf 19 + boolBit a.nx 20)
  else if off < 0x4100 then 0
  else
    let es := (c.loomq.map (fun k => queueEntry 1 (loomCode k.op) k.who.slot k.serial k.done k.ra k.rb)).flatten
      ++ (c.copyq.map (fun k => queueEntry 0 (copyCode k.op) k.who.slot k.serial k.done k.ra k.rb)).flatten
    es.getD ((off - 0x4100) / 8) 0

/-- Handles of the barrier view in its order: cluster pools, die pools, package and system pools (R174, R263). -/
def viewHandle (die i : Nat) : Nat :=
  if i < 1024 then (die * 32 + i / 32) * 2 ^ 20 + i % 32 + 1
  else if i < 1088 then 2 ^ 30 + die * 2 ^ 20 + (i - 1024) + 1
  else if i < 1104 then 2 * 2 ^ 30 + (i - 1088) + 1
  else 3 * 2 ^ 30 + (i - 1104) + 1

/-- A word of a barrier's entry: R264 gives its five items no places in the 32 bytes, so they stand here as handle and phase, arrivals, bytes,
references (DESIGN CHOICE, log 98). -/
def barrierView (s : State) (die off : Nat) : Word :=
  let h := viewHandle die (off / 32)
  if off / 32 ≥ 1112 then 0
  else match s.barriers.get none h with
    | none => 0
    | some b =>
      match off % 32 / 8 with
      | 0 => BitVec.ofNat 64 (h + b.phase * 2 ^ 32)
      | 1 => BitVec.ofInt 64 b.arr
      | 2 => BitVec.ofInt 64 b.bytes
      | _ => BitVec.ofNat 64 (b.refs + boolBit b.parent.isSome 16)

/-! ## Parking and freezing (R262, R263) -/

/-- Frozen with its cluster, halted or stopped: the slot issues nothing (R254, R261, R262). -/
def slotHeld (s : State) (n : Nat) : Bool :=
  let x := s.slotAt n
  x.halted || x.stopped || (s.clusterAt (clusterOf n)).frozen

/-- Parked, or stopped; an idle slot has nothing to stop. -/
def slotParked (s : State) (n : Nat) : Bool := (s.slotAt n).t.wait.isSome || slotHeld s n || (s.slotAt n).phase = .idle

/-- DBGCTL as it reads; a frozen slot is a halted one (R262, R263). -/
def dbgctl (s : State) (n : Nat) : Word :=
  let x := s.slotAt n
  BitVec.ofNat 64 (boolBit (x.halted || (s.clusterAt (clusterOf n)).frozen) 8 + boolBit (x.t.handlers ≠ 0) 9 + boolBit x.t.wait.isSome 10)

/-! ## The window -/

def wqWord (q : WorkQueue) (i : Nat) : Word :=
  match i with
  | 0 => q.base
  | 1 => q.cfg
  | 2 => q.prod.zeroExtend 64
  | 3 => q.cons.zeroExtend 64
  | 4 => q.outaddr
  | 5 => q.accepted.zeroExtend 64 ||| (q.refused.zeroExtend 64 <<< 32)
  | 6 => BitVec.ofNat 64 (q.code * 256 + boolBit q.error 0)
  | _ => 0

/-- A write to a control block: the producer's fields by their access codes, or every field by the foreman (R274). -/
def setWqWord (q : WorkQueue) (i : Nat) (v : Word) (foreman : Bool) : WorkQueue :=
  match i with
  | 0 => { q with base := v }
  | 1 => if foreman then { q with cfg := v &&& 0x01FFFFFF0000FF1F } else { q with cfg := (q.cfg &&& 0x0000FFFF0000FF00) ||| (v &&& 0x01FF00000000001F) }
  | 2 => { q with prod := v.truncate 32 }
  | 3 => if foreman then { q with cons := v.truncate 32 } else q
  | 4 => { q with outaddr := v }
  | 5 => if foreman then { q with accepted := v.truncate 32, refused := (v >>> 32).truncate 32 } else q
  | 6 => if foreman then { q with error := v.getLsbD 0, code := bitsOf v 8 8 } else if v.getLsbD 0 then { q with error := false, firstRead := none } else q
  | _ => q

def bootstat (b : Boot) : Word :=
  match b with
  | .start => 0
  | .ready => 2
  | .recovery f => BitVec.ofNat 64 (4 + f * 256)

/-- A read of an 8-byte word of a die's window; an offset without a register reads zero (R133). -/
def regRead (s : State) (die off : Nat) : Word :=
  let d := s.dieAt die
  if off = 0 then BitVec.ofNat 64 (die + s.devid.toNat * 4096)
  else if off = 8 then d.discards
  else if off = 0x10 then if die = 0 then bootstat s.boot else 0
  else if 0x100 ≤ off ∧ off < 0x140 then word4 s.measure ((off - 0x100) / 8)
  else if off = 0x1000 then d.retired.zeroExtend 64
  else if off = 0x1008 then d.eventIdx
  else if 0x2000 ≤ off ∧ off < 0x3000 then
    (d.events.get 0 ((off - 0x2000) / 16)).extractLsb' (off % 16 * 8) 64
  else if 0x10000 ≤ off ∧ off < 0x11000 then (s.coreAt (die * 512 + (off - 0x10000) / 8)).mailbox
  else if 0x100000 ≤ off ∧ off < 0x120000 then d.slotTab.get 0 ((off - 0x100000) / 8)
  else if 0x200000 ≤ off ∧ off < 0x280000 then d.ctxTab.get 0 ((off - 0x200000) / 8)
  else if 0x300000 ≤ off ∧ off < 0x304000 then dbgctl s (die * 2048 + (off - 0x300000) / 8)
  else if 0x310000 ≤ off ∧ off < 0x310100 then
    let c := die * 32 + (off - 0x310000) / 8
    BitVec.ofNat 64 (boolBit (s.clusterAt c).frozen 0
      + boolBit ((List.range 64).all (fun i => slotParked s (c * 64 + i))) 8)
  else if 0x400000 ≤ off ∧ off < 0x1400000 then
    let n := die * 2048 + (off - 0x400000) / 0x2000
    let x := s.slotAt n
    if slotHeld s n then imageWord s n x (off % 0x2000) else 0
  else if 0x1400000 ≤ off ∧ off < 0x14A0000 then
    engineView s (die * 32 + (off - 0x1400000) / 0x5000) ((off - 0x1400000) % 0x5000)
  else if 0x14A0000 ≤ off ∧ off < 0x16A0000 then
    let c := die * 512 + (off - 0x14A0000) / 0x1000
    ((s.coreAt c).trace.get 0 (off % 0x1000 / 16)).extractLsb' (off % 16 * 8) 64
  else if 0x16A0000 ≤ off ∧ off < 0x17A0000 then barrierView s die (off - 0x16A0000)
  else if 0x2000000 ≤ off ∧ off < 0x2100000 then
    wqWord (d.wqs.get .reset ((off - 0x2000000) / 64)) (off % 64 / 8)
  else 0

/-- The mailbox and the host message interrupt (R272). -/
def doorbell (s : State) (core : Nat) (v : Word) : State :=
  s.setCore core { s.coreAt core with mailbox := v, ipend3 := true }

/-- A halt request, a resume or a raised interrupt 5 through DBGCTL (R263). An idle slot stands at a boundary, and halts at once (R261). -/
def dbgHalt (x : Slot) : Slot := if x.phase = .idle then { x with halted := true } else { x with haltReq := true }
def dbgGo (x : Slot) : Slot := { x with halted := false, haltReq := false }
def dbgRaise (x : Slot) : Slot := { x with t := { x.t with ipend := x.t.ipend ||| 0x20 } }

def writeDbgctl (x : Slot) (v : Word) : Slot :=
  let a := if v.getLsbD 0 then dbgHalt x else x
  let b := if v.getLsbD 1 then dbgGo a else a
  if v.getLsbD 2 then dbgRaise b else b

/-- A freeze stops the cluster's 64 slots at their next boundary; clearing it lets them run again, and gates whose counters have reached their
targets meanwhile fire (R262). -/
def freezeCluster (s : State) (c : Nat) (on : Bool) : State := fireGatesOf (s.setCluster c { s.clusterAt c with frozen := on }) c

/-- A write of an 8-byte word of a die's window; foreman says that the foreman makes it. An offset without a writable register
ignores it (R133). -/
def regWrite (s : State) (die off : Nat) (v : Word) (foreman : Bool) : State :=
  let d := s.dieAt die
  if 0x10000 ≤ off ∧ off < 0x11000 then doorbell s (die * 512 + (off - 0x10000) / 8) v
  else if 0x100000 ≤ off ∧ off < 0x120000 then s.setDie die { d with slotTab := d.slotTab.set 0 ((off - 0x100000) / 8) v }
  else if 0x200000 ≤ off ∧ off < 0x280000 then s.setDie die { d with ctxTab := d.ctxTab.set 0 ((off - 0x200000) / 8) (v &&& 0x1FFFFFFC001) }
  else if 0x300000 ≤ off ∧ off < 0x304000 then s.updSlot (die * 2048 + (off - 0x300000) / 8) (fun x => writeDbgctl x v)
  else if 0x310000 ≤ off ∧ off < 0x310100 then freezeCluster s (die * 32 + (off - 0x310000) / 8) (v.getLsbD 0)
  else if 0x400000 ≤ off ∧ off < 0x1400000 then
    let n := die * 2048 + (off - 0x400000) / 0x2000
    if slotHeld s n then s.updSlot n (fun x => setImageWord x (off % 0x2000) v) else s
  else if 0x2000000 ≤ off ∧ off < 0x2100000 then
    let q := (off - 0x2000000) / 64
    s.setDie die { d with wqs := d.wqs.set .reset q (setWqWord (d.wqs.get .reset q) (off % 64 / 8) v foreman) }
  else s

end Sys2Proof.Machine
end

