-- ==== Sys2Proof/Machine/Operands.lean ====
section
/-!
DEFINITION. The operand forms (spec/04_encoding.md R57 to R61; spec/01 R11, R14; spec/10 R211 to R215; spec/21 R355; spec/22 R384): what
each of the 64 operand codes reads and writes, and the accesses that cores make to an address.
-/
namespace Sys2Proof.Machine

/-- Why an instruction does not complete in its step. -/
inductive Stop where
  /-- A precise trap (R247). -/
  | trap (c : Cause) (v : Word)
  /-- A scoreboard stall: it is tried again. -/
  | stall
  /-- A halt before its accesses are made (R259, R260). -/
  | halt
  /-- A read of another device's memory that it needs has been dropped (R153). -/
  | dropped
  /-- It parks in this state, and stays restartable. -/
  | park (s : State) (w : Wait)
  deriving DecidableEq, Repr

/-- The effect of an instruction: a state, or a stop. -/
abbrev Eff := Except Stop State

/-! ## Codes -/

/-- The neighbour that a link code names. -/
def linkOf (r : Reg) : Option Dir :=
  match r.toNat with
  | 56 => some .north
  | 57 => some .south
  | 58 => some .east
  | 59 => some .west
  | _ => none

def isIb (r : Reg) : Bool := r = 60
def isEq (r : Reg) : Bool := r = 63
def isStream (r : Reg) : Bool := r = 61 || r = 62
def streamOf (t : Task) (r : Reg) : Stream := if r = 62 then t.sb else t.sa
def setStream (t : Task) (r : Reg) (x : Stream) : Task := if r = 62 then { t with sb := x } else { t with sa := x }

/-- A windowed register outside the current frame (R62). -/
def outOfFrame (t : Task) (r : Reg) : Bool := 8 ≤ r.toNat && r.toNat ≤ 55 && decide (t.frame.size ≤ r.toNat - 8)

/-- Where a code's value is held (for the scoreboard and for results). -/
def dstOf (t : Task) (r : Reg) : Dst :=
  let n := r.toNat
  if n = 0 then .none
  else if n < 8 then .glob (n - 1)
  else if n < 56 then .win (t.entry (n - 8))
  else match linkOf r with
    | some d => .link d
    | none => if isStream r then .stream (r = 62) else .none

/-- The value of a code that no queue and no armed stream stands behind. -/
def plainRead (t : Task) (r : Reg) : Word :=
  let n := r.toNat
  if n = 0 then 0
  else if n < 8 then t.globals[n - 1]!
  else if n < 56 then getWin t (t.entry (n - 8))
  else if isStream r then (streamOf t r).value
  else 0

def plainWrite (t : Task) (r : Reg) (v : Word) : Task :=
  let n := r.toNat
  if n = 0 then t
  else if n < 8 then { t with globals := t.globals.setIfInBounds (n - 1) v }
  else if n < 56 then setWin t (t.entry (n - 8)) v
  else if isStream r then setStream t r { streamOf t r with value := v }
  else t

/-- The code pops when it is read. -/
def pops (t : Task) (r : Reg) : Bool :=
  (linkOf r).isSome || isIb r || isEq r || (isStream r && (streamOf t r).armed && !(streamOf t r).write)

/-! ## Streams (R211 to R215) -/

def cfgAt (x : Stream) (i : Nat) : Word := x.cfg.getD i 0
def streamWidth (x : Stream) : Nat := bitsOf (cfgAt x 1) 0 4
def streamCount (x : Stream) : Nat := (cfgAt x 2).toNat * (cfgAt x 3).toNat * (cfgAt x 4).toNat
def streamRepeats (x : Stream) : Bool := (cfgAt x 8).getLsbD 1

/-- The address of the next element; none past the last of a pattern without repeat (R211). -/
def streamAddr (x : Stream) : Option Word :=
  if streamCount x = 0 then none
  else if x.next ≥ streamCount x && !streamRepeats x then none
  else
    let n := x.next % streamCount x
    let c0 := (cfgAt x 2).toNat
    let c1 := (cfgAt x 3).toNat
    some (cfgAt x 0 + BitVec.ofNat 64 (n % c0) * cfgAt x 5 + BitVec.ofNat 64 (n / c0 % c1) * cfgAt x 6
      + BitVec.ofNat 64 (n / c0 / c1) * cfgAt x 7)

/-! ## Accesses of a core -/

/-- The lowest data comparator that matches an address that an instruction names: whether it halts, and the address (R259, R260). Each
address stands with whether its access writes; the atomics and FESET and FECLR do (DEDUCED, log 39). -/
def dataMatch (x : Slot) (l : List (Word × Bool)) : Option (Bool × Word) :=
  (List.range 4).findSome? (fun n =>
    let kind := bitsOf x.bkptctl (4 * n + 1) 2
    (l.find? (fun p =>
      x.bkptctl.getLsbD (4 * n) && (kind = 3 || kind = (if p.2 then 2 else 1)) && bitsOf (x.bkpta[n]!) 3 45 = bitsOf p.1 3 45)).map
      (fun p => (x.bkptctl.getLsbD (4 * n + 3), p.1)))

/-- The breakpoint step of an instruction, after every other check (R260). -/
def checkData (s : State) (l : List (Word × Bool)) : Except Stop Unit :=
  match dataMatch s.slot l with
  | none => .ok ()
  | some (true, _) => .error .halt
  | some (false, a) => .error (.trap .bkpt a)

/-- The request that another device receives for an operation. -/
def remoteOp (op : HomeOp) : RemoteOp :=
  match op with
  | .load _ | .outside => .load
  | .store _ => .store
  | .amo aop _ => .amo aop
  | .cas e _ => .cas e
  | .feget => .feget
  | .feset => .feset
  | .feclr => .feclr
  | .cadd _ => .cadd

def opValue : HomeOp → BitVec 512
  | .store v => v
  | .amo _ v => v.zeroExtend 512
  | .cas _ v => v.zeroExtend 512
  | .cadd v => v.zeroExtend 512
  | _ => 0

/-- In the replay queue: parked by a reply of its own, or behind another one (R152). -/
def Remote.replays (r : Remote) : Bool := r.queued || r.parked.isSome

/-- The units that have a replay queue (R152), by number: a core has its own; these are a cluster's copy unit and loom, and a die's bit-axis
engine and ferryman. -/
def copyPort (cluster : Nat) : Nat := 0x10000 + cluster
def loomPort (cluster : Nat) : Nat := 0x11000 + cluster
def bxPort (die : Nat) : Nat := 0x12000 + die
def ferryPort (die : Nat) : Nat := 0x13000 + die
def homePort : Nat := 0x14000

/-- Accesses of a unit that stand in its replay queue, which holds 16 (R152); the granules of one part of a TLD or TST are one access
(R392). What was on its way when the queue filled waits beside it (DEDUCED, log 82). -/
def replayCount (s : State) (unit : Nat) : Nat :=
  let rs := s.remote.filter (fun r => r.unit = unit && r.replays)
  min 16 ((rs.filter (fun r => r.tag = 0 || r.eng.isSome)).length + (farPartKeys (rs.filter (fun r => r.eng.isNone))).length)

/-- A request of a unit to a device goes behind those of the unit to that device that replay (R152). -/
def queuesBehind (s : State) (unit device : Nat) : Bool := s.remote.any (fun r => r.unit = unit && r.device = device && r.replays)

/-- A request of the slot in force to another device (R135). -/
def remoteOf (s : State) (device : Nat) (a : Word) (size : Nat) (q : BitVec 2) (op : RemoteOp) (value : BitVec 4096) (dst : Dst)
    (sign hold : Bool) : Remote :=
  { slot := s.cur, device := device,
    acc := { src := s.devid.toNat, ctx := s.asker.ctx, user := s.asker.user, addr := a, q := q, op := op, size := size, value := value,
             slot := s.cur },
    dst := dst, sign := sign, parked := none, hold := hold, seq := s.t.seq, unit := s.core, queued := queuesBehind s s.core device }

/-- Sends a request to another device (R135, R151, R226), unless the core's replay queue is full (R152) or 64 requests are outstanding
(R104). -/
def sendTo (s : State) (device : Nat) (a : Word) (size : Nat) (q : BitVec 2) (op : RemoteOp) (value : BitVec 4096) (dst : Dst)
    (sign hold : Bool) : Eff :=
  if replayCount s s.core ≥ 16 || outstandingCore s s.core ≥ 64 then .error .stall
  else .ok (markPend { s with remote := s.remote ++ [remoteOf s device a size q op value dst sign hold] } s.cur dst)

/-- Sends a home's operation to another device. -/
def sendRemote (s : State) (device : Nat) (a : Word) (size : Nat) (q : BitVec 2) (op : HomeOp) (dst : Dst) (hold : Bool) : Eff :=
  sendTo s device a size q (remoteOp op) ((opValue op).zeroExtend 4096) dst (opSign op) hold

/-- The slot waits for the answers to what its instruction has sent, on which it completes (R165, R226). -/
def awaitAnswer (s : State) : State := s.setT { s.t with wait := some .answer }

/-- The held-access record of the instruction in force; the PC already stands at the next one. -/
def heldOf (s : State) (pa size : Nat) (q : BitVec 2) (op : HomeOp) (dst : Dst) (parts : Nat) : Held :=
  { slot := s.cur, seq := s.t.seq, pc := s.t.pc - 4, addr := pa, size := size, q := q, op := op, dst := dst,
    popA := s.t.heldA, popB := s.t.heldB, popC := s.t.heldC,
    pfx := if s.t.status.getLsbD 2 then some s.t.pending else none, parts := parts, stamp := s.nextCid }

/-- Holds the link entry that a load's value will be pushed to (R355). -/
def reserveDst (s : State) (dst : Dst) : State :=
  match dst with
  | .link d => holdLink s s.core d true
  | _ => s

/-- An access of the slot in force to bytes here must wait behind its own earlier ones at one of their homes, or behind a reply of such a
home (R22, R138, R155). -/
def ownWaits (s : State) (pa n : Nat) : Bool :=
  (splitParts 64 pa 0 n).any (fun p =>
    s.held.any (fun h => h.slot = s.cur && orderHome s h.addr = orderHome s (pa + p.1)) || replyWaits s s.core (orderHome s (pa + p.1)))

/-- An access of the slot in force to bytes here that is made whole in the step must wait: their units are owned, earlier accesses of the
slot or replies of their homes come first, or an access that has arrived before is about to be performed on them (R22, R24, R165). -/
def blockedHere (s : State) (pa n : Nat) : Bool :=
  owned s pa n || ownWaits s pa n || (liveHeld s s.held).any (fun g => overlaps g.addr g.size pa n)
    || s.inflight.any (fun m => m.slot = some s.cur && unitTcm m.core = orderHome s pa)

/-- One access of the slot in force to an address, all checks made (R133, R148, R225, R226), the breakpoints last (R260), and performed or
sent. also: addresses of the same instruction whose checks have been made. One that the read-only cache serves, and a checked one that
could not be performed at once, waits at issue (R226, DEDUCED, log 15). While 64 requests are outstanding, an access that consults a home
stalls (R104, R268). -/
def accessRaw (s : State) (k : Access) (a : Word) (size align : Nat) (sc : Option (BitVec 2)) (q : BitVec 2) (op : HomeOp) (dst : Dst)
    (also : List (Word × Bool)) : Except Stop (State × Option Nat) :=
  match locate s s.asker k a size align sc q with
  | .error c => .error (.trap c a)
  | .ok (s1, p) =>
    if (match p with | .mem pa _ => opWrites op && inArmed s1 pa size | _ => false) then .error (.trap .prot a)
    else match checkData s ((a, opWrites op) :: also) with
    | .error e => .error e
    | .ok _ =>
      match p with
      | .mem pa _ =>
        if checkedAccess p a && opWrites op && blockedHere s1 pa size then .error .stall
        else if outstandingCore s1 s1.core ≥ 64 then .error .stall
        else .ok (request (reserveDst s1 dst) { heldOf s1 pa size q op dst 1 with va := a })
      | .ro va pa =>
        if (owned s1 pa size || outstandingCore s1 s1.core ≥ 64) && !roHit s1 s1.cluster s1.asker.ctx va then .error .stall
        else
          let r := roRead s1 s1.cluster s1.asker.ctx va pa size
          .ok (reserveDst r.1 dst, some r.2)
      | .reg die off =>
        if outstandingCore s1 s1.core ≥ 64 then .error .stall
        else match op with
        | .store v => .ok (regWrite s1 die off (v.truncate 64) false, some 0)
        | _ => .ok (reserveDst s1 dst, some (regRead s1 die off).toNat)
      | .remote d =>
        let hold := checkedAccess p a && opWrites op
        match sendRemote (reserveDst s1 dst) d a size q op dst hold with
        | .error e => .error e
        | .ok s2 => .ok (if hold then awaitAnswer s2 else s2, none)

/-- The requests that a read of another device makes: one for each home (R138, R271). -/
def farReads (a : Word) (size : Nat) : List (Word × Nat) :=
  if tokOf a = some .pad4 && 32 < size then [(a, 32), (a + 32, size - 32)] else [(a, size)]

def sendReads (d : Nat) : List (Word × Nat) → State → Eff
  | [], s => .ok s
  | p :: rest, s =>
    match sendTo s d p.1 p.2 0 .load 0 .none false true with
    | .error e => .error e
    | .ok s1 => sendReads d rest s1

/-- Reads bytes at an address that has passed its checks, for the instruction in force: records, terms, rings and headers. The unit's owner
is waited for (R165), and the read is a request (R104). A block of another device's memory is asked for first, and the instruction runs
again when it is here. -/
def readPlace (s1 : State) (p : Place) (a : Word) (size : Nat) : Except Stop (State × Nat) :=
  match p with
  | .mem pa _ =>
    if blockedHere s1 pa size || outstandingCore s1 s1.core ≥ 64 then .error .stall
    else .ok (noteRead s1 (.slotData · s1.asker.ctx s1.cur) pa size, readNat s1 pa size)
  | .ro va pa =>
    if (owned s1 pa size || outstandingCore s1 s1.core ≥ 64) && !roHit s1 s1.cluster s1.asker.ctx va then .error .stall
    else .ok (roRead s1 s1.cluster s1.asker.ctx va pa size)
  | .reg die off => if outstandingCore s1 s1.core ≥ 64 then .error .stall else .ok (s1, (regRead s1 die off).toNat)
  | .remote d =>
    let ps := farReads a size
    let got (p : Word × Nat) : Option (Option (BitVec 512)) := (s1.t.fetched.find? (fun f => f.1 = p.1)).map Prod.snd
    if ps.any (fun p => got p = some none) then .error .dropped
    else if ps.all (fun p => (got p).isSome) then
      .ok (s1, ps.foldr (fun p n => n * 2 ^ (8 * p.2) + ((got p).bind id).elim 0 (fun v => v.toNat % 2 ^ (8 * p.2))) 0)
    else match sendReads d (ps.filter (fun p => (got p).isNone)) s1 with
      | .error e => .error e
      | .ok s2 => .error (.park s2 .reply)

/-- Reads memory at issue, with the checks of a load. -/
def readAtIssue (s : State) (k : Access) (a : Word) (size align : Nat) : Except Stop (State × Nat) :=
  match locate s s.asker k a size align none 0 with
  | .error c => .error (.trap c a)
  | .ok (s1, p) =>
    match checkData s [(a, false)] with
    | .error e => .error e
    | .ok _ => readPlace s1 p a size

/-! ## Reading an operand -/

/-- An element of a stream that lies on this device, read at its home, be its path the read-only one (R213): none while it must wait there. It
does not count under R104. -/
def elementHere (s : State) (p : Place) (w : Nat) : Option (State × Nat) :=
  match p with
  | .mem pa _ | .ro _ pa =>
    if blockedHere s pa w then none else some (noteRead s (.slotData · s.asker.ctx s.cur) pa w, readNat s pa w)
  | .reg die off => some (s, (regRead s die off).toNat)
  | .remote _ => none

/-- The next element of a stream, when it lies on another device and has neither been read nor been asked for: the device, the address
and the state of the checks. -/
def elementFar (s : State) (r : Reg) : Option (State × Nat × Word) :=
  let x := streamOf s.t r
  match streamAddr x with
  | none => none
  | some a =>
    if x.bad || !x.ahead.isEmpty || s.t.pend.contains (.ahead (r = 62)) then none
    else match locate s s.asker .load a (streamWidth x) (streamWidth x) none 0 with
      | .ok (s1, .remote d) => some (s1, d, a)
      | _ => none

/-- The copy unit asks for an element on another device, unless its replay queue is full (R152, R213). -/
def askElement (s : State) (r : Reg) (d : Nat) (a : Word) : State :=
  let x := streamOf s.t r
  let unit := copyPort s.cluster
  if replayCount s unit ≥ 16 then s
  else
    let m := remoteOf s d a (streamWidth x) 0 .load 0 (.ahead (r = 62)) ((cfgAt x 1).getLsbD 4) false
    markPend { s with remote := s.remote ++ [{ m with ahead := true, unit := unit, queued := queuesBehind s unit d }] } s.cur (.ahead (r = 62))

/-- Pops the next element of a stream armed for reading; the read is the copy unit's, which no comparator watches. A pop whose element has
not arrived stalls (R213, R260). -/
def popStream (s : State) (r : Reg) : Except Stop (State × Word) :=
  let x := streamOf s.t r
  match streamAddr x with
  | none => .error (.trap .queue (r.zeroExtend 64))
  | some a =>
    if x.bad then .error (.trap .queue (r.zeroExtend 64))
    else
      let w := streamWidth x
      let fin (s1 : State) (v : Word) (rest : List Word) : State × Word :=
        let x1 := { streamOf s1.t r with next := x.next + 1, ahead := rest, value := v }
        (s1.setT (setStream s1.t r x1), v)
      match x.ahead with
      | v :: rest => .ok (fin s v rest)
      | [] =>
        match locate s s.asker .load a w w none 0 with
        | .error c => .error (.trap c a)
        | .ok (s1, p) =>
          match elementHere s1 p w with
          | none => .error .stall
          | some (s2, v) => .ok (fin s2 (loadValue ((cfgAt x 1).getLsbD 4) w v) [])

/-- The value of an operand field, popped if the code is a queue (R57 to R61, R310). The link queues hold their words by R14. -/
def readReg (s : State) (r : Reg) : Except Stop (State × Word) :=
  match linkOf r with
  | some d =>
    match linkQueue (s.coreAt s.core) d with
    | [] => .error .stall
    | w :: _ => .ok (popLink s s.core d, w)
  | none =>
    if isIb r then
      match s.t.runs with
      | run :: _ =>
        if run.given && run.ibRead < 6 then
          .ok (s.setT (setRun s.t (fun x => { x with ibRead := x.ibRead + 1 })), run.record.getD (2 + run.ibRead) 0)
        else .error (.trap .queue 60)
      | [] => .error (.trap .queue 60)
    else if isEq r then
      match s.t.eq with
      | w :: rest => .ok (s.setT { s.t with eq := rest }, w)
      | [] => .error (.trap .queue 63)
    else if isStream r && (streamOf s.t r).armed then
      if (streamOf s.t r).write then .error (.trap .queue (r.zeroExtend 64)) else popStream s r
    else .ok (s, plainRead s.t r)

/-! ## Writing an operand -/

/-- Marks the store that a push has left waiting, here or at another device, with the stream's former value (R215). -/
def markPush (s s1 : State) (b : Bool) (old : Word) : State :=
  if s.held.length < s1.held.length then
    { s1 with held := s1.held.dropLast ++ (s1.held.getLast?.map (fun h => { h with push := some (b, old) })).toList }
  else if s.remote.length < s1.remote.length then
    { s1 with remote := s1.remote.dropLast ++ (s1.remote.getLast?.map (fun r => { r with push := some (b, old) })).toList }
  else s1

/-- A write of a stream armed for writing is a store of its low bytes (R214). -/
def pushStream (s : State) (r : Reg) (v : Word) : Eff :=
  let x := streamOf s.t r
  match streamAddr x with
  | none => .error (.trap .queue (r.zeroExtend 64))
  | some a =>
    if x.bad then .error (.trap .queue (r.zeroExtend 64))
    else
      let w := streamWidth x
      match accessRaw s .store a w w none 0 (.store (v.zeroExtend 512)) .none [] with
      | .error e => .error e
      | .ok (s0, _) =>
        let s1 := markPush s s0 (r = 62) x.value
        .ok (s1.setT (setStream s1.t r { streamOf s1.t r with next := x.next + 1, value := v }))

/-- A push that is refused has pushed nothing (R214, R225). -/
def undoPush (t : Task) (p : Option (Bool × Word)) : Task :=
  match p with
  | none => t
  | some (b, old) =>
    let r : Reg := if b then 62 else 61
    setStream t r { streamOf t r with next := (streamOf t r).next - 1, value := old }

/-- Codes whose write takes QUEUE at issue (R57, R60, R355). -/
def badWrite (t : Task) (r : Reg) : Bool :=
  isIb r || isEq r || (isStream r && (streamOf t r).armed && !(streamOf t r).write)

/-- Codes whose read takes QUEUE at issue (R60, R384). -/
def badRead (t : Task) (r : Reg) : Bool := isStream r && (streamOf t r).armed && (streamOf t r).write

/-- Writes a register code (R57, R58, R60). -/
def putReg (s : State) (r : Reg) (v : Word) : Eff :=
  match linkOf r with
  | some d => .ok (pushLink s s.core d v)
  | none =>
    if badWrite s.t r then .error (.trap .queue (r.zeroExtend 64))
    else if isStream r && (streamOf s.t r).armed then pushStream s r v
    else .ok (s.setT (plainWrite s.t r v))

/-- Runs an operation with another slot in force. -/
def withSlot (s : State) (n : Nat) (f : State → State) : State := (f (s.makeHot n)).makeHot s.cur

/-- Where a result that comes back for a code will go, and the address that it will be stored to. A stream armed for writing takes it as its
next element: the store is checked now, and its element number is taken (R214, R355). -/
def claimDst (s : State) (r : Reg) : Except Stop (State × Dst × List (Word × Bool)) :=
  let x := streamOf s.t r
  if isStream r && x.armed && x.write then
    match streamAddr x with
    | none => .error (.trap .queue (r.zeroExtend 64))
    | some a =>
      if x.bad then .error (.trap .queue (r.zeroExtend 64))
      else
        let w := streamWidth x
        match locate s s.asker .store a w w none 0 with
        | .error c => .error (.trap c a)
        | .ok (s1, p) =>
          let s2 := s1.setT (setStream s1.t r { x with next := x.next + 1 })
          match p with
          | .mem pa _ => if inArmed s2 pa w then .error (.trap .prot a) else .ok (s2, .elem (r = 62) pa w (checkedAccess p a) a, [(a, true)])
          | .reg die off => .ok (s2, .elemReg (r = 62) die off, [(a, true)])
          | .remote d => .ok (s2, .elemFar (r = 62) d a w, [(a, true)])
          | _ => .error (.trap .path a)
  else .ok (s, dstOf s.t r, [])

/-- A result reaches its destination. An element of a stream is stored, as an access of the slot that took its place in the stream at
issue (R214). -/
def deliver (s : State) (n : Nat) (d : Dst) (sign : Bool) (size v : Nat) : State :=
  match d with
  | .elem b pa w checked a =>
    let x := streamOf (s.slotAt n).t (if b then 62 else 61)
    let value := loadValue sign size v
    let h : Held := { slot := n, seq := (s.slotAt n).t.seq, pc := (s.slotAt n).t.pc, addr := pa, size := w, q := 0,
                      op := .store (value.zeroExtend 512), dst := .none, popA := none, popB := none, popC := none, pfx := none, parts := 1,
                      push := some (b, x.value), checked := checked, va := a, stamp := s.nextCid }
    (request (writeDst s n d sign size v) h).1
  | .elemReg _ die off => regWrite (writeDst s n d sign size v) die off (loadValue sign size v) false
  | .elemFar b device a w =>
    let x := streamOf (s.slotAt n).t (if b then 62 else 61)
    withSlot (writeDst s n d sign size v) n (fun s1 =>
      let m := remoteOf s1 device a w 0 .store ((loadValue sign size v).zeroExtend 4096) .none false d.waits
      { s1 with remote := s1.remote ++ [{ m with push := some (b, x.value) }] })
  | d => writeDst s n d sign size v

/-- An access whose result goes to d, delivered if it is performed in this step. The slot waits for a checked store of the result. -/
def accessTo (s : State) (k : Access) (a : Word) (size align : Nat) (sc : Option (BitVec 2)) (q : BitVec 2) (op : HomeOp) (dst : Dst)
    (also : List (Word × Bool)) : Eff :=
  match accessRaw s k a size align sc q op dst also with
  | .error e => .error e
  | .ok (s1, none) => .ok (if dst.waits then awaitAnswer s1 else s1)
  | .ok (s1, some v) =>
    let s2 := deliver s1 s1.cur dst (opSign op) size v
    .ok (if dst.waits && answersDue s2 s2.cur then awaitAnswer s2 else s2)

/-- One access of the slot in force, whose result goes to a code. -/
def access (s : State) (k : Access) (a : Word) (size align : Nat) (sc : Option (BitVec 2)) (q : BitVec 2) (op : HomeOp) (rd : Reg) : Eff :=
  match claimDst s rd with
  | .error e => .error e
  | .ok (s1, dst, also) => accessTo s1 k a size align sc q op dst also

/-- Elements read ahead of sa (false) or sb (true) are discarded, and those on their way are not taken (R213, R215). -/
def dropAheadOf (b : Bool) (s : State) (n : Nat) : State :=
  let gone (d : Dst) : Dst := if d = .ahead b then .none else d
  let s1 : State := { s with remote := s.remote.map (fun (r : Remote) => if r.slot = n && r.eng.isNone then { r with dst := gone r.dst } else r),
                             replies := s.replies.map (fun (r : Reply) => if r.slot = n then { r with dst := gone r.dst } else r) }
  s1.updTaskOf n (fun t =>
    { setStream t (if b then 62 else 61) { streamOf t (if b then 62 else 61) with ahead := [] } with pend := t.pend.filter (· ≠ .ahead b) })

def dropAhead (s : State) (n : Nat) : State := dropAheadOf true (dropAheadOf false s n) n

end Sys2Proof.Machine
end

