-- ==== Sys2Proof/Machine/Ops.lean ====
section
/-!
DEFINITION. The shared operations of every instruction: issue with its checks and their order (spec/04_encoding.md R86, R102; spec/01
R11, R14; spec/20 R310), taking a trap or an interrupt (spec/15_traps_debug.md R248 to R252, spec/04_encoding.md R74), the return from
one (spec/21 R346), parking, completion and the trace (R265, R266).
-/
namespace Sys2Proof.Machine

/-- The outcome type of exec. -/
abbrev Out := Host.Outcome State Fault Refusal

/-! ## Trace (R265, R266) -/

/-- The kind is recorded for the slot in force: recording is on, not frozen, and not stopped by a full ring. -/
def traceOn (k : Core) (slot kind : Nat) : Bool :=
  k.trcctl.getLsbD 0 && k.trcctl.getLsbD (9 + slot) && k.trcctl.getLsbD (1 + kind) && !k.trcstat.getLsbD 0
    && (k.trcctl.getLsbD 13 || !k.trcstat.getLsbD 1)

/-- A record matches the trigger. -/
def triggers (k : Core) (kind : Nat) (addr : Pc) : Bool :=
  bitsOf k.trctrig 60 4 = kind && kind ≠ 0 && (bitsOf k.trctrig 0 48 = 0 || bitsOf k.trctrig 0 48 = addr.toNat)

def traceCore (k : Core) (slot kind extra : Nat) (addr : Pc) (time : Word) : Core :=
  if !traceOn k slot kind then k
  else
    let i := k.trcptr.toNat % 256
    let w1 : Word := BitVec.ofNat 64 (kind * 2 ^ 60 + slot * 2 ^ 58 + extra % 1024 * 2 ^ 48 + addr.toNat)
    let hit := triggers k kind addr
    let post := match k.tracePost with
      | some n => some (n - 1)
      | none => if hit then some (bitsOf k.trctrig 48 12) else none
    { k with trace := k.trace.set 0 i (w1 ++ time), trcptr := BitVec.ofNat 64 ((i + 1) % 256), tracePost := post,
             trcstat := k.trcstat ||| (if i = 255 then 2 else 0) ||| (if hit then 4 else 0) ||| (if post = some 0 then 1 else 0) }

/-- Records an event of the slot in force. -/
def trace (s : State) (kind extra : Nat) (addr : Pc) : State :=
  s.setCore s.core (traceCore (s.coreAt s.core) (s.cur % 4) kind extra addr s.tstamp)

/-! ## Prefix (R82, R86) -/

def fmtOfWord (w : IWord) : FmtWord :=
  { fa := (w.extractLsb' 20 6).toNat, fb := (w.extractLsb' 14 6).toNat, fd := (w.extractLsb' 8 6).toNat,
    sm := (w.extractLsb' 5 3).toNat, sat := w.getLsbD 4, rm := (w.extractLsb' 2 2).toNat }

def Task.hasPrefix (t : Task) : Bool := t.status.getLsbD 2

/-- The prefix in force, or the default of R86. -/
def Task.fmt (t : Task) : FmtWord := if t.hasPrefix then fmtOfWord t.pending else .dflt

/-- A restored word that is no FMT word (R74). -/
def Task.badPrefix (t : Task) : Bool := t.hasPrefix && !(t.pending.extractLsb' 26 6 = 0x36 && t.pending.extractLsb' 0 2 = 0)

/-! ## Issue -/

/-- What an instruction names and needs: the operand fields it reads (ra, rb, the third), the codes it writes, whether it accepts a
prefix and which ones, an encoding that a prefix makes illegal, whether it is privileged, a control instruction (R121), the tiles it
touches, whether it leaves the prefix alone (FMT), whether it returns from a handler (ERET), whether its effect is a trap or halt of
its own (TRAP, BKPT), which strand members take each for itself (R123), whether it is a store, whose third field may not be eq (R384), and
whether it names a barrier and no address. -/
structure Use where
  a : Option Reg := none
  b : Option Reg := none
  c : Option Reg := none
  d : List Reg := []
  pfx : Bool := false
  fmtOk : FmtWord → Bool := fun _ => true
  mixed : FmtWord → Bool := fun _ => false
  priv : Bool := false
  control : Bool := false
  tiles : List Nat := []
  keepPfx : Bool := false
  ret : Bool := false
  own : Bool := false
  store : Bool := false
  handle : Bool := false

/-- The values of the operand fields. -/
structure Vals where
  a : Word
  b : Word
  c : Word
  deriving DecidableEq, Repr

/-- The codes read whose words are not already held (R250); an inactive slot reads no queue (R121, R361). -/
def Use.popped (u : Use) (t : Task) : List Reg :=
  if !t.active then []
  else (if t.heldA.isNone then u.a.toList else []) ++ (if t.heldB.isNone then u.b.toList else []) ++ (if t.heldC.isNone then u.c.toList else [])

def Use.reads (u : Use) : List Reg := u.a.toList ++ u.b.toList ++ u.c.toList

def allDirs : List Dir := [.north, .south, .east, .west]

/-- R14: every link queue popped holds a word for each appearance, every one pushed has a free entry for each. -/
def linksReady (s : State) (u : Use) : Bool :=
  allDirs.all (fun d =>
    ((u.popped s.t).filter (fun r => linkOf r = some d)).length ≤ (linkQueue (s.coreAt s.core) d).length
      && (let n := (u.d.filter (fun r => linkOf r = some d)).length
          n = 0 || linkFill s s.core d + n ≤ 8))

/-- No named register or tile awaits an outstanding result. -/
def scoreboardClear (t : Task) (u : Use) : Bool :=
  t.pend.isEmpty
    || (!(u.reads ++ u.d).any (fun r => dstOf t r ≠ .none && (linkOf r).isNone && !outOfFrame t r && t.pend.contains (dstOf t r))
      && !t.pend.any (fun p =>
        match p with
        | .slice m _ _ _ _ => u.tiles.contains m
        | .elem b _ _ _ _ | .elemReg b _ _ | .elemFar b _ _ _ => (u.reads ++ u.d).contains (if b then 62 else 61)
        | _ => false))

/-- The followers that an instruction of the slot in force is forwarded to (R121). -/
def forwardTo (t : Task) : List Nat := if t.handlers = 0 then t.followers else []

/-- A leader whose followers' buffers are full stalls (R123). -/
def forwardRoom (s : State) : Bool := (forwardTo s.t).all (fun n => (s.slotAt n).t.fwd.length < 64)

def readyToIssue (s : State) (u : Use) : Bool := linksReady s u && scoreboardClear s.t u && forwardRoom s

/-- A code that the instruction may not read takes QUEUE at issue (R60, R384); an inactive slot reads no queue (R361). -/
def Use.refuses (u : Use) (t : Task) (r : Reg) : Bool := t.active && (badRead t r || (u.store && u.c = some r && isEq r))

/-- The checks of R102 up to ILLREG, and the queue traps taken at issue before any pop (R310). -/
def staticCheck (i : Instr) (u : Use) (t : Task) : Option (Cause × Word) :=
  let w : Word := i.word.zeroExtend 64
  if t.badPrefix then some (.illop, t.pending.zeroExtend 64)
  else if !i.wellFormed || (t.hasPrefix && !u.pfx) || u.mixed t.fmt then some (.illop, w)
  else if !u.fmtOk t.fmt then some (.illfmt, w)
  else if u.priv && !t.status.getLsbD 0 then some (.priv, w)
  else match (u.reads ++ u.d).find? (outOfFrame t) with
    | some r => some (.illreg, r.zeroExtend 64)
    | none =>
      match u.d.find? (badWrite t) with
      | some r => some (.queue, r.zeroExtend 64)
      | none => (u.reads.find? (u.refuses t)).map (fun r => (.queue, r.zeroExtend 64))

/-- One operand field: a held word, a popped one (which is then held until completion), or a plain value; an inactive slot takes a queue
as 0 (R361; for a branch, DEDUCED, log 87). -/
def readField (s : State) (r : Option Reg) (held : Option Word) (keep : Task → Word → Task) : Except Stop (State × Word) :=
  match r with
  | none => .ok (s, 0)
  | some r =>
    if pops s.t r && !s.t.active then .ok (s, 0)
    else if pops s.t r then
      match held with
      | some w => .ok (s, w)
      | none =>
        match readReg s r with
        | .error e => .error e
        | .ok (s1, w) => .ok (s1.setT (keep s1.t w), w)
    else .ok (s, plainRead s.t r)

/-- The operand fields in the order ra, rb, third (R310). The state keeps the words popped, whatever follows. -/
def gather (s : State) (u : Use) : State × Except Stop Vals :=
  match readField s u.a s.t.heldA (fun t w => { t with heldA := some w }) with
  | .error e => (s, .error e)
  | .ok (s1, a) =>
    match readField s1 u.b s1.t.heldB (fun t w => { t with heldB := some w }) with
    | .error e => (s1, .error e)
    | .ok (s2, b) =>
      match readField s2 u.c s2.t.heldC (fun t w => { t with heldC := some w }) with
      | .error e => (s2, .error e)
      | .ok (s3, c) => (s3, .ok { a := a, b := b, c := c })

/-- The slot stalls on the scoreboard; the port passes to the core's other slots (R103). -/
def stalled (s : State) : State :=
  let k := s.coreAt s.core
  s.setCore s.core { k with stalls := k.stalls ||| 1 <<< (s.cur % 4), lost := k.lost || k.last = s.cur % 4 }

/-- The slot in force has issued: it keeps the port unless its instruction is marked, and slots that stalled before are tried again (R84,
R103). -/
def issued (sw : Bool) (s : State) : State :=
  s.setCore s.core { s.coreAt s.core with last := s.cur % 4, lost := sw, stalls := 0 }

/-- The unit of a barrier's pool, and of a cluster's strand requests (R120, R174, R268): the cluster unit, the die's register window, die 0's,
or the host port, past the numbers that R268 gives to homes. -/
def barHome (h : Nat) : Nat := 0x10000 + h / 2 ^ 20
def strandHome (cluster : Nat) : Nat := 0x20000 + cluster

/-- Homes at which a wait registers a watch (R130). -/
def watchHome (s : State) (w : Wait) : Option Nat :=
  match w with
  | .counter a _ | .join a _ => some (homeOf a)
  | .barrier h _ => some (barHome h)
  | .segment seg _ _ _ _ => some (orderHome s seg)
  | .strand _ => some (strandHome s.cluster)
  | _ => none

/-- Parks the slot in force on a wait; its instruction stays at the PC. A wait whose condition holds already is met. -/
def parkOn (s : State) (w : Wait) : State :=
  let s1 := match watchHome s w with
    | some h => addWatch (dropWatch s s.cur) s.cur h
    | none => s
  s1.setT { s1.t with wait := some w, met := waitHolds s1 s1.cur w }

/-- Sends an instruction along a strand's chain (R121). -/
def forward (s : State) (pc : Pc) (w : IWord) (next : Pc) (fs : List Nat) : State :=
  fs.foldl (fun a n => a.updTaskOf n (fun t => { t with fwd := t.fwd ++ [{ pc := pc, word := w, next := next }] })) s

/-- The instruction comes from the leader's stream (R121). -/
def Task.follows (t : Task) : Bool := t.leader.isSome && t.handlers = 0

/-- What a completed instruction leaves behind: the held words and the prefix are used up, a follower goes to the instruction that
the leader went to, a leader forwards, and a marked instruction parks until its results are back (R84, R86,
R121, R250). s0 is the state at issue. -/
def complete (word : IWord) (sw : Bool) (u : Use) (s0 s : State) : State :=
  let t := s.t
  let t0 := if u.ret then t else { t with heldA := none, heldB := none, heldC := none, fetched := [], pass := none }
  let t1 := { t0 with met := false, seq := t.seq + 1, status := if u.keepPfx || u.ret then t.status else t.status &&& 3 }
  let t2 := if s0.t.follows && t1.leader.isSome then { t1 with pc := (t1.fwd.head?.map Fwd.next).getD t1.pc, fwd := t1.fwd.drop 1 } else t1
  let s1 := { s with slot := { s.slot with t := t2, haltReq := s.slot.haltReq || s.slot.bkptctl.getLsbD 16 } }
  let s2 := forward s1 s0.t.pc word t2.pc ((forwardTo s0.t).filter (fun n => t.followers.contains n))
  if sw && outstandingReads s2 s2.cur && s2.t.wait.isNone then s2.setT { s2.t with wait := some .marker } else s2

/-- The parked instruction of the slot in force completes: its wait is over, its result already written, and the PC goes on (R130). -/
def completeWait (s : State) : State :=
  let s1 := dropWatch s s.cur
  let w := s1.t.waitWord
  complete w (w.getLsbD 0) {} s (s1.setT { s1.t with wait := none, met := false, pc := s1.t.pc + 4 })

/-! ## Taking a trap or an interrupt -/

def causeCode : Cause → Nat
  | .illop => 0x01
  | .illreg => 0x02
  | .illfmt => 0x03
  | .slice => 0x04
  | .align => 0x05
  | .path => 0x06
  | .xlat => 0x07
  | .prot => 0x08
  | .priv => 0x09
  | .stack => 0x0A
  | .accown => 0x0B
  | .accinv => 0x0C
  | .queue => 0x0D
  | .popmem => 0x0E
  | .trap => 0x10
  | .bkpt => 0x11

/-- The request of another device's memory may wait for a full/empty bit (R144). -/
def Remote.qualified (r : Remote) : Bool :=
  r.eng.isNone && !r.ahead && (match r.acc.op with | .load => r.acc.q ≠ 0 | .store => r.acc.q = 2 | _ => false)

/-- The slot's full/empty accesses at other devices are withdrawn: one that stands in the replay queue is set aside at once; the withdrawal of
one that may wait at its home is sent after it, and the answer says whether it was performed (R144, DEDUCED, log 16). -/
def pullFar (s : State) : State :=
  let mine (r : Remote) : Bool := r.slot = s.cur && r.qualified
  if !s.remote.any mine then s
  else
    let aside := (s.remote.filter (fun r => mine r && r.replays)).map (fun r => (s.t.handlers, { r with parked := none, queued := false }))
    let s1 := { s with remote := (s.remote.filter (fun r => !(mine r && r.replays))).map (fun r => if mine r then { r with withdrawn := some s.t.handlers } else r) }
    s1.setT { s1.t with pulledFar := s1.t.pulledFar ++ aside }

/-- Accesses that wait for a full/empty bit here are set aside, to be sent again at ERET or on resume, with the number of handlers that the
slot is in (R144, DEDUCED, log 16). -/
def pullHere (s : State) : State :=
  let mine (h : Held) : Bool := h.slot = s.cur && h.q ≠ 0 && h.parts ≠ 0
  let w := s.held.filter mine
  if w.isEmpty then s
  else
    let s1 := { s with held := s.held.filter (fun h => !mine h) }
    s1.setT { s1.t with pulled := s1.t.pulled ++ w.map (fun h => { h with level := s1.t.handlers }) }

def pullQualified (s : State) : State := pullFar (pullHere s)

/-- The latest instruction is a full/empty access that waits whole: it is withdrawn, and the PC stands at it again with its popped
words and its prefix (R144, R252, DEDUCED, log 16). -/
def withdrawLatest (s : State) : State :=
  let w := s.held.filter (fun h => h.slot = s.cur && h.q ≠ 0 && h.parts ≠ 0 && h.seq + 1 = s.t.seq)
  match w with
  | [] => s
  | h :: _ =>
    if w.length ≠ h.parts then s
    else
      let s1 := { s with held := s.held.filter (fun g => !(g.slot = s.cur && g.seq = h.seq)) }
      let t := s1.t
      s1.setT { t with pc := h.pc, seq := h.seq, heldA := h.popA, heldB := h.popB, heldC := h.popC,
                       pend := w.foldl (fun p g => p.erase g.dst) t.pend,
                       pending := h.pfx.getD t.pending,
                       status := if h.pfx.isSome then t.status ||| 4 else t.status }

/-- A destination that an instruction has claimed is given back: its link entry, or its place in a stream (R214, R355). -/
def unclaim (s : State) (n : Nat) (d : Dst) : State :=
  match d with
  | .none => s
  | .link dir => holdLink (clearPend s n d) (coreOf n) dir false
  | .elem b _ _ _ _ | .elemReg b _ _ | .elemFar b _ _ _ =>
    (clearPend s n d).updTaskOf n (fun t =>
      let r : Reg := if b then 62 else 61
      setStream t r { streamOf t r with next := (streamOf t r).next - 1 })
  | _ => clearPend s n d

/-- Gives up what a parked instruction has asked for: a lease (R182), a RESAMPLE's arrival (R367), a watch on another device, a value asked
of one (R252). A STRAND's reservations go with its wait (R385). -/
def leaveWait (s : State) : State :=
  match s.t.wait with
  | some .remoteWait | some .reply | some (.joinProbe _ _) =>
    let mine (r : Remote) : Bool := r.slot = s.cur && r.hold && r.eng.isNone
    (s.remote.filter mine).foldl (fun a r => unclaim a s.cur r.dst) { s with remote := s.remote.filter (fun r => !mine r) }
  | some .lease => s.setCluster s.cluster { s.clusterAt s.cluster with asks := (s.clusterAt s.cluster).asks.filter (fun q => q.1 ≠ s.cur) }
  | some (.resample blk _ _ dst) =>
    let s := unclaim s s.cur dst
    let f (x : Nat × Die) : Nat × Die :=
      (x.1, { x.2 with pops := x.2.pops.map (fun p => if p.block = blk then { p with arrived := p.arrived.filter (fun m => m.2 ≠ s.cur) } else p) })
    { s with dies := s.dies.map f }
  | _ => s

/-- A governed TLD or TST leaves its wait (R86, R144): if all of its parts wait it is withdrawn, and keeps its prefix; if some have been
performed it completes, and the parts that still wait are its slot's waiting accesses (DEDUCED, log 16). -/
def leaveTile (s : State) : State :=
  let w := s.held.filter (fun h => h.slot = s.cur && h.seq = s.t.seq)
  if !w.isEmpty && w.all (fun h => w.length = h.parts) then
    let s1 := { s with held := s.held.filter (fun h => !(h.slot = s.cur && h.seq = s.t.seq)) }
    s1.setT { s1.t with pend := w.foldl (fun p h => p.erase h.dst) s1.t.pend, wait := none, met := false }
  else completeWait s

/-- The wait of the slot in force ends unfinished; its instruction stays restartable. -/
def endWait (s : State) : State :=
  if s.t.wait = some .tile then leaveTile s
  else
    let s1 := dropWatch (leaveWait s) s.cur
    s1.setT { s1.t with wait := none, met := false }

/-- Entry into a handler, for a trap or an interrupt, with the PC that TEPC takes in the slot's pc (R74, R248 to R250). A handler's
first instruction waits for the results still outstanding (R249). -/
def enterHandler (s : State) (cause : Nat) (irq : Bool) (v : Word) : State :=
  let s1 := dropAhead (pullQualified (endWait s)) s.cur
  let t := s1.t
  let t1 := { t with tepc := t.pc.zeroExtend 64,
                     tcause := BitVec.ofNat 64 (cause + boolBit irq 63), tval := v,
                     tstatus := t.statusWord,
                     tprefix := if t.hasPrefix then t.pending.zeroExtend 64 else t.tprefix,
                     status := (t.status &&& 1) ||| 1, handlers := t.handlers + 1,
                     keptA := t.heldA, keptB := t.heldB, keptC := t.heldC, heldA := none, heldB := none, heldC := none,
                     pass := none, matched := t.pass :: t.matched, fetched := [],
                     wait := if outstandingReads s1 s1.cur then some .marker else none }
  let s2 := if t.active then trace (s1.setT t1) 5 (cause + boolBit irq 8) t.pc else s1.setT t1
  if t.tvec = 0 then
    { s2 with slot := { s2.slot with halted := true, t := { s2.t with heldA := t.heldA, heldB := t.heldB, heldC := t.heldC } } }
  else s2.setT { s2.t with pc := t.tvec.truncate 48 }

/-- A precise trap on the instruction at the slot's PC. -/
def takeTrap (s : State) (c : Cause) (v : Word) : State := enterHandler s (causeCode c) false v

/-- The errors that the walk of a refused address has met in the page tables are noted all the same (R289, R290). -/
def noteTrap (u : Use) (s : State) (c : Cause) (v : Word) : State :=
  if !u.handle && (c = .xlat || c = .prot) then noteFault s s.asker v else s

/-- An interrupt of cause n at the boundary (R252): TEPC names the next instruction, or the waiting one. -/
def takeInterrupt (s : State) (n : Nat) : State := enterHandler (withdrawLatest s) n true 0

/-! ## Halts and stops (R255, R261) -/

/-- A RESAMPLE in phase 2 is not withdrawn (R367). -/
def phase2Wait (s : State) (w : Wait) : Bool := match w with | .resample blk _ _ _ => readNat s (blk + 48) 8 = 2 | _ => false

/-- The slot in force stops at this boundary: a waiting instruction is withdrawn, and re-executes whole on resume, and so are its accesses
that wait for a full/empty bit. A checked access waits for its answer (R226), a RESAMPLE in phase 2 for its end (R367). -/
def withdrawWait (s : State) : State :=
  match s.t.wait with
  | some w => if w.sure || phase2Wait s w then s else pullQualified (endWait s)
  | none => pullQualified (withdrawLatest s)

def State.halt (s : State) : State := { s with slot := { s.slot with halted := true, haltReq := false } }

/-- The slot in force halts at this boundary (R261). -/
def haltHere (s : State) : State := (withdrawWait s).halt

/-- The slot in force halts at the instruction that halts it, which keeps its popped words; earlier accesses that wait are set aside, so that
the PC stays at it (R260, R261, R324). -/
def haltAt (s : State) : State := (pullQualified s).halt

/-! ## Issuing -/

/-- The instruction in force completes only when its answers are here: the PC, the held words and the prefix stay until then (R86, R165,
R226). -/
def awaiting (word : IWord) (s0 s : State) : State := s.setT { s.t with pc := s0.t.pc, waitWord := word, met := false }

/-- An instruction whose effect has come about completes, or waits for what it has sent. -/
def conclude (word : IWord) (sw : Bool) (u : Use) (s0 s : State) : State :=
  if s.t.wait = some .answer || s.t.wait = some .tile then issued true (awaiting word s0 s) else issued sw (complete word sw u s0 s)

/-- An instruction that stops. s0 is the state at issue, s the one with its operands read: a stall leaves no word popped (R14). One whose
read was dropped completes with no effect of its own (R153). A TRAP or BKPT of a leader is forwarded (R121, R123). -/
def stopped (word : IWord) (sw : Bool) (u : Use) (s0 s : State) (e : Stop) : State :=
  let told (a : State) : State := if u.own then forward a s0.t.pc word (s0.t.pc + 4) (forwardTo s0.t) else a
  match e with
  | .trap c v => takeTrap (noteTrap u (told s) c v) c v
  | .stall => stalled s0
  | .dropped => issued sw (complete word sw u s0 (s.setT { s.t with pc := s.t.pc + 4 }))
  | .halt => haltAt (told s)
  | .park s1 w => issued true (parkOn (s1.setT { s1.t with pc := s.t.pc, waitWord := word }) w)

/-- A stream whose next element lies on another device and has not been asked for, among the codes that an instruction pops. -/
def farElement (s : State) (u : Use) : Option (Reg × State × Nat × Word) :=
  (u.popped s.t).findSome? (fun r =>
    if isStream r && (streamOf s.t r).armed && !(streamOf s.t r).write then (elementFar s r).map (fun e => (r, e)) else none)

/-- Issues an instruction on the slot in force: readiness, the checks of R102, the operands, then its own effect on a state whose PC
already stands at the next instruction. An inactive slot skips all but control instructions (R121). -/
def issue (i : Instr) (sw : Bool) (u : Use) (body : Vals → State → Eff) (s : State) : Out :=
  let pc := s.t.pc
  if !s.t.active && !u.control then
    .next (if forwardRoom s then issued sw (complete i.word sw u s (s.setT { s.t with pc := pc + 4 })) else stalled s)
  else if !readyToIssue s u then .next (stalled s)
  else match staticCheck i u s.t with
    | some (c, v) => .next (takeTrap s c v)
    | none =>
      match farElement s u with
      | some (r, s1, d, a) => .next (stalled (askElement s1 r d a))
      | none =>
      match gather s u with
      | (s1, .error e) => .next (stopped i.word sw u s s1 e)
      | (s1, .ok v) =>
        match body v (s1.setT { s1.t with pc := pc + 4 }) with
        | .ok s2 => .next (conclude i.word sw u s s2)
        | .error e => .next (stopped i.word sw u s s1 e)

/-- The effect of writing one result to rd. -/
def result (s : State) (rd : Reg) (v : Word) : Eff := putReg s rd v

/-! ## Return from a handler (R251, R346) -/

/-- Accesses set aside at the trap go to their homes again (R144, DEDUCED, log 16); those of other devices go behind what their core's queue
holds for the device. -/
def resendFar (s : State) : State :=
  let back := (s.t.pulledFar.filter (fun p => s.t.handlers ≤ p.1)).map (fun p => { p.2 with queued := queuesBehind s p.2.unit p.2.device })
  let s1 := s.setT { s.t with pulledFar := s.t.pulledFar.filter (fun p => p.1 < s.t.handlers) }
  { s1 with remote := s1.remote ++ back }

def resend (s : State) (h : Held) : State :=
  match request s { h with stamp := s.nextCid } with
  | (s1, none) => s1
  | (s1, some v) => deliver (clearPend s1 h.slot h.dst) h.slot h.dst (opSign h.op) h.size v

def resendPulled (s : State) : State :=
  let ps := s.t.pulled.filter (fun h => s.t.handlers ≤ h.level)
  let s1 := s.setT { s.t with pulled := s.t.pulled.filter (fun h => h.level < s.t.handlers), pend := ps.foldl (fun p h => p.erase h.dst) s.t.pend }
  resendFar (ps.foldl resend s1)

def returnFromHandler (s : State) : State :=
  let t := s.t
  let st : Word := t.tstatus &&& 7
  let t1 := { t with status := st, pending := if st.getLsbD 2 then t.tprefix.truncate 32 else t.pending,
                     heldA := t.keptA, heldB := t.keptB, heldC := t.keptC, keptA := none, keptB := none, keptC := none,
                     handlers := t.handlers - 1, matched := t.matched.drop 1,
                     pass := (t.matched.headD none).filter (fun p => p = t.tepc.truncate 48 &&& ~~~3), pc := t.tepc.truncate 48 &&& ~~~3 }
  trace (resendPulled (s.setT t1)) 6 0 t1.pc

end Sys2Proof.Machine
end

