-- ==== Sys2Proof/Machine/Alu.lean ====
section
/-!
DEFINITION. The integer group and the immediate forms (spec/20 R311, R312, R315, R323, R330; spec/21 R342, R356, R357, R362, R363; spec/22
R378, R379, R381).
-/
namespace Sys2Proof.Machine

/-! ## Shared forms -/

def use2 (rd ra rb : Reg) : Use := { a := some ra, b := some rb, d := [rd] }
def use1 (rd ra : Reg) : Use := { a := some ra, d := [rd] }

/-- rd := f(ra, rb). -/
def alu2 (i : Instr) (sw : Bool) (rd ra rb : Reg) (f : Word → Word → Word) (s : State) : Out :=
  issue i sw (use2 rd ra rb) (fun v s => result s rd (f v.a v.b)) s

/-- rd := f(ra). -/
def alu1 (i : Instr) (sw : Bool) (rd ra : Reg) (f : Word → Word) (s : State) : Out :=
  issue i sw (use1 rd ra) (fun v s => result s rd (f v.a)) s

/-- sext(imm13, 13) (R83). -/
def immS (imm : BitVec 13) : Word := imm.signExtend 64

/-- 1 when a condition holds, else 0 (R381). -/
def truth (b : Bool) : Word := if b then 1 else 0

/-! ## Operations -/

def minS (x y : Word) : Word := if x.slt y then x else y
def maxS (x y : Word) : Word := if x.slt y then y else x
def minU (x y : Word) : Word := if x < y then x else y
def maxU (x y : Word) : Word := if x < y then y else x
def shlBy (x : Word) (n : Nat) : Word := x <<< n
def shrBy (x : Word) (n : Nat) : Word := x >>> n
def sraBy (x : Word) (n : Nat) : Word := x.sshiftRight n

/-- Leading zeros among the low n bits, trailing zeros from bit i, one bits (R330). -/
def leadingZeros (x : Word) : Nat → Nat
  | 0 => 0
  | n + 1 => if x.getLsbD n then 0 else 1 + leadingZeros x n
def trailingZeros (x : Word) (i : Nat) : Nat → Nat
  | 0 => 0
  | n + 1 => if x.getLsbD i then 0 else 1 + trailingZeros x (i + 1) n
def onesIn (x : Word) : Nat → Nat
  | 0 => 0
  | n + 1 => (if x.getLsbD n then 1 else 0) + onesIn x n

/-- High words of the products (R363). -/
def mulHighS (x y : Word) : Word := BitVec.ofInt 64 (x.toInt * y.toInt / (2 ^ 64 : Nat))
def mulHighU (x y : Word) : Word := BitVec.ofNat 64 (x.toNat * y.toNat / 2 ^ 64)

/-- Division (R342). -/
def divS (x y : Word) : Word := if y = 0 then 0xFFFFFFFFFFFFFFFF else BitVec.ofInt 64 (x.toInt.tdiv y.toInt)
def divU (x y : Word) : Word := if y = 0 then 0xFFFFFFFFFFFFFFFF else BitVec.ofNat 64 (x.toNat / y.toNat)
def remS (x y : Word) : Word := if y = 0 then x else BitVec.ofInt 64 (x.toInt.tmod y.toInt)
def remU (x y : Word) : Word := if y = 0 then x else BitVec.ofNat 64 (x.toNat % y.toNat)

/-- MIX (R55, R362). -/
def mixWords (x y : Word) : Word := mix64 (x + y * 0x9E6C63D0676A9A99)

/-- Bit fields (R323): the length 0 stands for 64. -/
def fieldLen (len : BitVec 6) : Nat := if len = 0 then 64 else len.toNat
def fieldMask (len : BitVec 6) : Word := BitVec.ofNat 64 (2 ^ fieldLen len - 1)
def extractField (x : Word) (pos len : BitVec 6) : Word := (x >>> pos.toNat) &&& fieldMask len
def insertField (old x : Word) (pos len : BitVec 6) : Word :=
  (old &&& ~~~(fieldMask len <<< pos.toNat)) ||| ((x &&& fieldMask len) <<< pos.toNat)

/-! ## Meanings -/

def execAdd (rd ra rb : Reg) (sw : Bool) (s : State) : Out := alu2 (.add rd ra rb sw) sw rd ra rb (fun x y => x + y) s
def execSub (rd ra rb : Reg) (sw : Bool) (s : State) : Out := alu2 (.sub rd ra rb sw) sw rd ra rb (fun x y => x - y) s
def execAnd (rd ra rb : Reg) (sw : Bool) (s : State) : Out := alu2 (.and rd ra rb sw) sw rd ra rb (fun x y => x &&& y) s
def execOr (rd ra rb : Reg) (sw : Bool) (s : State) : Out := alu2 (.or rd ra rb sw) sw rd ra rb (fun x y => x ||| y) s
def execXor (rd ra rb : Reg) (sw : Bool) (s : State) : Out := alu2 (.xor rd ra rb sw) sw rd ra rb (fun x y => x ^^^ y) s
/-- R379: the amount is rb[5:0]. -/
def execShl (rd ra rb : Reg) (sw : Bool) (s : State) : Out := alu2 (.shl rd ra rb sw) sw rd ra rb (fun x y => shlBy x (y.toNat % 64)) s
def execShr (rd ra rb : Reg) (sw : Bool) (s : State) : Out := alu2 (.shr rd ra rb sw) sw rd ra rb (fun x y => shrBy x (y.toNat % 64)) s
def execSra (rd ra rb : Reg) (sw : Bool) (s : State) : Out := alu2 (.sra rd ra rb sw) sw rd ra rb (fun x y => sraBy x (y.toNat % 64)) s
def execSlt (rd ra rb : Reg) (sw : Bool) (s : State) : Out := alu2 (.slt rd ra rb sw) sw rd ra rb (fun x y => truth (x.slt y)) s
def execSltu (rd ra rb : Reg) (sw : Bool) (s : State) : Out := alu2 (.sltu rd ra rb sw) sw rd ra rb (fun x y => truth (x < y)) s
def execMin (rd ra rb : Reg) (sw : Bool) (s : State) : Out := alu2 (.min rd ra rb sw) sw rd ra rb minS s
def execMax (rd ra rb : Reg) (sw : Bool) (s : State) : Out := alu2 (.max rd ra rb sw) sw rd ra rb maxS s
def execMinu (rd ra rb : Reg) (sw : Bool) (s : State) : Out := alu2 (.minu rd ra rb sw) sw rd ra rb minU s
def execMaxu (rd ra rb : Reg) (sw : Bool) (s : State) : Out := alu2 (.maxu rd ra rb sw) sw rd ra rb maxU s

/-- SEL (R378): rd is a source after ra and rb; with ra = 0 it stays as it was, and a link queue as rd is pushed nothing (DEDUCED, log 17). -/
def execSel (rd ra rb : Reg) (sw : Bool) (s : State) : Out :=
  issue (.sel rd ra rb sw) sw { a := some ra, b := some rb, c := some rd, d := [rd] }
    (fun v s => if v.a ≠ 0 then result s rd v.b else .ok s) s

def execMix (rd ra rb : Reg) (sw : Bool) (s : State) : Out := alu2 (.mix rd ra rb sw) sw rd ra rb mixWords s
def execClz (rd ra : Reg) (sw : Bool) (s : State) : Out :=
  alu1 (.clz rd ra sw) sw rd ra (fun x => BitVec.ofNat 64 (leadingZeros x 64)) s
def execCtz (rd ra : Reg) (sw : Bool) (s : State) : Out :=
  alu1 (.ctz rd ra sw) sw rd ra (fun x => BitVec.ofNat 64 (trailingZeros x 0 64)) s
def execPopc (rd ra : Reg) (sw : Bool) (s : State) : Out :=
  alu1 (.popc rd ra sw) sw rd ra (fun x => BitVec.ofNat 64 (onesIn x 64)) s
def execMul (rd ra rb : Reg) (sw : Bool) (s : State) : Out := alu2 (.mul rd ra rb sw) sw rd ra rb (fun x y => x * y) s
def execMulh (rd ra rb : Reg) (sw : Bool) (s : State) : Out := alu2 (.mulh rd ra rb sw) sw rd ra rb mulHighS s
def execMulhu (rd ra rb : Reg) (sw : Bool) (s : State) : Out := alu2 (.mulhu rd ra rb sw) sw rd ra rb mulHighU s

/-- The divider of the core (R342): one division at a time, its result written by DIVISION_RESULT; a division issued meanwhile stalls. -/
def startDivision (rd : Reg) (f : Word → Word → Word) (v : Vals) (s : State) : Eff :=
  let k := s.coreAt s.core
  match k.divider with
  | some _ => .error .stall
  | none =>
    match claimDst s rd with
    | .error e => .error e
    | .ok (s0, d, also) =>
      match checkData s also with
      | .error e => .error e
      | .ok _ =>
        let s1 := s0.setCore s0.core { s0.coreAt s0.core with divider := some { slot := s.cur, dst := d, value := f v.a v.b } }
        let s2 := markPend (reserveDst s1 d) s1.cur d
        .ok (if d.waits then awaitAnswer s2 else s2)

def divide (i : Instr) (sw : Bool) (rd ra rb : Reg) (f : Word → Word → Word) (s : State) : Out :=
  issue i sw (use2 rd ra rb) (startDivision rd f) s

def execDiv (rd ra rb : Reg) (sw : Bool) (s : State) : Out := divide (.div rd ra rb sw) sw rd ra rb divS s
def execDivu (rd ra rb : Reg) (sw : Bool) (s : State) : Out := divide (.divu rd ra rb sw) sw rd ra rb divU s
def execRem (rd ra rb : Reg) (sw : Bool) (s : State) : Out := divide (.rem rd ra rb sw) sw rd ra rb remS s
def execRemu (rd ra rb : Reg) (sw : Bool) (s : State) : Out := divide (.remu rd ra rb sw) sw rd ra rb remU s

/-- DIVISION_RESULT: the divider writes its result (R342). Without a division in progress nothing happens. -/
def execDivisionResult (core : Nat) (s : State) : Out :=
  let k := s.coreAt core
  match k.divider with
  | none => .next s
  | some d =>
    let s1 := s.setCore core { k with divider := none }
    .next (deliver (clearPend s1 d.slot d.dst) d.slot d.dst false 8 d.value.toNat)

def execAddi (rd ra : Reg) (imm : BitVec 13) (sw : Bool) (s : State) : Out := alu1 (.addi rd ra imm sw) sw rd ra (fun x => x + immS imm) s
def execAndi (rd ra : Reg) (imm : BitVec 13) (sw : Bool) (s : State) : Out := alu1 (.andi rd ra imm sw) sw rd ra (fun x => x &&& immS imm) s
def execOri (rd ra : Reg) (imm : BitVec 13) (sw : Bool) (s : State) : Out := alu1 (.ori rd ra imm sw) sw rd ra (fun x => x ||| immS imm) s
def execXori (rd ra : Reg) (imm : BitVec 13) (sw : Bool) (s : State) : Out := alu1 (.xori rd ra imm sw) sw rd ra (fun x => x ^^^ immS imm) s
def execSlti (rd ra : Reg) (imm : BitVec 13) (sw : Bool) (s : State) : Out :=
  alu1 (.slti rd ra imm sw) sw rd ra (fun x => truth (x.slt (immS imm))) s
def execSltiu (rd ra : Reg) (imm : BitVec 13) (sw : Bool) (s : State) : Out :=
  alu1 (.sltiu rd ra imm sw) sw rd ra (fun x => truth (x < immS imm)) s
def execShli (rd ra : Reg) (n : BitVec 6) (sw : Bool) (s : State) : Out := alu1 (.shli rd ra n sw) sw rd ra (fun x => shlBy x n.toNat) s
def execShri (rd ra : Reg) (n : BitVec 6) (sw : Bool) (s : State) : Out := alu1 (.shri rd ra n sw) sw rd ra (fun x => shrBy x n.toNat) s
def execSrai (rd ra : Reg) (n : BitVec 6) (sw : Bool) (s : State) : Out := alu1 (.srai rd ra n sw) sw rd ra (fun x => sraBy x n.toNat) s

/-- sext(imm19, 19) · 2^13 (R83). -/
def immU (imm : BitVec 19) : Word := imm.signExtend 64 <<< 13

def execLui (rd : Reg) (imm : BitVec 19) (sw : Bool) (s : State) : Out :=
  issue (.lui rd imm sw) sw { d := [rd] } (fun _ s => result s rd (immU imm)) s

/-- ADDPC (R312): PC is the address of the ADDPC. -/
def execAddpc (rd : Reg) (imm : BitVec 19) (sw : Bool) (s : State) : Out :=
  let pc := s.t.pc
  issue (.addpc rd imm sw) sw { d := [rd] } (fun _ s => result s rd (pc.zeroExtend 64 + immU imm)) s

def execBfx (rd ra : Reg) (pos len : BitVec 6) (sw : Bool) (s : State) : Out :=
  alu1 (.bfx rd ra pos len sw) sw rd ra (fun x => extractField x pos len) s

/-- BFI reads rd as a source, after ra (R323). -/
def execBfi (rd ra : Reg) (pos len : BitVec 6) (sw : Bool) (s : State) : Out :=
  issue (.bfi rd ra pos len sw) sw { a := some ra, c := some rd, d := [rd] }
    (fun v s => result s rd (insertField v.c v.a pos len)) s

end Sys2Proof.Machine
end

