-- ==== Sys2Proof/Machine/TaskOps.lean ====
section
/-!
DEFINITION. Tasks (spec/06_execution.md R105 to R111, R116, R120, R124 to R126, R129, R412; spec/04_encoding.md R62; spec/22 R371): records,
bind records, the inbox and the deque, the start of a task, and what a slot gives up when it becomes idle.
-/
namespace Sys2Proof.Machine

/-! ## Records (R105) -/

def wordAt (r : List Word) (i : Nat) : Word := r.getD i 0
def recPc (r : List Word) : Pc := (wordAt r 0).truncate 48
def recPrio (r : List Word) : Nat := bitsOf (wordAt r 1) 0 4
def recCtr (r : List Word) : Nat := bitsOf (wordAt r 1) 16 48
def recPayload (r : List Word) : List Word := r.drop 2

/-- The bits of ctr that its region's layout marks zero are zero (R105, R134). -/
def ctrOk (c : Nat) : Bool :=
  c % 8 = 0 &&
    match c / 2 ^ 45 with
    | 0 => true
    | 1 => c / 2 ^ 17 % 2 ^ 16 = 0
    | 2 => c / 2 ^ 21 % 2 ^ 16 = 0
    | 3 => c / 2 ^ 25 % 2 ^ 17 = 0
    | _ => false

def recordValid (r : List Word) : Bool :=
  bitsOf (wordAt r 0) 48 16 = 0 && bitsOf (wordAt r 0) 0 2 = 0 && bitsOf (wordAt r 1) 4 12 = 0 && recPrio r < 12 && ctrOk (recCtr r)

/-- The address of a record's completion counter; none for 0 (R105). -/
def counterAddr (devid : BitVec 12) (r : List Word) : Option Word :=
  let c := recCtr r
  if c = 0 then none
  else if c / 2 ^ 45 = 0 then some (BitVec.ofNat 64 c)
  else some (BitVec.ofNat 64 (4 * 2 ^ 60 + devid.toNat * 2 ^ 48 + (c / 2 ^ 45 - 1) * 2 ^ 45 + c % 2 ^ 45))

/-- A discarded record is counted on its die (R105). -/
def countDiscard (s : State) (die : Nat) : State := s.setDie die { s.dieAt die with discards := (s.dieAt die).discards + 1 }

/-! ## Bind records (R125, R126) -/

def bindOf (s : State) (n : Nat) : List Word :=
  (List.range 8).map (fun i => (s.dieAt (dieOf n)).slotTab.get 0 (8 * (n % 2048) + i))

def bindCtx (b : List Word) : Nat := bitsOf (wordAt b 0) 0 16
def bindMin (b : List Word) : Nat := bitsOf (wordAt b 0) 16 4
def bindMax (b : List Word) : Nat := bitsOf (wordAt b 0) 20 4
def bindSteal (b : List Word) : Nat := bitsOf (wordAt b 0) 24 3
def bindBit (b : List Word) : Bool := (wordAt b 0).getLsbD 32
def bindQuantum (b : List Word) : Nat := bitsOf (wordAt b 1) 0 40
def bindIemask (b : List Word) : Nat := bitsOf (wordAt b 1) 40 6
def bindSave (b : List Word) : Nat := bitsOf (wordAt b 5) 10 15 * 1024
/-- The eight queue entries. -/
def bindQueues (b : List Word) : List Nat := (List.range 8).map (fun i => bitsOf (wordAt b (2 + i / 4)) (16 * (i % 4)) 16)

/-- The fields of a bind record are in range and its reserved fields zero. -/
def bindFieldsOk (b : List Word) : Bool :=
  bindBit b && bitsOf (wordAt b 0) 33 31 = 0 && bitsOf (wordAt b 0) 27 5 = 0 && bindSteal b ≤ 4 && bindMax b ≤ 11 && bindMin b ≤ bindMax b
    && bitsOf (wordAt b 1) 46 18 = 0 && !(wordAt b 1).getLsbD 40 && (bindQueues b).all (fun q => q / 2 ^ 14 % 2 = 0)
    && bitsOf (wordAt b 5) 0 10 = 0 && bitsOf (wordAt b 5) 25 39 = 0 && bitsOf (wordAt b 7) 48 16 = 0 && bitsOf (wordAt b 7) 0 2 = 0

/-- A valid bind record (R125): a reserved slot (maxlev ≤ 3) shares its cluster with no slot of another context (DEDUCED, log 18). -/
def bindValid (s : State) (n : Nat) : Bool :=
  let b := bindOf s n
  bindFieldsOk b
    && (bindMax b > 3
      || (List.range 64).all (fun i =>
          let o := bindOf s (n / 64 * 64 + i)
          !bindBit o || bindCtx o = bindCtx b))

/-- The level range of a bind record admits a prio; levels 0 to 3 run only on reserved slots (R125, R127). -/
def levelsAdmit (b : List Word) (prio : Nat) : Bool := bindMin b ≤ prio && prio ≤ bindMax b && (3 < prio || bindMax b ≤ 3)

/-- The slot's bind is valid and admits a prio. -/
def bindAdmits (s : State) (n prio : Nat) : Bool := bindValid s n && levelsAdmit (bindOf s n) prio

/-- A slot that runs no task and may take one (R107); a stopped, halted or frozen slot takes none. -/
def slotFree (s : State) (n : Nat) : Bool :=
  let x := s.slotAt n
  x.phase = .idle && !x.halted && !x.stopped && !x.saving && !(s.clusterAt (clusterOf n)).frozen
    && !s.stopped.contains (bindCtx (bindOf s n))

/-- Idle (R107): free, with a valid bind or a saved task. -/
def slotIdle (s : State) (n : Nat) : Bool := slotFree s n && (bindValid s n || (s.slotAt n).saved.isSome)

/-! ## What strand requests reserve (R120) -/

/-- The follower slots of a request. -/
def strandSlots (leader count : Nat) : List Nat :=
  (List.range (count - 1)).map (fun i => clusterOf leader * 64 + (leader / 4 % 16 + i + 1) % 16 * 4 + leader % 4)

/-- A slot that the request of a leader holds as soon as it is so: idle, bound to the leader's context, and not reserved otherwise. -/
def strandIdle (s : State) (leader n : Nat) : Bool :=
  slotIdle s n && bindCtx (bindOf s n) = (s.slotAt leader).t.ctxid.toNat && (s.slotAt n).reserve.isNone

/-- A pending request of the cluster holds the slot. -/
def strandWants (s : State) (n : Nat) : Bool :=
  s.watches.any (fun w =>
    w.home = strandHome (clusterOf n)
      && (match (s.slotAt w.slot).t.wait with
          | some (.strand count) => (strandSlots w.slot count).contains n && strandIdle s w.slot n
          | _ => false))

/-- The request whose turn it is: the earliest of the cluster. -/
def strandTurn (s : State) (leader : Nat) : Bool :=
  (s.watches.find? (fun w => w.home = strandHome (clusterOf leader))).map Watch.slot = some leader

/-- Idle, for a placement of a record (R119): a saved task counts only against records of no lower priority. -/
def idleFor (s : State) (n ctx prio : Nat) : Bool :=
  slotFree s n && (s.slotAt n).reserve.isNone && !strandWants s n && bindAdmits s n prio && bindCtx (bindOf s n) = ctx
    && (match (s.slotAt n).saved with | none => true | some t => prio ≤ t.prio.toNat)

/-! ## The inbox (R109, R253) -/

def ibMask (k : Core) : Nat := 2 ^ k.ibsize.toNat
def ibCount (k : Core) : Nat := (k.ibtail.toNat + (2 ^ 32 - k.ibhead.toNat % 2 ^ 32)) % 2 ^ 32
def ibFull (k : Core) : Bool := ibMask k ≤ ibCount k

/-- Where record i of the ring lies (R69, R109). -/
def ibAddr (core : Nat) (k : Core) (i : Nat) : Nat := tcmAddr core ((k.ibbase.toNat + 64 * (i % ibMask k)) % 2 ^ 17)

/-- Some slot of the core admits the record, by validity and by level. -/
def coreAdmits (s : State) (core : Nat) (r : List Word) : Bool :=
  recordValid r && (List.range 4).any (fun i => bindAdmits s (4 * core + i) (recPrio r))

/-- A record waits at the port of a full inbox, which raises interrupt 0x04 (R109, R252). -/
def Core.portWaits (k : Core) : Core := { k with ipend4 := k.ipend4 || (ibFull k && !k.port.isEmpty) }

/-- Writes a record into the ring. -/
def ibPush (s : State) (core : Nat) (r : List Word) : State :=
  let k := s.coreAt core
  let s1 := s.setCore core { k with ibtail := BitVec.ofNat 64 ((k.ibtail.toNat + 1) % 2 ^ 32) }.portWaits
  afterWrite (writeWords s1 (ibAddr core k k.ibtail.toNat) r)

/-- A record reaches a core's inbox port: refused and counted, written, or kept waiting while the ring is full or others wait (R109). -/
def ibArrive (s : State) (m : RecordMsg) : State :=
  if !coreAdmits s m.core m.record then countDiscard s (m.core / 512)
  else
    let k := s.coreAt m.core
    if ibFull k || !k.port.isEmpty || !k.backstop.isEmpty then
      s.setCore m.core { k with port := k.port ++ [(s.tstamp.toNat, m)] }.portWaits
    else ibPush s m.core m.record

/-- The record at IBHEAD. -/
def ibHead (s : State) (core : Nat) : Option (List Word) :=
  let k := s.coreAt core
  if ibCount k = 0 then none else some (readWords s (ibAddr core k k.ibhead.toNat) 8)

/-- What a slot that takes a record meets in its words (R289, R290). -/
def noteRecord (s : State) (n a : Nat) : State := noteRead s (.slotData · (bindCtx (bindOf s n)) n) a 64

/-- A slot takes the record at IBHEAD of its core. -/
def ibTake (s : State) (n : Nat) : State :=
  let core := coreOf n
  let k := s.coreAt core
  (noteRecord s n (ibAddr core k k.ibhead.toNat)).setCore core { k with ibhead := BitVec.ofNat 64 ((k.ibhead.toNat + 1) % 2 ^ 32) }

/-! ## The deque (R110) -/

def dqMask (k : Core) : Nat := 2 ^ bitsOf k.dqbase 20 4
def dqCount (k : Core) : Nat := (k.dqbot.toNat + (2 ^ 32 - k.dqtop.toNat % 2 ^ 32)) % 2 ^ 32
def dqAddr (core : Nat) (k : Core) (i : Nat) : Nat := tcmAddr core ((bitsOf k.dqbase 6 11 * 64 + 64 * (i % dqMask k)) % 2 ^ 17)

def dqPush (s : State) (core : Nat) (r : List Word) : State :=
  let k := s.coreAt core
  let s1 := s.setCore core { k with dqbot := BitVec.ofNat 64 ((k.dqbot.toNat + 1) % 2 ^ 32) }
  afterWrite (writeWords s1 (dqAddr core k k.dqbot.toNat) r)

/-- The newest record, and its taking by a slot of the core. -/
def dqNewest (s : State) (core : Nat) : Option (List Word) :=
  let k := s.coreAt core
  if dqCount k = 0 then none else some (readWords s (dqAddr core k (2 ^ 32 - 1 + k.dqbot.toNat)) 8)
def dqPop (s : State) (n : Nat) : State :=
  let core := coreOf n
  let k := s.coreAt core
  (noteRecord s n (dqAddr core k (2 ^ 32 - 1 + k.dqbot.toNat))).setCore core { k with dqbot := BitVec.ofNat 64 ((2 ^ 32 - 1 + k.dqbot.toNat) % 2 ^ 32) }

/-- The oldest record, and its theft by a slot. -/
def dqOldest (s : State) (core : Nat) : Option (List Word) :=
  let k := s.coreAt core
  if dqCount k = 0 then none else some (readWords s (dqAddr core k k.dqtop.toNat) 8)
def dqSteal (s : State) (core n : Nat) : State :=
  let k := s.coreAt core
  (noteRecord s n (dqAddr core k k.dqtop.toNat)).setCore core { k with dqtop := BitVec.ofNat 64 ((k.dqtop.toNat + 1) % 2 ^ 32) }

/-! ## Starting a task (R13, R58, R62, R65, R67, R70, R108) -/

/-- The task that a record starts on a slot under a bind record. -/
def freshTask (b : List Word) (r : List Word) (now : Nat) : Task :=
  let t := Task.reset
  let t1 := { t with pc := recPc r, status := 2, tvec := wordAt b 7 &&& 0xFFFFFFFFFFFC, iemask := BitVec.ofNat 64 (bindIemask b),
                     ctxid := BitVec.ofNat 64 (bindCtx b), prio := BitVec.ofNat 64 (recPrio r), stealdom := BitVec.ofNat 64 (bindSteal b),
                     spillb := wordAt b 4 &&& 0x1FFF80001FFF8, spillp := wordAt b 4 &&& 0x1FFF8,
                     runs := [{ record := r, given := true, ibRead := 0 }], qstart := now, bind := b }
  (List.range 6).foldl (fun t i => setWin t i ((recPayload r).getD i 0)) t1

/-- Starts a record on a slot: its reservation for an inbox record ends, and commands of earlier tasks are no longer its own. -/
def startTask (s : State) (n : Nat) (r : List Word) : State :=
  s.updSlot n (fun x =>
    { x with phase := .running, t := { freshTask (bindOf s n) r s.tstamp.toNat with num := x.epoch + 1 },
             reserve := (match x.reserve with | some (.tspawn _) => none | o => o), epoch := x.epoch + 1, searched := false,
             served := false, chosen := none })

/-- A request for elements of an array on another device, made for the participant there (R217, R220). -/
def forPart (w : Issuer) (tag : Nat) : Bool := bxPort 0 ≤ w.unit && w.unit < ferryPort 0 && (tag = 1 || tag = 2)

/-- A request of an engine's command to another device, in the engine's own replay queue (R152). -/
def engRequest (s : State) (cid tag : Nat) (w : Issuer) (device : Nat) (a : Word) (size : Nat) (q : BitVec 2) (op : RemoteOp)
    (value : BitVec 4096) (data : List Byte) : Remote :=
  { slot := w.slot, device := device,
    acc := { src := s.devid.toNat, ctx := w.ctx, user := w.user, addr := a, q := q, op := op, size := size, value := value, data := data,
             slot := w.slot, eng := some cid, part := forPart w tag },
    dst := .none, sign := false, parked := none, hold := false, eng := some cid, tag := tag, unit := w.unit,
    queued := queuesBehind s w.unit device }

/-- Other devices are told that a task's map is no longer theirs to hold (R217). -/
def freeFarMaps (s : State) (w : Issuer) (devices : List Nat) : State :=
  { s with remote := s.remote ++ (devices.filter (· ≠ s.devid.toNat)).eraseDups.map (fun d =>
      engRequest s 0 8 w d 0 0 0 (.mapRoom 0) (BitVec.ofNat 4096 w.epoch) []) }

/-- A request to another device that is more than a read. -/
def opStores : RemoteOp → Bool
  | .load | .feget => false
  | _ => true

/-! ## Becoming idle (R371) -/

/-- Applies a change to every population. -/
def mapPops (s : State) (f : Population → Population) : State :=
  { s with dies := s.dies.map (fun (d : Nat × Die) => (d.1, { d.2 with pops := d.2.pops.map f })) }

/-- Applies a change to every slot. -/
def mapSlots (s : State) (f : Slot → Slot) : State :=
  { s with slot := f s.slot, others := s.others.map (fun (x : Nat × Slot) => (x.1, f x.2)) }

/-- Ends a population: its drover entry and its reserved slots are freed, the phase returns to 0, and bytes 56 to 255 of its block become zero
(R239, R246). -/
def endPopulation (s : State) (blk : Nat) : State :=
  let s1 := { s with dies := s.dies.map (fun (d : Nat × Die) => (d.1, { d.2 with pops := d.2.pops.filter (fun p => p.block ≠ blk) })) }
  let s2 := mapSlots s1 (fun x => if x.reserve = some (.pop blk) then { x with reserve := none } else x)
  afterWrite (writeNat s2 (blk + 48) 208 0)

/-- Membership of a population ends (R239); with the last member the population ends. -/
def leavePopulation (s : State) (n : Nat) : State :=
  match (s.slotAt n).t.popOf with
  | none => s
  | some (blk, i) =>
    let s1 := mapPops s (fun p =>
      if p.block = blk then { p with members := p.members.filter (fun m => m ≠ (i, n)), arrived := p.arrived.filter (fun m => m ≠ (i, n)) } else p)
    let s2 := s1.updTaskOf n (fun t => { t with popOf := none, lineage := 0 })
    if s2.dies.any (fun (d : Nat × Die) => d.2.pops.any (fun p => p.block = blk && !p.members.isEmpty)) then s2
    else endPopulation s2 blk

/-- A freed accumulator: no owner, not valid, its flags clear (R181). -/
def Acc.free (a : Acc) : Acc :=
  { a with owner := none, epoch := 0, valid := false, freeing := false, nv := false, of := false, uf := false, nx := false }

/-- The accumulators of an owner are freed, once they are not busy (R181). -/
def freeAccs (mine : Acc → Bool) (c : Cluster) : Cluster :=
  (List.range 4).foldl
    (fun c i =>
      let a := accOf c i
      if mine a then setAcc c i (if accBusy c i then { a with freeing := true } else a.free) else c) c

/-- The saved task of a slot keeps its resources (R412), so only those of the current task are given up. -/
def giveUp (s : State) (n : Nat) : State :=
  let e := (s.slotAt n).t.num
  let c := s.clusterAt (clusterOf n)
  let s1 := s.setCluster (clusterOf n)
    { freeAccs (fun a => a.owner = some n && a.epoch = e) c with
             lease := match c.lease with
               | some l => if l.slot = n then none else some l
               | none => none,
             asks := c.asks.filter (fun q => q.1 ≠ n) }
  let own (o : BxOwner) : Bool := o.slot = n && o.epoch = e
  let gone := (s1.dies.map (fun (d : Nat × Die) => (d.2.bxmaps.filter own).map (fun o => o.map.group))).flatten.flatten
  let t := (s1.slotAt n).t
  let s0 := freeFarMaps { s1 with dies := s1.dies.map (fun (d : Nat × Die) => (d.1, { d.2 with bxmaps := d.2.bxmaps.filter (fun o => !own o) })) }
    { slot := n, epoch := e, user := !(t.status.getLsbD 0), ctx := t.ctxid.toNat, unit := bxPort (dieOf n) } gone
  let d := s0.dieAt (dieOf n)
  let s2 := s0.setDie (dieOf n)
    { d with ferry := (d.ferry.filter (fun f => !(f.who.slot = n && f.who.epoch = e && (f.state = 1 || f.state = 3 || f.state = 4)))).map
               (fun f => if f.who.slot = n && f.who.epoch = e then { f with orphan := true } else f) }
  leavePopulation s2 n

/-- A slot's registers between tasks; STEALDOM stays as the last task left it (R111). -/
def Task.idle (t : Task) : Task := { Task.reset with status := t.status &&& 3, stealdom := t.stealdom }

/-- Values that a task has asked for and not waited for go nowhere once it has ended; one that a link awaits is still pushed (R355, R370). -/
def forgetResults (s : State) (n : Nat) : State :=
  let lost (d : Dst) : Bool := match d with | .link _ => false | _ => true
  { s with held := s.held.map (fun h => if h.slot = n then { h with dst := if lost h.dst then .none else h.dst, parts := 0 } else h),
           remote := s.remote.map (fun r =>
             if r.slot = n && r.eng.isNone && !opStores r.acc.op && lost r.dst then { r with dst := .none, hold := false, ahead := true } else r),
           replies := s.replies.filter (fun r => !(r.slot = n && lost r.dst)) }

/-- The slot runs nothing: its frames, tiles, mask stack and held words are gone. -/
def idleTask (s : State) (n : Nat) : State :=
  let s1 := forgetResults (dropWatch (giveUp s n) n) n
  s1.updSlot n (fun x => { x with phase := .idle, t := x.t.idle, searched := false, served := false })

/-! ## Strands (R120, R124) -/

/-- A follower that is released becomes idle (R124). -/
def releaseFollower (s : State) (n : Nat) : State := if (s.slotAt n).t.leader.isSome then idleTask s n else s

/-- The release of a strand that the slot in force leads: each follower that is done becomes idle, and the instruction waits for the
others (R124). -/
def releaseStrand (s : State) : Eff :=
  if s.t.strandDepth = 0 then .ok s
  else
    let s1 := (s.t.followers.filter (followerDone s)).foldl releaseFollower s
    let left := s.t.followers.filter (fun n => !followerDone s n)
    if left.isEmpty then .ok (s1.setT { s1.t with followers := [], member := 0, strandDepth := 0 })
    else .error (.park (s1.setT { s1.t with followers := left }) .release)

/-! ## Nested runs (R62, R113, R115) -/

/-- Whether a nested run can be started here (R353). -/
def canNest (s : State) : Bool := (pushNested s s.t.pc []).isSome

/-- Starts a record as a nested run of the instruction at a PC, to which its RETIRE returns. -/
def startNested (s : State) (ret : Pc) (r : List Word) : Option State :=
  (pushNested s ret (recPayload r)).map (fun s1 =>
    s1.setT { s1.t with pc := recPc r, runs := { record := r, given := true, ibRead := 0 } :: s1.t.runs })

/-- The running task is a nested run. -/
def Task.nested (t : Task) : Bool := decide (1 < t.runs.length)

/-- Stores and atomics of the slot are all performed (R15, R112, R164). -/
def released (s : State) : Bool := !outstandingStores s s.cur

end Sys2Proof.Machine
end

