-- ==== Sys2Proof/Machine/Sync.lean ====
section
/-!
DEFINITION. Fences, counters, barriers, rings and the timestamp (spec/08_ordering.md R158 to R180; spec/20 R316 to R321, R327, R337,
R338; spec/21 R340, R341, R349; spec/23 R396).
-/
namespace Sys2Proof.Machine

/-! ## Fences (R159 to R162) -/

/-- Homes whose stores a release of a scope waits for. -/
def inScope (s : State) (sc : BitVec 2) (pa : Nat) : Bool :=
  let tcm := kindOf pa = .tcm && homeOf pa = s.core
  let pad := kindOf pa = .pad && (pa - 2 ^ 45) / 2 ^ 21 = s.cluster
  match sc.toNat with
  | 0 => tcm
  | 1 => tcm || pad
  | 2 => kindOf pa ≠ .host
  | _ => true

/-- A store or atomic of the slot in force within a scope is still to be performed (R160). -/
def storesPending (s : State) (sc : BitVec 2) : Bool :=
  s.held.any (fun h => h.slot = s.cur && h.parts ≠ 0 && opWrites h.op && inScope s sc h.addr)
    || s.t.pulled.any (fun h => s.t.handlers ≤ h.level && opWrites h.op && inScope s sc h.addr)
    || s.t.pend.any (fun d =>
      match d with | .elem _ pa _ _ _ => inScope s sc pa | .elemReg _ _ _ => 2 ≤ sc.toNat | .elemFar _ _ _ _ => sc = 3 | _ => false)
    || (sc = 3 && s.t.pulledFar.any (fun p => s.t.handlers ≤ p.1 && p.2.acc.op = .store))
    || (sc = 3 && s.remote.any (fun r => r.slot = s.cur && r.eng.isNone && (match r.acc.op with | .load | .feget => false | _ => true)))

/-- A load, atomic, CAS or DEQ of the slot in force has still to return (R161); stream read-ahead does not count (R349). -/
def readsPending (s : State) : Bool :=
  s.held.any (fun h => h.slot = s.cur && h.parts ≠ 0 && !(match h.op with | .store _ | .cadd _ | .feset | .feclr => true | _ => false))
    || s.remote.any (fun r => r.slot = s.cur && r.eng.isNone && !r.ahead
      && !(match r.acc.op with | .store | .cadd | .feset | .feclr | .record _ => true | _ => false))
    || s.replies.any (fun r => r.slot = s.cur && r.dst ≠ .ahead false && r.dst ≠ .ahead true)

/-- A fence that completes (R161, R162), or waits. -/
def fenceAt (rd : Reg) (sc : BitVec 2) (rel acq : Bool) (s : State) : Eff :=
  if (rel && storesPending s sc) || (acq && readsPending s) then .error .stall
  else
    let s1 := if acq && (sc = 2 || sc = 3) then roEmpty s s.cluster else s
    result s1 rd s1.t.peerfail

def fence (i : Instr) (sw : Bool) (rd : Reg) (sc : BitVec 2) (rel acq : Bool) (s : State) : Out :=
  issue i sw { d := [rd] } (fun _ s => fenceAt rd sc rel acq s) s

def execFenceRel (rd : Reg) (sc : BitVec 2) (sw : Bool) (s : State) : Out := fence (.fenceRel rd sc sw) sw rd sc true false s
def execFenceAcq (rd : Reg) (sc : BitVec 2) (sw : Bool) (s : State) : Out := fence (.fenceAcq rd sc sw) sw rd sc false true s
def execFenceAr (rd : Reg) (sc : BitVec 2) (sw : Bool) (s : State) : Out := fence (.fenceAr rd sc sw) sw rd sc true true s

/-! ## Counters (R173, R327, R337) -/

def execCadd (ra rb : Reg) (sw : Bool) (s : State) : Out :=
  issue (.cadd ra rb sw) sw { a := some ra, b := some rb }
    (fun v s => access s .counterAdd v.a 8 8 none 0 (.cadd v.b) 0) s

/-- The checks of a counter that is waited on; its place (R173, R337). -/
def counterPlace (a : Word) (s : State) : Except Stop (State × Place) :=
  match locate s s.asker .counterRead a 8 8 none 0 with
  | .error c => .error (.trap c a)
  | .ok (s1, p) =>
    match checkData s [(a, false)] with
    | .error e => .error e
    | .ok _ => .ok (s1, p)

/-- A request of the slot to bytes here must wait: another access comes first there, or 64 requests of the core are outstanding (R24, R104,
R155, R165). -/
def requestBlocked (s : State) (pa n : Nat) : Bool := blockedHere s pa n || 64 ≤ outstandingCore s s.core

/-- Bytes that an instruction of the slot in force reads whole at their home, as a number; what it meets in them is noted (R289, R290). -/
def noteMine (s : State) (pa n : Nat) : State := noteRead s (.slotData · s.asker.ctx s.cur) pa n

def cwaitAt (a target : Word) (s : State) : Eff :=
  match counterPlace a s with
  | .error e => .error e
  | .ok (s1, .mem pa _) =>
    if requestBlocked s1 pa 8 then .error .stall
    else
      let s2 := noteMine s1 pa 8
      if target ≤ readWord s1 pa then .ok s2 else .error (.park s2 (.counter pa target))
  | .ok (s1, .remote d) =>
    match sendTo s1 d a 8 0 (.cwait target) 0 .none false true with
    | .error e => .error e
    | .ok s2 => .error (.park s2 .remoteWait)
  | .ok (_, _) => .error (.trap .path a)

def execCwait (ra rb : Reg) (sw : Bool) (s : State) : Out :=
  issue (.cwait ra rb sw) sw { a := some ra, b := some rb } (fun v s => cwaitAt v.a v.b s) s

/-! ## Barriers (R174 to R178, R316 to R321) -/

def barAt (s : State) (h : Nat) : Option Barrier := s.barriers.get none h
def setBar (s : State) (h : Nat) (b : Barrier) : State := { s with barriers := s.barriers.set none h (some b) }
def barLevel (h : Nat) : Nat := h / 2 ^ 30 % 4

/-- What an operand names: a handle here, or one on another device; none is PROT (R316, R177). -/
inductive BarName where
  | here (h : Nat)
  | far (device h : Nat)
  deriving DecidableEq, Repr

def barName (s : State) (a : Word) : Option BarName :=
  let h := bitsOf a 0 32
  if !a.getLsbD 63 then some (.here h)
  else if barLevel h ≠ 3 then none
  else if bitsOf a 48 12 = s.devid.toNat then some (.here h)
  else some (.far (bitsOf a 48 12) h)

/-- The barrier of a handle, allocated and of the context (R177). -/
def barOwn (s : State) (ctx h : Nat) : Option Barrier :=
  match barAt s h with
  | some b => if b.ctx = ctx && b.refs ≠ 0 then some b else none
  | none => none

/-- Every slot of the device that has state of its own. -/
def slotIds (s : State) : List Nat := s.cur :: s.others.map Prod.fst

/-- A pool entry may be allocated: nothing was, or no reference, waiter or child is left (R177, R320). -/
def barReturned (s : State) (h : Nat) : Bool :=
  match barAt s h with
  | none => true
  | some b =>
    b.refs = 0 && b.far.isEmpty && !(slotIds s).any (fun n => match (s.slotAt n).t.wait with | some (.barrier g _) => g = h | _ => false)
      && !s.farWaits.any (fun w => match w.1.op with | .barrier 0x15 _ => w.2 = h | _ => false)
      && !s.barriers.any (fun e => match e.2 with | some c => c.parent = some h | none => false)

/-- The pool of a level that serves the slot in force (R174): its first handle less 1, and its size. -/
def barPool (s : State) (lvl : Nat) : Nat × Nat :=
  match lvl with
  | 0 => (s.cluster * 2 ^ 20, 32)
  | 1 => (2 ^ 30 + s.die * 2 ^ 20, 64)
  | 2 => (2 * 2 ^ 30, 16)
  | _ => (3 * 2 ^ 30, 8)

/-- BARNEW (R317). -/
def barnew (a b : Word) (s : State) : State × Word :=
  let pool := barPool s (bitsOf a 32 2)
  if bitsOf a 34 30 ≠ 0 || b.getLsbD 63 || (bitsOf a 0 32 = 0 && b = 0) then (s, 0)
  else match (List.range pool.2).find? (fun x => barReturned s (pool.1 + x + 1)) with
    | none => (s, 0)
    | some x =>
      let h := pool.1 + x + 1
      (setBar s h { ctx := s.asker.ctx, phase := 0, arr := bitsOf a 0 32, bytes := b.toNat, a := bitsOf a 0 32, b := b.toNat,
                    refs := 1, parent := none, held := false, far := [] }, BitVec.ofNat 64 h)

/-- A request that a home of this device makes to another device; no slot waits for it. -/
def noSlot : Nat := 2 ^ 14

def tellFar (s : State) (device ctx fn h : Nat) (arg : Word) : State :=
  { s with remote := s.remote ++ [{ slot := noSlot, device := device,
                                    acc := { src := s.devid.toNat, ctx := ctx, user := false, addr := BitVec.ofNat 64 h, q := 0,
                                             op := .barrier fn arg, size := 8, value := 0 },
                                    dst := .none, sign := false, parked := none, hold := false, unit := homePort }] }

/-- Waits of other devices on a barrier whose phase is no longer theirs are answered. -/
def answerFarBar (s : State) (h phase : Nat) : State :=
  let done (w : RemoteAcc × Nat) : Bool := match w.1.op with | .barrier 0x15 ph => w.2 = h && bitsOf ph 0 32 ≠ phase | _ => false
  { s with farWaits := s.farWaits.filter (fun w => !done w),
           answered := s.answered ++ (s.farWaits.filter done).map (fun _ => (0, 0)) }

/-- One flip and what follows from it (R318): the children flip, and a phase that is already complete completes. -/
def flipBar (fuel : Nat) (s : State) (h : Nat) : State :=
  match fuel with
  | 0 => s
  | fuel + 1 =>
    match barAt s h with
    | none => s
    | some b =>
      let b1 := { b with phase := (b.phase + 1) % 2 ^ 32, arr := b.a + b.arr, bytes := b.b + b.bytes, held := false }
      let s1 := answerFarBar (fireWatches (setBar s h b1)) h b1.phase
      let s2 := b.far.eraseDups.foldl (fun a d => tellFar a d b.ctx 0x7F h 0) s1
      let kids := (s2.barriers.filter (fun e => match e.2 with | some c => c.parent = some h | none => false)).map Prod.fst
      let s3 := kids.foldl (flipBar fuel) s2
      match barAt s3 h with
      | none => s3
      | some c =>
        if c.arr ≤ 0 && c.bytes ≤ 0 && !c.held then
          match c.parent with
          | some p => { setBar s3 h { c with held := true } with arrivals := s3.arrivals ++ [p] }
          | none => flipBar fuel s3 h
        else s3

/-- Flips that leftover counts can cause, and the levels below. -/
def flipFuel (b : Barrier) : Nat := b.arr.natAbs + b.bytes.natAbs + 8

/-- A phase that is complete completes (R318). -/
def completeBar (s : State) (h : Nat) : State :=
  match barAt s h with
  | none => s
  | some b =>
    if b.arr ≤ 0 && b.bytes ≤ 0 && !b.held then
      match b.parent with
      | some p => { setBar s h { b with held := true } with arrivals := s.arrivals ++ [p] }
      | none => flipBar (flipFuel b) s h
    else s

/-- arrive(n, m) of R318. -/
def arrive (s : State) (h : Nat) (n m : Nat) : State :=
  match barAt s h with
  | none => s
  | some b => completeBar (setBar s h { b with arr := b.arr - n, bytes := b.bytes - m }) h

/-- The phase that an arrival counts toward (R318). -/
def arrivalPhase (b : Barrier) : Word := BitVec.ofNat 64 (if 0 < b.arr then b.phase else (b.phase + 1) % 2 ^ 32)

/-- A child leaves its parent; a parent on another device is told (R177, R320). -/
def unlinkBar (s : State) (ctx : Nat) (parent : Option Nat) : State :=
  match parent with
  | some p => if p < 2 ^ 32 then s else tellFar s (p / 2 ^ 32 - 1) ctx 0x7E (p % 2 ^ 32) 0
  | none => s

/-- A reference more, or one less; the last unlinks the barrier, and waits on it re-execute. A flip that it has held for its parent comes now:
it goes on flipping the children that are linked to it (R320). -/
def addRef (s : State) (h : Nat) (b : Barrier) : State := setBar s h { b with refs := b.refs + 1 }
def dropRef (s : State) (h : Nat) (b : Barrier) : State :=
  if b.refs = 1 then
    let s1 := fireWatches (unlinkBar (setBar s h { b with refs := 0, parent := none, held := false }) b.ctx b.parent)
    let gone (w : RemoteAcc × Nat) : Bool := match w.1.op with | .barrier 0x15 _ => w.2 = h | _ => false
    completeBar { s1 with farWaits := s1.farWaits.filter (fun w => !gone w),
                          answered := s1.answered ++ (s1.farWaits.filter gone).map (fun _ => (2, 0)) } h
  else setBar s h { b with refs := b.refs - 1 }

def execBarnew (rd ra rb : Reg) (sw : Bool) (s : State) : Out :=
  issue (.barnew rd ra rb sw) sw { use2 rd ra rb with handle := true } (fun v s => let r := barnew v.a v.b s; result r.1 rd r.2) s

/-- BARARR (R178, R318): it issues after the release of its scope. -/
def bararrAt (rd : Reg) (a : Word) (s : State) : Eff :=
  match barName s a with
  | none => .error (.trap .prot a)
  | some (.far d h) =>
    if storesPending s 3 then .error .stall
    else match claimDst s rd with
      | .error e => .error e
      | .ok (s1, dst, also) =>
        match checkData s1 also with
        | .error e => .error e
        | .ok _ =>
          match sendTo (reserveDst s1 dst) d a 8 0 (.barrier 0x14 0) (BitVec.ofNat 4096 h) dst false false with
          | .error e => .error e
          | .ok s2 => .ok (if dst.waits then awaitAnswer s2 else s2)
  | some (.here h) =>
    if storesPending s (if barLevel h = 3 then 3 else 2) then .error .stall
    else match barOwn s s.asker.ctx h with
      | none => .error (.trap .prot a)
      | some b => result (arrive s h 1 0) rd (arrivalPhase b)

def execBararr (rd ra : Reg) (sw : Bool) (s : State) : Out :=
  issue (.bararr rd ra sw) sw { use1 rd ra with handle := true } (fun v s => bararrAt rd v.a s) s

/-- BARLINK (R176, R319). -/
def barlinkAt (a p : Word) (s : State) : Eff :=
  match barName s a, barName s p with
  | none, _ => .error (.trap .prot a)
  | some (.far _ _), some (.here q) => .error (.trap .prot (if (barOwn s s.asker.ctx q).isSome then a else p))
  | some (.far _ _), some (.far _ _) => .error (.trap .prot a)
  | some (.far _ _), none => .error (.trap .prot p)
  | some (.here h), np =>
    match barOwn s s.asker.ctx h with
    | none => .error (.trap .prot a)
    | some c =>
      match np with
      | none => .error (.trap .prot p)
      | some (.far d q) =>
        if barLevel h = 3 || c.parent.isSome then .error (.trap .prot a)
        else match sendTo s d p 8 0 (.barrier 0x13 (BitVec.ofNat 64 h)) (BitVec.ofNat 4096 q) .none false true with
          | .error e => .error e
          | .ok s1 => .ok (awaitAnswer s1)
      | some (.here q) =>
        match barOwn s s.asker.ctx q with
        | none => .error (.trap .prot p)
        | some _ =>
          if barLevel q ≤ barLevel h || c.parent.isSome then .error (.trap .prot a)
          else .ok (completeBar (setBar s h { c with parent := some q }) h)

def execBarlink (ra rb : Reg) (sw : Bool) (s : State) : Out :=
  issue (.barlink ra rb sw) sw { a := some ra, b := some rb, handle := true } (fun v s => barlinkAt v.a v.b s) s

/-- BARWAIT (R321). -/
def barwaitAt (a ph : Word) (s : State) : Eff :=
  match barName s a with
  | none => .error (.trap .prot a)
  | some (.far d h) =>
    match sendTo s d a 8 0 (.barrier 0x15 ph) (BitVec.ofNat 4096 h) .none false true with
    | .error e => .error e
    | .ok s1 => .error (.park s1 .remoteWait)
  | some (.here h) =>
    match barOwn s s.asker.ctx h with
    | none => .error (.trap .prot a)
    | some b => if b.phase ≠ bitsOf ph 0 32 then .ok s else .error (.park s (.barrier h (bitsOf ph 0 32)))

def execBarwait (ra rb : Reg) (sw : Bool) (s : State) : Out :=
  issue (.barwait ra rb sw) sw { a := some ra, b := some rb, handle := true } (fun v s => barwaitAt v.a v.b s) s

/-- BARFREE and BARREF (R177, R320). -/
def barRefAt (free : Bool) (a : Word) (s : State) : Eff :=
  match barName s a with
  | none => .error (.trap .prot a)
  | some (.far d h) => sendTo s d a 8 0 (.barrier (if free then 0x16 else 0x17) 0) (BitVec.ofNat 4096 h) .none false false
  | some (.here h) =>
    match barOwn s s.asker.ctx h with
    | none => .error (.trap .prot a)
    | some b =>
      if free then .ok (dropRef s h b) else if b.refs ≥ 65535 then .error (.trap .prot a) else .ok (addRef s h b)

def execBarfree (ra : Reg) (sw : Bool) (s : State) : Out :=
  issue (.barfree ra sw) sw { a := some ra, handle := true } (fun v s => barRefAt true v.a s) s
def execBarref (ra : Reg) (sw : Bool) (s : State) : Out :=
  issue (.barref ra sw) sw { a := some ra, handle := true } (fun v s => barRefAt false v.a s) s

/-! ## Rings (R179, R180, R340, R341) -/

def ringBase (ws : List Word) : Word := ws.getD 0 0
def ringLog (ws : List Word) : Nat := bitsOf (ws.getD 1 0) 0 6
def ringHead (ws : List Word) : Word := ws.getD 2 0
def ringTail (ws : List Word) : Word := ws.getD 3 0
def ringFill (ws : List Word) : Nat := (ringTail ws - ringHead ws).toNat

/-- The address of an entry by its free-running index. -/
def ringEntry (ws : List Word) (i : Word) : Word := ringBase ws + 8 * BitVec.ofNat 64 (i.toNat % 2 ^ ringLog ws)

/-- The block's own fields are in order. -/
def ringOk (ws : List Word) : Bool :=
  bitsOf (ws.getD 1 0) 6 58 = 0 && ringLog ws ≤ 24 && ringFill ws ≤ 2 ^ ringLog ws && (ws.drop 4).all (· = 0)

/-- The place of a ring entry, which an ENQ writes and a DEQ reads; none is a malformed block (R180, R340). -/
def ringPlace (s : State) (k : Access) (ws : List Word) (i : Word) : Option (State × Nat) :=
  if !ringOk ws then none
  else match locate s s.asker .ringRead (ringBase ws) 8 8 none 0 with
    | .error _ => none
    | .ok (s1, _) =>
      match locate s1 s1.asker k (ringEntry ws i) 8 8 none 0 with
      | .ok (s2, .mem pa _) => if inArmed s2 pa 8 then none else some (s2, pa)
      | _ => none

/-- Another slot's operation on the block has begun, and waits for the owner of the entry's bytes (R180, R340). -/
def ringHeld (s : State) (pa : Nat) : Bool :=
  (slotIds s).any (fun n => n ≠ s.cur && (match (s.slotAt n).t.wait with | some (.ring b _ _) => b = pa | _ => false))

/-- The block, with the checks of R340. -/
def ringBlock (a : Word) (s : State) : Except Stop (State × Nat) :=
  match locate s s.asker .ring a 64 64 none 0 with
  | .error c => .error (.trap c a)
  | .ok (s1, .mem pa _) =>
    if inArmed s1 pa 64 then .error (.trap .prot a)
    else match checkData s [(a, true)] with
      | .error e => .error e
      | .ok _ => if requestBlocked s1 pa 64 || ringHeld s1 pa then .error .stall else .ok (noteRead s1 .lost pa 64, pa)
  | .ok (_, _) => .error (.trap .path a)

/-- ENQ at the block's home. -/
def enqAt (rd : Reg) (a v : Word) (s : State) : Eff :=
  match ringBlock a s with
  | .error e => .error e
  | .ok (s1, pa) =>
    let ws := readWords s1 pa 8
    match ringPlace s1 .ring ws (ringTail ws) with
    | none => result s1 rd 2
    | some (s2, e) =>
      if ringFill ws = 2 ^ ringLog ws then result s2 rd 1
      else if owned s2 e 8 then .error (.park s2 (.ring pa e 8))
      else result (afterWrite (writeWord (writeWord s2 e v) (pa + 24) (ringTail ws + 1))) rd 0

def execEnq (rd ra rb : Reg) (sw : Bool) (s : State) : Out :=
  issue (.enq rd ra rb sw) sw (use2 rd ra rb) (fun v s => enqAt rd v.a v.b s) s

/-- rd and then rb are written (R340). -/
def result2 (s : State) (rd rb : Reg) (v w : Word) : Eff :=
  match result s rd v with
  | .error e => .error e
  | .ok s1 => result s1 rb w

def deqAt (rd rb : Reg) (a : Word) (s : State) : Eff :=
  match ringBlock a s with
  | .error e => .error e
  | .ok (s1, pa) =>
    let ws := readWords s1 pa 8
    match ringPlace s1 .ringRead ws (ringHead ws) with
    | none => result2 s1 rd rb 0 2
    | some (s2, e) =>
      if ringFill ws = 0 then result2 s2 rd rb 0 1
      else if owned s2 e 8 then .error (.park s2 (.ring pa e 8))
      else
        let v := readWord s2 e
        result2 (afterWrite (writeWord (noteMine s2 e 8) (pa + 16) (ringHead ws + 1))) rd rb v 0

/-- The registers are checked in the order ra, rd, rb, which says whose number TVAL names (DEDUCED, log 23). -/
def execDeq (rd ra rb : Reg) (sw : Bool) (s : State) : Out :=
  issue (.deq rd ra rb sw) sw { a := some ra, d := [rd, rb] } (fun v s => deqAt rd rb v.a s) s

/-! ## The timestamp (R396) -/

def execTstamp (rd : Reg) (sw : Bool) (s : State) : Out :=
  issue (.tstamp rd sw) sw { d := [rd] } (fun _ s => result s rd s.tstamp) s

end Sys2Proof.Machine
end

