-- ==== Sys2Proof/Machine/Engine.lean ====
section
/-!
DEFINITION. What every engine does alike (spec/08_ordering.md R164 to R168; spec/04_encoding.md R75, R76; spec/07_memory.md R151 to R154):
the issuer of a command, its accesses and their errors, ownership of destinations, counters and error records.
-/
namespace Sys2Proof.Machine

/-! ## The issuer (R76, R108, R412) -/

/-- The slot in force as the issuer of a command of the unit whose replay queue is given. -/
def issuerOf (port : Nat) (s : State) : Issuer :=
  { slot := s.cur, epoch := s.t.num, user := s.asker.user, ctx := s.asker.ctx, unit := port }

/-- Mode and context under which a command's accesses are made. -/
def Issuer.asker (w : Issuer) : Asker := { core := coreOf w.slot, ctx := w.ctx, user := w.user }

/-- The number of a slot's saved task. -/
def savedNum (s : State) (n : Nat) : Option Nat := (s.slotAt n).saved.map Task.num

/-- Changes the task that issued a command, running or saved; a task that has ended is left out. -/
def updIssuer (s : State) (w : Issuer) (f : Task → Task) : State :=
  s.updSlot w.slot (fun x =>
    if x.phase = .running && x.t.num = w.epoch then { x with t := f x.t }
    else match x.saved with
      | some t => if t.num = w.epoch then { x with saved := some (f t) } else x
      | none => x)

/-- ENGERR is raised on the task that issued the command (R252). -/
def raiseEngErr (s : State) (w : Issuer) : State := updIssuer s w (fun t => { t with ipend := t.ipend ||| 4 })

/-- Neither a freeze of the cluster nor a gang switch holds the command (R200, R262, R411). -/
def engineRuns (s : State) (cluster : Nat) (w : Issuer) : Bool :=
  !(s.clusterAt cluster).frozen && !s.stopped.contains w.ctx

/-- A unit of the die is held by a gang switch only (R219, R255, R286). -/
def partRuns (s : State) (w : Issuer) : Bool := !s.stopped.contains w.ctx

/-! ## Outcomes of an engine's step -/

/-- Why an engine's step does not complete. -/
inductive EngStop where
  /-- It waits, in this state. -/
  | wait (s : State)
  /-- It fails with an error code and an address (R76). -/
  | fail (code : Nat) (addr : Word)
  deriving DecidableEq, Repr

abbrev EngEff (α : Type) := Except EngStop (State × α)

/-- The error code of a check that fails (R168, R198, R210). -/
def codeOfCause (c : Cause) : Nat :=
  match c with
  | .align => 6
  | .xlat => 3
  | .prot => 4
  | _ => 2

/-- The checks of an engine's access, and its place. -/
def engLocate (s : State) (w : Issuer) (k : Access) (a : Word) (align : Nat) : EngEff Place :=
  match locate s w.asker k a 8 align none 0 with
  | .error c => .error (.fail (codeOfCause c) a)
  | .ok r => .ok r

/-! ## Ownership (R165, R166) -/

/-- An owned range and another share a unit. -/
def Own.touches (o : Own) (a n : Nat) : Bool :=
  (o.lo / unitSize o.lo * unitSize o.lo < (a + n + unitSize a - 1) / unitSize a * unitSize a)
    && (a / unitSize a * unitSize a < (o.hi + unitSize o.lo - 1) / unitSize o.lo * unitSize o.lo)

/-- An engine's access must wait: an earlier command owns a unit, or another one does where the command owns nothing itself (R165). -/
def engBlocked (s : State) (cid a n : Nat) : Bool :=
  let mine := s.own.any (fun o => o.cid = cid && o.touches a n)
  s.own.any (fun o => o.cid ≠ cid && o.touches a n && (o.cid < cid || !mine))

/-- Ends the ownership of written bytes in the entries that p names. -/
def cutOwn (s : State) (p : Own → Bool) (lo n : Nat) : State :=
  { s with own := (s.own.map (fun o =>
      if p o then
        (if o.lo < min o.hi lo then [{ o with hi := min o.hi lo }] else [])
          ++ (if max o.lo (lo + n) < o.hi then [{ o with lo := max o.lo (lo + n) }] else [])
      else [o])).flatten }

/-- Of a part of a command, and of a command of another device. -/
def releaseRange (s : State) (cid part lo n : Nat) : State := cutOwn s (fun o => o.cid = cid && o.chunk = part) lo n
def releaseFar (s : State) (far : Option (Nat × Nat)) (lo n : Nat) : State := if far.isNone then s else cutOwn s (fun o => o.far = far) lo n

/-! ## Pieces of a range -/

/-- A range cut at the multiples of a size. -/
def cutRange : Nat → Word → Nat → Nat → List (Word × Nat)
  | 0, _, _, _ => []
  | fuel + 1, a, n, step =>
    if n = 0 then []
    else
      let m := min n (step - a.toNat % step)
      (a, m) :: cutRange fuel (a + BitVec.ofNat 64 m) (n - m) step

/-- The address names another device. -/
def isRemote (s : State) (a : Word) : Bool := (match tokOf a with | some t => t.global | none => false) && bitsOf a 48 12 ≠ s.devid.toNat

/-- The messages of an access: to another device 64 bytes each (R270), one for each home (R271), else parts within one page and home. -/
def engPieces (s : State) (a : Word) (n : Nat) : List (Word × Nat) :=
  let step := if isRemote s a then (if tokOf a = some .pad4 then 32 else 64) else 1024
  cutRange (n / step + 2) a n step

/-! ## Requests to other devices (R151 to R153) -/

/-- The command registers a range of its destination at homes here and at those of other devices, whose answers its slot awaits; what fails
its checks registers nothing (R165). -/
def claimRange (cid part : Nat) (w : Issuer) (a : Word) (n : Nat) (s : State) : State :=
  (cutRange (n / 16384 + 2) a n 16384).foldl
    (fun s p =>
      match locate s w.asker .engineWrite p.1 8 1 none 0 with
      | .ok (s1, .mem pa _) => claim s1 cid part pa p.2
      | .ok (s1, .remote d) =>
        let r := engRequest s1 cid 6 w d p.1 p.2 0 (.own cid part) 0 []
        { s1 with remote := s1.remote ++ [r], claims := if s1.claims.any (fun c => c.1 = cid && c.2.2 = d) then s1.claims else s1.claims ++ [(cid, w, d)] }
      | _ => s) s

/-- A registration of the command at another device has still to be recorded (R165). -/
def claimsDue (s : State) (cid : Nat) : Bool := s.remote.any (fun r => r.eng = some cid && r.tag = 6)

/-- The slot's next instruction issues only when every registration of its command has been recorded (R165). -/
def awaitClaims (cid : Nat) (s : State) : State := if claimsDue s cid then awaitAnswer s else s

/-- A command's ownership ends, here and at other devices (R165, R166). -/
def endOwnership (s : State) (cid : Nat) : State :=
  let s1 := releaseCommand s cid
  { s1 with claims := s.claims.filter (fun c => c.1 ≠ cid),
            remote := s1.remote ++ (s.claims.filter (fun c => c.1 = cid)).map (fun c => engRequest s cid 8 c.2.1 c.2.2 0 0 0 (.disownAll cid) 0 []) }

/-- What a command has read under a tag at an address, or the outcome of what it sent there. -/
def engDatum (s : State) (cid tag : Nat) (a : Word) : Option EngDatum := s.engData.find? (fun d => d.cid = cid && d.tag = tag && d.addr = a)

/-- One request of an engine to another device, unless the engine's replay queue is full (R152); its outcome, once it is back. -/
def engFar (s : State) (cid tag : Nat) (w : Issuer) (device : Nat) (a : Word) (size : Nat) (q : BitVec 2) (op : RemoteOp)
    (value : BitVec 4096) (data : List Byte) : EngEff (BitVec 4096) :=
  match engDatum s cid tag a with
  | some d =>
    (match d.value with
     | some v => .ok (s, v)
     | none => .error (.fail d.code a))
  | none =>
    if s.remote.any (fun r => r.eng = some cid && r.tag = tag && r.acc.addr = a) || replayCount s w.unit ≥ 16 then
      .error (.wait s)
    else .error (.wait { s with remote := s.remote ++ [engRequest s cid tag w device a size q op value data] })

/-- The data of a command's finished chunk are dropped: all, or those of the tags that p names. -/
def dropData (s : State) (cid : Nat) : State := { s with engData := s.engData.filter (fun d => d.cid ≠ cid) }
def dropTags (s : State) (cid : Nat) (p : Nat → Bool) : State := { s with engData := s.engData.filter (fun d => !(d.cid = cid && p d.tag)) }

/-! ## Reads (R167) -/

/-- The first byte of a range that lies in a word with an uncorrectable error, as an offset. -/
def spoiledAt (s : State) (a n : Nat) : Option Nat :=
  if s.spoiled.isEmpty then none else (List.range n).find? (fun i => s.spoiled.contains ((a + i) / 8))

/-- Bytes of this device, once no other command owns them (R165, R289, R290). -/
def engReadHere (s : State) (cid : Nat) (a : Word) (pa n : Nat) : EngEff (List Byte) :=
  if engBlocked s cid pa n then .error (.wait s)
  else match spoiledAt s pa n with
    | some i => .error (.fail 10 (a + BitVec.ofNat 64 i))
    | none => .ok (noteRead s .lost pa n, readBytes s pa n)

def engReadPiece (s : State) (cid tag : Nat) (w : Issuer) (q : BitVec 2) (a : Word) (n : Nat) : EngEff (List Byte) :=
  match engLocate s w .engineRead a 1 with
  | .error e => .error e
  | .ok (s1, .mem pa _) =>
    (match (engDatum s1 cid tag a).bind EngDatum.value with
     | some v => .ok (s1, bytesOf n v.toNat)
     | none => engReadHere s1 cid a pa n)
  | .ok (s1, .ro _ pa) => engReadHere s1 cid a pa n
  | .ok (s1, .remote d) =>
    (match engFar s1 cid tag w d a n q .load 0 [] with
     | .error e => .error e
     | .ok (s2, v) => .ok (s2, bytesOf n v.toNat))
  | .ok (_, .reg _ _) => .error (.fail 2 a)

def engReadPieces (cid tag : Nat) (w : Issuer) (q : BitVec 2) : List (Word × Nat) → State → EngEff (List Byte)
  | [], s => .ok (s, [])
  | p :: rest, s =>
    match engReadPiece s cid tag w q p.1 p.2 with
    | .error e => .error e
    | .ok (s1, bs) =>
      match engReadPieces cid tag w q rest s1 with
      | .error e => .error e
      | .ok (s2, cs) => .ok (s2, bs ++ cs)

/-- Asks other devices for a range, if it lies there; what is here already is not asked for again. -/
def engAsk (cid tag : Nat) (w : Issuer) (s : State) (r : Word × Nat) : State :=
  if !isRemote s r.1 then s
  else (engPieces s r.1 r.2).foldl (fun s p => match engReadPiece s cid tag w 0 p.1 p.2 with | .error (.wait s1) => s1 | _ => s) s

/-- Reads a piece of at most 512 bytes of this device ahead of its use; one that must wait, or that fails, is left to its use (R196). -/
def engFetch (cid tag : Nat) (w : Issuer) (s : State) (p : Word × Nat) : State :=
  if (engDatum s cid tag p.1).isSome then s
  else match engReadPiece s cid tag w 0 p.1 p.2 with
    | .ok (s1, bs) => { s1 with engData := s1.engData ++ [{ cid := cid, tag := tag, addr := p.1, value := some (BitVec.ofNat 4096 (natOf bs)), code := 0 }] }
    | .error _ => s

/-- Reads a range in increasing address order. -/
def engRead (s : State) (cid tag : Nat) (w : Issuer) (a : Word) (n : Nat) : EngEff (List Byte) :=
  engReadPieces cid tag w 0 (engPieces s a n) s

/-! ## Writes (R143, R203, R225) -/

/-- The first byte that a write of a range puts into a word with an uncorrectable error that it does not write whole, as an offset (R210,
R290). -/
def spoiledEdge (s : State) (a n : Nat) : Option Nat :=
  if s.spoiled.isEmpty then none
  else (List.range n).find? (fun i => s.spoiled.contains ((a + i) / 8) && !(wordsInside a n).contains ((a + i) / 8))

/-- The pieces of a destination with their places, every check made. -/
def engDstPieces (w : Issuer) : List (Word × Nat) → State → EngEff (List (Word × Nat × Place))
  | [], s => .ok (s, [])
  | p :: rest, s =>
    match engLocate s w .engineWrite p.1 1 with
    | .error e => .error e
    | .ok (s1, pl) =>
      if (match pl with | .mem pa _ => inArmed s1 pa p.2 | _ => false) then .error (.fail 4 p.1)
      else match (match pl with | .mem pa _ => spoiledEdge s1 pa p.2 | _ => none) with
        | some i => .error (.fail 10 (p.1 + BitVec.ofNat 64 i))
        | none =>
          match engDstPieces w rest s1 with
          | .error e => .error e
          | .ok (s2, ps) => .ok (s2, (p.1, p.2, pl) :: ps)

def engDst (s : State) (w : Issuer) (a : Word) (n : Nat) : EngEff (List (Word × Nat × Place)) := engDstPieces w (engPieces s a n) s

/-- Some piece must wait for another command. -/
def dstBlocked (s : State) (cid : Nat) (ps : List (Word × Nat × Place)) : Bool :=
  ps.any (fun p => match p.2.2 with | .mem pa _ => engBlocked s cid pa p.2.1 | _ => false)

/-- Writes bytes of this device, and sets granules full (R143). -/
def engWriteHere (s : State) (pa : Nat) (bs : List Byte) : State :=
  afterWrite (setFullRange (writeBytes (healWords s pa bs.length) pa bs) pa bs.length)

/-- The qualifier of a store to another device, which sets TCM and scratchpad granules full as a write here does (R16, R143). -/
def fullQ (a : Word) : BitVec 2 := if tokOf a = some .tcm4 || tokOf a = some .pad4 then 1 else 0

/-- Writes the pieces in order; pieces of another device are stores that wait for their replies. -/
def engPut (cid tag : Nat) (w : Issuer) : List (Word × Nat × Place) → List Byte → State → EngEff Unit
  | [], _, s => .ok (s, ())
  | (a, n, pl) :: rest, bs, s =>
    match pl with
    | .mem pa _ => engPut cid tag w rest (bs.drop n) (engWriteHere s pa (bs.take n))
    | .remote d =>
      (match engFar s cid tag w d a n (fullQ a) .store (BitVec.ofNat 4096 (natOf (bs.take n))) [] with
       | .error e => .error e
       | .ok (s1, _) => engPut cid tag w rest (bs.drop n) s1)
    | _ => .error (.fail 2 a)

/-! ## Signals (R168) -/

/-- The add to a counter: its checks fall due now. -/
def engAdd (s : State) (cid : Nat) (w : Issuer) (ctr inc : Word) : EngEff Unit :=
  match engLocate s w .counterAdd ctr 8 with
  | .error e => .error e
  | .ok (s1, .mem pa _) =>
    if inArmed s1 pa 8 then .error (.fail 4 ctr)
    else if engBlocked s1 cid pa 8 then .error (.wait s1)
    else if spoiledIn s1 pa 8 then .error (.fail 10 ctr)
    else .ok (afterWrite (writeWord (noteRead s1 .lost pa 8) pa (readWord s1 pa + inc)), ())
  | .ok (s1, .remote d) =>
    (match engFar s1 cid 9 w d ctr 8 0 .cadd (inc.zeroExtend 4096) [] with
     | .error e => .error e
     | .ok (s2, _) => .ok (s2, ()))
  | .ok (_, _) => .error (.fail 2 ctr)

/-- Adds to a counter unless its address is 0. -/
def engSignal (s : State) (cid : Nat) (w : Issuer) (ctr inc : Word) : EngEff Unit :=
  if ctr = 0 then .ok (s, ()) else engAdd s cid w ctr inc

/-- Bytes are subtracted from a barrier of the issuing context; it fails when the handle names no such barrier (R208). -/
def engBarrier (s : State) (cid : Nat) (w : Issuer) (bar : Word) (bytes : Nat) : EngEff Unit :=
  match barName s bar with
  | none => .error (.fail 4 0)
  | some (.here h) => if (barOwn s w.ctx h).isSome then .ok (arrive s h 0 bytes, ()) else .error (.fail 4 0)
  | some (.far d _) =>
    match engFar s cid 10 w d bar 8 0 (.barrier 0x18 (BitVec.ofNat 64 bytes)) 0 [] with
    | .error e => .error e
    | .ok (s1, _) => .ok (s1, ())

/-! ## Error records (R76) -/

/-- Places of the four stores of a record; none when one of them fails. -/
def recordPlaces (w : Issuer) : Nat → Word → State → Option (State × List Place)
  | 0, _, s => some (s, [])
  | n + 1, a, s =>
    match locate s w.asker .engineWrite a 8 8 none 0 with
    | .ok (s1, p) =>
      if (match p with | .mem pa _ => inArmed s1 pa 8 | _ => false) then none
      else (recordPlaces w n (a + 8) s1).map (fun r => (r.1, p :: r.2))
    | .error _ => none

/-- One 8-byte store of an engine that nothing waits for. -/
def engPost (cid : Nat) (w : Issuer) (s : State) (x : Place × Word × Word) : State :=
  match x.1 with
  | .mem pa _ =>
    (request s { slot := noSlot, seq := 0, pc := 0, addr := pa, size := 8, q := 1, op := .store (x.2.2.zeroExtend 512), dst := .none,
                 popA := none, popB := none, popC := none, pfx := none, parts := 1, stamp := s.nextCid }).1
  | .remote d => { s with remote := s.remote ++ [engRequest s cid 8 w d x.2.1 8 (fullQ x.2.1) .store (x.2.2.zeroExtend 4096) []] }
  | _ => s

/-- The words of an error record. -/
def recordWords (s : State) (kind code : Nat) (w : Issuer) (serial : BitVec 32) (addr progress : Word) : List Word :=
  [BitVec.ofNat 64 (kind + code * 256 + w.slot * 65536 + serial.toNat * 2 ^ 32), addr, progress, s.tstamp]

def writeRecord (s : State) (cid : Nat) (w : Issuer) (erraddr : Word) (ws : List Word) : State :=
  if erraddr = 0 || erraddr.toNat % 8 ≠ 0 then s
  else match recordPlaces w 4 erraddr s with
    | none => s
    | some (s1, ps) => ((ps.zip ws).zipIdx).foldl (fun s p => engPost cid w s (p.1.1, erraddr + BitVec.ofNat 64 (8 * p.2), p.1.2)) s1

/-- An uncorrectable error that a command has met is noted for the foreman, and so is what the walk of a refused address has met in the page
tables (R289, R290, R293). -/
def noteLost (s : State) (w : Issuer) (code : Nat) (addr : Word) : State :=
  if code = 3 || (code = 4 && addr ≠ 0) then noteFault s w.asker addr
  else if code ≠ 10 then s
  else match locate s w.asker .engineRead addr 8 1 none 0 with
    | .ok (s1, .mem pa _) | .ok (s1, .ro _ pa) => noteRead s1 .lost pa 1
    | _ => s

/-- A command fails: its record, and ENGERR; its ownership ends (R166). -/
def engFail (s : State) (cid kind code : Nat) (w : Issuer) (serial : BitVec 32) (addr progress erraddr : Word) : State :=
  raiseEngErr (writeRecord (dropData (endOwnership (noteLost s w code addr) cid) cid) cid w erraddr
    (recordWords s kind code w serial addr progress)) w

/-! ## Issue -/

/-- The registers of an engine as a command snapshots them (R75). -/
def snapshotRegs (s : State) (eng : Nat) : SMap Word :=
  (s.t.eregs.filter (fun e => e.1 / 256 = eng)).map (fun e => (e.1 % 256, e.2))

def reg (r : SMap Word) (i : Nat) : Word := r.get 0 i

/-- The release that a command waits for, unless it is .nf (R164). -/
def mustRelease (s : State) (nf : Bool) : Bool := !nf && !released s

/-- A number for the next command. -/
def drawCid (s : State) : State × Nat := ({ s with nextCid := s.nextCid + 1 }, s.nextCid)

end Sys2Proof.Machine
end

