-- ==== Sys2Proof/Machine/Loom.lean ====
section
/-!
DEFINITION. The loom (spec/09_loom.md R181 to R200; spec/03_numbers.md R29, R48 to R53; spec/21 R358 to R360): its seven commands, the
leases, and the steps by which the cluster's loom executes what is queued.
-/
namespace Sys2Proof.Machine

/-! ## Formats (R29, R51, R86) -/

def loomFmt (code : Nat) : Option Fmt :=
  match fmtOr fmtBF16 code with
  | some f => if f.isFloat || f.code = 0x24 || f.code = 0x25 || f.code = 0x26 then some f else none
  | none => none

/-- The formats that R48 and the block scales admit. -/
def exactGroup (f : Fmt) : Bool := f.cls = .small || f.code = 0x22

/-- What MMUL and MROT admit at issue: each code by itself, and the scale mode with its formats (R29, R51, R86). -/
def mmulFmtOk (p : FmtWord) : Bool :=
  match loomFmt p.fa, loomFmt p.fb with
  | some a, some b => (p.fd = 0x3F || p.fd = 0x23 || p.fd = 0x28) && p.sm < 4 && (p.sm = 0 || (exactGroup a && exactGroup b))
  | _, _ => false

/-! ## Accumulators (R68, R181, R185) -/

def loomCluster (s : State) : Cluster := s.clusterAt s.cluster

/-- The slot owns the accumulator, whichever of its tasks claimed it, but for a task saved on it (R181, R185, R412). -/
def ownAcc (s : State) (a : Acc) : Bool := a.owner = some s.cur && savedNum s s.cur ≠ some a.epoch
def accMine (s : State) (i : Nat) : Bool := ownAcc s (accOf (loomCluster s) i)
def accForeign (s : State) (i : Nat) : Bool := (accOf (loomCluster s) i).owner.isSome && !accMine s i

/-- Changes an accumulator of a cluster. -/
def updAcc (s : State) (c i : Nat) (f : Acc → Acc) : State := let k := s.clusterAt c; s.setCluster c (setAcc k i (f (accOf k i)))

/-- The slot claims a free accumulator, or keeps its own (R181). -/
def claimAcc (n epoch : Nat) (a : Acc) : Acc := { a with owner := some n, epoch := epoch, freeing := false }

def orFlags (f : Flags) (a : Acc) : Acc :=
  { a with nv := a.nv || f.getLsbD 0, of := a.of || f.getLsbD 2, uf := a.uf || f.getLsbD 3, nx := a.nx || f.getLsbD 4 }

/-! ## Users of the loom (R188, R199) -/

def loomUser (k : Cluster) (slot : Nat) : LoomUser := k.loomUsers.get .reset slot
def setUser (k : Cluster) (slot : Nat) (u : LoomUser) : Cluster := { k with loomUsers := k.loomUsers.set .reset slot u }

/-- A command of the slot's own, the saved task's left out (R412). -/
def ownTask (s : State) (w : Issuer) : Bool := w.slot = s.cur && savedNum s s.cur ≠ some w.epoch

/-- The next loom serial of the task (R188). -/
def bumpLoom (s : State) : State := s.setT { s.t with serialLoom := s.t.serialLoom + 1 }

/-- The slot's last completed loom command. -/
def noteDone (s : State) : State :=
  let k := loomCluster s
  s.setCluster s.cluster (setUser k s.cur { loomUser k s.cur with lastDone := s.t.serialLoom })

/-- The slot's lease ends. -/
def dropLease (slot : Nat) (k : Cluster) : Cluster :=
  match k.lease with
  | some l => if l.slot = slot then { k with lease := none } else k
  | none => k

/-! ## Issue of MLEASE, MREL and MSTAT (R185 to R188, R359, R360) -/

def leaseLen (r : SMap Word) : Nat := (reg r 0x0E).toNat

def mleaseBody (m : BitVec 4) (nf : Bool) (s : State) : Eff :=
  match (List.range 4).find? (fun i => m.getLsbD i && accForeign s i) with
  | some i => .error (.trap .accown (BitVec.ofNat 64 i))
  | none =>
    if mustRelease s nf || (loomCluster s).loomq.length ≥ 32 then .error .stall
    else
      let claimed := (List.range 4).foldl (fun k i => if m.getLsbD i then setAcc k i (claimAcc s.cur s.t.num (accOf k i)) else k) (loomCluster s)
      let s1 := s.setCluster s.cluster (dropLease s.cur claimed)
      let r := snapshotRegs s1 1
      if 1 ≤ leaseLen r && leaseLen r ≤ 64 then
        let k := loomCluster s1
        .error (.park (s1.setCluster s1.cluster { k with asks := k.asks ++ [(s1.cur, s1.t.prio.toNat, leaseLen r)] }) .lease)
      else
        let s2 := bumpLoom s1
        let d := drawCid s2
        .ok (noteDone (engFail d.1 d.2 1 2 (issuerOf (loomPort s2.cluster) s2) s2.t.serialLoom 0 0 (reg r 0x0D)))

def execMlease (m : BitVec 4) (nf sw : Bool) (s : State) : Out := issue (.mlease m nf sw) sw {} (fun _ s => mleaseBody m nf s) s

def mrelBody (nf : Bool) (s : State) : Eff :=
  if mustRelease s nf || (loomCluster s).loomq.length ≥ 32 then .error .stall
  else .ok (noteDone (bumpLoom (s.setCluster s.cluster (freeAccs (ownAcc s) (dropLease s.cur (loomCluster s))))))

def execMrel (nf sw : Bool) (s : State) : Out := issue (.mrel nf sw) sw {} (fun _ s => mrelBody nf s) s

/-- The word of MSTAT (R188). -/
def mstatWord (s : State) (n : Nat) : Word :=
  let k := loomCluster s
  let a := accOf k n
  let u := loomUser k s.cur
  BitVec.ofNat 64
    (boolBit a.nv 0 + boolBit a.of 2 + boolBit a.uf 3 + boolBit a.nx 4 + boolBit a.valid 8 + boolBit (accBusy k n) 9
      + boolBit u.halted 10 + boolBit (accMine s n) 11
      + boolBit (match k.lease with | some l => l.slot = s.cur | none => false) 12
      + (k.loomq.filter (fun c => ownTask s c.who)).length % 256 * 2 ^ 16 + u.skipped % 256 * 2 ^ 24
      + u.lastDone.toNat * 2 ^ 32)

/-- .clr: the flags, the skipped count and the halt (R188). -/
def mstatClear (s : State) (n : Nat) : State :=
  let k := loomCluster s
  let a := accOf k n
  let k1 := setAcc k n { a with nv := false, of := false, uf := false, nx := false }
  s.setCluster s.cluster (setUser k1 s.cur { loomUser k1 s.cur with halted := false, skipped := 0 })

def mstatBody (n : Nat) (clr : Bool) (s : State) : Eff :=
  if accForeign s n then .error (.trap .accown (BitVec.ofNat 64 n))
  else if s.t.eq.length ≥ 16 then .error .stall
  else
    let s1 := s.setT { s.t with eq := s.t.eq ++ [mstatWord s n] }
    .ok (if clr then mstatClear s1 n else s1)

def execMstat (acc : BitVec 2) (clr nf sw : Bool) (s : State) : Out :=
  issue (.mstat acc clr nf sw) sw {} (fun _ s => mstatBody acc.toNat clr s) s

/-! ## Issue of the queued commands (R181, R185, R197) -/

def rowsOf (r : SMap Word) : Nat := (reg r 0).toNat
def colsOf (r : SMap Word) : Nat := (reg r 1).toNat
def kchOf (r : SMap Word) : Nat := (reg r 2).toNat

/-- Width of the drained elements. -/
def drainWidth (r : SMap Word) : Nat :=
  if (reg r 7).toNat = 0x3F then 32 else match fmtOfCode (reg r 7).toNat with | some f => if f.cls = .fixed then 0 else f.width | none => 0

/-- Bytes of a drained row. -/
def drainBytes (r : SMap Word) : Nat := (colsOf r * drainWidth r + 7) / 8
def drainRow (ra : Word) (r : SMap Word) (i : Nat) : Word := ra + BitVec.ofNat 64 i * reg r 8

/-- MDRAIN owns its destination from issue on (R197). -/
def claimDrain (cid : Nat) (w : Issuer) (ra : Word) (r : SMap Word) (s : State) : State :=
  if 1 ≤ rowsOf r && rowsOf r ≤ 32 && colsOf r ≤ 32 then
    (List.range (rowsOf r)).foldl (fun s i => claimRange cid i w (drainRow ra r i) (drainBytes r) s) s
  else s

def queueLoom (op : LoomOp) (n : Nat) (nf : Bool) (v : Vals) (s : State) : Eff :=
  if accForeign s n then .error (.trap .accown (BitVec.ofNat 64 n))
  else if op ≠ .mzero && !(accOf (loomCluster s) n).valid then .error (.trap .accinv (BitVec.ofNat 64 n))
  else if mustRelease s nf || (loomCluster s).loomq.length ≥ 32 then .error .stall
  else
    let d := drawCid (bumpLoom s)
    let s1 := d.1
    let c : LoomCmd := { cid := d.2, who := issuerOf (loomPort s1.cluster) s1, prio := s1.t.prio.toNat, op := op, acc := n, ra := v.a, rb := v.b, fmt := s.t.fmt,
                         regs := snapshotRegs s1 1, serial := s1.t.serialLoom, done := 0, flags := 0, parked := false }
    let s2 := if op = .mzero then updAcc s1 s1.cluster n (fun a => { claimAcc s1.cur s1.t.num a with valid := true }) else s1
    let k := loomCluster s2
    let s3 := s2.setCluster s2.cluster { k with loomq := k.loomq ++ [c] }
    .ok (if op = .mdrain then awaitClaims c.cid (claimDrain c.cid c.who c.ra c.regs s3) else s3)

def matUse (ra rb : Reg) : Use := { a := some ra, b := some rb, pfx := true, fmtOk := mmulFmtOk }

def execMmul (ra rb : Reg) (acc : BitVec 2) (nf sw : Bool) (s : State) : Out :=
  issue (.mmul ra rb acc nf sw) sw (matUse ra rb) (queueLoom .mmul acc.toNat nf) s
def execMrot (ra rb : Reg) (acc : BitVec 2) (nf sw : Bool) (s : State) : Out :=
  issue (.mrot ra rb acc nf sw) sw (matUse ra rb) (queueLoom .mrot acc.toNat nf) s
def execMdrain (ra : Reg) (acc : BitVec 2) (nf sw : Bool) (s : State) : Out :=
  issue (.mdrain ra acc nf sw) sw { a := some ra } (queueLoom .mdrain acc.toNat nf) s
def execMzero (acc : BitVec 2) (nf sw : Bool) (s : State) : Out :=
  issue (.mzero acc nf sw) sw {} (queueLoom .mzero acc.toNat nf) s

/-! ## Leases (R182, R183) -/

/-- A row of MDRAIN has begun to be written to another device. -/
def rowBegun (s : State) (q : LoomCmd) : Bool := q.op = .mdrain && s.engData.any (fun d => d.cid = q.cid)

/-- The command takes steps: neither a freeze nor a gang switch holds it, but that a row which has begun goes on to its end (R200, R262, log
68). -/
def loomRuns (s : State) (c : Nat) (q : LoomCmd) : Bool := engineRuns s c q.who || rowBegun s q

/-- The command of a slot that is next: the slot's commands execute in issue order (R182), those of a stopped context aside (R411), and not
while the slot is halted (R199). -/
def slotNext (s : State) (c slot : Nat) : Option LoomCmd :=
  if (loomUser (s.clusterAt c) slot).halted then none else (s.clusterAt c).loomq.find? (fun q => q.who.slot = slot && loomRuns s c q)

/-- A candidate for the grant: slot, PRIO, and the LEASELEN of an MLEASE that waits. -/
structure Candidate where
  slot  : Nat
  prio  : Nat
  ask   : Option Nat
  deriving DecidableEq, Repr

/-- An MLEASE waits for its slot's earlier commands, each of which takes its own lease; those that a halt or a stop holds do not run before
it (R182, R199). The PRIO is the one at the issue of the command, whose task may have ended (DESIGN CHOICE, log 101). -/
def candidates (s : State) (c : Nat) : List Candidate :=
  let k := s.clusterAt c
  (if k.frozen then []
   else (k.asks.filter (fun q => (slotNext s c q.1).isNone)).map (fun q => { slot := q.1, prio := q.2.1, ask := some q.2.2 : Candidate }))
    ++ ((k.loomq.map (fun q => q.who.slot)).eraseDups.filterMap (slotNext s c)).map (fun q => { slot := q.who.slot, prio := q.prio, ask := none : Candidate })

/-- A command that has begun goes on to its end though its lease is over, unless a gang switch has parked it (R182, R193, R200). -/
def partDone (s : State) (c : Nat) : Option LoomCmd :=
  (s.clusterAt c).loomq.find? (fun q =>
    !q.parked && (0 < q.done || s.engData.any (fun d => d.cid = q.cid)) && (slotNext s c q.who.slot).map LoomCmd.cid = some q.cid)

/-- Lower PRIO first, then slot order after the last holder. -/
def before (last : Nat) (a b : Candidate) : Bool :=
  let rank (x : Candidate) : Nat := (x.slot + (16384 - (last + 1) % 16384)) % 16384
  a.prio < b.prio || (a.prio = b.prio && rank a < rank b)

def bestCandidate (last : Nat) : List Candidate → Option Candidate
  | [] => none
  | a :: rest => some (rest.foldl (fun m x => if before last x m then x else m) a)

def grantLease (s : State) (c : Nat) (g : Candidate) : State :=
  let k := s.clusterAt c
  let l : Lease := { slot := g.slot, left := g.ask.getD 1, since := s.tstamp.toNat }
  let s1 := s.setCluster c { k with lease := some l, lastHolder := g.slot, asks := if g.ask.isSome then k.asks.filter (fun q => q.1 ≠ g.slot) else k.asks,
                                    loomq := k.loomq.map (fun q => if q.who.slot = g.slot then { q with parked := false } else q) }
  if g.ask.isSome then withSlot s1 g.slot (fun a => completeWait (noteDone (bumpLoom a))) else s1

def execLeaseGrant (cluster : Nat) (s : State) : Out :=
  let k := s.clusterAt cluster
  .next (match k.lease, partDone s cluster, bestCandidate k.lastHolder (candidates s cluster) with
    | none, none, some g => grantLease s cluster g
    | _, _, _ => s)

/-- The lease may lapse: nothing of the holder has been queued for 2,048 cycles, which are 621 ns at 3.3 GHz (R183). -/
def leaseLapses (s : State) (c : Nat) : Bool :=
  let k := s.clusterAt c
  match k.lease with
  | none => false
  | some l => !k.loomq.any (fun q => q.who.slot = l.slot) && l.since + 621 ≤ s.tstamp.toNat

def execLeaseLapse (cluster : Nat) (s : State) : Out :=
  .next (if leaseLapses s cluster then s.setCluster cluster { s.clusterAt cluster with lease := none } else s)

/-! ## The command at the head -/

/-- The command that the loom executes: the holder's next, or without a lease one that has begun. -/
def loomHead (s : State) (c : Nat) : Option LoomCmd :=
  match (s.clusterAt c).lease with
  | none => partDone s c
  | some l => slotNext s c l.slot

def putCmd (s : State) (c : Nat) (q : LoomCmd) : State :=
  let k := s.clusterAt c
  s.setCluster c { k with loomq := k.loomq.map (fun x => if x.cid = q.cid then q else x) }

/-- How a command ends. -/
inductive LoomEnd where
  | done | skipped | failed
  deriving DecidableEq, Repr

/-- The command leaves the queue; the lease counts it, also when it was skipped, and only one that was performed is the last completed one
(R182, R188, R199, DEDUCED, log 90). -/
def endCmd (s : State) (c : Nat) (q : LoomCmd) (e : LoomEnd) : State :=
  let k := s.clusterAt c
  let u := loomUser k q.who.slot
  let u1 : LoomUser := match e with
    | .done => { u with lastDone := q.serial }
    | .skipped => { u with skipped := min 255 (u.skipped + 1) }
    | .failed => { u with halted := true }
  let lease := match k.lease with
    | some l =>
      if l.slot ≠ q.who.slot then some l
      else if e = .failed || l.left ≤ 1 then none else some { l with left := l.left - 1, since := s.tstamp.toNat }
    | none => none
  s.setCluster c (setUser { k with loomq := k.loomq.filter (fun x => x.cid ≠ q.cid), lease := lease } q.who.slot u1)

/-- A failing command (R199). -/
def failCmd (s : State) (c : Nat) (q : LoomCmd) (code : Nat) (addr : Word) : State :=
  let s1 := engFail s q.cid 1 code q.who q.serial addr (BitVec.ofNat 64 q.done) (reg q.regs 0x0D)
  endCmd (updAcc s1 c q.acc (fun a => { a with valid := false })) c q .failed

/-- The last step of a command: its flags, then its counter (R193, R197). -/
def signalCmd (s : State) (c : Nat) (q : LoomCmd) : State :=
  let s0 := putCmd (updAcc s c q.acc (orFlags q.flags)) c { q with flags := 0 }
  match engSignal s0 q.cid q.who (reg q.regs 0x0C) 1 with
  | .error (.wait s1) => s1
  | .error (.fail code a) => failCmd s0 c q code a
  | .ok (s1, _) => endCmd (endOwnership (dropData s1 q.cid) q.cid) c q .done

/-- Runs a step of the head command, if it is of this kind; after a restart it is skipped when its accumulator is not valid (R199). A bit in
error of the accumulator is corrected as it is read (R289). -/
def runHead (op : LoomOp) (f : LoomCmd → State → State) (c : Nat) (s : State) : State :=
  match loomHead s c with
  | none => s
  | some q =>
    if q.op ≠ op then s
    else if op ≠ .mzero && !(accOf (s.clusterAt c) q.acc).valid then endCmd (endOwnership (dropData s q.cid) q.cid) c q .skipped
    else f q (if op = .mzero then { s with flaws := s.flaws.erase (.acc c q.acc) } else useFlaw s (.acc c q.acc) c)

/-- All elements +0, the flags clear, and no error left (R187, R290). -/
def Acc.zeroed (a : Acc) : Acc := { a with elems := [], cls := .open, nv := false, of := false, uf := false, nx := false, spoiled := false }

def execMzeroExecute (cluster : Nat) (s : State) : Out :=
  .next (runHead .mzero (fun q s => endCmd (updAcc s cluster q.acc Acc.zeroed) cluster q .done) cluster s)

/-! ## Operands (R189 to R192) -/

/-- Bits of an address that name a byte of its unit. -/
def unitBits (t : Tok) : Nat :=
  match t with
  | .generic | .ro | .gen4 | .regs => 45
  | .tcm | .tcm4 => 17
  | .pad | .pad4 => 21
  | .sram | .sram4 => 25
  | .host => 48

/-- Two addresses lie in one path, device, region and unit. -/
def sameUnit (a b : Word) : Bool :=
  match tokOf a with
  | some t => a.toNat / 2 ^ unitBits t = b.toNat / 2 ^ unitBits t
  | none => false

def operandPath (op : LoomOp) (a : Word) : Bool :=
  match tokOf a with
  | some .pad | some .pad4 => true
  | some .generic | some .sram | some .tcm4 | some .sram4 | some .gen4 => op ≠ .mrot
  | _ => false

/-- A, B and fd taken together as R29 admits them. -/
def classOk (q : LoomCmd) : Bool :=
  match loomFmt q.fmt.fa, loomFmt q.fmt.fb with
  | some a, some b => a.isFloat = b.isFloat && (q.fmt.fd = 0x3F || q.fmt.fd = (if a.isFloat then 0x23 else 0x28))
  | _, _ => false

/-- The checks of MMUL and MROT at the head of the queue (R198). When several fail, the first here is recorded, and a misaligned stride is
reported with its operand's address (DESIGN CHOICE, log 91). -/
def matCheck (q : LoomCmd) : Option (Nat × Word) :=
  let r := q.regs
  if !classOk q then some (1, 0)
  else if !(1 ≤ rowsOf r && rowsOf r ≤ 32 && 1 ≤ colsOf r && colsOf r ≤ 32 && 1 ≤ kchOf r && kchOf r ≤ 64 && (reg r 9).toNat ≤ 8) then some (2, 0)
  else if q.op = .mrot && ((reg r 0x0A).toNat ≥ 512 || (reg r 0x0B).toNat ≥ 512) then some (2, 0)
  else if !operandPath q.op q.ra then some (2, q.ra)
  else if !operandPath q.op q.rb then some (2, q.rb)
  else if q.ra.toNat % 64 ≠ 0 || (reg r 3).toNat % 64 ≠ 0 then some (6, q.ra)
  else if q.rb.toNat % 64 ≠ 0 || (reg r 4).toNat % 64 ≠ 0 then some (6, q.rb)
  else none

/-- One operand of a command: base, chunk stride, format, vectors in use, planes skipped, its request tag. -/
structure Operand where
  base   : Word
  stride : Word
  fmt    : Fmt
  vecs   : Nat
  cut    : Nat
  tag    : Nat
  deriving DecidableEq, Repr

def fmtA (q : LoomCmd) : Fmt := (loomFmt q.fmt.fa).getD fmtBF16
def fmtB (q : LoomCmd) : Fmt := (loomFmt q.fmt.fb).getD fmtBF16

/-- Fraction bits of B that PRECB clears (R52). -/
def precCut (q : LoomCmd) : Nat :=
  let p := (reg q.regs 0x0F).toNat
  if (fmtB q).isFloat && 1 ≤ p && p < (fmtB q).prec then (fmtB q).prec - p else 0

/-- The operands of command chunk c; their requests to other devices carry tags of their own. -/
def opA (q : LoomCmd) (c : Nat) : Operand :=
  { base := q.ra, stride := reg q.regs 3, fmt := fmtA q, vecs := rowsOf q.regs, cut := 0, tag := 16 + 2 * c }
def opB (q : LoomCmd) (c : Nat) : Operand :=
  { base := q.rb, stride := reg q.regs 4, fmt := fmtB q, vecs := colsOf q.regs, cut := precCut q, tag := 17 + 2 * c }

/-- K positions of a command chunk (R190). -/
def chunkLen (q : LoomCmd) : Nat := 384 / max (fmtA q).width (fmtB q).width
def Operand.len (x : Operand) : Nat := 384 / x.fmt.width

/-- Where command chunk c reads the operand (R190). -/
def Operand.chunkAt (x : Operand) (e c : Nat) : Word := x.base + BitVec.ofNat 64 (c * e / x.len) * x.stride

/-- One element from the planes of a chunk (R189): bit index b of every plane, plane 0 the most significant. -/
def planeElem (w : Nat) (planes : List Nat) (b : Nat) : Nat :=
  (planes.zipIdx).foldl (fun a p => if p.1.testBit b then a + 2 ^ (w - 1 - p.2) else a) 0

/-- The elements of a chunk that a command chunk covers, vector by vector. -/
def Operand.elems (x : Operand) (e c : Nat) (planes : List Nat) : List (List Nat) :=
  (List.range x.vecs).map (fun r => (List.range e).map (fun k => planeElem x.fmt.width planes (r * x.len + c * e % x.len + k)))

/-- The bytes of a plane that hold the E positions of a command chunk, vectors below the limit only (R190, R191): offsets and sizes. -/
def Operand.ranges (q : LoomCmd) (x : Operand) (c : Nat) : List (Nat × Nat) :=
  let e := chunkLen q
  if e = x.len then [(0, (x.vecs * e + 7) / 8)]
  else (List.range x.vecs).map (fun r =>
    let lo := r * x.len + c * e % x.len
    (lo / 8, (lo + e + 7) / 8 - lo / 8))

/-- Reads ranges of a plane. -/
def readRanges (cid tag : Nat) (w : Issuer) (a : Word) : List (Nat × Nat) → State → EngEff Nat
  | [], s => .ok (s, 0)
  | r :: rest, s =>
    match engRead s cid tag w (a + BitVec.ofNat 64 r.1) r.2 with
    | .error e => .error e
    | .ok (s1, bs) =>
      match readRanges cid tag w a rest s1 with
      | .error e => .error e
      | .ok (s2, v) => .ok (s2, natOf bs * 2 ^ (8 * r.1) ||| v)

def Operand.plane (x : Operand) (a : Word) (p : Nat) : Word := a + BitVec.ofNat 64 (p * (1536 / x.fmt.width))

/-- Reads the planes in use. -/
def readPlanes (cid : Nat) (w : Issuer) (x : Operand) (a : Word) (rs : List (Nat × Nat)) : List Nat → State → EngEff (List Nat)
  | [], s => .ok (s, [])
  | p :: rest, s =>
    match readRanges cid x.tag w (x.plane a p) rs s with
    | .error e => .error e
    | .ok (s1, v) =>
      match readPlanes cid w x a rs rest s1 with
      | .error e => .error e
      | .ok (s2, vs) => .ok (s2, v :: vs)

/-- An operand of a chunk, its path and unit checked as the chunk is reached (R198). -/
def readOperand (q : LoomCmd) (x : Operand) (c : Nat) (s : State) : EngEff (List (List Nat)) :=
  let a := x.chunkAt (chunkLen q) c
  if !operandPath q.op a || !sameUnit a (a + 1535) then .error (.fail 2 a)
  else match readPlanes q.cid q.who x a (x.ranges q c) (List.range (x.fmt.width - x.cut)) s with
    | .error e => .error e
    | .ok (s1, ps) => .ok (s1, x.elems (chunkLen q) c ps)

/-- An operand is remote: on another device, or by path 4 in another cluster or another die's SRAM (R196). -/
def remoteOperand (s : State) (cluster : Nat) (a : Word) : Bool :=
  isRemote s a
    || (match tokOf a with
        | some .tcm4 => bitsOf a 33 12 / 16 ≠ cluster
        | some .pad4 => bitsOf a 37 8 ≠ cluster
        | some .sram4 => bitsOf a 42 3 ≠ cluster / 32
        | _ => false)

/-- A remote operand of a chunk is read, or asked for. -/
def askOperand (cluster : Nat) (q : LoomCmd) (x : Operand) (c : Nat) (s : State) : State :=
  let a := x.chunkAt (chunkLen q) c
  if !remoteOperand s cluster a || !operandPath q.op a || !sameUnit a (a + 1535) then s
  else (List.range (x.fmt.width - x.cut)).foldl
    (fun s p => (x.ranges q c).foldl (fun s r =>
      let piece := (x.plane a p + BitVec.ofNat 64 r.1, r.2)
      if isRemote s a then engAsk q.cid x.tag q.who s piece else engFetch q.cid x.tag q.who s piece) s) s

/-- The chunks whose remote operands the fetcher reads now: the one in hand and PFDEPTH more (R196). -/
def aheadChunks (q : LoomCmd) : List Nat :=
  ((List.range ((reg q.regs 9).toNat + 1)).map (fun i => q.done + i)).filter (fun c => c < kchOf q.regs)

def askAhead (cluster : Nat) (q : LoomCmd) (s : State) : State :=
  (aheadChunks q).foldl (fun s c => askOperand cluster q (opB q c) c (askOperand cluster q (opA q c) c s)) s

/-- Scale bytes per vector (R192). -/
def scaleCount (q : LoomCmd) : Nat :=
  let n := kchOf q.regs * chunkLen q
  match q.fmt.sm with
  | 0 => 0
  | 1 => (n + 15) / 16
  | 2 => (n + 31) / 32
  | _ => 1

def scaleBlock (sm k : Nat) : Nat := if sm = 1 then k / 16 else if sm = 2 then k / 32 else 0

/-- The scale of a vector at an absolute K position. -/
def scaleAt (q : LoomCmd) (bs : List Byte) (v k : Nat) : Num :=
  if q.fmt.sm = 0 then .fin false 1 0 else scaleValue (bs.getD (v * scaleCount q + scaleBlock q.fmt.sm k) 0).toNat

/-! ## The arithmetic of a chunk (R48 to R53) -/

/-- The scaled values of a vector's elements. -/
def scaledRow (q : LoomCmd) (f : Fmt) (bs : List Byte) (c v : Nat) (es : List Nat) : List Num :=
  (es.zipIdx).map (fun p => ((f.value p.1).mul (scaleAt q bs v (c * chunkLen q + p.2))).1)

def windowed (q : LoomCmd) : Bool := !(exactGroup (fmtA q) && exactGroup (fmtB q))

def floatElem (q : LoomCmd) (old : Nat) (a b : List Num) : Nat × Flags := chunkAdd (windowed q) old ((a.zip b).map (fun p => p.1.mul p.2))

def intElem (q : LoomCmd) (old : Nat) (a b : List Nat) : Nat :=
  intCode 32 ((a.zip b).foldl (fun n p => n + ((fmtA q).value p.1).at.1 * ((fmtB q).value p.2).at.1) (old : Int))

/-- Applies one chunk to the accumulator. -/
def applyChunk (q : LoomCmd) (c : Nat) (sa sb : List Byte) (av bv : List (List Nat)) (acc : Acc) : Acc × Flags :=
  let pairs := ((List.range (rowsOf q.regs)).map (fun i => (List.range (colsOf q.regs)).map (fun j => (i, j)))).flatten
  if (fmtA q).isFloat then
    let ra := (av.zipIdx).map (fun p => scaledRow q (fmtA q) sa c p.2 p.1)
    let rb := (bv.zipIdx).map (fun p => scaledRow q (fmtB q) sb c p.2 p.1)
    pairs.foldl
      (fun (st : Acc × Flags) p =>
        let r := floatElem q (st.1.elems.get 0 (32 * p.1 + p.2)).toNat (ra.getD p.1 []) (rb.getD p.2 [])
        ({ st.1 with elems := st.1.elems.set 0 (32 * p.1 + p.2) (BitVec.ofNat 32 r.1) }, st.2 ||| r.2)) ({ acc with cls := .float }, 0)
  else
    (pairs.foldl
      (fun (a : Acc) p =>
        let v := intElem q (a.elems.get 0 (32 * p.1 + p.2)).toNat (av.getD p.1 []) (bv.getD p.2 [])
        { a with elems := a.elems.set 0 (32 * p.1 + p.2) (BitVec.ofNat 32 v) }) { acc with cls := .integer }, 0)

/-- The chunk is committed. -/
def commitChunk (c : Nat) (q : LoomCmd) (sa sb : List Byte) (av bv : List (List Nat)) (s : State) : State :=
  let r := applyChunk q q.done sa sb av bv (accOf (s.clusterAt c) q.acc)
  let s1 := updAcc (dropTags s q.cid (fun t => t = (opA q q.done).tag || t = (opB q q.done).tag)) c q.acc (fun _ => r.1)
  putCmd s1 c { q with done := q.done + 1, flags := q.flags ||| r.2 }

/-- The scale bytes of both operands. -/
def readScales (q : LoomCmd) (s : State) : EngEff (List Byte × List Byte) :=
  match engRead s q.cid 2 q.who (reg q.regs 5) (rowsOf q.regs * scaleCount q) with
  | .error e => .error e
  | .ok (s1, sa) =>
    match engRead s1 q.cid 3 q.who (reg q.regs 6) (colsOf q.regs * scaleCount q) with
    | .error e => .error e
    | .ok (s2, sb) => .ok (s2, (sa, sb))

def mmulChunk (c : Nat) (q : LoomCmd) (s : State) : EngEff Unit :=
  match readScales q s with
  | .error e => .error e
  | .ok (s1, sc) =>
    match readOperand q (opA q q.done) q.done s1 with
    | .error e => .error e
    | .ok (s2, av) =>
      match readOperand q (opB q q.done) q.done s2 with
      | .error e => .error e
      | .ok (s3, bv) => .ok (commitChunk c q sc.1 sc.2 av bv s3, ())

/-- Turns the outcome of a command's step into a state. -/
def settle (c : Nat) (q : LoomCmd) (s : State) (r : EngEff Unit) : State :=
  match r with
  | .ok (s1, _) => s1
  | .error (.wait s1) => s1
  | .error (.fail code a) => failCmd s c q code a

/-- A check of a command before its next chunk or row: its registers first, then its accumulator (R198, R290). -/
def headCheck (c : Nat) (q : LoomCmd) (check : Option (Nat × Word)) (s : State) : Option (Nat × Word) :=
  match (if q.done = 0 then check else none) with
  | some e => some e
  | none => if (accOf (s.clusterAt c) q.acc).spoiled then some (10, 0) else none

/-- One step of MMUL: its checks, a chunk, or after the last one its signal. -/
def mmulStep (c : Nat) (q : LoomCmd) (s : State) : State :=
  match headCheck c q (matCheck q) s with
  | some e => failCmd s c q e.1 e.2
  | none =>
    if kchOf q.regs ≤ q.done then signalCmd s c q
    else let s1 := askAhead c q s; settle c q s1 (mmulChunk c q s1)

def execMmulExecute (cluster : Nat) (s : State) : Out := .next (runHead .mmul (mmulStep cluster) cluster s)

/-! ## MROT (R195) -/

/-- The cluster west or north of one (R21). -/
def westCluster (c : Nat) : Nat := c / 8 * 8 + (c + 7) % 8
def northCluster (c : Nat) : Nat := c / 32 * 32 + (c + 24) % 32

def rotTarget (v : Word) (dflt : Nat) : Nat := if v.getLsbD 8 then v.toNat % 256 else dflt

/-- The granules of a chunk; those of another device come two by two, one message for each home (R271). -/
def rotPieces (s : State) (a : Word) : List (Word × Nat) := cutRange 98 a 1536 (if isRemote s a then 32 else 16)

/-- One granule is read as by a .fc load, when it is full and no other command owns it (R143, R165, R195); nothing happens before. -/
def rotTake (cid tag : Nat) (w : Issuer) (s : State) (p : Word × Nat) : EngEff Unit :=
  match engLocate s w .fe p.1 1 with
  | .error e => .error e
  | .ok (s1, .mem pa _) =>
    if (engDatum s1 cid tag p.1).isSome || engBlocked s1 cid pa p.2 || !isFull s1 pa then .ok (s1, ())
    else match spoiledAt s1 pa p.2 with
      | some i => .error (.fail 10 (p.1 + BitVec.ofNat 64 i))
      | none =>
        let d : EngDatum := { cid := cid, tag := tag, addr := p.1, value := some (BitVec.ofNat 4096 (readNat s1 pa p.2)), code := 0 }
        let s2 := noteRead s1 .lost pa p.2
        .ok (setEmpty { s2 with engData := s2.engData ++ [d] } pa, ())
  | .ok (s1, .remote d) =>
    (match engFar s1 cid tag w d p.1 p.2 2 .load 0 [] with
     | .error (.wait s2) => .ok (s2, ())
     | .error e => .error e
     | .ok (s2, _) => .ok (s2, ()))
  | .ok (_, _) => .error (.fail 2 p.1)

/-- Every granule of a chunk that is full is read; the first failure decides. -/
def rotGather (cid tag : Nat) (w : Issuer) : List (Word × Nat) → State → EngEff Unit
  | [], s => .ok (s, ())
  | p :: rest, s =>
    match rotTake cid tag w s p with
    | .error e => .error e
    | .ok (s1, _) => rotGather cid tag w rest s1

/-- The bytes of a chunk, once every granule has been read. -/
def rotBytes (s : State) (cid tag : Nat) (a : Word) : Option (List Byte) :=
  (rotPieces s a).foldr
    (fun p acc => match engDatum s cid tag p.1, acc with
      | some d, some bs => some (bytesOf p.2 (d.value.getD 0).toNat ++ bs)
      | _, _ => none) (some [])

/-- The whole planes of a chunk, from its bytes. -/
def planesOf (w : Nat) (bs : List Byte) : List Nat :=
  (List.range w).map (fun p => natOf ((bs.drop (p * (1536 / w))).take (1536 / w)))

/-- A chunk leaves for a cluster's scratchpad, each granule at its offset with bit 20 inverted. -/
def deliverChunk (cid ctx target : Nat) (a : Word) (bs : List Byte) (s : State) : State :=
  { s with deliveries := s.deliveries ++ (List.range 96).map (fun i =>
      { cid := cid, ctx := ctx, addr := padAddr target (((bitsOf a 0 21 + 16 * i) % 2 ^ 21) ^^^ 2 ^ 20),
        bytes := BitVec.ofNat 128 (natOf ((bs.drop (16 * i)).take 16)) : Delivery }) }

/-- A chunk that spans offset bit 20 (R195). -/
def spansHalf (a : Word) : Bool := bitsOf a 0 20 + 1536 > 2 ^ 20

/-- An operand's chunk may not cross offset bit 20, nor leave its unit or path (R195, R198). -/
def rotBad (q : LoomCmd) (a : Word) : Bool := !operandPath q.op a || spansHalf a || !sameUnit a (a + 1535)

/-- The operands of MROT's chunk in hand. -/
def rotFault (q : LoomCmd) : Option Word :=
  [(opA q q.done).chunkAt (chunkLen q) q.done, (opB q q.done).chunkAt (chunkLen q) q.done].find? (rotBad q)

/-- The full granules of remote operands are read for the chunks ahead; what fails is left to its chunk (R195, R196). -/
def rotAhead (cluster : Nat) (q : LoomCmd) (s : State) : State :=
  let ask (c : Nat) (s : State) (x : Operand) : State :=
    let a := x.chunkAt (chunkLen q) c
    if !remoteOperand s cluster a || rotBad q a then s
    else match rotGather q.cid x.tag q.who (rotPieces s a) s with
      | .ok (s1, _) => s1
      | .error _ => s
  (aheadChunks q).foldl (fun s c => [opA q c, opB q c].foldl (ask c) s) s

/-- A chunk of MROT: its granules are read as each fills, then it is applied and leaves for both targets in one step, so that a gang switch finds
it whole or not begun (R195, R200, log 68). A chunk of the narrower operand that serves several command chunks is read and delivered for each
of them (DESIGN CHOICE, log 102). -/
def mrotChunk (c : Nat) (q : LoomCmd) (s : State) : EngEff Unit :=
  let e := chunkLen q
  let x := opA q q.done
  let y := opB q q.done
  let a := x.chunkAt e q.done
  let b := y.chunkAt e q.done
  match rotFault q with
  | some f => .error (.fail 2 f)
  | none =>
    match readScales q s with
    | .error e => .error e
    | .ok (s1, sc) =>
      match rotGather q.cid x.tag q.who (rotPieces s1 a) s1 with
      | .error e => .error e
      | .ok (s2, _) =>
        match rotGather q.cid y.tag q.who (rotPieces s2 b) s2 with
        | .error e => .error e
        | .ok (s3, _) =>
          match rotBytes s3 q.cid x.tag a, rotBytes s3 q.cid y.tag b with
          | some ba, some bb =>
            let ea := x.elems e q.done ((planesOf (fmtA q).width ba).take (fmtA q).width)
            let eb := y.elems e q.done ((planesOf (fmtB q).width bb).take ((fmtB q).width - precCut q))
            let s4 := deliverChunk q.cid q.who.ctx (rotTarget (reg q.regs 0x0A) (westCluster c)) a ba (commitChunk c q sc.1 sc.2 ea eb s3)
            .ok (deliverChunk q.cid q.who.ctx (rotTarget (reg q.regs 0x0B) (northCluster c)) b bb s4, ())
          | _, _ => .error (.wait s3)

/-- One step of MROT; the next chunk is not begun before the last one's deliveries have been made. -/
def mrotStep (c : Nat) (q : LoomCmd) (s : State) : State :=
  match headCheck c q (matCheck q) s with
  | some e => failCmd s c q e.1 e.2
  | none =>
    if s.deliveries.any (fun d => d.cid = q.cid) then s
    else if kchOf q.regs ≤ q.done then signalCmd s c q
    else let s1 := rotAhead c q s; settle c q s1 (mrotChunk c q s1)

/-- A granule that was read for a chunk not begun is put back, and full. What has filled it since waits to be delivered after it; on another
device the granule goes back once its place is empty (R200, log 68). -/
def unreadRot (q : LoomCmd) (s : State) (d : EngDatum) : State :=
  if d.cid ≠ q.cid || d.tag < 16 then s
  else match d.value, engLocate { s with engData := s.engData.erase d } q.who .fe d.addr 1 with
    | some v, .ok (s1, .mem pa _) =>
      let newer : Delivery := { cid := s1.nextCid, ctx := q.who.ctx, addr := pa, bytes := BitVec.ofNat 128 (readNat s1 pa 16) }
      engWriteHere (if isFull s1 pa then { s1 with deliveries := s1.deliveries ++ [newer], nextCid := s1.nextCid + 1 } else s1) pa (bytesOf 16 v.toNat)
    | some v, .ok (s1, .remote dev) => { s1 with remote := s1.remote ++ [engRequest s1 q.cid 8 q.who dev d.addr 32 2 .store v []] }
    | _, _ => s

/-- The loom parks at a chunk boundary: a chunk of MROT that has not been applied is not begun, and what was read ahead is dropped (R200). -/
def unbegin (s : State) (q : LoomCmd) : State :=
  if q.op = .mdrain then s
  else dropData (if q.op = .mrot then s.engData.foldl (unreadRot q) s else s) q.cid

/-- At a gang switch a command waits for a fresh grant besides (R200). -/
def parkLoom (c : Nat) (s : State) (q : LoomCmd) : State := putCmd (unbegin s q) c { q with parked := true }

def execMrotChunk (cluster : Nat) (s : State) : Out := .next (runHead .mrot (mrotStep cluster) cluster s)

/-- A delivered granule waits until its place is empty (R195). -/
def deliverable (s : State) (d : Delivery) : Bool := !isFull s d.addr && !engBlocked s d.cid d.addr 16

def execMrotDelivery (idx : Nat) (s : State) : Out :=
  match s.deliveries[idx]? with
  | some d =>
    .next (if deliverable s d then engWriteHere { s with deliveries := s.deliveries.eraseIdx idx } d.addr (bytesOf 16 d.bytes.toNat) else s)
  | none => .next s

/-! ## MDRAIN (R197) -/

/-- The format that a class of accumulator drains in; none is FMT (R29, R68). -/
def drainFmt (cls : AccClass) (r : SMap Word) : Option Fmt :=
  let code := (reg r 7).toNat % 64
  if code = 0x3F then some (if cls = .integer then fmtINT32 else fmtFP32)
  else match fmtOfCode code with
    | some f => if f.cls = .fixed || (cls = .float && f.isInt) || (cls = .integer && f.isFloat) then none else some f
    | none => none

/-- Paths that MDRAIN writes (R197). -/
def drainPath (a : Word) : Bool := match tokOf a with | some t => Access.permits .engineWrite t && t ≠ .host | none => false

/-- The checks of MDRAIN at the head of the queue (R198), in this order, and with this address for a misaligned stride (DESIGN CHOICE, log 91). -/
def drainCheck (cls : AccClass) (q : LoomCmd) : Option (Nat × Word) :=
  let r := q.regs
  match drainFmt cls r with
  | none => some (1, 0)
  | some f =>
    if !(1 ≤ rowsOf r && rowsOf r ≤ 32 && 1 ≤ colsOf r && colsOf r ≤ 32) || (reg r 7).toNat ≥ 64 then some (2, 0)
    else if !drainPath q.ra then some (2, q.ra)
    else if q.ra.toNat % max 1 (f.width / 8) ≠ 0 || (reg r 8).toNat % max 1 (f.width / 8) ≠ 0 then some (6, q.ra)
    else none

/-- An element as the accumulator's class reads it. -/
def accValue (cls : AccClass) (v : BitVec 32) : Num := if cls = .integer then fmtINT32.value v.toNat else fmtFP32.value v.toNat

/-- The converted elements of a row. -/
def drainElems (f : Fmt) (a : Acc) (i cols : Nat) : List (Nat × Flags) :=
  (List.range cols).map (fun j => f.round (accValue a.cls (a.elems.get 0 (32 * i + j))) .rne false)

/-- A four-bit element alone in its last byte: the other nibble keeps its value (R197). -/
def putNibble (cid : Nat) (w : Issuer) (a : Word) (pl : Place) (v : Nat) (s : State) : EngEff Unit :=
  match pl with
  | .mem pa _ => .ok (engWriteHere s pa [BitVec.ofNat 8 ((readByte s pa).toNat / 16 * 16 + v % 16)], ())
  | .remote d =>
    (match engFar s cid 5 w d a 1 (fullQ a) (.amo 10) (BitVec.ofNat 4096 (v % 16)) [] with
     | .error e => .error e
     | .ok (s1, _) => .ok (s1, ()))
  | _ => .error (.fail 2 a)

/-- A number's row of w-bit elements, as bytes. -/
def rowBytes (w : Nat) (vs : List Nat) : Nat := vs.foldr (fun v a => v % 2 ^ w + 2 ^ w * a) 0

def drainOne (c : Nat) (q : LoomCmd) (f : Fmt) (s : State) : EngEff Unit :=
  let cols := colsOf q.regs
  let es := drainElems f (accOf (s.clusterAt c) q.acc) q.done cols
  let a := drainRow q.ra q.regs q.done
  let odd := f.width = 4 && cols % 2 = 1
  let n := if odd then cols / 2 else (cols * f.width + 7) / 8
  let image := rowBytes f.width (es.map Prod.fst)
  if !drainPath a then .error (.fail 2 a)
  else match engDst s q.who a (if odd then n + 1 else n) with
  | .error e => .error e
  | .ok (s1, all) =>
    if dstBlocked s1 q.cid all then .error (.wait s1)
    else match engDst s1 q.who a n with
      | .error e => .error e
      | .ok (s2, ps) =>
        match engPut q.cid 4 q.who ps (bytesOf n image) s2 with
        | .error e => .error e
        | .ok (s3, _) =>
          let last : EngEff Unit := if odd then
              (match engLocate s3 q.who .engineWrite (a + BitVec.ofNat 64 n) 1 with
               | .error e => .error e
               | .ok (s4, pl) => putNibble q.cid q.who (a + BitVec.ofNat 64 n) pl (image / 2 ^ (8 * n)) s4)
            else .ok (s3, ())
          match last with
          | .error e => .error e
          | .ok (s5, _) =>
            let s6 := { s5 with own := s5.own.filter (fun o => !(o.cid = q.cid && o.chunk = q.done)) }
            .ok (putCmd (dropData s6 q.cid) c { q with done := q.done + 1, flags := q.flags ||| flagsOf (es.map Prod.snd) }, ())

def mdrainStep (c : Nat) (q : LoomCmd) (s : State) : State :=
  let cls := (accOf (s.clusterAt c) q.acc).cls
  match headCheck c q (drainCheck cls q) s with
  | some e => failCmd s c q e.1 e.2
  | none =>
    if rowsOf q.regs ≤ q.done then signalCmd s c q
    else match drainFmt cls q.regs with
      | some f => settle c q s (drainOne c q f s)
      | none => s

def execMdrainExecute (cluster : Nat) (s : State) : Out := .next (runHead .mdrain (mdrainStep cluster) cluster s)

/-- A released accumulator is freed once it is not busy (R181). -/
def execAccumulatorFree (cluster acc : Nat) (s : State) : Out :=
  let k := s.clusterAt cluster
  .next (if (accOf k acc).freeing && !accBusy k (acc % 4) then updAcc s cluster acc Acc.free else s)

end Sys2Proof.Machine
end

