-- ==== Sys2Proof/Machine/Copy.lean ====
section
/-!
DEFINITION. The copy unit and the streams (spec/10_copy_bitaxis.md R201 to R215; spec/20 R333; spec/22 R376, R377; spec/03_numbers.md
R54): the copy commands, their chunks, the key filter at homes, the completion signal, SCFG and SDONE.
-/
namespace Sys2Proof.Machine

/-! ## Registers -/

def copyLen (r : SMap Word) : Nat := (reg r 0).toNat
def copyRows (r : SMap Word) : Nat := (reg r 1).toNat
def planeCode (r : SMap Word) : Nat := bitsOf (reg r 4) 0 6
def planeVec (r : SMap Word) : Nat := bitsOf (reg r 4) 8 6
def planeKch (r : SMap Word) : Nat := bitsOf (reg r 4) 16 8
def planeFmt (r : SMap Word) : Fmt := (loomFmt (planeCode r)).getD fmtBF16

/-- Conversions move plane chunks. -/
def CopyOp.plane (o : CopyOp) : Bool := o = .e2p || o = .p2e

/-- The slot of a reduction format (R205); none is refused. -/
def reduceSlot (code : Nat) : Option Nat :=
  match code with
  | 0x23 | 0x28 | 0x3F => some 4
  | 0x21 => some 2
  | 0x29 => some 16
  | _ => none

def rfmt (r : SMap Word) : Nat := bitsOf (reg r 8) 0 6

/-- A command that names no bytes (R202). -/
def CopyCmd.empty (q : CopyCmd) : Bool := !q.op.plane && (copyLen q.regs = 0 || copyRows q.regs = 0)

/-! ## Ranges of a command (R202, R207) -/

/-- A side's rows: how many, and how long each is. The plane side of a conversion has kch chunks, the element side vec rows. -/
def sideShape (q : CopyCmd) (dst : Bool) : Nat × Nat :=
  if !q.op.plane then (copyRows q.regs, copyLen q.regs)
  else if (q.op = .e2p) = dst then (planeKch q.regs, 1536) else (planeVec q.regs, 48 * planeKch q.regs)

def sideBase (q : CopyCmd) (dst : Bool) : Word := if dst then q.ra else q.rb
def sideStride (q : CopyCmd) (dst : Bool) : Word := if dst then reg q.regs 3 else reg q.regs 2
def sideRow (q : CopyCmd) (dst : Bool) (r : Nat) : Word := sideBase q dst + BitVec.ofNat 64 r * sideStride q dst

def sidePath (q : CopyCmd) (dst : Bool) : Bool :=
  match tokOf (sideBase q dst) with
  | some t => if dst then Access.permits .engineWrite t && !(q.op = .cpyr && t = .host) else Access.permits .engineRead t
  | none => false

/-- The first byte past the unit of an address. -/
def unitEnd (a : Word) : Word :=
  match tokOf a with
  | some t => BitVec.ofNat 64 ((a.toNat / 2 ^ unitBits t + 1) * 2 ^ unitBits t)
  | none => a

/-- The first byte of a row of n bytes that lies outside the unit of the side's start. -/
def rowFault (base a : Word) (n : Nat) : Option Word :=
  if !sameUnit base a then some a
  else if (unitEnd base).toNat ≠ 0 && (unitEnd base).toNat < a.toNat + n then some (unitEnd base) else none

/-- The first address of a side that lies outside the start's unit, or whose path is not permitted. -/
def sideFault (q : CopyCmd) (dst : Bool) : Option Word :=
  let shape := sideShape q dst
  if shape.2 = 0 || shape.1 = 0 then none
  else if !sidePath q dst then some (sideBase q dst)
  else ((List.range shape.1).map (sideRow q dst)).findSome? (fun a => rowFault (sideBase q dst) a shape.2)

/-- The checks made before any access (R210). When several fail, the first here is recorded: the formats, the registers, the destination's
range, the source's, the alignments (DESIGN CHOICE, log 92). -/
def copyCheck (q : CopyCmd) : Option (Nat × Word) :=
  let r := q.regs
  let slot := (reduceSlot (rfmt r)).getD 1
  let plane := if q.op = .e2p then true else false
  if q.op.plane && (loomFmt (planeCode r)).isNone then some (1, 0)
  else if q.op = .cpyr && (reduceSlot (rfmt r)).isNone then some (1, 0)
  else if q.op.plane && (reg r 4 &&& ~~~0xFF3F3F ≠ 0 || planeKch r < 1 || 64 < planeKch r || planeVec r < 1 || 32 < planeVec r) then some (2, 0)
  else if !q.op.plane && (copyLen r > 2 ^ 24 || copyRows r > 2 ^ 16) then some (2, 0)
  else if (reg r 0x0A).toNat ≥ 2 ^ 17 || (q.op = .cpyr && (reg r 8).toNat ≥ 64) then some (2, 0)
  else match sideFault q true, sideFault q false with
    | some a, _ => some (2, a)
    | none, some a => some (2, a)
    | none, none =>
      if q.op = .cpyr && !q.empty && (q.ra.toNat % slot ≠ 0 || (reg r 3).toNat % slot ≠ 0 || copyLen r % slot ≠ 0) then some (6, q.ra)
      else if q.op = .cpyr && !q.empty && (q.rb.toNat % slot ≠ 0 || (reg r 2).toNat % slot ≠ 0) then some (6, q.rb)
      else if q.op.plane && ((sideBase q plane).toNat % 64 ≠ 0 || (sideStride q plane).toNat % 64 ≠ 0) then some (6, sideBase q plane)
      else none

/-! ## Issue (R333) -/

/-- Ownership of the destination: by rows, and for p2e by chunks of the rows (R165). -/
def claimCopy (q : CopyCmd) (s : State) : State :=
  if (copyCheck q).isSome then s
  else if q.op = .p2e then
    (List.range (planeKch q.regs)).foldl
      (fun s c => (List.range (planeVec q.regs)).foldl (fun s r => claimRange q.cid c q.who (sideRow q true r + BitVec.ofNat 64 (48 * c)) 48 s) s) s
  else
    let shape := sideShape q true
    (List.range shape.1).foldl (fun s r => claimRange q.cid r q.who (sideRow q true r) shape.2 s) s

def queueCopy (op : CopyOp) (bar nf : Bool) (v : Vals) (s : State) : Eff :=
  if mustRelease s nf || (s.clusterAt s.cluster).copyq.length ≥ 64 then .error .stall
  else
    let d := drawCid (s.setT { s.t with serialCopy := s.t.serialCopy + 1 })
    let s1 := d.1
    let q : CopyCmd := { cid := d.2, who := issuerOf (copyPort s1.cluster) s1, op := op, bar := bar, ra := v.a, rb := v.b, regs := snapshotRegs s1 0,
                         serial := s1.t.serialCopy, done := 0, row := 0, off := 0, sent := false, signalled := false, begun := false, buf := none }
    let k := s1.clusterAt s1.cluster
    .ok (awaitClaims q.cid (claimCopy q (s1.setCluster s1.cluster { k with copyq := k.copyq ++ [q] })))

def copyUse (ra rb : Reg) : Use := { a := some ra, b := some rb }

def execCpy (ra rb : Reg) (bar nf sw : Bool) (s : State) : Out :=
  issue (.cpy ra rb bar nf sw) sw (copyUse ra rb) (queueCopy .cpy bar nf) s
def execCpyr (ra rb : Reg) (bar nf sw : Bool) (s : State) : Out :=
  issue (.cpyr ra rb bar nf sw) sw (copyUse ra rb) (queueCopy .cpyr bar nf) s
def execCpytE2p (ra rb : Reg) (bar nf sw : Bool) (s : State) : Out :=
  issue (.cpytE2p ra rb bar nf sw) sw (copyUse ra rb) (queueCopy .e2p bar nf) s
def execCpytP2e (ra rb : Reg) (bar nf sw : Bool) (s : State) : Out :=
  issue (.cpytP2e ra rb bar nf sw) sw (copyUse ra rb) (queueCopy .p2e bar nf) s

/-! ## Chunks (R203) -/

/-- The command takes steps: neither a freeze nor a gang switch holds it, but that a chunk whose source has been read goes on to its end (R209,
R262, log 68). -/
def copyRuns (s : State) (c : Nat) (q : CopyCmd) : Bool := engineRuns s c q.who || q.buf.isSome

/-- The command that runs at a place of the queue: eight at once, and those of one slot begin in issue order (R209, R411). -/
def copyAt (s : State) (c idx : Nat) : Option CopyCmd :=
  match (s.clusterAt c).copyq[idx]? with
  | some q =>
    let earlier := ((s.clusterAt c).copyq.take idx).filter (copyRuns s c)
    if copyRuns s c q && earlier.length < 8 && (q.begun || earlier.all (fun p => p.begun || p.who.slot ≠ q.who.slot)) then some q else none
  | none => none

def putCopy (s : State) (c : Nat) (q : CopyCmd) : State :=
  let k := s.clusterAt c
  s.setCluster c { k with copyq := k.copyq.map (fun x => if x.cid = q.cid then q else x) }
def dropCopy (s : State) (c : Nat) (q : CopyCmd) : State :=
  let k := s.clusterAt c
  s.setCluster c { k with copyq := k.copyq.filter (fun x => x.cid ≠ q.cid) }

/-- A failing command (R210). -/
def failCopy (s : State) (c : Nat) (q : CopyCmd) (code : Nat) (addr : Word) : State :=
  dropCopy (engFail s q.cid 0 code q.who q.serial addr (BitVec.ofNat 64 q.done) (reg q.regs 9)) c q

/-- Every chunk is performed. -/
def CopyCmd.finished (q : CopyCmd) : Bool :=
  if q.op.plane then planeKch q.regs ≤ q.done else q.empty || copyRows q.regs ≤ q.row

/-- The aligned span of a destination's home kind (R203). -/
def chunkSpan (a : Word) : Nat :=
  match tokOf a with
  | some .pad | some .pad4 => 32
  | some .sram | some .sram4 => 256
  | some .host => 128
  | _ => 1024

/-- The next chunk: destination, source, bytes. -/
def nextChunk (q : CopyCmd) : Word × Word × Nat :=
  let d := sideRow q true q.row + BitVec.ofNat 64 q.off
  (d, sideRow q false q.row + BitVec.ofNat 64 q.off, min (copyLen q.regs - q.off) (chunkSpan q.ra - d.toNat % chunkSpan q.ra))

/-- The command after a chunk of n bytes. -/
def CopyCmd.advance (q : CopyCmd) (n : Nat) : CopyCmd :=
  if copyLen q.regs ≤ q.off + n then { q with done := q.done + 1, row := q.row + 1, off := 0, sent := false, buf := none }
  else { q with done := q.done + 1, off := q.off + n, sent := false, buf := none }

/-- Ownership of what has been written ends. -/
def releasePieces (cid part : Nat) (ps : List (Word × Nat × Place)) (s : State) : State :=
  ps.foldl (fun s p => match p.2.2 with | .mem pa _ => releaseRange s cid part pa p.2.1 | _ => s) s

def settleCopy (c : Nat) (q : CopyCmd) (s : State) (r : EngEff Unit) : State :=
  match r with
  | .ok (s1, _) => s1
  | .error (.wait s1) => s1
  | .error (.fail code a) => failCopy s c q code a

/-- What the chunk in hand writes: its source is read whole before the first write, and once (R203). -/
def chunkSource (c : Nat) (q : CopyCmd) (read : State → EngEff (List Byte)) (s : State) : EngEff (List Byte) :=
  match q.buf with
  | some bs => .ok (s, bs)
  | none =>
    match read s with
    | .error e => .error e
    | .ok (s1, bs) => .ok (putCopy s1 c { q with buf := some bs }, bs)

/-- A chunk of CPY: the destination's checks, the source read, the write (R203, R204). -/
def cpyChunk (c : Nat) (q : CopyCmd) (s : State) : EngEff Unit :=
  let (d, src, n) := nextChunk q
  match engDst s q.who d n with
  | .error e => .error e
  | .ok (s1, ps) =>
    if dstBlocked s1 q.cid ps then .error (.wait s1)
    else match chunkSource c q (fun s => engRead s q.cid 0 q.who src n) s1 with
    | .error e => .error e
    | .ok (s2, bs) =>
      match engPut q.cid 1 q.who ps bs s2 with
      | .error e => .error e
      | .ok (s3, _) => .ok (putCopy (dropData (releasePieces q.cid q.row ps s3) q.cid) c (q.advance n), ())

/-- A chunk of CPYR leaves for its home as one message (R206). -/
def cpyrChunk (c : Nat) (q : CopyCmd) (s : State) : EngEff Unit :=
  let (d, src, n) := nextChunk q
  match engLocate s q.who .engineWrite d 1 with
  | .error e => .error e
  | .ok (s1, pl) =>
    if (match pl with | .mem pa _ => inArmed s1 pa n | _ => false) then .error (.fail 4 d)
    else match (match pl with | .mem pa _ => spoiledAt s1 pa n | _ => none) with
      | some i => .error (.fail 10 (d + BitVec.ofNat 64 i))
      | none =>
        match chunkSource c q (fun s => engRead s q.cid 0 q.who src n) s1 with
        | .error e => .error e
        | .ok (s2, bs) =>
          match pl with
          | .mem pa _ =>
            let m : ChunkMsg := { cid := q.cid, cluster := c, chunk := q.done, home := homeOf pa, lo := pa, fmt := rfmt q.regs,
                                  key := (s2.devid.toNat, q.who.slot, q.serial.toNat, q.done), resent := false, bytes := bs, far := none,
                                  ctx := q.who.ctx }
            .ok (putCopy (dropData { s2 with chunks := s2.chunks ++ [m] } q.cid) c { q with sent := true, buf := none }, ())
          | .remote v =>
            (match engFar s2 q.cid 1 q.who v d n 0 (.reduce (rfmt q.regs) q.who.slot q.serial.toNat q.done false) 0 bs with
             | .error e => .error e
             | .ok (s3, _) => .ok (putCopy (dropData s3 q.cid) c (q.advance n), ()))
          | _ => .error (.fail 2 d)

/-! ## Layout conversion (R189, R207) -/

/-- The elements of vec rows of 48 bytes, as planes. -/
def toPlanes (w : Nat) (rows : List Nat) : List Byte :=
  let e := 384 / w
  ((List.range w).map (fun p =>
    bytesOf (1536 / w) ((rows.zipIdx).foldl (fun a r =>
      (List.range e).foldl (fun a k => if (r.1 / 2 ^ (w * k)).testBit (w - 1 - p) then a + 2 ^ (r.2 * e + k) else a) a) 0))).flatten

/-- A row of elements from planes. -/
def fromPlanes (w : Nat) (planes : List Nat) (r : Nat) : List Byte :=
  bytesOf 48 (rowBytes w ((List.range (384 / w)).map (fun k => planeElem w planes (r * (384 / w) + k))))

/-- Destinations of several ranges, in order. -/
def engDsts (w : Issuer) : List (Word × Nat) → State → EngEff (List (Word × Nat × Place))
  | [], s => .ok (s, [])
  | r :: rest, s =>
    match engDst s w r.1 r.2 with
    | .error e => .error e
    | .ok (s1, ps) =>
      match engDsts w rest s1 with
      | .error e => .error e
      | .ok (s2, qs) => .ok (s2, ps ++ qs)

def engReads (cid tag : Nat) (w : Issuer) : List (Word × Nat) → State → EngEff (List (List Byte))
  | [], s => .ok (s, [])
  | r :: rest, s =>
    match engRead s cid tag w r.1 r.2 with
    | .error e => .error e
    | .ok (s1, b) =>
      match engReads cid tag w rest s1 with
      | .error e => .error e
      | .ok (s2, bs) => .ok (s2, b :: bs)

/-- Chunk k of the rows of the element side, and of the plane side. -/
def elementRows (q : CopyCmd) (dst : Bool) (k : Nat) : List (Word × Nat) :=
  (List.range (planeVec q.regs)).map (fun r => (sideRow q dst r + BitVec.ofNat 64 (48 * k), 48))
def planeChunk (q : CopyCmd) (dst : Bool) (k : Nat) : List (Word × Nat) := [(sideRow q dst k, 1536)]

/-- Reads rows in increasing address order, which under a negative stride is from the last (R203); the bytes come in row order. -/
def readRows (q : CopyCmd) (s : State) : EngEff (List (List Byte)) :=
  let down := (sideStride q false).getLsbD 63
  let rows := elementRows q false q.done
  match engReads q.cid 0 q.who (if down then rows.reverse else rows) s with
  | .error e => .error e
  | .ok (s1, bs) => .ok (s1, if down then bs.reverse else bs)

/-- What a chunk of CPYT writes. -/
def convertChunk (q : CopyCmd) (s : State) : EngEff (List Byte) :=
  let w := (planeFmt q.regs).width
  match (if q.op = .e2p then readRows q s else engReads q.cid 0 q.who (planeChunk q false q.done) s) with
  | .error e => .error e
  | .ok (s1, bss) =>
    .ok (s1, if q.op = .e2p then toPlanes w (bss.map natOf)
      else ((List.range (planeVec q.regs)).map (fromPlanes w (planesOf w (bss.headD [])))).flatten)

/-- A chunk of CPYT. -/
def cpytChunk (c : Nat) (q : CopyCmd) (s : State) : EngEff Unit :=
  match engDsts q.who (if q.op = .e2p then planeChunk q true q.done else elementRows q true q.done) s with
  | .error e => .error e
  | .ok (s1, ps) =>
    if dstBlocked s1 q.cid ps then .error (.wait s1)
    else match chunkSource c q (convertChunk q) s1 with
    | .error e => .error e
    | .ok (s2, out) =>
      match engPut q.cid 1 q.who ps out s2 with
      | .error e => .error e
      | .ok (s3, _) =>
        .ok (putCopy (dropData (releasePieces q.cid q.done ps s3) q.cid) c { q with done := q.done + 1, buf := none }, ())

/-- One step of a copy command: its checks, or its next chunk. -/
def copyStep (c : Nat) (q0 : CopyCmd) (s0 : State) : State :=
  let q := { q0 with begun := true }
  let s := putCopy s0 c q
  match (if q0.begun then none else copyCheck q) with
  | some e => failCopy s c q e.1 e.2
  | none =>
    if q.finished || q.sent then s
    else match q.op with
      | .cpy => settleCopy c q s (cpyChunk c q s)
      | .cpyr => settleCopy c q s (cpyrChunk c q s)
      | .e2p | .p2e => settleCopy c q s (cpytChunk c q s)

def execCopyChunk (cluster idx : Nat) (s : State) : Out :=
  .next (match copyAt s cluster idx with
    | some q => copyStep cluster q s
    | none => s)

/-! ## CPYR at a home (R54, R205, R206) -/

def reduceElem (code d x : Nat) : Nat :=
  match code with
  | 0x28 => (d + x) % 2 ^ 32
  | 0x29 =>
    let r := (d % 2 ^ 96 + x % 2 ^ 96) % 2 ^ 96
    if r.testBit 95 then r + (2 ^ 32 - 1) * 2 ^ 96 else r
  | 0x21 => (fmtBF16.roundFloat (((fmtBF16.value d).add (fmtBF16.value x) .rne).1) .rne false).1
  | _ => (fmtFP32.roundFloat (((fmtFP32.value d).add (fmtFP32.value x) .rne).1) .rne false).1

/-- Reduces slots of n bytes, one after another. -/
def reduceBytes (code n : Nat) (fuel : Nat) (d x : List Byte) : List Byte :=
  match fuel with
  | 0 => []
  | fuel + 1 =>
    match x with
    | [] => []
    | _ => bytesOf n (reduceElem code (natOf (d.take n)) (natOf (x.take n))) ++ reduceBytes code n fuel (d.drop n) (x.drop n)

def reduceAll (code : Nat) (d x : List Byte) : List Byte := reduceBytes code ((reduceSlot code).getD 4) x.length d x

/-- The filter of a home, and the age at which its oldest key may leave. -/
def filterOf (s : State) (h : Nat) : List FilterKey := s.filters.get [] h
def keyOld (s : State) (k : FilterKey) : Bool := k.time + 150000 < s.tstamp.toNat
def filterRoom (s : State) (h : Nat) : Bool :=
  (filterOf s h).length < 256 || (match (filterOf s h).getLast? with | some k => keyOld s k | none => true)
def filterAdd (s : State) (h : Nat) (key : Nat × Nat × Nat × Nat) : State :=
  { s with filters := s.filters.set [] h (({ key := key, time := s.tstamp.toNat : FilterKey } :: filterOf s h).take 256) }

/-- The chunk has come from another device. -/
def ChunkMsg.outside (m : ChunkMsg) : Bool := m.cluster = 256

/-- The acknowledgment reaches the command, or another device. -/
def ackChunk (s : State) (m : ChunkMsg) : State :=
  match (s.clusterAt m.cluster).copyq.find? (fun q => q.cid = m.cid) with
  | some q => putCopy (releaseRange s q.cid q.row m.lo m.bytes.length) m.cluster (q.advance m.bytes.length)
  | none => if m.outside then { s with answered := s.answered ++ [(0, 0)] } else s

/-- The home refuses the chunk with an error code of R210, for the byte at an offset: its command fails there, and another device is told (R225,
R290). -/
def refuseChunk (s : State) (m : ChunkMsg) (code off : Nat) : State :=
  if m.outside then { s with answered := s.answered ++ [(if code = 4 then 3 else 4, 0)] }
  else match (s.clusterAt m.cluster).copyq.find? (fun q => q.cid = m.cid) with
    | some q => failCopy s m.cluster q code ((nextChunk q).1 + BitVec.ofNat 64 off)
    | none => s

/-- The chunk must wait for bytes that another command owns (R165). -/
def chunkBlocked (s : State) (m : ChunkMsg) : Bool :=
  if m.far.isSome then ownedFar s m.far m.cid m.lo m.bytes.length else engBlocked s m.cid m.lo m.bytes.length

/-- What becomes of a chunk at its home: none while it waits there. -/
def applyChunkAt (s : State) (m : ChunkMsg) : Option State :=
  if m.resent && (filterOf s m.home).any (fun k => k.key = m.key) then some (ackChunk s m)
  else if chunkBlocked s m || !filterRoom s m.home then none
  else if inArmed s m.lo m.bytes.length then some (refuseChunk s m 4 0)
  else match spoiledAt s m.lo m.bytes.length with
    | some i => some (refuseChunk s m 10 i)
    | none =>
      let s0 := noteRead s .lost m.lo m.bytes.length
      let s1 := engWriteHere s0 m.lo (reduceAll m.fmt (readBytes s0 m.lo m.bytes.length) m.bytes)
      some (ackChunk (filterAdd (releaseFar s1 m.far m.lo m.bytes.length) m.home m.key) m)

def execCpyrChunkApply (idx : Nat) (s : State) : Out :=
  match s.chunks[idx]? with
  | some m => .next ((applyChunkAt { s with chunks := s.chunks.eraseIdx idx } m).getD s)
  | none => .next s

/-- The oldest key of a full filter leaves, and the first chunk that waits at the home is applied (R206). -/
def execKeyFilterExpiry (home : Nat) (s : State) : Out :=
  match (s.chunks.zipIdx).find? (fun p => p.1.home = home) with
  | some (m, i) =>
    if (filterOf s home).length = 256 && filterRoom s home then
      let s1 := { s with chunks := s.chunks.eraseIdx i, filters := s.filters.set [] home (filterOf s home).dropLast }
      .next ((applyChunkAt s1 m).getD s)
    else .next s
  | none => .next s

/-! ## Completion (R168, R208) -/

/-- Bytes that the .bar form subtracts. -/
def barBytes (q : CopyCmd) : Nat :=
  match q.op with
  | .cpy | .cpyr => copyRows q.regs * copyLen q.regs
  | .e2p => 1536 * planeKch q.regs
  | .p2e => planeVec q.regs * planeKch q.regs * 48

/-- The subtraction, once; a handle that no longer names a barrier leaves a PROT record. One that another device drops leaves a REMOTE record,
and the counter advances all the same (DESIGN CHOICE, log 103). -/
def barSignal (s : State) (c : Nat) (q : CopyCmd) : EngEff CopyCmd :=
  if !q.bar || q.signalled then .ok (s, q)
  else
    let q1 := { q with signalled := true }
    match engBarrier s q.cid q.who (reg q.regs 7) (barBytes q) with
    | .ok (s1, _) => .ok (putCopy s1 c q1, q1)
    | .error (.wait s1) => .error (.wait s1)
    | .error (.fail code _) =>
      let ws := recordWords s 0 code q.who q.serial 0 (BitVec.ofNat 64 q.done)
      .ok (putCopy (raiseEngErr (writeRecord s q.cid q.who (reg q.regs 9) ws) q.who) c q1, q1)

def signalCopy (s : State) (c : Nat) (q : CopyCmd) : State :=
  match barSignal s c q with
  | .error (.wait s1) => s1
  | .error (.fail code a) => failCopy s c q code a
  | .ok (s0, q1) =>
    match engSignal s0 q.cid q.who (reg q.regs 5) (if reg q.regs 6 = 0 then 1 else reg q.regs 6) with
    | .error (.wait s1) => s1
    | .error (.fail code a) => failCopy s0 c q1 code a
    | .ok (s1, _) => dropCopy (dropData (endOwnership s1 q.cid) q.cid) c q

def execCopySignal (cluster idx : Nat) (s : State) : Out :=
  .next (match copyAt s cluster idx with
    | some q =>
      if !q.finished || q.sent then s
      else match (if q.begun then none else copyCheck q) with
        | some e => failCopy s cluster q e.1 e.2
        | none => signalCopy s cluster q
    | none => s)

/-! ## Streams (R211 to R215, R376, R377) -/

/-- The registers of a stream, in the order of R81. -/
def streamRegs (t : Task) (b : Bool) : List Word :=
  (List.range 9).map (fun i => t.eregs.get 0 (4 * 256 + (if b then 16 else 0) + i))

/-- A configuration that R212 calls bad. -/
def streamBad (c : List Word) : Bool :=
  let at' (i : Nat) : Word := c.getD i 0
  let w := bitsOf (at' 1) 0 4
  let count (i : Nat) : Bool := 1 ≤ (at' i).toNat && (at' i).toNat ≤ 2 ^ 32
  !((w = 1 || w = 2 || w = 4 || w = 8) && (at' 1).toNat < 32 && count 2 && count 3 && count 4 && (at' 8).toNat < 4
    && (match tokOf (at' 0) with
      | some .ro => !(at' 8).getLsbD 0
      | some .regs | some .host | none => false
      | some _ => true))

def streamReg (b : Bool) : Reg := if b then 62 else 61

/-- SDONE: none while pushed elements are still to be performed. -/
def endStream (b : Bool) (s : State) : Option State :=
  let x := streamOf s.t (streamReg b)
  if x.armed && x.write && (s.held.any (fun h => h.slot = s.cur && h.push.any (fun p => p.1 = b))
      || s.remote.any (fun r => r.slot = s.cur && r.eng.isNone && r.push.any (fun p => p.1 = b))
      || s.t.pend.any (fun d => match d with | .elem c _ _ _ _ | .elemReg c _ _ | .elemFar c _ _ _ => c = b | _ => false)) then none
  else
    let s1 := dropAheadOf b s s.cur
    some (s1.setT (setStream s1.t (streamReg b) { streamOf s1.t (streamReg b) with armed := false, bad := false }))

def armStream (b : Bool) (s : State) : State :=
  let c := streamRegs s.t b
  let x := streamOf s.t (streamReg b)
  s.setT (setStream s.t (streamReg b)
    { x with armed := true, bad := streamBad c, write := (c.getD 8 0).getLsbD 0, cfg := c, next := 0, ahead := [] })

def scfgBody (b nf : Bool) (s : State) : Eff :=
  if mustRelease s nf then .error .stall
  else match endStream b s with
    | none => .error .stall
    | some s1 => .ok (armStream b s1)

def execScfg (st nf sw : Bool) (s : State) : Out := issue (.scfg st nf sw) sw {} (fun _ s => scfgBody st nf s) s

def execSdone (st nf sw : Bool) (s : State) : Out :=
  issue (.sdone st nf sw) sw {}
    (fun _ s => match endStream st s with
      | none => .error .stall
      | some s1 => .ok s1) s

/-- An element is read ahead of its pop, under the mode of the program that armed the stream, so not in a handler; one whose read fails is
left to the pop (R213). -/
def readAhead (b : Bool) (s : State) : State :=
  let r := streamReg b
  let x := streamOf s.t r
  if !x.armed || x.write || x.bad || x.ahead.length ≥ 16 || s.t.pend.contains (.ahead b) || s.t.handlers ≠ 0 then s
  else match streamAddr { x with next := x.next + x.ahead.length } with
    | none => s
    | some a =>
      let w := streamWidth x
      match locate s s.asker .load a w w none 0 with
      | .error _ => s
      | .ok (s1, .remote d) => askElement s1 r d a
      | .ok (s1, .reg _ _) => s1
      | .ok (s1, p) =>
        if (match p with | .mem pa _ | .ro _ pa => spoiledIn s1 pa w | _ => false) then s1
        else match elementHere s1 p w with
          | none => s1
          | some (s2, v) => s2.setT (setStream s2.t r { x with ahead := x.ahead ++ [loadValue ((cfgAt x 1).getLsbD 4) w v] })

def execStreamReadahead (slot : Nat) (st : Bool) (s : State) : Out := .next (withSlot s slot (readAhead st))

end Sys2Proof.Machine
end

