-- ==== Sys2Proof/Machine/BitAxis.lean ====
section
/-!
DEFINITION. The bit-axis engine (spec/10_copy_bitaxis.md R216 to R221; spec/20 R325, R326): its four commands and the steps of the lead
engine, which carries out the parts of all participants, those of other devices by accesses to them (DESIGN CHOICE, log 30).
-/
namespace Sys2Proof.Machine

/-! ## Maps (R216, R217) -/

/-- Positions of the bits of a kind. -/
def rolePositions (kind : Nat) (roles : List (Nat × Nat)) : List Nat := (roles.filter (fun r => r.1 = kind)).map Prod.snd

/-- The positions are exactly 0 to n − 1. -/
def exactPositions (ps : List Nat) : Bool := (List.range ps.length).all (fun i => ps.contains i)

def BxMap.localBits (m : BxMap) : Nat := (rolePositions 0 m.roles).length
def BxMap.dieBits (m : BxMap) : Nat := (rolePositions 1 m.roles).length

/-- Bytes of an element (R217). -/
def elemSize (efmt : Nat) : Nat := if efmt = 0 then 8 else if efmt = 1 then 4 else 2

def bxRoles (r : SMap Word) : List (Nat × Nat) :=
  (List.range (reg r 0x30).toNat).map (fun j => (bitsOf (reg r j) 6 2, bitsOf (reg r j) 0 6))

/-- The checks of BXMAP that need no table (R217): an error code, and 0 when there is none. -/
def roleCheck (r : SMap Word) : Nat :=
  let n := (reg r 0x30).toNat
  if n < 1 || 48 < n || 2 < (reg r 0x31).toNat || !(tokOf (reg r 0x37) = some .generic || tokOf (reg r 0x37) = some .sram) then 2
  else if (List.range n).any (fun j => (reg r j).toNat ≥ 256) then 2
  else
    let rs := bxRoles r
    if rs.any (fun x => x.1 = 3) || !exactPositions (rolePositions 0 rs) || !exactPositions (rolePositions 1 rs)
        || !exactPositions (rolePositions 2 rs) || 3 < (rolePositions 1 rs).length || 12 < (rolePositions 2 rs).length then 7
    else 0

/-- The devices of a GROUP table, when every entry is valid and distinct. -/
def groupOf (bs : List Byte) (n : Nat) : Option (List Nat) :=
  let es := (List.range n).map (fun i => natOf ((bs.drop (2 * i)).take 2))
  if es.all (fun e => e / 2 ^ 12 = 8) && es.eraseDups.length = es.length then some (es.map (fun e => e % 4096)) else none

/-- The map that a BXMAP describes. -/
def bxMapOf (q : BxCmd) (s : State) : EngEff BxMap :=
  let r := q.regs
  let code := roleCheck r
  if code ≠ 0 then .error (.fail code 0)
  else
    let rs := bxRoles r
    let g := (rolePositions 2 rs).length
    let m : BxMap := { nbits := (reg r 0x30).toNat, roles := rs, efmt := (reg r 0x31).toNat, group := [s.devid.toNat], base := reg r 0x37 }
    if g = 0 then .ok (s, m)
    else match engRead s q.cid 0 q.who (reg r 0x34) (2 * 2 ^ g) with
      | .error e => .error e
      | .ok (s1, bs) =>
        match groupOf bs (2 ^ g) with
        | some ds => .ok (s1, { m with group := ds })
        | none => .error (.fail 7 0)

/-- A participant (R217): the index of its device, the device ID, the die. -/
structure Part where
  x   : Nat
  dev : Nat
  die : Nat
  deriving DecidableEq, Repr

def insertPart (p : Part) : List Part → List Part
  | [] => [p]
  | q :: rest => if p.dev < q.dev || (p.dev = q.dev && p.die < q.die) then p :: q :: rest else q :: insertPart p rest

/-- The participants in increasing (device ID, die). -/
def BxMap.parts (m : BxMap) : List Part :=
  (((m.group.zipIdx).map (fun g => (List.range (2 ^ m.dieBits)).map (fun d => { x := g.2, dev := g.1, die := d : Part }))).flatten).foldr insertPart []

/-- The bits of an index that have a kind, at their positions. -/
def BxMap.field (m : BxMap) (kind i : Nat) : Nat :=
  (m.roles.zipIdx).foldl (fun a r => if r.1.1 = kind && i.testBit r.2 then a + 2 ^ r.1.2 else a) 0

/-- The address of a place on a die of a device as this device's engine reaches it (R217); what lies past the die's SRAM, or past generic
memory, is no address of a path. -/
def BxMap.place (m : BxMap) (devid dev die off : Nat) : Word :=
  if tokOf m.base = some .sram then
    let a := bitsOf m.base 0 25 + elemSize m.efmt * off
    BitVec.ofNat 64 (4 * 2 ^ 60 + dev * 2 ^ 48 + 2 * 2 ^ 45 + die * 2 ^ 42 + (if a < 2 ^ 42 then a else 2 ^ 41))
  else
    let a := m.base.toNat + elemSize m.efmt * (off + die * 2 ^ m.localBits)
    if dev = devid || 2 ^ 45 ≤ a then BitVec.ofNat 64 a else BitVec.ofNat 64 (4 * 2 ^ 60 + dev * 2 ^ 48 + 3 * 2 ^ 45 + a)

/-- The address of an element. -/
def BxMap.addr (m : BxMap) (devid i : Nat) : Word :=
  m.place devid (m.group.getD (m.field 2 i) devid) (m.field 1 i) (m.field 0 i)

/-! ## Committed maps (R217, R412) -/

def BxOwner.isOf (o : BxOwner) (w : Issuer) : Bool := o.slot = w.slot && o.epoch = w.epoch

/-- The map that a task has committed. -/
def committedMap (s : State) (w : Issuer) : Option BxMap :=
  s.dies.findSome? (fun d => (d.2.bxmaps.find? (fun o => o.isOf w)).map BxOwner.map)

/-- The dies of this device that hold a map: the participants here. Where this device has none the lead's die holds it, and needs a place for it
(DESIGN CHOICE, log 104). -/
def mapDies (s : State) (w : Issuer) (m : BxMap) : List Nat :=
  let ds := (m.parts.filter (fun p => p.dev = s.devid.toNat)).map Part.die
  if ds.isEmpty then [dieOf w.slot] else ds

/-- The task's former map leaves every engine here, and the new one enters where it belongs; none where an engine holds 64 others. -/
def installMap (s : State) (w : Issuer) (m : BxMap) : Option State :=
  let s1 := { s with dies := s.dies.map (fun d => (d.1, { d.2 with bxmaps := d.2.bxmaps.filter (fun o => !o.isOf w) })) }
  if (mapDies s w m).any (fun d => (s1.dieAt d).bxmaps.length ≥ 64) then none
  else some ((mapDies s w m).foldl
    (fun s d => s.setDie d { s.dieAt d with bxmaps := (s.dieAt d).bxmaps ++ [{ slot := w.slot, epoch := w.epoch, map := m }] }) s1)

/-! ## Ownership of the array (R219) -/

/-! ## The queue (R325) -/

def sameTask (a b : BxCmd) : Bool := a.who.slot = b.who.slot && a.who.epoch = b.who.epoch

/-- The command is the saved task's of its slot (R412). -/
def savedCmd (s : State) (q : BxCmd) : Bool := savedNum s q.who.slot = some q.who.epoch

/-- The command takes steps: no gang switch holds it, but that a group which has been computed is written to its end (R219, log 68). -/
def bxRuns (s : State) (q : BxCmd) : Bool := partRuns s q.who || !q.pending.isEmpty

/-- Two commands of one queue: of one slot, whichever of its tasks issued them, but that a task saved on it has a queue of its own, and a stopped
one is aside (R325, R411, R412, log 51). -/
def sameBx (s : State) (a b : BxCmd) : Bool := a.who.slot = b.who.slot && savedCmd s a = savedCmd s b && bxRuns s b

/-- The first command of the queue that a command belongs to. -/
def bxFirst (s : State) (die : Nat) (q : BxCmd) : Option BxCmd := (s.dieAt die).bxq.find? (sameBx s q)

/-- A halted command stands first in a task's queue. -/
def bxHalted (s : State) (w : Issuer) : Bool :=
  (((s.dieAt (dieOf w.slot)).bxq.find? (fun q => q.who.slot = w.slot && q.who.epoch = w.epoch)).map BxCmd.halted).getD false

/-- The map that a command will find: that of the task's last queued BXMAP, or its committed map, which a BXMAP that fails leaves in force (R217,
R325). Fails while the GROUP table of that BXMAP cannot be read; behind a halted command this device's part stands for the array (log 43). -/
def comingMap (s : State) (w : Issuer) : Except Unit (Option BxMap) :=
  match ((s.dieAt (dieOf w.slot)).bxq.filter (fun q => q.who.slot = w.slot && q.who.epoch = w.epoch && q.op = .map)).getLast? with
  | some q =>
    if q.map.isSome then .ok q.map
    else match bxMapOf q s with
      | .ok (_, m) => .ok (some m)
      | .error (.fail _ _) => .ok (committedMap s w)
      | .error (.wait _) =>
        if bxHalted s w then
          .ok (some { nbits := (reg q.regs 0x30).toNat, roles := bxRoles q.regs, efmt := (reg q.regs 0x31).toNat, group := [s.devid.toNat],
                      base := reg q.regs 0x37 })
        else .error ()
  | none => .ok (committedMap s w)

/-- Every participant's part of a map's array is registered, in increasing (device ID, die). -/
def claimArray (s : State) (cid : Nat) (w : Issuer) (m : Option BxMap) : State :=
  match m with
  | none => s
  | some m => m.parts.foldl (fun s p => claimRange cid p.die w (m.place s.devid.toNat p.dev p.die 0) (elemSize m.efmt * 2 ^ m.localBits) s) s

/-! ## Issue (R325, R326) -/

/-- A command that works on an array. -/
def BxOp.works (op : BxOp) : Bool := op = .apply || op = .swap

/-- A BXAPPLY or BXSWAP issues once the array is known that it registers. -/
def queueBx (op : BxOp) (nf raZ : Bool) (v : Vals) (s : State) : Eff :=
  let w := issuerOf (bxPort s.die) s
  match (if op.works then comingMap s w else .ok none) with
  | .error _ => .error .stall
  | .ok m =>
  if mustRelease s nf || (s.dieAt s.die).bxq.length ≥ 32 then .error .stall
  else
    let d := drawCid (s.setT { s.t with serialBx := s.t.serialBx + 1 })
    let s1 := d.1
    let q : BxCmd := { cid := d.2, who := w, op := op, ra := v.a, rb := v.b, raZ := raZ, regs := snapshotRegs s1 2,
                       serial := s1.t.serialBx, map := none, halted := false, committed := [], failed := [], matrix := [], pending := [] }
    let s2 := claimArray s1 q.cid q.who m
    let k := s2.dieAt s2.die
    .ok (awaitClaims q.cid (s2.setDie s2.die { k with bxq := k.bxq ++ [q] }))

def execBxmap (nf sw : Bool) (s : State) : Out := issue (.bxmap nf sw) sw {} (queueBx .map nf false) s
def execBxapply (ra rb : Reg) (nf sw : Bool) (s : State) : Out :=
  issue (.bxapply ra rb nf sw) sw { a := some ra, b := some rb } (queueBx .apply nf false) s
def execBxswap (ra rb : Reg) (nf sw : Bool) (s : State) : Out :=
  issue (.bxswap ra rb nf sw) sw { a := some ra, b := some rb } (queueBx .swap nf false) s
def execBxresume (ra : Reg) (nf sw : Bool) (s : State) : Out :=
  issue (.bxresume ra nf sw) sw { a := some ra } (queueBx .resume nf (ra = 0)) s

/-! ## The command in hand -/

/-- A command that may take a step: the first of its queue, not halted (R220), its registrations recorded (R219). -/
def bxAt (s : State) (die idx : Nat) : Option BxCmd :=
  match (s.dieAt die).bxq[idx]? with
  | some q => if (bxFirst s die q).map BxCmd.cid = some q.cid && !q.halted && bxRuns s q && !claimsDue s q.cid then some q else none
  | none => none

def putBx (s : State) (die : Nat) (q : BxCmd) : State :=
  s.setDie die { s.dieAt die with bxq := (s.dieAt die).bxq.map (fun x => if x.serial = q.serial && sameTask x q then q else x) }
def dropBx (s : State) (die : Nat) (q : BxCmd) : State :=
  s.setDie die { s.dieAt die with bxq := (s.dieAt die).bxq.filter (fun x => !(x.serial = q.serial && sameTask x q)) }

/-- A failing command: its record; it stays as the halted head of its slot's queue (R220). -/
def failBx (s : State) (die : Nat) (q : BxCmd) (code : Nat) (addr : Word) (progress : Nat) : State :=
  putBx (engFail s q.cid 2 code q.who q.serial addr (BitVec.ofNat 64 progress) (reg q.regs 0x36)) die { q with halted := true, pending := [] }

/-! ## Groups (R218) -/

/-- What a bit of a group's index must be: fixed by the participant's place, by the command, by both, or free. -/
def mergeBit (a b : Option Bool) : Option (Option Bool) :=
  match a, b with
  | none, x => some x
  | x, none => some x
  | some x, some y => if x = y then some (some x) else none

/-- What the participant's place says of a bit. -/
def placeBit (p : Part) (r : Nat × Nat) : Option Bool :=
  if r.1 = 1 then some (p.die.testBit r.2) else if r.1 = 2 then some (p.x.testBit r.2) else none

/-- What the command says of bit j: a target is 0; a bit of CMASK is CVAL's; of a swap, j is 0 and k is 1. -/
def bxTargets (q : BxCmd) : List Nat :=
  let k := bitsOf q.rb 18 2
  (List.range k).map (fun b => bitsOf q.rb (6 * b) 6)

def commandBit (q : BxCmd) (j : Nat) : Option Bool :=
  if q.op = .swap then (if q.ra.toNat = j then some false else if q.rb.toNat = j then some true else none)
  else if (bxTargets q).contains j then some false
  else if (reg q.regs 0x32).getLsbD j then some ((reg q.regs 0x33).getLsbD j)
  else none

/-- The bits of a participant's groups or pairs; none when there are none. -/
def groupBits (m : BxMap) (q : BxCmd) (p : Part) : Option (List (Option Bool)) :=
  if q.op = .swap && q.ra = q.rb then none
  else ((m.roles.zipIdx).map (fun r => mergeBit (placeBit p r.1) (commandBit q r.2))).foldr
    (fun b acc => match b, acc with | some x, some xs => some (x :: xs) | _, _ => none) (some [])

def groupCount (m : BxMap) (q : BxCmd) (p : Part) : Nat :=
  match groupBits m q p with
  | none => 0
  | some bs => 2 ^ (bs.filter Option.isNone).length

/-- The n-th index with the given bits, in increasing order. -/
def deposit : List (Option Bool) → Nat → Nat
  | [], _ => 0
  | none :: rest, n => n % 2 + 2 * deposit rest (n / 2)
  | some b :: rest, n => (if b then 1 else 0) + 2 * deposit rest n

/-- The next participant with work, by its place in the order. -/
def nextPart (m : BxMap) (q : BxCmd) : Option (Part × Nat) :=
  (m.parts.zipIdx).find? (fun p => !q.failed.any (fun f => f.1 = p.2) && q.committed.get 0 p.2 < groupCount m q p.1)

/-- Elements, as the codes of their parts. -/
def partFmt (efmt : Nat) : Fmt := if efmt = 2 then fmtBF16 else fmtFP32
def partCount (efmt : Nat) : Nat := if efmt = 0 then 2 else 1
def partsOf (efmt : Nat) (bs : List Byte) : List Nat :=
  let w := elemSize efmt / partCount efmt
  (List.range (partCount efmt)).map (fun i => natOf ((bs.drop (w * i)).take w))
def bytesOfParts (efmt : Nat) (ps : List Nat) : List Byte := (ps.map (bytesOf (elemSize efmt / partCount efmt))).flatten

/-- One product of parts. -/
def partMul (f : Fmt) (a b : Nat) : Num := ((f.value a).mul (f.value b)).1

/-- The parts of Σ M[r][c]·x[c], each the exact sum rounded once (R218). -/
def rowProduct (efmt : Nat) (ms xs : List (List Nat)) : List Nat :=
  let f := partFmt efmt
  let land (ts : List Num) : Nat := (f.roundFloat (exactSum ts .rne).1 .rne false).1
  let part (m : List Nat) (i : Nat) : Nat := m.getD i 0
  if efmt = 0 then
    [land (((ms.zip xs).map (fun p => [partMul f (part p.1 0) (part p.2 0), (partMul f (part p.1 1) (part p.2 1)).neg])).flatten),
     land (((ms.zip xs).map (fun p => [partMul f (part p.1 0) (part p.2 1), partMul f (part p.1 1) (part p.2 0)])).flatten)]
  else [land ((ms.zip xs).map (fun p => partMul f (part p.1 0) (part p.2 0)))]

/-- Reads elements at indices, in order. -/
def readElems (m : BxMap) (q : BxCmd) : List Nat → State → EngEff (List (List Byte))
  | [], s => .ok (s, [])
  | i :: rest, s =>
    match engRead s q.cid 1 q.who (m.addr s.devid.toNat i) (elemSize m.efmt) with
    | .error e => .error e
    | .ok (s1, b) =>
      match readElems m q rest s1 with
      | .error e => .error e
      | .ok (s2, bs) => .ok (s2, b :: bs)

/-- Writes elements at indices: every translation first, then the writes. -/
def writeElems (m : BxMap) (q : BxCmd) (is : List Nat) (bss : List (List Byte)) (s : State) : EngEff Unit :=
  match engDsts q.who (is.map (fun i => (m.addr s.devid.toNat i, elemSize m.efmt))) s with
  | .error e => .error e
  | .ok (s1, ps) =>
    if dstBlocked s1 q.cid ps then .error (.wait s1)
    else match engPut q.cid 2 q.who ps bss.flatten s1 with
      | .error e => .error e
      | .ok (s2, _) => .ok (dropData s2 q.cid, ())

/-- Indices of a group's elements: bit b of m goes to target t_b. -/
def groupIdx (q : BxCmd) (g : Nat) : List Nat :=
  let ts := bxTargets q
  (List.range (2 ^ ts.length)).map (fun m => g + (((ts.zipIdx).filter (fun t => m.testBit t.2)).map (fun t => 2 ^ t.1)).sum)

/-- Indices of the elements that a group or a pair writes (R218, R221). -/
def workIdx (q : BxCmd) (g : Nat) : List Nat := if q.op = .swap then [g, g + 2 ^ q.ra.toNat - 2 ^ q.rb.toNat] else groupIdx q g

/-- What a group becomes, from its elements: the products, or the pair exchanged. -/
def workValues (m : BxMap) (q : BxCmd) (bs : List (List Byte)) : List (List Byte) :=
  if q.op = .swap then bs.reverse
  else
    let xs := bs.map (partsOf m.efmt)
    let pc := partCount m.efmt
    let row (r : Nat) : List (List Nat) := (List.range bs.length).map (fun c => (q.matrix.drop ((r * bs.length + c) * pc)).take pc)
    (List.range bs.length).map (fun r => bytesOfParts m.efmt (rowProduct m.efmt (row r) xs))

/-- One group or pair: its elements are read and transformed once, then written (R218). -/
def workGroup (die : Nat) (m : BxMap) (q : BxCmd) (p g : Nat) (s : State) : EngEff Unit :=
  match q.pending.get [] p with
  | [] =>
    (match readElems m q (workIdx q g) s with
     | .error e => .error e
     | .ok (s1, bs) =>
       let vs := workValues m q bs
       writeElems m q (workIdx q g) vs (putBx (dropData s1 q.cid) die { q with pending := q.pending.set [] p (vs.map (fun v => v.map BitVec.toNat)) }))
  | vs => writeElems m q (workIdx q g) (vs.map (fun v => v.map (BitVec.ofNat 8))) s

/-! ## The release of units (R219) -/

/-- The group or pair that writes an element, by its index; none when no group does. -/
def groupOfElem (q : BxCmd) (i : Nat) : Option Nat :=
  if q.op = .swap then
    let j := q.ra.toNat
    let k := q.rb.toNat
    if i.testBit j = i.testBit k then none else some (if i.testBit j then i + 2 ^ k - 2 ^ j else i)
  else
    let cm := (reg q.regs 0x32).toNat
    if i &&& cm = (reg q.regs 0x33).toNat &&& cm then
      some ((bxTargets q).foldl (fun n t => if n.testBit t then n - 2 ^ t else n) i)
    else none

/-- The place of an index among those with the given bits: the inverse of deposit. -/
def extract : List (Option Bool) → Nat → Nat
  | [], _ => 0
  | none :: rest, n => n % 2 + 2 * extract rest (n / 2)
  | some _ :: rest, n => extract rest (n / 2)

/-- A group that is still to commit writes the element. -/
def dueElem (m : BxMap) (q : BxCmd) (i : Nat) : Bool :=
  match groupOfElem q i with
  | none => false
  | some g =>
    match (m.parts.zipIdx).find? (fun p => p.1.x = m.field 2 g && p.1.die = m.field 1 g) with
    | some p => q.committed.get 0 p.2 ≤ extract ((groupBits m q p.1).getD []) g
    | none => false

/-- The index of the element at a place of a device's array, where the dies' parts follow each other. -/
def BxMap.indexAt (m : BxMap) (x e : Nat) : Nat :=
  (m.roles.zipIdx).foldl (fun a r =>
    let v := if r.1.1 = 0 then e % 2 ^ m.localBits else if r.1.1 = 1 then e / 2 ^ m.localBits else x
    if v.testBit r.1.2 then a + 2 ^ r.2 else a) 0

/-- A place's first byte, counted from the base of its path. -/
def BxMap.byteOf (m : BxMap) (e : Nat) : Nat :=
  bitsOf m.base 0 45 + elemSize m.efmt * (if tokOf m.base = some .sram then e % 2 ^ m.localBits else e)

/-- The elements of the unit at byte lo, for the part of the place e. -/
def BxMap.unitElems (m : BxMap) (x e lo : Nat) : List Nat :=
  let sram := tokOf m.base = some .sram
  let base := bitsOf m.base 0 45
  let first := (lo - base) / elemSize m.efmt
  let last := (lo + 127 - base) / elemSize m.efmt
  let lim := if sram then 2 ^ m.localBits else 2 ^ (m.localBits + m.dieBits)
  (((List.range (last + 1 - first)).map (fun i => first + i)).filter (fun i => i < lim)).map
    (fun i => m.indexAt x (if sram then e / 2 ^ m.localBits * 2 ^ m.localBits + i else i))

/-- The ownership of a unit ends, here or at another device. -/
def releaseUnit (q : BxCmd) (a : Word) (s : State) : State :=
  match engLocate s q.who .engineWrite a 1 with
  | .ok (s1, .mem pa _) => cutOwn s1 (fun o => o.cid = q.cid) (pa / 128 * 128) 128
  | .ok (s1, .remote d) =>
    { s1 with remote := s1.remote ++ [engRequest s1 q.cid 8 q.who d (a - BitVec.ofNat 64 (a.toNat % 128)) 128 0 (.disown q.cid 0) 0 []] }
  | _ => s

/-- The units of an element are released that no group of those that p names writes. -/
def releaseUnits (m : BxMap) (q : BxCmd) (p : Nat → Bool) (s : State) (i : Nat) : State :=
  let e := m.field 0 i + m.field 1 i * 2 ^ m.localBits
  let b := m.byteOf e
  let lo := b / 128 * 128
  let a := m.addr s.devid.toNat i
  let one (s : State) (u : Nat) : State :=
    if (m.unitElems (m.field 2 i) e u).any p then s else releaseUnit q (if u = lo then a else a + BitVec.ofNat 64 (u - b)) s
  if (b + elemSize m.efmt - 1) / 128 * 128 = lo then one s lo else one (one s lo) (lo + 128)

/-- A participant finishes: the units of its part that no group writes are released. -/
def finishPart (m : BxMap) (q : BxCmd) (s : State) (p : Part) : State :=
  if q.op = .apply && (reg q.regs 0x32) = 0 then s
  else (List.range (2 ^ m.localBits)).foldl
    (fun s off => releaseUnits m q (fun i => (groupOfElem q i).isSome) s (m.indexAt p.x (off + p.die * 2 ^ m.localBits))) s

/-- The participant's unit of work is committed: units that no later group writes are released, and at its end those that none does. -/
def commitPart (die : Nat) (m : BxMap) (q : BxCmd) (p : Part × Nat) (g : Nat) (s : State) : State :=
  let n := q.committed.get 0 p.2 + 1
  let q1 := { q with committed := q.committed.set 0 p.2 n, pending := q.pending.set [] p.2 [] }
  let s1 := (workIdx q1 g).foldl (releaseUnits m q1 (dueElem m q1)) (putBx s die q1)
  if n = groupCount m q1 p.1 then finishPart m q1 s1 p.1 else s1

/-- A participant's next group or pair; one that fails stops, and the others go on (R220). -/
def bxWork (die : Nat) (m : BxMap) (q : BxCmd) (s : State) : State :=
  match nextPart m q with
  | none => s
  | some p =>
    let i := deposit ((groupBits m q p.1).getD []) (q.committed.get 0 p.2)
    match workGroup die m q p.2 i s with
    | .ok (s1, _) => commitPart die m q p i s1
    | .error (.wait s1) => s1
    | .error (.fail code a) => putBx (dropData s q.cid) die { q with failed := q.failed ++ [(p.2, code, a)], pending := q.pending.set [] p.2 [] }

/-! ## Checks (R218, R221) -/

/-- The map of a BXAPPLY or BXSWAP, when its operands obey the rules. -/
def bxOperands (s : State) (q : BxCmd) : Option BxMap :=
  match committedMap s q.who with
  | none => none
  | some m =>
    if q.op = .swap then (if q.ra.toNat < m.nbits && q.rb.toNat < m.nbits then some m else none)
    else
      let ts := bxTargets q
      let cm := (reg q.regs 0x32).toNat
      if ts.isEmpty || ts.eraseDups.length ≠ ts.length || ts.any (fun t => m.nbits ≤ t || cm.testBit t) || cm ≥ 2 ^ m.nbits
          || (reg q.regs 0x31).toNat ≠ m.efmt then none
      else some m

/-- BXAPPLY begins: the checks, and the matrix, read once. -/
def beginApply (q : BxCmd) (s : State) : EngEff BxCmd :=
  match bxOperands s q with
  | none => .error (.fail 2 0)
  | some m =>
    let n := 2 ^ (bxTargets q).length
    if q.op = .swap then .ok (s, { q with map := some m })
    else if q.ra.toNat % elemSize m.efmt ≠ 0 then .error (.fail 6 q.ra)
    else match engRead s q.cid 0 q.who q.ra (n * n * elemSize m.efmt) with
      | .error e => .error e
      | .ok (s1, bs) =>
        let w := elemSize m.efmt / partCount m.efmt
        .ok (dropData s1 q.cid, { q with map := some m, matrix := (List.range (n * n * partCount m.efmt)).map (fun i => natOf ((bs.drop (w * i)).take w)) })

/-- A step of a BXAPPLY or BXSWAP. -/
def bxStep (die : Nat) (q : BxCmd) (s : State) : State :=
  match q.map with
  | some m => bxWork die m q s
  | none =>
    match beginApply q s with
    | .ok (s1, q1) =>
      (match q1.map with
       | some m => (m.parts.filter (fun p => groupCount m q1 p = 0)).foldl (finishPart m q1) (putBx s1 die q1)
       | none => s1)
    | .error (.wait s1) => s1
    | .error (.fail code a) => failBx s die q code a 0

def bxEvent (op : BxOp) (die idx : Nat) (f : BxCmd → State → State) (s : State) : State :=
  match bxAt s die idx with
  | some q => if q.op = op then f q s else s
  | none => s

def execBxGroup (die idx : Nat) (s : State) : Out := .next (bxEvent .apply die idx (bxStep die) s)
def execBxSwapPair (die idx : Nat) (s : State) : Out := .next (bxEvent .swap die idx (bxStep die) s)

/-- The engines of other participating devices take the map, one device after another. -/
def askRoom (q : BxCmd) (m : BxMap) : List Nat → State → EngEff Unit
  | [], s => .ok (s, ())
  | d :: rest, s =>
    match engFar s q.cid 11 q.who d (BitVec.ofNat 64 (4 * 2 ^ 60 + d * 2 ^ 48)) 0 0 (.mapRoom (2 ^ m.dieBits)) (BitVec.ofNat 4096 q.who.epoch) [] with
    | .error (.fail code _) => .error (.fail (if code = 4 then 2 else code) 0)
    | .error e => .error e
    | .ok (s1, _) => askRoom q m rest s1

/-- BXMAP at its participants (R217). One that fails leaves the former map, where it was; devices that the map in force does not name let go
of the other. -/
def mapStep (die : Nat) (q : BxCmd) (s : State) : State :=
  if q.map.isSome then s
  else match bxMapOf q s with
    | .error (.wait s1) => s1
    | .error (.fail code a) => failBx s die q code a 0
    | .ok (s1, m) =>
      let old := ((committedMap s1 q.who).map BxMap.group).getD []
      let failed (s : State) (code : Nat) : State :=
        freeFarMaps (failBx s die q code 0 0) q.who (m.group.filter (fun d => !old.contains d))
      match askRoom q m (m.group.filter (· ≠ s1.devid.toNat)) s1 with
      | .error (.wait s2) => s2
      | .error (.fail code _) => failed s1 code
      | .ok (s2, _) =>
        match installMap (dropData s2 q.cid) q.who m with
        | some s3 => putBx (freeFarMaps s3 q.who (old.filter (fun d => !m.group.contains d))) die { q with map := some m }
        | none => failed s2 2

def execBxMapInstall (die idx : Nat) (s : State) : Out := .next (bxEvent .map die idx (mapStep die) s)

/-! ## Completion (R219 to R221) -/

/-- The work of every participant is done or has failed. -/
def bxFinished (q : BxCmd) : Bool :=
  match q.map with
  | none => false
  | some m => q.op = .map || (nextPart m q).isNone

/-- The address of a bit-axis register in the save area of the task that issued a command, when that task is saved there (R129, R257). -/
def savedReg (s : State) (w : Issuer) (i : Nat) : Option Nat :=
  let x := s.slotAt w.slot
  match x.saved with
  | some t => if t.num = w.epoch && !x.saving then some (sramAddr (dieOf w.slot) (bindSave t.bind) + 0x1580 + 8 * (27 + i)) else none
  | none => none

/-- A role as BITROLE holds it. -/
def roleWord (r : Nat × Nat) : Word := BitVec.ofNat 64 (r.1 * 64 + r.2)

/-- BXSWAP exchanges the two roles in the committed maps, and overwrites the issuing slot's registers with the new ones, where the task is saved
in its save area (R221, R345). -/
def swapRoles (q : BxCmd) (s : State) : State :=
  let j := q.ra.toNat
  let k := q.rb.toNat
  let f (m : BxMap) : BxMap := { m with roles := (m.roles.set j (m.roles.getD k (0, 0))).set k (m.roles.getD j (0, 0)) }
  let s1 := { s with dies := s.dies.map (fun d =>
    (d.1, { d.2 with bxmaps := d.2.bxmaps.map (fun o => if o.isOf q.who then { o with map := f o.map } else o) })) }
  let roles := ((committedMap s1 q.who).map BxMap.roles).getD []
  let vj := roleWord (roles.getD j (0, 0))
  let vk := roleWord (roles.getD k (0, 0))
  let s2 := updIssuer s1 q.who (fun t => { t with eregs := (t.eregs.set 0 (512 + j) vj).set 0 (512 + k) vk })
  match savedReg s2 q.who j, savedReg s2 q.who k with
  | some a, some b => writeWord (writeWord s2 a vj) b vk
  | _, _ => s2

def bxUnits (q : BxCmd) : Nat := (q.committed.map Prod.snd).sum

/-- The lead reports the failing participant that stands first, or advances CTR (R219, R220). -/
def bxEnd (die : Nat) (q : BxCmd) (s : State) : State :=
  match q.failed.foldl (fun (m : Option (Nat × Nat × Word)) f => match m with | some x => if f.1 < x.1 then some f else some x | none => some f) none with
  | some f => failBx s die q f.2.1 f.2.2 (q.committed.get 0 f.1)
  | none =>
    match engSignal s q.cid q.who (reg q.regs 0x35) 1 with
    | .error (.wait s1) => s1
    | .error (.fail code a) => failBx s die q code a (bxUnits q)
    | .ok (s1, _) => dropBx (dropData (endOwnership (if q.op = .swap then swapRoles q s1 else s1) q.cid) q.cid) die q

/-- A command is resumed: each participant's unwritten units are registered again, of one that has finished none that no group writes, and it
goes on from the first uncommitted groups (R219, R220). -/
def resumeBx (die : Nat) (h : BxCmd) (s : State) : State :=
  let d := drawCid s
  let q := { h with cid := d.2, halted := false, failed := [] }
  let s1 := putBx d.1 die q
  if !q.op.works then s1
  else match q.map with
    | none => claimArray s1 q.cid q.who (committedMap s1 q.who)
    | some m =>
      (m.parts.zipIdx).foldl
        (fun s p =>
          let n := q.committed.get 0 p.2
          let s3 := (List.range n).foldl
            (fun s i => (workIdx q (deposit ((groupBits m q p.1).getD []) i)).foldl (releaseUnits m q (dueElem m q)) s) s
          if n = groupCount m q p.1 then finishPart m q s3 p.1 else s3) (claimArray s1 q.cid q.who (some m))

/-- BXRESUME acts on the halted head of its slot's queue, an earlier BXRESUME before a later one (R220, R325, R326). -/
def resumeStep (die : Nat) (q : BxCmd) (s : State) : State :=
  match bxFirst s die q with
  | none => s
  | some h =>
    if ((s.dieAt die).bxq.find? (fun x => sameBx s q x && x.op = .resume)).map BxCmd.cid ≠ some q.cid then s
    else if h.cid = q.cid then dropBx s die q
    else if !h.halted then s
    else if q.raZ then dropBx (dropBx s die h) die q
    else match engLocate s q.who .engineRead q.ra 8 with
      | .error (.wait s1) => s1
      | .error (.fail code a) => dropBx (engFail s q.cid 2 code q.who q.serial a 0 (reg q.regs 0x36)) die q
      | .ok (s1, _) =>
        match engRead s1 q.cid 0 q.who q.ra 32 with
        | .error (.wait s2) => s2
        | .error (.fail code a) => dropBx (engFail s q.cid 2 code q.who q.serial a 0 (reg q.regs 0x36)) die q
        | .ok (s2, bs) =>
          let s3 := dropBx (dropData s2 q.cid) die q
          if natOf ((bs.drop 4).take 4) = h.serial.toNat then resumeBx die h s3 else s3

def execBxComplete (die idx : Nat) (s : State) : Out :=
  match (s.dieAt die).bxq[idx]? with
  | some q =>
    if q.op = .resume then .next (if partRuns s q.who then resumeStep die q s else s)
    else match bxAt s die idx with
      | some q => .next (if bxFinished q then bxEnd die q s else s)
      | none => .next s
  | none => .next s

end Sys2Proof.Machine
end

