-- ==== Sys2Proof/Machine/Fabric.lean ====
section
/-!
DEFINITION. The route of a message (spec/02_machine.md R22, R25; spec/16_fabric_host.md R268 to R270): how far it climbs, the up ports that its
key selects, and where pairs go whose link is retired. A message arrives at its unit whatever its route, so no step of another unit reads it.
-/
namespace Sys2Proof.Machine

/-- Where a unit stands in the tree: on a cluster of the device, on a die, or at the level of the package. -/
inductive Station where
  | cluster (c : Nat)
  | die (d : Nat)
  | package
  deriving DecidableEq, Repr

/-- The place of a unit, by its number (R268); the host port stands at the level of the package (R25). -/
def stationOf (unit : Nat) : Station :=
  if unit < 0x1000 then .cluster (unit / 16)
  else if unit < 0x9000 then .cluster ((unit - 0x1000) / 128)
  else if unit < 0x9200 then .die ((unit - 0x9000) / 64)
  else if unit < 0x9400 then .die ((unit - 0x9200) / 64)
  else if unit < 0x9408 then .die (unit - 0x9400)
  else if unit = 0x9408 then .package
  else if unit < 0x9600 then .cluster (unit - 0x9500)
  else .die ((unit - 0x9600) / 4)

/-- The die of a station. -/
def Station.die? : Station → Option Nat
  | .cluster c => some (c / 32)
  | .die d => some d
  | .package => none

/-- The group of a station: one cluster row of a die. -/
def Station.group? : Station → Option Nat
  | .cluster c => some (c / 8)
  | _ => none

/-- The level that a message of this device stands at where it starts. -/
def Station.level : Station → Nat
  | .cluster _ => 0
  | .die _ => 2
  | .package => 3

/-- The lowest level that contains both ends (R22); another device is beyond the package. -/
def meetLevel (src : Station) (dst : Option Station) : Nat :=
  match dst with
  | none => 4
  | some t =>
    if src = t then src.level
    else if src.group?.isSome && src.group? = t.group? then 1
    else if src.die?.isSome && src.die? = t.die? then 2
    else 3

/-- The key of a message to a unit of a device (R269). -/
def routeKey (device unit : Nat) : Word := mix64 (BitVec.ofNat 64 (device * 2 ^ 32 + unit))

/-- The up port that the key selects at a level: L0 to L1, L1 to L2, L2 to L3, L3 to L4. -/
def portOf (u : Word) (level : Nat) : Nat :=
  match level with
  | 0 => (u.extractLsb' 0 2).toNat
  | 1 => (u.extractLsb' 16 2).toNat
  | 2 => (u.extractLsb' 32 2).toNat
  | _ => (u.extractLsb' 48 16).toNat % 24

/-- The port that a board switch takes up, of the P that it is configured with. -/
def boardPort (u : Word) (p : Nat) : Nat := (u.extractLsb' 40 8).toNat % p

/-- Up ports of a level, and the die and link number of a port (DESIGN CHOICE, log 96: the spec does not number the links of a die). -/
def portCount (level : Nat) : Nat := if level = 3 then 24 else 4
def linkAt (src : Station) (level port : Nat) : Nat × Nat :=
  let die := src.die?.getD 0
  match level, src with
  | 0, .cluster c => (die, c % 32 * 4 + port)
  | 1, .cluster c => (die, 128 + c / 8 % 4 * 4 + port)
  | 3, _ => (port / 3, 148 + port % 3)
  | _, _ => (die, 144 + port)

/-- The link works. -/
def linkLive (s : State) (l : Nat × Nat) : Bool := !(s.dieAt l.1).deadLinks.contains l.2

/-- The port in use: the one that the key selects, or the next live one of the same switch in increasing port number (R270). -/
def livePort (s : State) (src : Station) (level port : Nat) : Option Nat :=
  let n := portCount level
  ((List.range n).map (fun i => (port + i) % n)).find? (fun p => linkLive s (linkAt src level p))

/-- The links by which a message climbs from a unit to a unit of a device; none at a level whose links are all retired (R22, R269, R270). -/
def climb (s : State) (src device unit : Nat) : List (Option (Nat × Nat)) :=
  let from_ := stationOf src
  let to_ : Option Station := if device = s.devid.toNat then some (stationOf unit) else none
  let top := meetLevel from_ to_
  ((List.range 4).filter (fun l => from_.level ≤ l && l < top)).map (fun l =>
    (livePort s from_ l (portOf (routeKey device unit) l)).map (linkAt from_ l))

end Sys2Proof.Machine
end

