-- ==== Sys2Proof/Machine/Hash.lean ====
section
/-!
DEFINITION. SHAKE256 (spec/18_reliability_boot.md R296): the sponge of rate 136 bytes over the permutation of 25 lanes of 64 bits, with its
64-byte output, by which the boot ROM measures the firmware image, and its longer one, from which a signature's check draws. The spec names
the function and does not write it out (PRESUMED, log 7: the published standard). Its constants are computed by the rules that define
them.
-/
namespace Sys2Proof.Machine

/-- The lane at column x and row y. -/
def lane (a : List Word) (x y : Nat) : Word := a.getD (x % 5 + 5 * (y % 5)) 0

/-- A state from the value of each lane. -/
def lanes (f : Nat → Nat → Word) : List Word := (List.range 25).map (fun i => f (i % 5) (i / 5))

/-- The lane that a walk over the 24 lanes other than the first stands on after t moves: it starts at column 1 of row 0, and a move takes
column x of row y to column y of row 2x + 3y. -/
def turnWalk : Nat → Nat × Nat
  | 0 => (1, 0)
  | t + 1 => let p := turnWalk t; (p.2, (2 * p.1 + 3 * p.2) % 5)

/-- How far a lane is turned to the left: the lane that the walk meets after t moves by the (t + 1)th triangular number. -/
def laneTurn (x y : Nat) : Nat :=
  match (List.range 24).find? (fun t => turnWalk t = (x, y)) with
  | some t => (t + 1) * (t + 2) / 2
  | none => 0

/-- The shift register of eight bits, after t shifts from 1; a bit shifted out comes back at places 0, 4, 5 and 6. -/
def shiftBits : Nat → BitVec 8
  | 0 => 1
  | t + 1 => let r := shiftBits t; if r.getLsbD 7 then r <<< 1 ^^^ 0x71 else r <<< 1

/-- The constant of round i: place 2^j − 1 holds the register's low bit after 7i + j shifts. -/
def roundWord (i : Nat) : Word :=
  (List.range 7).foldl (fun a j => if (shiftBits (7 * i + j)).getLsbD 0 then a ||| 1 <<< (2 ^ j - 1) else a) 0

/-- The parity of a column, and what each column takes from its neighbours. -/
def columnParity (a : List Word) (x : Nat) : Word := lane a x 0 ^^^ lane a x 1 ^^^ lane a x 2 ^^^ lane a x 3 ^^^ lane a x 4
def spreadColumns (a : List Word) : List Word :=
  lanes (fun x y => lane a x y ^^^ columnParity a (x + 4) ^^^ (columnParity a (x + 1)).rotateLeft 1)

/-- Each lane is turned and moved. -/
def moveLanes (a : List Word) : List Word :=
  lanes (fun x y => (lane a (x + 3 * y) x).rotateLeft (laneTurn ((x + 3 * y) % 5) x))

/-- Each lane is mixed with the next two of its row. -/
def mixRows (a : List Word) : List Word := lanes (fun x y => lane a x y ^^^ (~~~(lane a (x + 1) y) &&& lane a (x + 2) y))

def permuteRound (a : List Word) (k : Word) : List Word :=
  match mixRows (moveLanes (spreadColumns a)) with
  | w :: rest => (w ^^^ k) :: rest
  | [] => []
def permuteLanes (a : List Word) : List Word := (List.range 24).foldl (fun b i => permuteRound b (roundWord i)) a

/-- The number that bytes spell, the first the least significant. -/
def laneOf (bs : List Byte) : Word := bs.foldr (fun b a => a <<< 8 ||| b.zeroExtend 64) 0

/-- A block of 136 bytes is absorbed. -/
def absorbBlock (a : List Word) (bs : List Byte) : List Word :=
  permuteLanes ((a.zipIdx).map (fun p => if p.2 < 17 then p.1 ^^^ laneOf ((bs.drop (8 * p.2)).take 8) else p.1))

/-- The last block with its padding. -/
def lastBlock (bs : List Byte) : List Byte :=
  let p := bs ++ [0x1F] ++ List.replicate (135 - bs.length) 0
  p.take 135 ++ [p.getD 135 0 ||| 0x80]

/-- Absorbs a message; fuel bounds the number of blocks. -/
def absorb : Nat → List Word → List Byte → List Word
  | 0, a, _ => a
  | fuel + 1, a, bs => if bs.length < 136 then absorbBlock a (lastBlock bs) else absorb fuel (absorbBlock a (bs.take 136)) (bs.drop 136)

/-- The sponge after a message. -/
def spongeOf (bs : List Byte) : List Word := absorb (bs.length / 136 + 1) (List.replicate 25 0) bs

/-- The first 64 bytes that the sponge gives, the first the least significant. -/
def shake256 (bs : List Byte) : BitVec 512 :=
  let a := spongeOf bs
  ((List.range 8).map (fun i => a.getD i 0)).foldr (fun w d => d <<< 64 ||| w.zeroExtend 512) 0

/-- The bytes of the next n blocks that the sponge gives. -/
def squeeze : Nat → List Word → List Byte
  | 0, _ => []
  | n + 1, a => ((a.take 17).map (fun w => (List.range 8).map (fun i => w.extractLsb' (8 * i) 8))).flatten ++ squeeze n (permuteLanes a)

end Sys2Proof.Machine
end

