-- ==== Sys2Proof/Machine/Falcon.lean ====
section
/-!
DEFINITION. The check of a Falcon-1024 signature, by which the boot ROM accepts the firmware image (spec/18_reliability_boot.md R296). The
spec names the scheme and does not write it out (PRESUMED, log 7: the published specification). Polynomials have 1,024 coefficients modulo
12,289, the constant one first, and x^1024 = −1.
-/
namespace Sys2Proof.Machine

def falconDegree : Nat := 1024
def falconModulus : Nat := 12289

/-- The largest sum of squares that a signature may have. -/
def falconBound : Nat := 70265242

/-- The bits of bytes, each byte's most significant first. -/
def bitList (bs : List Byte) : List Bool := (bs.map (fun b => (List.range 8).map (fun i => b.getLsbD (7 - i)))).flatten

/-- The number that bits spell, the first the most significant. -/
def numberOf (bs : List Bool) : Nat := bs.foldl (fun a b => 2 * a + b.toNat) 0

/-- n numbers of w bits each, from the front of a list of bits. -/
def fieldsOf (w : Nat) : Nat → List Bool → List Nat
  | 0, _ => []
  | n + 1, bs => numberOf (bs.take w) :: fieldsOf w n (bs.drop w)

/-- The polynomial of a public key: the header 0x0A, then coefficients of 14 bits, each below the modulus. -/
def falconKey (key : List Byte) : Option (List Nat) :=
  let h := fieldsOf 14 falconDegree (bitList (key.drop 1))
  if key.head? = some 0x0A && key.length = 1793 && h.all (fun c => c < falconModulus) then some h else none

/-- The number of zero bits before the first one, and what follows it. -/
def unary : List Bool → Option (Nat × List Bool)
  | [] => none
  | true :: bs => some (0, bs)
  | false :: bs => (unary bs).map (fun p => (p.1 + 1, p.2))

/-- n coefficients of a signature, from the front of its bits: a sign, seven low bits, and the rest in unary. Minus zero is refused; so are bits
after the last coefficient that are not zero. -/
def unpackSigned : Nat → List Bool → Option (List Int)
  | 0, bs => if bs.any id then none else some []
  | n + 1, bs =>
    match unary (bs.drop 8) with
    | none => none
    | some (k, rest) =>
      let m := numberOf ((bs.drop 1).take 7) + 128 * k
      if bs.headD false then (if m = 0 then none else (unpackSigned n rest).map (fun r => -(m : Int) :: r))
      else (unpackSigned n rest).map (fun r => (m : Int) :: r)

/-- Coefficients drawn from 16-bit numbers: those below five times the modulus serve, modulo it. -/
def drawPoint (xs : List Nat) : List Nat := ((xs.filter (fun t => t < 5 * falconModulus)).map (fun t => t % falconModulus)).take falconDegree

/-- The point that a nonce and a message hash to, drawn from 64 blocks (log 7). -/
def hashToPoint (nonce msg : List Byte) : List Nat := drawPoint (fieldsOf 16 4352 (bitList (squeeze 64 (spongeOf (nonce ++ msg)))))

/-- A polynomial times x. -/
def timesX (p : List Int) : List Int := -(p.getLastD 0) :: p.dropLast

/-- The product of polynomials. -/
def polyMul : List Int → List Int → List Int
  | [], b => b.map (fun _ => 0)
  | c :: cs, b => (polyMul cs (timesX b)).zipWith (fun x y => x + c * y) b

/-- A number as the one of its class that lies nearest zero. -/
def centred (x : Int) : Int :=
  let r := x % (falconModulus : Int)
  if (falconModulus : Int) < 2 * r then r - falconModulus else r

/-- The sum of the squares of s1 = c − s2·h and of s2. -/
def falconNorm (c h : List Nat) (s2 : List Int) : Nat :=
  let s1 := (c.map Int.ofNat).zipWith (fun x y => centred (x - y)) (polyMul s2 (h.map Int.ofNat))
  ((s1 ++ s2).map (fun x => x.natAbs * x.natAbs)).foldl (· + ·) 0

/-- The check of a signature over a message: the header 0x3A, a nonce of 40 bytes, the packed s2, zero bits after it. -/
def falconVerify (key sig msg : List Byte) : Bool :=
  match falconKey key, unpackSigned falconDegree (bitList (sig.drop 41)) with
  | some h, some s2 =>
    let c := hashToPoint ((sig.drop 1).take 40) msg
    sig.head? = some 0x3A && c.length = falconDegree && falconNorm c h s2 ≤ falconBound
  | _, _ => false

end Sys2Proof.Machine
end

