-- ==== Sys2Proof/Machine/Ferry.lean ====
section
/-!
DEFINITION. The ferryman (spec/16_fabric_host.md R277 to R286; spec/17_program_allreduce.md R288; spec/20 R331, R332): its three
commands, its steps, credits and chunks.
-/
namespace Sys2Proof.Machine

/-! ## Steps (R280) -/

/-- A field of a step. -/
def stepField (p : BitVec 128) (lo len : Nat) : Nat := p.toNat / 2 ^ lo % 2 ^ len
def stepOp (p : BitVec 128) : Nat := stepField p 0 8
def stepBase (p : BitVec 128) : Nat := stepField p 16 16
def stepStep (p : BitVec 128) : Nat := stepField p 32 16
def stepLc (p : BitVec 128) : Nat := stepField p 48 8
def stepFlags (p : BitVec 128) : Nat := stepField p 56 8
def stepWord (p : BitVec 128) : Word := BitVec.ofNat 64 (stepField p 64 64)

/-- A field that is not used is zero. -/
def usedOrZero (used : Bool) (v : Nat) : Bool := used || v = 0

/-- The steps that COGLO permits in a program of n steps (R281, R285). -/
def stepOk (n : Nat) (p : BitVec 128) : Bool :=
  let op := stepOp p
  let chunk := 1 ≤ op && op ≤ 4
  op < 8 && stepLc p < 4 && stepFlags p < 8
    && usedOrZero (1 ≤ op && op ≤ 3) (stepField p 8 8)
    && usedOrZero (1 ≤ op && op ≤ 6) (stepBase p)
    && usedOrZero (1 ≤ op && op ≤ 5) (stepStep p)
    && usedOrZero (1 ≤ op && op ≤ 6) (stepLc p)
    && usedOrZero chunk (stepFlags p % 2)
    && usedOrZero (op = 3) (stepFlags p / 2 % 2)
    && usedOrZero (op = 2) (stepFlags p / 4)
    && usedOrZero (4 ≤ op) (stepField p 64 64)
    && (op ≠ 6 || stepBase p < n)

/-- A signed field. -/
def signedField (w v : Nat) : Int := if v < 2 ^ (w - 1) then (v : Int) else (v : Int) - 2 ^ w

def FerryCtx.size (f : FerryCtx) : Nat := (reg f.regs 1).toNat
def FerryCtx.rank (f : FerryCtx) : Nat := (reg f.regs 0).toNat
def FerryCtx.chunkBytes (f : FerryCtx) : Nat := (reg f.regs 4).toNat
def FerryCtx.fmt (f : FerryCtx) : Nat := (reg f.regs 0x0A).toNat
def FerryCtx.step (f : FerryCtx) : BitVec 128 := f.steps.getD f.pc 0

/-- The counter bound or plain index: zext(base) + zext(step) · iter[lc]. -/
def stepCount (f : FerryCtx) (p : BitVec 128) : Nat := stepBase p + stepStep p * f.iter.getD (stepLc p) 0

/-- k of R280. -/
def chunkIndex (f : FerryCtx) (p : BitVec 128) : Nat :=
  if stepFlags p % 2 = 1 then
    ((signedField 16 (stepBase p) + (f.rank : Int) + signedField 16 (stepStep p) * (f.iter.getD (stepLc p) 0 : Int)) % (f.size : Int)).toNat
  else stepCount f p

def fromRank (f : FerryCtx) (p : BitVec 128) : Nat := (((f.rank : Int) + signedField 8 (stepField p 8 8)) % (f.size : Int)).toNat
def toRank (f : FerryCtx) (p : BitVec 128) : Nat := (((f.rank : Int) - signedField 8 (stepField p 8 8)) % (f.size : Int)).toNat

/-- Own chunk k (R279). -/
def ownChunk (f : FerryCtx) (p : BitVec 128) : Word := reg f.regs 3 + BitVec.ofNat 64 (chunkIndex f p * f.chunkBytes)

/-- The distinct ranks that the program receives from (R282). -/
def fromRanks (f : FerryCtx) : List Nat :=
  ((f.steps.filter (fun p => stepOp p = 2 || stepOp p = 3)).map (fromRank f)).eraseDups

/-! ## Contexts (R278, R332, R412) -/

def FerryCtx.isOf (f : FerryCtx) (slot epoch : Nat) : Bool := f.who.slot = slot && f.who.epoch = epoch

/-- The context of the slot in force: its task's, or that of an ended task whose program still runs (R332); a saved task keeps its own (R412). -/
def ownFerry (s : State) : Option FerryCtx :=
  (s.dieAt s.die).ferry.find? (fun f => f.who.slot = s.cur && (f.who.epoch = s.t.num || f.orphan))

def replaceFerry (s : State) (die : Nat) (old f : FerryCtx) : State :=
  s.setDie die { s.dieAt die with ferry := (s.dieAt die).ferry.map (fun g => if g.isOf old.who.slot old.who.epoch then f else g) }
def putFerry (s : State) (die : Nat) (f : FerryCtx) : State := replaceFerry s die f f
def dropFerry (s : State) (die : Nat) (f : FerryCtx) : State :=
  s.setDie die { s.dieAt die with ferry := (s.dieAt die).ferry.filter (fun g => !g.isOf f.who.slot f.who.epoch) }

/-! ## Messages between ferrymen (R282, R288) -/

/-- The key under which the outcome of a run's messages to other devices comes back. -/
def runKey (f : FerryCtx) : Word := BitVec.ofNat 64 (f.who.slot + f.run * 2 ^ 16)

/-- The place of a program: its device, die and slot index, by which its peers know it (R279). -/
def FerryCtx.place (s : State) (f : FerryCtx) : Nat × Nat × Nat := (s.devid.toNat, dieOf f.who.slot, f.who.slot % 2048)

/-- Credits of a run that a peer has granted are withdrawn (R288). -/
def withdrawCredits (s : State) (die idx rank run : Nat) (peer : Nat × Nat × Nat) : State :=
  let d := s.dieAt die
  s.setDie die { d with credits := d.credits.filter (fun c => !(c.idx = idx && c.rank = rank && c.run = run && c.peer = peer)) }

/-- A message of the run to the peer of a rank: a credit (0), a chunk (1), the withdrawal of its credits (2), or to another device that the
ferryman is parked (3) or goes on (4). -/
def sendFerry (s : State) (f : FerryCtx) (rank kind : Nat) (bs : List Byte) : State :=
  match f.ranks[rank]? with
  | none => s
  | some (dev, die, idx) =>
    if dev ≠ s.devid.toNat then
      { s with remote := s.remote ++ [engRequest s f.cid 7 f.who dev (runKey f) 64 0 (.ferry kind die idx f.rank f.run) 0 bs] }
    else if 2 < kind then s
    else if kind = 2 then
      let old (m : FerryMsg) : Bool := !m.chunk && m.die = die && m.idx = idx && m.rank = f.rank && m.run = f.run && m.peer = f.place s
      withdrawCredits { s with ferryMsgs := s.ferryMsgs.filter (fun m => !old m) } die idx f.rank f.run (f.place s)
    else
      { s with ferryMsgs := s.ferryMsgs ++ [{ die := die, idx := idx, rank := f.rank, run := f.run, chunk := decide (kind = 1), bytes := bs, ctx := f.who.ctx,
                                              peer := f.place s }] }

/-- The run is over: credits that it granted are withdrawn, and a context without a task is freed (R288, R332). -/
def endRun (s : State) (die : Nat) (f : FerryCtx) : State :=
  let s1 := (fromRanks f).foldl (fun s r => sendFerry s f r 2 []) s
  if f.orphan then dropFerry s1 die f else putFerry s1 die { f with staged := [], forward := none, began := false }

/-- The ranks that a program sends to and receives from. -/
def ringNeighbours (f : FerryCtx) : List Nat :=
  ((f.steps.filter (fun p => 1 ≤ stepOp p && stepOp p ≤ 3)).flatMap (fun p => [fromRank f p, toRank f p])).eraseDups

/-- A gang switch parks the programs of a context, or they go on: neighbours on other devices are told (R255, R286). -/
def tellParked (ctx kind : Nat) (s : State) : State :=
  s.dies.foldl (fun s d =>
    (d.2.ferry.filter (fun f => f.who.ctx = ctx && f.state = 2)).foldl (fun s f => (ringNeighbours f).foldl (fun s r => sendFerry s f r kind []) s) s) s

/-- A halt (R285). -/
def haltFerry (s : State) (die : Nat) (f : FerryCtx) (code : Nat) (addr : Word) : State :=
  endRun (engFail s f.cid 3 code f.who (BitVec.ofNat 32 f.run) addr (BitVec.ofNat 64 f.pc) (reg f.regs 9)) die { f with state := 4, code := code }

/-! ## COLLOAD, COLGO, COLSTAT (R278, R331) -/

/-- Why a command's read does not give its bytes: the instruction stops, or the command fails. -/
inductive CmdStop where
  | stop (e : Stop)
  | fail (code : Nat) (addr : Word)

/-- Bytes that a command reads as it issues, under an issuer's mode and context. -/
def cmdReadPieces (w : Issuer) : List (Word × Nat) → State → Except CmdStop (State × List Byte)
  | [], s => .ok (s, [])
  | p :: rest, s =>
    let here (s1 : State) (pa : Nat) : Except CmdStop (State × List Byte) :=
      if blockedHere s1 pa p.2 then .error (.stop .stall)
      else match spoiledAt s1 pa p.2 with
        | some i => .error (.fail 10 (p.1 + BitVec.ofNat 64 i))
        | none => .ok (noteRead s1 .lost pa p.2, readBytes s1 pa p.2)
    let got : Except CmdStop (State × List Byte) :=
      match locate s w.asker .engineRead p.1 8 1 none 0 with
      | .error c => .error (.fail (codeOfCause c) p.1)
      | .ok (s1, .mem pa _) => here s1 pa
      | .ok (s1, .ro _ pa) => here s1 pa
      | .ok (_, .reg _ _) => .error (.fail 2 p.1)
      | .ok (s1, .remote d) =>
        match s1.t.fetched.find? (fun f => f.1 = p.1) with
        | some (_, some v) => .ok (s1, bytesOf p.2 v.toNat)
        | some (_, none) => .error (.fail 5 p.1)
        | none =>
          match sendTo s1 d p.1 p.2 0 .load 0 .none false true with
          | .error e => .error (.stop e)
          | .ok s2 =>
            let f (r : Remote) : Remote := { r with acc := { r.acc with ctx := w.ctx, user := w.user } }
            .error (.stop (.park { s2 with remote := s2.remote.dropLast ++ (s2.remote.getLast?.map f).toList } .reply))
    match got with
    | .error e => .error e
    | .ok (s1, bs) =>
      match cmdReadPieces w rest s1 with
      | .error e => .error e
      | .ok (s2, cs) => .ok (s2, bs ++ cs)

def cmdRead (w : Issuer) (a : Word) (n : Nat) (s : State) : Except CmdStop (State × List Byte) := cmdReadPieces w (engPieces s a n) s

/-- A refused command's record (R76, R331). -/
def ferryRefuse (s : State) (w : Issuer) (regs : SMap Word) (next pc code : Nat) (addr : Word) : State :=
  let s1 := noteLost s w code addr
  raiseEngErr (writeRecord s1 s1.nextCid w (reg regs 9) (recordWords s1 3 code w (BitVec.ofNat 32 next) addr (BitVec.ofNat 64 pc))) w

/-- Items of n bytes as numbers. -/
def itemsOf (n : Nat) : Nat → List Byte → List Nat
  | 0, _ => []
  | c + 1, bs => natOf (bs.take n) :: itemsOf n c (bs.drop n)

def colloadBody (nf : Bool) (v : Vals) (s : State) : Eff :=
  if mustRelease s nf then .error .stall
  else
    let w := issuerOf (ferryPort s.die) s
    let regs := snapshotRegs s 3
    let old := ownFerry s
    let next := (old.map FerryCtx.nextRun).getD 0
    let refuse (code : Nat) (addr : Word) : State := ferryRefuse s w regs next 0 code addr
    if (old.map FerryCtx.state) = some 2 then .ok (refuse 2 0)
    else if old.isNone && (s.dieAt s.die).ferry.length ≥ 8 then .ok (refuse 2 0)
    else if v.b.toNat < 1 || 256 < v.b.toNat then .ok (refuse 2 0)
    else if v.a.toNat % 16 ≠ 0 then .ok (refuse 6 v.a)
    else match cmdRead w v.a (16 * v.b.toNat) s with
      | .error (.stop e) => .error e
      | .error (.fail code a) => .ok (refuse code a)
      | .ok (s1, bs) =>
        let d := drawCid s1
        let f : FerryCtx := { cid := d.2, who := w, regs := regs, steps := (itemsOf 16 v.b.toNat bs).map (BitVec.ofNat 128), state := 1, pc := 0,
                              done := 0, code := 0, iter := [0, 0, 0, 0], run := 0, nextRun := next, ranks := [], forward := none,
                              began := false, staged := [], since := 0, orphan := false }
        let k := d.1.dieAt d.1.die
        .ok (match old with
          | some g => replaceFerry d.1 d.1.die g f
          | none => d.1.setDie d.1.die { k with ferry := k.ferry ++ [f] })

/-- The registers obey R279, but for RANKTAB: an error code, 0 for none. -/
def ferryCheck (devid : Nat) (f : FerryCtx) : Nat :=
  let buf := reg f.regs 3
  match reduceSlot (f.fmt % 64) with
  | none => 1
  | some n =>
    if f.size < 1 || 4096 < f.size || f.size ≤ f.rank || f.chunkBytes < 64 || 262144 < f.chunkBytes || f.chunkBytes % 64 ≠ 0
        || f.chunkBytes % n ≠ 0 || 256 < (reg f.regs 5).toNat || 63 < f.fmt || 65535 < (reg f.regs 6).toNat
        || !(match tokOf buf with
             | some .generic | some .sram => true
             | some .pad4 | some .sram4 | some .gen4 => bitsOf buf 48 12 = devid
             | _ => false) then 2
    else 0

/-- A RANKTAB entry: device, die and slot index (R279). -/
def rankEntry (e : Nat) : Option (Nat × Nat × Nat) :=
  if e / 2 ^ 15 % 2 = 1 && e / 2 ^ 27 = 0 then some (e % 2 ^ 12, e / 2 ^ 12 % 8, e / 2 ^ 16 % 2 ^ 11) else none

/-- COLGO halts the program before it starts, with no step completed (R278, R285, R331). -/
def colgoHalt (s : State) (f : FerryCtx) (pc code : Nat) (addr : Word) : State :=
  putFerry (ferryRefuse s f.who f.regs f.nextRun pc code addr) s.die { f with state := 4, code := code, pc := pc, done := 0, run := f.nextRun }

def colgoStart (s : State) (f : FerryCtx) (ranks : List (Nat × Nat × Nat)) : State :=
  match f.steps.findIdx? (fun p => !stepOk f.steps.length p) with
  | some i => colgoHalt s f i 8 0
  | none =>
    if 2 * f.chunkBytes * (fromRanks f).length > 4 * 2 ^ 20 then colgoHalt s f 0 2 0
    else
      let g : FerryCtx := { f with state := 2, pc := 0, done := 0, code := 0, iter := [0, 0, 0, 0], run := f.nextRun, nextRun := (f.nextRun + 1) % 2 ^ 32,
                                   ranks := ranks, forward := none, began := false, staged := [] }
      let s1 := putFerry s s.die g
      (fromRanks g).foldl (fun s r => sendFerry (sendFerry s g r 0 []) g r 0 []) s1

/-- A COLGO is refused (R331). Where the program is an ended task's that still runs, the record is that of the task that issues (DEDUCED, log 63). -/
def colgoRefuse (s : State) (f : Option FerryCtx) : State :=
  let own := issuerOf (ferryPort s.die) s
  match f with
  | some f =>
    if f.who.epoch = s.t.num then ferryRefuse s f.who f.regs f.nextRun f.pc 2 0 else ferryRefuse s own (snapshotRegs s 3) f.nextRun f.pc 2 0
  | none => ferryRefuse s own (snapshotRegs s 3) 0 0 2 0

def colgoBody (nf : Bool) (s : State) : Eff :=
  if mustRelease s nf then .error .stall
  else match ownFerry s with
    | none => .ok (colgoRefuse s none)
    | some f =>
      if f.state = 2 || f.state = 4 then .ok (colgoRefuse s (some f))
      else
        let code := ferryCheck s.devid.toNat f
        if code ≠ 0 then .ok (colgoHalt s f 0 code 0)
        else match cmdRead f.who (reg f.regs 2) (4 * f.size) s with
          | .error (.stop e) => .error e
          | .error (.fail code a) => .ok (colgoHalt s f 0 code a)
          | .ok (s1, bs) =>
            let es := (itemsOf 4 f.size bs).map rankEntry
            if es.any Option.isNone then .ok (colgoHalt s1 f 0 2 0)
            else .ok (colgoStart s1 f (es.filterMap id))

/-- The status word of R278. -/
def colstatWord (s : State) : Word :=
  match ownFerry s with
  | none => 0
  | some f => BitVec.ofNat 64 (f.done % 2 ^ 32 * 2 ^ 32 + f.pc % 256 * 2 ^ 16 + f.code % 256 * 256
      + (if f.state = 2 && !partRuns s f.who then 5 else f.state))

def colstatBody (s : State) : Eff :=
  if s.t.eq.length ≥ 16 then .error .stall else .ok (s.setT { s.t with eq := s.t.eq ++ [colstatWord s] })

def execColload (ra rb : Reg) (nf sw : Bool) (s : State) : Out :=
  issue (.colload ra rb nf sw) sw { a := some ra, b := some rb } (colloadBody nf) s
def execColgo (nf sw : Bool) (s : State) : Out := issue (.colgo nf sw) sw {} (fun _ s => colgoBody nf s) s
def execColstat (nf sw : Bool) (s : State) : Out := issue (.colstat nf sw) sw {} (fun _ s => colstatBody s) s

/-! ## The run of a program (R281) -/

/-- What a step has come to: it goes on later in a state, or the program halts. -/
inductive StepEnd where
  /-- The step is complete; the next one is at this place. -/
  | done (s : State) (f : FerryCtx) (next : Nat)
  /-- The step waits. -/
  | wait (s : State) (f : FerryCtx)
  | halt (code : Nat) (addr : Word)

/-- A step begins: its wait counts from now, and it registers the chunk that it writes (R165, R281). -/
def beginStep (s : State) (die : Nat) (f : FerryCtx) : State × FerryCtx :=
  if f.began then (s, f)
  else
    let d := drawCid s
    let g := { f with began := true, since := s.tstamp.toNat, cid := d.2 }
    let p := f.step
    let s1 :=
      if stepOp p = 2 || stepOp p = 3 then claimRange g.cid 0 g.who (ownChunk g p) g.chunkBytes d.1
      else if stepOp p = 4 then claimRange g.cid 0 g.who (stepWord p) g.chunkBytes d.1
      else d.1
    (putFerry s1 die g, g)

/-- A message of a run between a slot's program and a peer belongs to this program: it names the peer at its rank, and no other program of the
slot that does so is of the peer's context, unless it is itself (R282, R288, R412, DEDUCED, log 63). -/
def FerryCtx.takes (d : Die) (f : FerryCtx) (rank run ctx : Nat) (peer : Nat × Nat × Nat) : Bool :=
  let names (g : FerryCtx) : Bool := g.who.slot = f.who.slot && g.state = 2 && g.run = run && g.ranks[rank]? = some peer
  names f && (f.who.ctx = ctx || !d.ferry.any (fun g => names g && g.who.ctx = ctx))

/-- A credit of the run from a rank that the program may take. -/
def findCredit (s : State) (die : Nat) (f : FerryCtx) (rank : Nat) : Option Credit :=
  (s.dieAt die).credits.find? (fun c =>
    c.idx = f.who.slot % 2048 && c.rank = rank && c.run = f.run && f.takes (s.dieAt die) rank c.run c.ctx c.peer)

def takeCredit (s : State) (die : Nat) (f : FerryCtx) (rank : Nat) : Option State :=
  (findCredit s die f rank).map (fun c => s.setDie die { s.dieAt die with credits := (s.dieAt die).credits.erase c })

/-- Sends a chunk to a rank when a credit is here. -/
def sendChunk (s : State) (die : Nat) (f : FerryCtx) (rank : Nat) (bs : List Byte) : Option State :=
  (takeCredit s die f rank).map (fun s1 => sendFerry s1 f rank 1 bs)

/-- An engine's effect as the end of a step. -/
def endOf (f : FerryCtx) (r : EngEff StepEnd) : StepEnd :=
  match r with
  | .ok (_, e) => e
  | .error (.wait s) => .wait s f
  | .error (.fail code a) => .halt code a

/-- SEND. -/
def doSend (die : Nat) (f : FerryCtx) (s : State) : StepEnd :=
  let p := f.step
  let rank := fromRank f p
  if (findCredit s die f rank).isNone then .wait s f
  else match engRead s f.cid 0 f.who (ownChunk f p) f.chunkBytes with
    | .error (.wait s1) => .wait s1 f
    | .error (.fail code a) => .halt code a
    | .ok (s1, bs) =>
      match sendChunk s1 die f rank bs with
      | some s2 => .done s2 f (f.pc + 1)
      | none => .wait s1 f

/-- The next chunk staged for a rank and the run. -/
def takeStaged (f : FerryCtx) (rank : Nat) : Option (List Byte × FerryCtx) :=
  match f.staged.findIdx? (fun c => c.1 = rank && c.2.1 = f.run) with
  | some i => (f.staged[i]?).map (fun c => (c.2.2, { f with staged := f.staged.eraseIdx i }))
  | none => none

/-- RECV and RRS: the chunk is written, its staging entry is granted again, and it may go on to the next rank. -/
def doReceive (die : Nat) (f : FerryCtx) (s : State) : StepEnd :=
  let p := f.step
  let forwards := if stepOp p = 3 then stepFlags p / 2 % 2 = 0 else stepFlags p / 4 % 2 = 1
  let pass (s : State) (f : FerryCtx) (bs : List Byte) : StepEnd :=
    match sendChunk s die f (toRank f p) bs with
    | some s1 => .done s1 { f with forward := none } (f.pc + 1)
    | none => .wait s { f with forward := some bs }
  match f.forward with
  | some bs => pass s f bs
  | none =>
    match takeStaged f (fromRank f p) with
    | none => .wait s f
    | some (r, g) =>
      let a := ownChunk f p
      match engDst s f.who a f.chunkBytes with
      | .error (.wait s1) => .wait s1 f
      | .error (.fail code x) => .halt code x
      | .ok (s1, ps) =>
        match (if stepOp p = 3 then engRead s1 f.cid 0 f.who a f.chunkBytes else .ok (s1, [])) with
        | .error (.wait s2) => .wait s2 f
        | .error (.fail code x) => .halt code x
        | .ok (s2, own) =>
          if dstBlocked s2 f.cid ps then .wait s2 f
          else
            let out := if stepOp p = 3 then reduceAll f.fmt own r else r
            match engPut f.cid 1 f.who ps out s2 with
            | .error (.wait s3) => .wait s3 f
            | .error (.fail code x) => .halt code x
            | .ok (s3, _) =>
              let s4 := sendFerry (dropData (endOwnership s3 f.cid) f.cid) g (fromRank f p) 0 []
              if forwards then pass s4 { g with since := s4.tstamp.toNat } out else .done s4 g (f.pc + 1)

/-- COPY. -/
def doCopy (f : FerryCtx) (s : State) : StepEnd :=
  let p := f.step
  match engDst s f.who (stepWord p) f.chunkBytes with
  | .error (.wait s1) => .wait s1 f
  | .error (.fail code x) => .halt code x
  | .ok (s1, ps) =>
    match engRead s1 f.cid 0 f.who (ownChunk f p) f.chunkBytes with
    | .error (.wait s2) => .wait s2 f
    | .error (.fail code x) => .halt code x
    | .ok (s2, bs) =>
      if dstBlocked s2 f.cid ps then .wait s2 f
      else match engPut f.cid 1 f.who ps bs s2 with
        | .error (.wait s3) => .wait s3 f
        | .error (.fail code x) => .halt code x
        | .ok (s3, _) => .done s3 f (f.pc + 1)

/-- WAIT, at a counter of R173. -/
def doWait (f : FerryCtx) (s : State) : StepEnd :=
  let p := f.step
  let a := stepWord p
  let bound : Word := BitVec.ofNat 64 (stepCount f p)
  match engLocate s f.who .counterRead a 8 with
  | .error (.wait s1) => .wait s1 f
  | .error (.fail code x) => .halt code x
  | .ok (s1, .mem pa _) =>
    if spoiledIn s1 pa 8 then .halt 10 a
    else if engBlocked s1 f.cid pa 8 || readWord s1 pa < bound then .wait s1 f else .done s1 f (f.pc + 1)
  | .ok (s1, .remote d) =>
    (match engFar s1 f.cid 9 f.who d a 8 0 (.cwait bound) 0 [] with
     | .error (.wait s2) => .wait s2 f
     | .error (.fail code x) => .halt code x
     | .ok (s2, _) => .done s2 f (f.pc + 1))
  | .ok (_, _) => .halt 2 a

/-- LOOP. -/
def doLoop (f : FerryCtx) (s : State) : StepEnd :=
  let p := f.step
  let lc := stepLc p
  let n := f.iter.getD lc 0 + 1
  if n < (stepWord p).toNat then .done s { f with iter := f.iter.set lc n } (stepBase p)
  else .done s { f with iter := f.iter.set lc 0 } (f.pc + 1)

/-- SIGNAL, and the add of END. -/
def doSignal (ctr : Word) (f : FerryCtx) (s : State) : StepEnd :=
  match engAdd s f.cid f.who ctr 1 with
  | .error (.wait s1) => .wait s1 f
  | .error (.fail code x) => .halt code x
  | .ok (s1, _) => .done s1 f (f.pc + 1)

def doEnd (f : FerryCtx) (s : State) : StepEnd :=
  if reg f.regs 8 = 0 then .done s f (f.pc + 1) else doSignal (reg f.regs 8) f s

/-- A step's effect. -/
def doStep (die : Nat) (f : FerryCtx) (s : State) : StepEnd :=
  match stepOp f.step with
  | 0 => doEnd f s
  | 1 => doSend die f s
  | 2 => doReceive die f s
  | 3 => doReceive die f s
  | 4 => doCopy f s
  | 5 => doWait f s
  | 6 => doLoop f s
  | _ => doSignal (stepWord f.step) f s

/-- The step is over; a program past its last step halts (R281). -/
def finishStep (s : State) (die : Nat) (f : FerryCtx) (next : Nat) : State :=
  let s1 := dropData (endOwnership s f.cid) f.cid
  let g := { f with done := f.done + 1, began := false, forward := none }
  if stepOp f.step = 0 then endRun s1 die { g with state := 3 }
  else if next < f.steps.length then putFerry s1 die { g with pc := next }
  else haltFerry s1 die g 8 0

/-- A message of the run to another device has been dropped (R285). -/
def lostMessage (s : State) (f : FerryCtx) : Bool := s.engData.any (fun d => d.tag = 7 && d.addr = runKey f && d.value.isNone)

/-- A COPY has begun to write to another device, so that no gang switch parks it before its end (R255). -/
def copying (s : State) (f : FerryCtx) : Bool := stepOp f.step = 4 && s.engData.any (fun d => d.cid = f.cid && d.tag = 1)

/-- The program at a place of the die's contexts, when it runs and is at a step of the op. -/
def ferryAt (s : State) (die idx op : Nat) : Option FerryCtx :=
  match (s.dieAt die).ferry[idx]? with
  | some f => if f.state = 2 && stepOp f.step = op && (partRuns s f.who || copying s f) then some f else none
  | none => none

def ferryStep (die : Nat) (f : FerryCtx) (s : State) : State :=
  if lostMessage s f then
    haltFerry { s with engData := s.engData.filter (fun d => !(d.tag = 7 && d.addr = runKey f)) } die f 5 0
  else
    let b := beginStep s die f
    if claimsDue b.1 b.2.cid then b.1
    else match doStep die b.2 b.1 with
    | .done s1 g next => finishStep s1 die g next
    | .wait s1 g => putFerry s1 die g
    | .halt code a => haltFerry b.1 die b.2 code a

/-- A step of an op at a place. -/
def ferryEvent (op die idx : Nat) (s : State) : State :=
  match ferryAt s die idx op with
  | some f => ferryStep die f s
  | none => s

def execFerryEnd (die idx : Nat) (s : State) : Out := .next (ferryEvent 0 die idx s)
def execFerrySend (die idx : Nat) (s : State) : Out := .next (ferryEvent 1 die idx s)
def execFerryRecv (die idx : Nat) (s : State) : Out := .next (ferryEvent 2 die idx s)
def execFerryRrs (die idx : Nat) (s : State) : Out := .next (ferryEvent 3 die idx s)
def execFerryCopy (die idx : Nat) (s : State) : Out := .next (ferryEvent 4 die idx s)
def execFerryWait (die idx : Nat) (s : State) : Out := .next (ferryEvent 5 die idx s)
def execFerryLoop (die idx : Nat) (s : State) : Out := .next (ferryEvent 6 die idx s)
def execFerrySignal (die idx : Nat) (s : State) : Out := .next (ferryEvent 7 die idx s)

/-! ## Arrivals and the step timeout (R282, R284) -/

/-- The ferryman message was sent by a program of a stopped context: the fabric holds it, whoever is to receive it (R255, R411). -/
def ferryStopped (s : State) (m : FerryMsg) : Bool := s.stopped.contains m.ctx

/-- The oldest message of this description that is not held, once none before it of the same pair of ferrymen is on its way (R22); it leaves the
fabric. -/
def takeFerryMsg (s : State) (die idx rank run : Nat) (chunk : Bool) (bs : List Byte) : Option (State × FerryMsg) :=
  let fits (m : FerryMsg) : Bool := m.die = die && m.idx = idx && m.rank = rank && m.run = run && m.chunk = chunk && !ferryStopped s m
  match (s.ferryMsgs.zipIdx).find? (fun m => fits m.1) with
  | some (m, i) =>
    if m.bytes = bs && !(s.ferryMsgs.take i).any (fun q => q.die = die && q.peer.1 = m.peer.1 && q.peer.2.1 = m.peer.2.1 && !ferryStopped s q) then
      some ({ s with ferryMsgs := s.ferryMsgs.eraseIdx i }, m)
    else none
  | none => none

/-- A chunk lands in a staging entry of the run, running or parked. -/
def stageChunk (s : State) (die idx rank run ctx : Nat) (peer : Nat × Nat × Nat) (bs : List Byte) : State :=
  match (s.dieAt die).ferry.find? (fun f => f.who.slot = die * 2048 + idx && f.takes (s.dieAt die) rank run ctx peer) with
  | some f => putFerry s die { f with staged := f.staged ++ [(rank, run, bs)] }
  | none => s

def execFerryChunkArrival (die idx rank run : Nat) (data : List Byte) (s : State) : Out :=
  .next (match takeFerryMsg s die idx rank run true data with
    | some (s1, m) => stageChunk s1 die idx rank run m.ctx m.peer data
    | none => s)

def addCredit (s : State) (die : Nat) (c : Credit) : State :=
  s.setDie die { s.dieAt die with credits := (s.dieAt die).credits ++ [c] }

def execFerryCreditArrival (die idx rank run : Nat) (s : State) : Out :=
  .next (match takeFerryMsg s die idx rank run false [] with
    | some (s1, m) => addCredit s1 die { idx := idx, ctx := m.ctx, peer := m.peer, rank := rank, run := run }
    | none => s)

/-- The step of a program waits: for a credit, a chunk or a counter that has still to come (R284). -/
def stepWaits (s : State) (f : FerryCtx) : Bool :=
  let credit (rank : Nat) : Bool := (findCredit s (dieOf f.who.slot) f rank).isSome
  let p := f.step
  f.state = 2 && f.began && (match stepOp p with
    | 1 => !credit (fromRank f p)
    | 2 | 3 => if f.forward.isSome then !credit (toRank f p) else (takeStaged f (fromRank f p)).isNone
    | 5 =>
      (match engLocate s f.who .counterRead (stepWord p) 8 with
       | .ok (s1, .mem pa _) => readWord s1 pa < BitVec.ofNat 64 (stepCount f p)
       | .ok (_, .remote _) => true
       | _ => false)
    | _ => false)

def stepExpired (s : State) (f : FerryCtx) : Bool :=
  reg f.regs 7 ≠ 0 && f.since + (reg f.regs 7).toNat * 1000 < s.tstamp.toNat && partRuns s f.who && stepWaits s f

def execFerryStepTimeout (die idx : Nat) (s : State) : Out :=
  .next (match (s.dieAt die).ferry[idx]? with
    | some f => if stepExpired s f then haltFerry s die f 9 0 else s
    | none => s)

/-- The programs of a peer of this device that take part in a run with a program: those of its slot that name the program's place. -/
def peerPrograms (s : State) (f : FerryCtx) (die idx : Nat) : List FerryCtx :=
  (s.dieAt die).ferry.filter (fun g => g.who.slot = die * 2048 + idx && g.state = 2 && g.ranks.contains (f.place s))

/-- The peer that a waiting step names is stopped by a gang switch (R284): here, its program, or the slot that has still to start one; or at
another device, which has told so (R255). -/
def peerStopped (s : State) (f : FerryCtx) : Bool :=
  let rank := if stepOp f.step = 1 || f.forward.isNone then fromRank f f.step else toRank f f.step
  match f.ranks[rank]? with
  | some (dev, die, idx) =>
    if dev ≠ s.devid.toNat then s.farParked.contains (dev, die, idx)
    else
      let gs := peerPrograms s f die idx
      let x := s.slotAt (die * 2048 + idx)
      if gs.isEmpty then x.phase = .running && s.stopped.contains x.t.ctxid.toNat else gs.all (fun g => !partRuns s g.who)
  | none => false

/-- A peer of another device is parked, or goes on. -/
def peerParked (s : State) (peer : Nat × Nat × Nat) (up : Bool) : State :=
  let rest := s.farParked.filter (fun p => p ≠ peer)
  { s with farParked := if up then peer :: rest else rest }

/-- Step timers stand still while their program, or a peer that the step names, is stopped (R255, R284). -/
def holdTimers (s : State) (ns : Nat) : State :=
  if s.stopped.isEmpty && s.farParked.isEmpty then s
  else
    let f (d : Nat × Die) : Nat × Die :=
      (d.1, { d.2 with ferry := d.2.ferry.map (fun f =>
        if f.state = 2 && f.began && (!partRuns s f.who || (1 ≤ stepOp f.step && stepOp f.step ≤ 3 && peerStopped s f)) then
          { f with since := f.since + ns }
        else f) })
    { s with dies := s.dies.map f }

end Sys2Proof.Machine
end

