-- ==== Sys2Proof/Machine/Control.lean ====
section
/-!
DEFINITION. Branches, jumps, calls, frames and the mask group (spec/20 R322, R328; spec/21 R343, R352, R361; spec/22 R369, R380;
spec/06_execution.md R122). All are control instructions (R121).
-/
namespace Sys2Proof.Machine

/-- Where the leader's instruction went: a follower's branches and jumps go there, whatever its own operands (R121). -/
def ledTo (t : Task) : Option Pc := if t.follows then t.fwd.head?.map Fwd.next else none

/-- Sets the PC, with the trace record of a taken branch, jump, CALL or RET (R265); an inactive member records nothing (R266). -/
def jumpTo (s : State) (t : Pc) : State :=
  let t := (ledTo s.t).getD t
  let s1 := s.setT { s.t with pc := t }
  if s.t.active then trace s1 1 0 t else s1

/-- PC + 4·sext(disp) mod 2^48 (R83). -/
def branchTarget (pc : Pc) (disp : BitVec 13) : Pc := pc + (disp.signExtend 48 <<< 2)
def jumpTarget (pc : Pc) (disp : BitVec 25) : Pc := pc + (disp.signExtend 48 <<< 2)

def branch (i : Instr) (sw : Bool) (ra rb : Reg) (disp : BitVec 13) (taken : Word → Word → Bool) (s : State) : Out :=
  let pc := s.t.pc
  issue i sw { a := some ra, b := some rb, control := true }
    (fun v s =>
      let goes := match ledTo s.t with | some t => decide (t ≠ pc + 4) | none => taken v.a v.b
      .ok (if goes then jumpTo s (branchTarget pc disp) else s)) s

def execBeq (ra rb : Reg) (disp : BitVec 13) (sw : Bool) (s : State) : Out := branch (.beq ra rb disp sw) sw ra rb disp (fun x y => x = y) s
def execBne (ra rb : Reg) (disp : BitVec 13) (sw : Bool) (s : State) : Out := branch (.bne ra rb disp sw) sw ra rb disp (fun x y => x ≠ y) s
def execBlt (ra rb : Reg) (disp : BitVec 13) (sw : Bool) (s : State) : Out := branch (.blt ra rb disp sw) sw ra rb disp (fun x y => x.slt y) s
def execBge (ra rb : Reg) (disp : BitVec 13) (sw : Bool) (s : State) : Out := branch (.bge ra rb disp sw) sw ra rb disp (fun x y => !x.slt y) s
def execBltu (ra rb : Reg) (disp : BitVec 13) (sw : Bool) (s : State) : Out := branch (.bltu ra rb disp sw) sw ra rb disp (fun x y => x < y) s
def execBgeu (ra rb : Reg) (disp : BitVec 13) (sw : Bool) (s : State) : Out := branch (.bgeu ra rb disp sw) sw ra rb disp (fun x y => y ≤ x) s

def execJ (disp : BitVec 25) (sw : Bool) (s : State) : Out :=
  let pc := s.t.pc
  issue (.j disp sw) sw { control := true } (fun _ s => .ok (jumpTo s (jumpTarget pc disp))) s

/-- A jump's own operand is misaligned; a follower's operand plays no part (R121). -/
def jumpBad (t : Task) (a : Word) : Bool := a.toNat % 4 ≠ 0 && !t.follows

/-- JR ignores ra[63:48] and takes ALIGN on ra[1:0] (R352). -/
def execJr (ra : Reg) (sw : Bool) (s : State) : Out :=
  issue (.jr ra sw) sw { a := some ra, control := true }
    (fun v s => if jumpBad s.t v.a then .error (.trap .align v.a) else .ok (jumpTo s (v.a.truncate 48))) s

/-- The frame entries that an operation writes or spills await no result. -/
def windowQuiet (t : Task) (lo n : Nat) : Bool :=
  t.pend.isEmpty || (List.range n).all (fun i => !t.pend.contains (.win ((lo + i) % 128)))

/-- The oldest frames' entries, which a spill would write out, await no result. -/
def spillQuiet (s : State) : Bool := !(spillBlocked s) && s.t.pend.all (fun p => match p with | .win _ => false | _ => true)

/-- CALL and CALLR (R328): a call frame on the caller's last eight registers. It spills only at a 65th resident frame (R63). -/
def callTo (t : Pc) (s : State) : Eff :=
  if s.t.frames.length ≥ 64 && !spillQuiet s then .error .stall
  else match pushCall s s.t.pc with
    | none => .error (.trap .stack 0)
    | some s1 => .ok (jumpTo s1 t)

def execCall (disp : BitVec 25) (sw : Bool) (s : State) : Out :=
  let pc := s.t.pc
  issue (.call disp sw) sw { control := true } (fun _ s => callTo (jumpTarget pc disp) s) s

def execCallr (ra : Reg) (sw : Bool) (s : State) : Out :=
  issue (.callr ra sw) sw { a := some ra, control := true }
    (fun v s => if jumpBad s.t v.a then .error (.trap .align v.a) else callTo (v.a.truncate 48) s) s

/-- RET (R369): the frame below is filled when it is spilled; leaving the frame of a STRAND releases the strand first. -/
def returnCall (s : State) : Eff :=
  if s.t.frame.kind ≠ .call then .error (.trap .stack 0)
  else if s.t.frames.length ≤ 1 && spillBlocked s then .error .stall
  else match popFrame s with
    | none => .error (.trap .stack 0)
    | some s1 =>
      if s.t.depth ≤ s.t.strandDepth then
        match releaseStrand s with
        | .error e => .error e
        | .ok s2 =>
          match popFrame s2 with
          | none => .error (.trap .stack 0)
          | some s3 => .ok (jumpTo s3 s3.t.pc)
      else .ok (jumpTo s1 s1.t.pc)

def execRet (sw : Bool) (s : State) : Out := issue (.ret sw) sw { control := true } (fun _ s => returnCall s) s

/-- ENTER k (R343). -/
def enter (k : Nat) (s : State) : Eff :=
  let f := s.t.frame
  if !windowQuiet s.t (f.base + f.size) (k - f.size) then .error .stall
  else if s.t.resident + (k - f.size) > 128 && !spillQuiet s then .error .stall
  else match enterFrame s k with
    | none => .error (.trap .stack 0)
    | some s1 => .ok s1

def execEnter (k : BitVec 6) (sw : Bool) (s : State) : Out := issue (.enter k sw) sw { control := true } (fun _ s => enter k.toNat s) s
def execShrink (k : BitVec 6) (sw : Bool) (s : State) : Out :=
  issue (.shrink k sw) sw { control := true } (fun _ s => .ok (s.setT (shrinkFrame s.t k.toNat))) s

/-! ## The mask group (R122, R361) -/

/-- The trace record of a mask change (R265): depth and active. A member that was inactive records nothing (R266). -/
def traceMask (s0 s : State) (pc : Pc) : State :=
  if s0.t.active then trace s 2 (s.t.mask.length * 16 + boolBit s.t.active 0) pc else s

def pushMask (cond : Bool) (pc : Pc) (s : State) : Eff :=
  if s.t.mask.length ≥ 8 then .error (.trap .stack 0)
  else .ok (traceMask s (s.setT { s.t with mask := { parent := s.t.active, cond := cond } :: s.t.mask, active := s.t.active && cond }) pc)

/-- MIF: an inactive slot reads no queue and takes its condition as 0 (R361). -/
def execMif (ra : Reg) (sw : Bool) (s : State) : Out :=
  let pc := s.t.pc
  issue (.mif ra sw) sw { a := some ra, control := true } (fun v s => pushMask (v.a ≠ 0) pc s) s

def flipMask (pc : Pc) (s : State) : Eff :=
  match s.t.mask with
  | [] => .error (.trap .stack 0)
  | e :: rest => .ok (traceMask s (s.setT { s.t with mask := { e with cond := !e.cond } :: rest, active := e.parent && !e.cond }) pc)

def execMelse (sw : Bool) (s : State) : Out :=
  let pc := s.t.pc
  issue (.melse sw) sw { control := true } (fun _ s => flipMask pc s) s

def popMask (pc : Pc) (s : State) : Eff :=
  match s.t.mask with
  | [] => .error (.trap .stack 0)
  | e :: rest => .ok (traceMask s (s.setT { s.t with mask := rest, active := e.parent }) pc)

def execMend (sw : Bool) (s : State) : Out :=
  let pc := s.t.pc
  issue (.mend sw) sw { control := true } (fun _ s => popMask pc s) s

end Sys2Proof.Machine
end

