-- ==== Sys2Proof/Machine/Tasks.lean ====
section
/-!
DEFINITION. The task group (spec/06_execution.md R112 to R120; spec/21 R351, R353; spec/22 R370, R371, R382, R385, R386; spec/23 R390,
R395, R410): FORK, JOIN, SPAWN, RETIRE, YIELD, TGATE, TSPAWN, STRAND, UNSTRAND.
-/
namespace Sys2Proof.Machine

/-- A value that the spec leaves open, drawn with the counter. -/
def drawWord (s : State) : State × Word := ({ s with freeCtr := s.freeCtr + 1 }, Config.freeWord s.freeCtr)

/-- The record of 64 bytes as its words. -/
def wordsOf (v : Nat) (n : Nat) : List Word := (List.range n).map (fun i => BitVec.ofNat 64 (v / 2 ^ (64 * i)))
def natOfWords (ws : List Word) : Nat := ws.foldr (fun w a => w.toNat + 2 ^ 64 * a) 0

/-- A task of a strand: leader or follower. -/
def Task.inStrand (t : Task) : Bool := t.leader.isSome || !t.followers.isEmpty

/-! ## Nested runs -/

/-- A nested start needs a spill that cannot go yet, or window entries whose results are outstanding. -/
def nestBlocked (s : State) : Bool :=
  !windowQuiet s.t (s.t.frame.base + s.t.frame.size) 8
    || ((s.t.resident + 8 > 128 || s.t.frames.length ≥ 64) && !spillQuiet s)

/-! ## FORK (R113, R351) -/

/-- The address names this core's own TCM. -/
def ownTcm (s : State) (a : Word) : Bool :=
  match tokOf a with
  | some .tcm => zeroFieldsOk .tcm a
  | some .tcm4 => zeroFieldsOk .tcm4 a && bitsOf a 48 12 = s.devid.toNat && bitsOf a 33 12 = s.core
  | _ => false

def forkAt (a : Word) (s : State) : Eff :=
  if !released s then .error .stall
  else if a.toNat % 64 ≠ 0 then .error (.trap .align a)
  else if !ownTcm s a then .error (.trap .path a)
  else match readAtIssue s .record a 64 64 with
    | .error e => .error e
    | .ok (s1, v) =>
      let r := wordsOf v 8
      let k := s1.coreAt s1.core
      if dqCount k < dqMask k then .ok (dqPush s1 s1.core r)
      else if s1.t.inStrand then .error (.park s1 .dequeRoom)
      else if !recordValid r then .ok (countDiscard s1 s1.die)
      else if nestBlocked s1 then .error .stall
      else match startNested s1 s1.t.pc r with
        | none => .error (.trap .stack 0)
        | some s2 => .ok s2

def execFork (ra : Reg) (sw : Bool) (s : State) : Out :=
  issue (.fork ra sw) sw { a := some ra } (fun v s => forkAt v.a s) s

/-! ## JOIN (R115, R353) -/

/-- A JOIN whose counter is below the target: the owner pop, or the park. pc is the JOIN's own. -/
def joinRest (pc : Pc) (park : State → Eff) (s : State) : Eff :=
  if s.t.inStrand then park s
  else match dqNewest s s.core with
    | none => park s
    | some r =>
      if nestBlocked s then .error .stall
      else if !canNest s then park s
      else
        let s1 := dqPop s s.cur
        if !recordValid r then
          let s2 := countDiscard s1 s1.die
          .ok (s2.setT { s2.t with pc := pc })
        else match startNested s1 pc r with
          | none => park s
          | some s2 => .ok s2

def joinAt (pc : Pc) (a target : Word) (s : State) : Eff :=
  if a.toNat % 8 ≠ 0 then .error (.trap .align a)
  else match counterPlace a s with
    | .error e => .error e
    | .ok (s1, .mem pa _) =>
      if requestBlocked s1 pa 8 then .error .stall
      else
        let s2 := noteMine s1 pa 8
        if target ≤ readWord s1 pa then .ok s2 else joinRest pc (fun s => .error (.park s (.join pa target))) s2
    | .ok (s1, .remote d) =>
      match sendTo s1 d a 8 0 .load 0 .none false true with
      | .error e => .error e
      | .ok s2 => .error (.park s2 (.joinProbe a target))
    | .ok (_, _) => .error (.trap .path a)

def execJoin (ra rb : Reg) (sw : Bool) (s : State) : Out :=
  let pc := s.t.pc
  issue (.join ra rb sw) sw { a := some ra, b := some rb } (fun v s => joinAt pc v.a v.b s) s

/-! ## SPAWN (R114, R382) -/

/-- A record leaves for a core's inbox, of this device or of another. -/
def sendRecord (dest : Word) (r : List Word) (s : State) : Eff :=
  let core := bitsOf dest 0 12
  let device := bitsOf dest 16 12
  if dest.getLsbD 31 && device ≠ s.devid.toNat then
    sendTo s device 0 64 0 (.record core) (BitVec.ofNat 4096 (natOfWords r)) .none false false
  else if 64 ≤ outstandingCore s s.core then .error .stall
  else .ok { s with inflight := s.inflight ++ [{ core := core, record := r, slot := some s.cur, ctx := s.asker.ctx }] }

def spawnAt (a dest : Word) (s : State) : Eff :=
  if !released s then .error .stall
  else match readAtIssue s .record a 64 64 with
    | .error e => .error e
    | .ok (s1, v) => sendRecord dest (wordsOf v 8) s1

def execSpawn (ra rb : Reg) (sw : Bool) (s : State) : Out :=
  issue (.spawn ra rb sw) sw { a := some ra, b := some rb } (fun v s => spawnAt v.a v.b s) s

/-! ## RETIRE (R116, R370, R371) -/

/-- A stream is plain again. -/
def Stream.plain (x : Stream) : Stream := { x with armed := false, bad := false, ahead := [] }

/-- The checks of the completion counter; its physical address (R370). -/
def retireCounter (s : State) : Except Stop (State × Option Nat) :=
  match s.t.runs with
  | run :: _ =>
    match (if run.given then counterAddr s.devid run.record else none) with
    | none => .ok (s, none)
    | some c =>
      match locate s s.asker .counterAdd c 8 8 none 0 with
      | .error e => .error (.trap e c)
      | .ok (s1, .mem pa _) => if inArmed s1 pa 8 then .error (.trap .prot c) else .ok (s1, some pa)
      | .ok (_, _) => .error (.trap .path c)
  | [] => .ok (s, none)

/-- The end of a task, once every check has passed and every store is performed. -/
def endTask (s : State) : Eff :=
  if s.t.nested then
    match popNested s with
    | none => .error (.trap .stack 0)
    | some s1 => .ok (s1.setT { s1.t with runs := s1.t.runs.drop 1 })
  else .ok (idleTask s s.cur)

/-- Accesses set aside at a trap that the task does not return from go to their homes now (R15, R144, DEDUCED, log 16). -/
def resendAll (s : State) : State :=
  let s1 := s.t.pulled.foldl resend (s.setT { s.t with pulled := [], pend := s.t.pulled.foldl (fun p h => p.erase h.dst) s.t.pend })
  resendFar (s1.setT { s1.t with pulledFar := s1.t.pulledFar.map (fun p => (s1.t.handlers, p.2)) })

/-- Accesses are set aside. -/
def Task.hasPulled (t : Task) : Bool := !t.pulled.isEmpty || !t.pulledFar.isEmpty

/-- RETIRE of a run that is no follower's, once its checks have passed: the strand is released, the slot's stores and atomics are waited for,
and the counter rises (R116, R370). A value that the run has asked for is not waited for. -/
def retireRun (c : Option Nat) (s : State) : Eff :=
  match releaseStrand s with
  | .error e => .error e
  | .ok s1 =>
    if !released s1 then .error (.park s1 .stores)
    else
      let s2 := s1.setT { s1.t with sa := s1.t.sa.plain, sb := s1.t.sb.plain }
      match c with
      | none => endTask s2
      | some pa =>
        if requestBlocked s2 pa 8 then .error (.park s1 .stores)
        else endTask (afterWrite (writeWord (noteRead s2 .lost pa 8) pa (readWord s2 pa + 1)))

def retireAt (s : State) : Eff :=
  match s.t.leader with
  | some l =>
    if s.t.hasPulled then .error (.park (resendAll s) .stores)
    else
    let s1 := s.updTaskOf l (fun t => { t with followers := t.followers.filter (fun n => n ≠ s.cur) })
    .ok (idleTask s1 s1.cur)
  | none =>
    match retireCounter s with
    | .error e => .error e
    | .ok (s1, c) =>
      if s1.t.nested && spillBlocked s1 then .error .stall
      else if s1.t.nested && (popNested s1).isNone then .error (.trap .stack 0)
      else if s1.t.hasPulled then .error (.park (resendAll s1) .stores)
      else retireRun c s1

def execRetire (sw : Bool) (s : State) : Out := issue (.retire sw) sw { control := true } (fun _ s => retireAt s) s

/-! ## YIELD (R117, R410) -/

def execYield (sw : Bool) (s : State) : Out :=
  issue (.yield sw) sw {}
    (fun _ s =>
      if s.t.prio.toNat < 4 || s.t.nested || s.t.inStrand then .ok s else .ok (s.setT { s.t with yielded := true })) s

/-! ## TGATE (R118, R390) -/

/-- The test at the counter's home and the registration, in one step. -/
def gateAt (rd : Reg) (pa : Nat) (target : Word) (r : List Word) (s : State) : Eff :=
  let c := s.clusterAt s.cluster
  if c.gates.length ≥ 64 then result s rd 1
  else if requestBlocked s pa 8 then .error .stall
  else if target ≤ readWord s pa then
    let s := noteMine s pa 8
    result { s with inflight := s.inflight ++ [{ core := s.core, record := r, slot := none, ctx := s.asker.ctx }] } rd 0
  else
    let s := noteMine s pa 8
    let g : Gate := { record := r, addr := pa, target := target, core := s.core, ctx := s.asker.ctx }
    result (s.setCluster s.cluster { c with gates := c.gates ++ [g] }) rd 0

def tgateAt (rd : Reg) (v : Vals) (s : State) : Eff :=
  if !released s then .error .stall
  else match locate s s.asker .record v.a 64 64 none 0 with
    | .error c => .error (.trap c v.a)
    | .ok (s0, _) =>
      match locate s0 s0.asker .ringRead v.b 8 8 none 0 with
      | .error c => .error (.trap c v.b)
      | .ok (s1, .mem pa _) =>
        match checkData s1 [(v.a, false), (v.b, false)] with
        | .error e => .error e
        | .ok _ =>
          match readAtIssue s1 .record v.a 64 64 with
          | .error .dropped => let r := drawWord s1; result r.1 rd r.2
          | .error e => .error e
          | .ok (s2, x) => gateAt rd pa v.c (wordsOf x 8) s2
      | .ok (_, _) => .error (.trap .path v.b)

def execTgate (rd ra rb : Reg) (sw : Bool) (s : State) : Out :=
  issue (.tgate rd ra rb sw) sw { a := some ra, b := some rb, c := some rd, d := [rd] } (tgateAt rd) s

/-! ## TSPAWN (R119, R395) -/

/-- The row count of a tile record (R106). -/
def rowCount (r : List Word) : Nat := bitsOf (wordAt r 2) 0 32

/-- The clusters of a steal domain around a core, from the one that follows the last placement, cyclically (R119). -/
def placeScan (dom core last : Nat) : List Nat :=
  let base := if dom ≤ 1 then (core / 16, 1) else if dom = 2 then (core / 128 * 8, 8) else if dom = 3 then (core / 512 * 32, 32) else (0, 256)
  let cs := (List.range base.2).map (fun i => base.1 + i)
  cs.filter (fun c => c > last) ++ cs.filter (fun c => c ≤ last)

/-- The lowest slot of a cluster that takes a placed record (R119). -/
def placeIn (s : State) (dom core ctx prio cl : Nat) : Option Nat :=
  let slots := if dom = 0 then (List.range 4).map (fun i => 4 * core + i) else (List.range 64).map (fun i => 64 * cl + i)
  slots.find? (fun n => idleFor s n ctx prio)

def lastPlaceOf (s : State) (die : Nat) : Nat := (s.dieAt die).lastPlace.getD (die * 32 + 31)

/-- One tile record is placed, or joins the spawn queue. -/
def placeRecord (core ctx dom : Nat) (s : State) (r : List Word) : State :=
  let die := core / 512
  match (placeScan dom core (lastPlaceOf s die)).findSome? (placeIn s dom core ctx (recPrio r)) with
  | some n =>
    let s1 := s.updSlot n (fun x => { x with reserve := some (.tspawn r) })
    let s2 := s1.setDie die { s1.dieAt die with lastPlace := some (clusterOf n) }
    { s2 with inflight := s2.inflight ++ [{ core := coreOf n, record := r, slot := none, ctx := ctx }] }
  | none =>
    let d := s.dieAt die
    s.setDie die { d with spawnq := d.spawnq ++ [(r, dom, core, ctx)] }

/-- Reads n records, with their checks; one whose read was dropped counts as a record of no rows. -/
def readTiles (s : State) (a : Word) : Nat → Except Stop (State × List (List Word))
  | 0 => .ok (s, [])
  | n + 1 =>
    match readAtIssue s .record a 64 64 with
    | .error .dropped =>
      (match readTiles s (a + 64) n with
       | .error e => .error e
       | .ok (s1, rs) => .ok (s1, [] :: rs))
    | .error e => .error e
    | .ok (s1, v) =>
      match readTiles s1 (a + 64) n with
      | .error e => .error e
      | .ok (s2, rs) => .ok (s2, wordsOf v 8 :: rs)

/-- The checks on every record, before any is read. -/
def checkTiles (s : State) (a : Word) : Nat → Except Stop State
  | 0 => .ok s
  | n + 1 =>
    match locate s s.asker .record a 64 64 none 0 with
    | .error c => .error (.trap c a)
    | .ok (s1, _) => checkTiles s1 (a + 64) n

def tspawnAt (rd : Reg) (a count : Word) (s : State) : Eff :=
  if !released s then .error .stall
  else
    let n := min count.toNat 1024
    match checkTiles s a n with
    | .error e => .error e
    | .ok s1 =>
      match readTiles s1 a n with
      | .error e => .error e
      | .ok (s2, rs) =>
        let good := rs.filter (fun r => 1 ≤ rowCount r && rowCount r ≤ 32)
        let bad := (rs.filter (fun r => rowCount r > 32)).length
        if good.length ≠ 0 && (s2.dieAt s2.die).spawnq.length + good.length > 1024 then
          .error (.park s2 (.spawnRoom s2.die good.length))
        else
          let s3 := good.foldl (placeRecord s2.core s2.asker.ctx s2.t.stealdom.toNat) s2
          result s3 rd (BitVec.ofNat 64 (bad * 2 ^ 32 + good.length))

def execTspawn (rd ra rb : Reg) (sw : Bool) (s : State) : Out :=
  issue (.tspawn rd ra rb sw) sw (use2 rd ra rb) (fun v s => tspawnAt rd v.a v.b s) s

/-! ## STRAND and UNSTRAND (R120, R124, R385) -/

/-- Between a trap entry and its ERET, and in a follower, both are NOPs. -/
def strandNop (t : Task) : Bool := t.handlers ≠ 0 || t.leader.isSome

def strandAt (v : Word) (s : State) : Eff :=
  if strandNop s.t then .ok s
  else if s.t.popOf.isSome then .error (.trap .popmem 0)
  else if !released s then .error .stall
  else
    let count := min (max v.toNat 1) 16
    match releaseStrand s with
    | .error e => .error e
    | .ok s1 => if count = 1 then .ok (s1.setT { s1.t with member := 0 }) else .error (.park s1 (.strand count))

def execStrand (ra : Reg) (sw : Bool) (s : State) : Out :=
  issue (.strand ra sw) sw { a := some ra, control := true } (fun v s => strandAt v.a s) s

def execUnstrand (sw : Bool) (s : State) : Out :=
  issue (.unstrand sw) sw { control := true } (fun _ s => if strandNop s.t then .ok s else releaseStrand s) s

end Sys2Proof.Machine
end

