-- ==== Sys2Proof/Machine/Resid.lean ====
section
/-!
DEFINITION. Residual objects (spec/12_residual_population.md R222 to R234; spec/22 R373 to R375; spec/03_numbers.md R39, R56).
-/
namespace Sys2Proof.Machine

/-! ## Segments at their home (R224, R229 to R231) -/

/-- The weight exponent and the valid element count of an armed segment. -/
def segElsb (s : State) (seg : Nat) : Int := (BitVec.ofNat 16 (readNat s (seg + segScale) 2)).toInt
def segValid (s : State) (seg : Nat) : Nat := readNat s (seg + segScale + 4) 2

/-- A rod: 96-bit two's complement. -/
def rodAt (s : State) (seg e : Nat) : Int := (BitVec.ofNat 96 (readNat s (seg + 12 * e) 12)).toInt

/-- The formats of RSPOST fa and RSREAD fd (R29, R373). -/
def residFmtOk (code : Nat) : Bool := match fmtOr fmtFP32 code with | some f => f.isFloat && 8 ≤ f.width | none => false
def residFmt (code : Nat) : Fmt := (fmtOr fmtFP32 code).getD fmtFP32

/-- The deadline is set and passed. -/
def segLate (s : State) (seg : Nat) : Bool :=
  readNat s (seg + segDeadline) 8 ≠ 0 && readNat s (seg + segDeadline) 8 ≤ s.tstamp.toNat

/-- The integer that a term adds, and whether it was clipped (R229). -/
def termRod (x : Num) (elsb : Int) : Int × Bool :=
  let n := fxFrom x elsb
  if n.natAbs ≥ 2 ^ 88 then (if n < 0 then -((2 ^ 88 - 1 : Nat) : Int) else ((2 ^ 88 - 1 : Nat) : Int), true) else (n, false)

/-- One term of a post: the state after it and whether it was clipped. -/
def postTerm (seg : Nat) (elsb : Int) (fa : Fmt) (a : State × Bool) (p : Nat × Nat) : State × Bool :=
  let s := a.1
  let bit : Word := 1 <<< p.2
  match fa.value p.1 with
  | .fin n m e =>
    let r := termRod (.fin n m e) elsb
    let s1 := writeNat s (seg + 12 * p.2) 12 (intCode 96 (rodAt s seg p.2 + r.1))
    if r.2 then (writeWord s1 (seg + segClip) (readWord s1 (seg + segClip) ||| bit), true) else (s1, a.2)
  | _ => (writeWord s (seg + segPoison) (readWord s (seg + segPoison) ||| bit), a.2)

/-- RSPOST at the segment's home; the status (R229). -/
def postAt (s : State) (seg c : Nat) (fa : Fmt) (terms : List Nat) : State × Nat :=
  if !segArmed s seg || 48 ≤ c then (s, 3)
  else if readNat s (seg + segState) 8 % 2 = 1 || segLate s seg then
    (afterWrite (writeWord s (seg + segLates) (readWord s (seg + segLates) + 1)), 2)
  else if (readWord s (seg + segArrived)).getLsbD c then
    (afterWrite (writeWord s (seg + segDups) (readWord s (seg + segDups) + 1)), 1)
  else
    let r := ((terms.take (segValid s seg)).zipIdx).foldl (postTerm seg (segElsb s seg) fa) (s, false)
    let s1 := writeWord r.1 (seg + segArrived) (readWord r.1 (seg + segArrived) ||| (1 <<< c))
    (afterWrite s1, if r.2 then 4 else 0)

/-- What RSREAD and RSTRY find (R230): the status, none while they may park. -/
def readStatus (s : State) (seg : Nat) (need : Word) : Option Nat :=
  if !segArmed s seg then some 2 else if segReady s seg need then some 0 else if segClosed s seg then some 1 else none

/-- rd of RSREAD and RSTRY. -/
def readResult (s : State) (seg status : Nat) : Word :=
  BitVec.ofNat 64 (readNat s (seg + segArrived) 8 % 2 ^ 48 + status * 2 ^ 48)

/-- The elements read out, and their flags (R230). -/
def segElems (s : State) (seg : Nat) (fd : Fmt) : List (Nat × Flags) :=
  let poison := readWord s (seg + segPoison)
  let v := segValid s seg
  (List.range 64).map (fun e =>
    if poison.getLsbD e then (fd.nan, 0) else if v ≤ e then (0, 0) else fxTo (rodAt s seg e) (segElsb s seg) fd)

/-- Elements packed as memory holds them (R67). -/
def packElems (w : Nat) (xs : List Nat) : Nat := xs.foldr (fun x a => x % 2 ^ w + 2 ^ w * a) 0
def unpackElems (w n v : Nat) : List Nat := (List.range n).map (fun i => v / 2 ^ (w * i) % 2 ^ w)

/-- The word of RSSTAT and RSSEAL (R231). -/
def segStat (s : State) (seg : Nat) : Word :=
  if !segArmed s seg then 0
  else BitVec.ofNat 64 (readNat s (seg + segArrived) 8 % 2 ^ 48 + boolBit (readNat s (seg + segState) 8 % 2 = 1) 48 + boolBit true 49
    + boolBit (segLate s seg) 50 + boolBit (readNat s (seg + segPoison) 8 ≠ 0) 51 + boolBit (readNat s (seg + segClip) 8 ≠ 0) 52)

/-- Answers of RSREAD to another device (DESIGN CHOICE, log 20): rd's word, the flags from bit 64, the elements from bit 128. -/
def farRead (s : State) (seg status : Nat) (fd : Fmt) : BitVec 4096 :=
  let es := if status = 0 then segElems s seg fd else []
  BitVec.ofNat 4096 ((readResult s seg status).toNat + (flagsOf (es.map Prod.snd)).toNat * 2 ^ 64
    + packElems fd.width (es.map Prod.fst) * 2 ^ 128)

/-- The need mask and format that a remote RSREAD carries. -/
def farNeed (arg : Word) : Word := arg &&& 0xFFFFFFFFFFFF
def farFmt (arg : Word) : Nat := bitsOf arg 48 6

/-- Reads of other devices that wait on a segment and can end are answered. -/
def answerFarReads (s : State) : State :=
  let done (w : RemoteAcc × Nat) : Option (Nat × BitVec 4096) :=
    match w.1.op with
    | .resid 2 arg =>
      if owned s w.2 1024 then none
      else (readStatus s w.2 (farNeed arg)).map (fun st => (0, farRead s w.2 st (residFmt (farFmt arg))))
    | _ => none
  { s with farWaits := s.farWaits.filter (fun w => (done w).isNone), answered := s.answered ++ s.farWaits.filterMap done }

/-- Seals a segment (R231). -/
def sealAt (s : State) (seg : Nat) : State :=
  if segArmed s seg then answerFarReads (afterWrite (writeWord s (seg + segState) (readWord s (seg + segState) ||| 1))) else s

/-! ## Arming and freeing (R227) -/

/-- Reads parked on a segment end with a value, here and for other devices. -/
def wakeGone (s : State) (seg : Nat) (arrived : Nat) : State :=
  let v : Word := BitVec.ofNat 64 (arrived % 2 ^ 48 + 2 * 2 ^ 48)
  let s1 := mapSlots s (fun x =>
    match x.t.wait with
    | some (.segment g rd _ _ _) => if g = seg then { x with t := { x.t with wait := some (.segmentGone rd v), met := true } } else x
    | _ => x)
  let gone (w : RemoteAcc × Nat) : Bool := match w.1.op with | .resid 2 _ => w.2 = seg | _ => false
  { s1 with farWaits := s1.farWaits.filter (fun w => !gone w),
            answered := s1.answered ++ (s1.farWaits.filter gone).map (fun _ => (0, v.zeroExtend 4096)) }

def armSegment (deadline elsb : Word) (d : Nat) (s : State) (p : Nat × Nat) : State :=
  let seg := p.1
  let v := min 64 (d - 64 * p.2)
  let s1 := writeNat s seg 1024 0
  let s2 := writeWord s1 (seg + segDeadline) deadline
  let s3 := writeWord s2 (seg + segState) 2
  let s4 := writeWord s3 (seg + segScale) (BitVec.ofNat 64 (elsb.toNat % 65536 + v * 2 ^ 32))
  afterWrite (wakeGone { s4 with armed := listInsert s4.armed seg } seg 0)

def freeSegment (s : State) (seg : Nat) : State :=
  let s1 := writeWord s (seg + segState) 0
  afterWrite (wakeGone { s1 with armed := s1.armed.filter (fun b => b ≠ seg) } seg (readNat s1 (seg + segArrived) 8))

/-- The header obeys R223: D, E_lsb, deadline and S, as words. -/
def headerOk (h : List Word) : Bool :=
  let d := (h.getD 0 0).toNat
  1 ≤ d && d ≤ 2 ^ 20 && h.getD 1 0 = sextTo (h.getD 1 0) 16 && (h.getD 3 0).toNat = (d + 63) / 64

/-- The physical addresses of the segments, with the checks of R228 and r = 1 in generic memory (R226). -/
def segmentPlaces (who : Asker) (a : Word) : Nat → Nat → State → Except Cause (State × List (Nat × Nat))
  | 0, _, s => .ok (s, [])
  | n + 1, i, s =>
    match locate s who .residWrite (a + BitVec.ofNat 64 (1024 * (i + 1))) 1024 1024 none 0 with
    | .error c => .error c
    | .ok (s1, .mem pa fl) =>
      if kindOf pa = .hbm && !leafR fl then .error .prot
      else match segmentPlaces who a n (i + 1) s1 with
        | .error c => .error c
        | .ok (s2, ps) => .ok (s2, (pa, i) :: ps)
    | .ok (_, _) => .error .path

/-- The segments of an object whose header obeys R223; a refused header has none (R227). -/
def rsnewAt (who : Asker) (a : Word) (h : List Word) (s : State) : Except Cause (State × List (Nat × Nat)) :=
  if headerOk h then segmentPlaces who a (h.getD 3 0).toNat 0 s else .ok (s, [])

def rsnewApply (free : Bool) (h : List Word) (ps : List (Nat × Nat)) (s : State) : State :=
  if free then ps.foldl (fun s p => freeSegment s p.1) s
  else ps.foldl (armSegment (h.getD 2 0) (h.getD 1 0) (h.getD 0 0).toNat) s

/-- What the counter rises by (R227). -/
def rsnewRise (h : List Word) : Word := if headerOk h then 1 else 0x100000000

/-! ## The instructions -/

/-- The place of an operand, with its own TVAL. -/
def placeOf (k : Access) (a tval : Word) (size align : Nat) (s : State) : Except Stop (State × Place) :=
  match locate s s.asker k a size align none 0 with
  | .error c => .error (.trap c tval)
  | .ok r => .ok r

/-- The counter of RSNEW rises, here or on another device. -/
def bump (s : State) (p : Place) (rb v : Word) : Eff :=
  match p with
  | .mem pa _ => .ok (afterWrite (writeWord (noteRead s .lost pa 8) pa (readWord s pa + v)))
  | .remote d => sendRemote s d rb 8 0 (.cadd v) .none false
  | _ => .ok s

/-- The counter would lie in a segment that the instruction arms: its add, which follows, would be refused there (R225, R227; DEDUCED, log
100). -/
def counterArmed (free : Bool) (c : Place) (ps : List (Nat × Nat)) : Bool :=
  match c with
  | .mem pa _ => !free && ps.any (fun q => q.1 ≤ pa && pa < q.1 + 1024)
  | _ => false

/-- The number by which a request to another device remembers where the counter lies here. -/
def counterKey (c : Place) : BitVec 4096 := match c with | .mem pa _ => BitVec.ofNat 4096 (pa + 1) | _ => 0

def rsnewBody (v : Vals) (s : State) : Eff :=
  let a := v.a &&& ~~~1
  let free := v.a.getLsbD 0
  if !released s then .error .stall
  else match placeOf .residRead a v.a 32 1024 s with
    | .error e => .error e
    | .ok (s1, p) =>
      match placeOf .counterAdd v.b v.b 8 8 s1 with
      | .error e => .error e
      | .ok (s2, c) =>
        if (match c with | .mem pa _ => inArmed s2 pa 8 | _ => false) then .error (.trap .prot v.b)
        else match checkData s2 [(v.a, true), (v.b, true)] with
        | .error e => .error e
        | .ok _ =>
          let busy := match c with | .mem pa _ => requestBlocked s2 pa 8 | _ => false
          match p with
            | .mem pa _ =>
              if busy || requestBlocked s2 pa 32 then .error .stall
              else
                let h := readWords s2 pa 4
                match rsnewAt s2.asker a h s2 with
                | .error c => .error (.trap c v.a)
                | .ok (s3, ps) =>
                  if counterArmed free c ps then .error (.trap .prot v.b)
                  else if ps.any (fun q => blockedHere s3 q.1 1024) then .error .stall
                  else bump (rsnewApply free h ps (noteMine s3 pa 32)) c v.b (rsnewRise h)
            | .remote d =>
              match sendTo s2 d v.a 1024 0 (.resid 0 v.b) (counterKey c) .none false true with
              | .error e => .error e
              | .ok s3 => .ok (awaitAnswer s3)
            | _ => .error (.trap .path v.a)

def execRsnew (ra rb : Reg) (sw : Bool) (s : State) : Out :=
  issue (.rsnew ra rb sw) sw { a := some ra, b := some rb } rsnewBody s

/-- A request of the group to another device, whose answer is rd's word. -/
def residFar (s : State) (rd : Reg) (device : Nat) (a : Word) (size : Nat) (op : RemoteOp) (value : BitVec 4096) : Eff :=
  match claimDst s rd with
  | .error e => .error e
  | .ok (s1, dst, also) =>
    match checkData s1 also with
    | .error e => .error e
    | .ok _ =>
      match sendTo (reserveDst s1 dst) device a size 0 op value dst false false with
      | .error e => .error e
      | .ok s2 => .ok (if dst.waits then awaitAnswer s2 else s2)

/-- The term or destination block of rb: its physical address. -/
def blockPlace (b : Word) (n : Nat) (s : State) : Except Stop (State × Nat) :=
  match placeOf .terms b b n 64 s with
  | .error e => .error e
  | .ok (s1, .mem pa _) => .ok (s1, pa)
  | .ok (_, _) => .error (.trap .path b)

def rspostBody (rd : Reg) (fa : Nat) (v : Vals) (s : State) : Eff :=
  let f := residFmt fa
  let n := 8 * f.width
  match placeOf .residWrite (v.a &&& ~~~0x3F) v.a 1024 1024 s with
  | .error e => .error e
  | .ok (s1, p) =>
    match blockPlace v.b n s1 with
    | .error e => .error e
    | .ok (s2, b) =>
      match checkData s2 [(v.a, true), (v.b, false)] with
      | .error e => .error e
      | .ok _ =>
        if requestBlocked s2 b n then .error .stall
        else
          let raw := readNat s2 b n
          match p with
          | .mem seg _ =>
            if requestBlocked s2 seg 1024 then .error .stall
            else
              let r := postAt (noteRead (noteMine s2 b n) .lost seg 1024) seg (bitsOf v.a 0 6) f (unpackElems f.width 64 raw)
              result (answerFarReads r.1) rd (BitVec.ofNat 64 r.2)
          | .remote d => residFar (noteMine s2 b n) rd d v.a n (.resid 1 (BitVec.ofNat 64 f.code)) (BitVec.ofNat 4096 raw)
          | _ => .error (.trap .path v.a)

def execRspost (rd ra rb : Reg) (sw : Bool) (s : State) : Out :=
  issue (.rspost rd ra rb sw) sw { a := some ra, b := some rb, d := [rd], pfx := true, fmtOk := fun p => residFmtOk p.fa }
    (rspostBody rd s.t.fmt.fa) s

/-- RSREAD or RSTRY ends with a status (R230): the elements are stored, rd written, the flags raised. -/
def finishRead (rd : Reg) (seg status : Nat) (fd : Fmt) (block : Nat) (s : State) : Eff :=
  let v := readResult s seg status
  let s := noteMine s seg 1024
  if status = 0 then
    let es := segElems s seg fd
    let s1 := afterWrite (writeNat s block (8 * fd.width) (packElems fd.width (es.map Prod.fst)))
    result (raiseFlags s1 (flagsOf (es.map Prod.snd))) rd v
  else result s rd v

def rsreadBody (rd : Reg) (fd : Nat) (parks : Bool) (v : Vals) (s : State) : Eff :=
  let f := residFmt fd
  match placeOf .residRead v.a v.a 1024 1024 s with
  | .error e => .error e
  | .ok (s1, p) =>
    match blockPlace v.b (8 * f.width) s1 with
    | .error e => .error e
    | .ok (s2, b) =>
      match checkData s2 [(v.a, false), (v.b, true)] with
      | .error e => .error e
      | .ok _ =>
        match p with
        | .mem seg _ =>
          if requestBlocked s2 seg 1024 || requestBlocked s2 b (8 * f.width) then .error .stall
          else match readStatus s2 seg v.c with
            | some st => finishRead rd seg st f b s2
            | none => if parks then .error (.park s2 (.segment seg rd v.b v.c fd)) else finishRead rd seg 3 f b s2
        | .remote d =>
          let need := BitVec.ofNat 64 (bitsOf v.c 0 48 + f.code * 2 ^ 48)
          match claimDst s2 rd with
          | .error e => .error e
          | .ok (s3, dst, also) =>
            match checkData s3 also with
            | .error e => .error e
            | .ok _ =>
              match sendTo (reserveDst s3 dst) d v.a 1024 0 (.resid (if parks then 2 else 3) need)
                  (BitVec.ofNat 4096 (b + v.b.toNat * 2 ^ 64)) dst false true with
              | .error e => .error e
              | .ok s4 => if parks then .error (.park s4 .remoteWait) else .ok (awaitAnswer s4)
        | _ => .error (.trap .path v.a)

def readUse (rd ra rb : Reg) : Use :=
  { a := some ra, b := some rb, c := some rd, d := [rd], pfx := true, fmtOk := fun p => residFmtOk p.fd }

def execRsread (rd ra rb : Reg) (sw : Bool) (s : State) : Out :=
  issue (.rsread rd ra rb sw) sw (readUse rd ra rb) (rsreadBody rd s.t.fmt.fd true) s
def execRstry (rd ra rb : Reg) (sw : Bool) (s : State) : Out :=
  issue (.rstry rd ra rb sw) sw (readUse rd ra rb) (rsreadBody rd s.t.fmt.fd false) s

/-- RSSTAT and RSSEAL (R231). -/
def rsstatBody (rd : Reg) (seals : Bool) (v : Vals) (s : State) : Eff :=
  match placeOf (if seals then .residWrite else .residRead) v.a v.a 1024 1024 s with
  | .error e => .error e
  | .ok (s1, p) =>
    match checkData s1 [(v.a, seals)] with
    | .error e => .error e
    | .ok _ =>
      match p with
      | .mem seg _ =>
        if requestBlocked s1 seg 1024 then .error .stall
        else
          let s2 := if seals then sealAt (noteMine s1 seg 1024) seg else noteMine s1 seg 1024
          result s2 rd (segStat s2 seg)
      | .remote d => residFar s1 rd d v.a 1024 (.resid (if seals then 5 else 4) 0) 0
      | _ => .error (.trap .path v.a)

def execRsstat (rd ra : Reg) (sw : Bool) (s : State) : Out :=
  issue (.rsstat rd ra sw) sw (use1 rd ra) (rsstatBody rd false) s
def execRsseal (rd ra : Reg) (sw : Bool) (s : State) : Out :=
  issue (.rsseal rd ra sw) sw (use1 rd ra) (rsstatBody rd true) s

end Sys2Proof.Machine
end

