-- ==== Sys2Proof/Machine/Pop.lean ====
section
/-!
DEFINITION. Populations (spec/12_residual_population.md R235 to R246; spec/22 R365 to R368; event records, spec/18 R293): the five
instructions and the steps of the lead drover.
-/
namespace Sys2Proof.Machine

/-! ## The event ring (R293) -/

/-- Adds a record to a die's event ring, over the oldest. -/
def logEvent (s : State) (die kind utype unit : Nat) (info : Nat) : State :=
  let d := s.dieAt die
  let w1 : Word := BitVec.ofNat 64 (kind * 2 ^ 60 + utype * 2 ^ 56 + unit * 2 ^ 48 + info % 2 ^ 48)
  s.setDie die { d with events := d.events.set 0 (d.eventIdx.toNat % 256) (w1 ++ s.tstamp), eventIdx := d.eventIdx + 1 }

/-! ## The block (R236) -/

/-- The die beside a home: its drover leads the population (R235). -/
def dieOfHome (pa : Nat) : Nat := if kindOf pa = .sram then (pa - 2 ^ 46) / 2 ^ 25 else pa / 2 ^ 38

def popN (s : State) (blk : Nat) : Nat := readNat s blk 8
def popM (s : State) (blk : Nat) : Nat := readNat s (blk + 8) 8 % 2 ^ 25
def popGen (s : State) (blk : Nat) : Nat := readNat s (blk + 16) 4
def popSeed (s : State) (blk : Nat) : Word := readWord s (blk + 24)
def popStateBase (s : State) (blk : Nat) : Nat := readNat s (blk + 32) 8 % 2 ^ 17
def popStateSize (s : State) (blk : Nat) : Nat := readNat s (blk + 32) 8 / 2 ^ 32 % 2 ^ 14
def popDomain (s : State) (blk : Nat) : Nat := readNat s (blk + 40) 8
def popPhase (s : State) (blk : Nat) : Nat := readNat s (blk + 48) 8

/-- Words 0 to 5 obey R236; M and generation, which POPNEW will set, hold no bit outside their fields (DEDUCED, log 22). -/
def blockOk (s : State) (blk : Nat) : Bool :=
  let st := readWord s (blk + 32)
  readNat s (blk + 8) 8 < 2 ^ 25 && readNat s (blk + 16) 8 < 2 ^ 32 && 1 ≤ popN s blk && popN s blk ≤ 2 ^ 24 && st &&& ~~~0x3FFF0001FFFF = 0 && popStateBase s blk % 64 = 0
    && popStateSize s blk % 64 = 0 && popStateSize s blk ≤ 8192 && popStateBase s blk + 4 * popStateSize s blk ≤ 2 ^ 17
    && popDomain s blk ≤ 4

/-- The population entry of a block at its lead drover. -/
def popEntry (s : State) (blk : Nat) : Option Population := (s.dieAt (dieOfHome blk)).pops.find? (fun p => p.block = blk)

/-- The slots of a domain around a core, by ID (R73). -/
def domainSlots (dom core : Nat) : List Nat :=
  let r := if dom = 0 then (core, 1) else if dom = 1 then (core / 16 * 16, 16) else if dom = 2 then (core / 128 * 128, 128)
    else if dom = 3 then (core / 512 * 512, 512) else (0, 4096)
  (List.range (4 * r.2)).map (fun i => 4 * r.1 + i)

/-- A slot that a population may reserve or a clone may take (R237). -/
def popIdle (s : State) (n ctx : Nat) : Bool :=
  slotFree s n && (s.slotAt n).reserve.isNone && !strandWants s n && (s.slotAt n).saved.isNone && bindValid s n
    && bindCtx (bindOf s n) = ctx

/-- The block's checks (R365); the physical address. -/
def popPlace (k : Access) (a : Word) (s : State) : Except Stop (State × Nat) :=
  match placeOf k a a 256 256 s with
  | .error e => .error e
  | .ok (s1, .mem pa _) =>
    match checkData s1 [(a, k.writes)] with
    | .error e => .error e
    | .ok _ => if requestBlocked s1 pa 256 then .error .stall else .ok (noteRead s1 .lost pa 256, pa)
  | .ok (_, _) => .error (.trap .path a)

/-! ## POPNEW, POPJOIN, POPLEAVE, POPINFO -/

def popnewBody (rd : Reg) (v : Vals) (s : State) : Eff :=
  match popPlace .popWrite v.a s with
  | .error e => .error e
  | .ok (s1, blk) =>
    let die := dieOfHome blk
    let d := s1.dieAt die
    let want := v.b.toNat
    if popPhase s1 blk ≠ 0 || !blockOk s1 blk || want < popN s1 blk || want ≥ 2 ^ 25 || d.pops.length ≥ 16 then result s1 rd 0
    else
      let found := ((domainSlots (popDomain s1 blk) s1.core).filter (fun n => popIdle s1 n s1.asker.ctx)).take want
      if found.length < want then result s1 rd 0
      else
        let s2 := found.foldl (fun a n => a.updSlot n (fun x => { x with reserve := some (.pop blk) })) s1
        let p : Population := { block := blk, ctx := s1.asker.ctx, core := s1.core, members := [], arrived := [], clones := [], coming := [] }
        let s3 := s2.setDie die { s2.dieAt die with pops := (s2.dieAt die).pops ++ [p] }
        let s4 := writeWord (writeWord (writeWord s3 (blk + 8) 0) (blk + 16) 0) (blk + 48) 1
        result (afterWrite s4) rd 1

def execPopnew (rd ra rb : Reg) (sw : Bool) (s : State) : Out :=
  issue (.popnew rd ra rb sw) sw (use2 rd ra rb) (popnewBody rd) s

/-- LINEAGE (R69, R238, R243). -/
def lineageOf (gen parent own : Nat) : Word := BitVec.ofNat 64 (gen % 2 ^ 16 * 2 ^ 48 + parent % 2 ^ 24 * 2 ^ 24 + own % 2 ^ 24)

def popjoinBody (rd : Reg) (v : Vals) (s : State) : Eff :=
  match popPlace .popWrite v.a s with
  | .error e => .error e
  | .ok (s1, blk) =>
    let m := popM s1 blk
    if s1.t.popOf.isSome || s1.t.inStrand || s1.t.nested || popPhase s1 blk = 0 || m = 2 ^ 24 || (popEntry s1 blk).isNone then
      .error (.trap .popmem 0)
    else if popPhase s1 blk = 2 then .error (.park s1 (.popjoin blk))
    else
      let s2 := mapPops s1 (fun p => if p.block = blk then { p with members := p.members ++ [(m, s1.cur)] } else p)
      let s3 := s2.setT { s2.t with popOf := some (blk, m), lineage := lineageOf (popGen s1 blk) 0xFFFFFF m }
      result (afterWrite (writeWord s3 (blk + 8) (BitVec.ofNat 64 (m + 1)))) rd (BitVec.ofNat 64 m)

def execPopjoin (rd ra : Reg) (sw : Bool) (s : State) : Out :=
  issue (.popjoin rd ra sw) sw (use1 rd ra) (popjoinBody rd) s

/-- The slot is a member of the block, outside a nested run (R238, R365). -/
def isMember (t : Task) (blk : Nat) : Bool :=
  !t.nested && (match t.popOf with | some (b, _) => b = blk | none => false)

def popleaveBody (v : Vals) (s : State) : Eff :=
  match popPlace .popWrite v.a s with
  | .error e => .error e
  | .ok (s1, blk) => if !isMember s1.t blk then .error (.trap .popmem 0) else .ok (leavePopulation s1 s1.cur)

def execPopleave (ra : Reg) (sw : Bool) (s : State) : Out :=
  issue (.popleave ra sw) sw { a := some ra } popleaveBody s

def popinfoBody (rd : Reg) (v : Vals) (s : State) : Eff :=
  match popPlace .popRead v.a s with
  | .error e => .error e
  | .ok (s1, blk) =>
    if !isMember s1.t blk then .error (.trap .popmem 0)
    else result s1 rd (BitVec.ofNat 64 (popGen s1 blk * 2 ^ 32 + popM s1 blk))

def execPopinfo (rd ra : Reg) (sw : Bool) (s : State) : Out :=
  issue (.popinfo rd ra sw) sw (use1 rd ra) (popinfoBody rd) s

/-! ## RESAMPLE (R241 to R245) -/

/-- The arrival: a release and an acquire of system scope, then the park until the collective completes. The store or push that rd will make is
checked, and its place held, before the member arrives (R14, R214). -/
def resampleBody (rd : Reg) (v : Vals) (s : State) : Eff :=
  match popPlace .popWrite v.a s with
  | .error e => .error e
  | .ok (s1, blk) =>
    match s1.t.popOf with
    | none => .error (.trap .popmem 0)
    | some (b, i) =>
      if b ≠ blk || s1.t.nested then .error (.trap .popmem 0)
      else if !released s1 || readsPending s1 then .error .stall
      else match claimDst s1 rd with
        | .error e => .error e
        | .ok (s2, dst, also) =>
          match checkData s2 also with
          | .error e => .error e
          | .ok _ =>
            let s3 := mapPops s2 (fun p => if p.block = blk then { p with arrived := p.arrived ++ [(i, s2.cur)] } else p)
            .error (.park (markPend (reserveDst s3 dst) s3.cur dst) (.resample blk v.b.toNat rd dst))

def execResample (rd ra rb : Reg) (sw : Bool) (s : State) : Out :=
  issue (.resample rd ra rb sw) sw (use2 rd ra rb) (resampleBody rd) s

/-- The members that have arrived, by index, with slot and weight. -/
def insertMember (xs : List (Nat × Nat × Nat)) (x : Nat × Nat × Nat) : List (Nat × Nat × Nat) :=
  match xs with
  | [] => [x]
  | y :: rest => if x.1 < y.1 then x :: y :: rest else y :: insertMember rest x

def weightOf (s : State) (n : Nat) : Nat := match (s.slotAt n).t.wait with | some (.resample _ w _ _) => w | _ => 0

def arrivals (s : State) (p : Population) : List (Nat × Nat × Nat) :=
  p.arrived.foldl (fun a m => insertMember a (m.1, m.2, weightOf s m.2)) []

/-- Weights in force: all 1 when their sum is 0 (R241). -/
def uniform (xs : List (Nat × Nat × Nat)) : List (Nat × Nat × Nat) :=
  if (xs.map (fun m => m.2.2)).sum = 0 then xs.map (fun m => (m.1, m.2.1, 1)) else xs

def resampleU (seed : Word) (gen : Nat) : Nat := (mix64 (seed ^^^ (BitVec.ofNat 64 (gen + 1) * 0x9E6C63D0676A9A99))).toNat

/-- start of R241 at a cumulative weight. -/
def startAt (n u w c : Nat) : Nat := (c * n * 2 ^ 64 + u * w) / (w * 2 ^ 64)

/-- Copies of each member from a cumulative weight on: index, slot, start, copy count. -/
def copiesFrom (n u w : Nat) : Nat → List (Nat × Nat × Nat) → List (Nat × Nat × Nat × Nat)
  | _, [] => []
  | c, m :: rest =>
    let a := startAt n u w c
    (m.1, m.2.1, a, startAt n u w (c + m.2.2) - a) :: copiesFrom n u w (c + m.2.2) rest

/-- Every member that has not left has arrived (R241, R368). -/
def allArrived (p : Population) : Bool :=
  !p.members.isEmpty && p.coming.isEmpty && p.members.all (fun m => p.arrived.contains m)

/-- A member without a copy ends as RETIRE does (R242). A counter that fails its checks leaves an event record. -/
def endMember (s : State) (n : Nat) : State :=
  let s1 := withSlot s n (fun a =>
    match a.t.runs.headD { record := [], given := false, ibRead := 0 } with
    | run =>
      match (if run.given then counterAddr a.devid run.record else none) with
      | none => a
      | some c =>
        match locate a a.asker .counterAdd c 8 8 none 0 with
        | .ok (b, .mem pa _) =>
          if inArmed b pa 8 then logEvent b (dieOf n) 6 0 (clusterOf n % 32) (c.toNat % 2 ^ 48)
          else (request b { slot := n, seq := b.t.seq, pc := b.t.pc, addr := pa, size := 8, q := 0, op := .cadd 1, dst := .none,
                            popA := none, popB := none, popC := none, pfx := none, parts := 1 }).1
        | _ => logEvent a (dieOf n) 6 0 (clusterOf n % 32) (c.toNat % 2 ^ 48))
  idleTask (s1.updTaskOf n (fun t => { t with popOf := none })) n

/-- One member of the new generation leaves its RESAMPLE: rd is its copy number (R242, R243). A clone's push goes out once its own link has
room (R14). -/
def finishMember (blk gen : Nat) (s : State) (m : Nat × Nat × Nat × Nat) : State :=
  withSlot s m.1 (fun a =>
    let v : Word := BitVec.ofNat 64 m.2.2.2
    let b := a.setT { a.t with popOf := some (blk, m.2.2.1), lineage := lineageOf (gen + 1) m.2.1 m.2.2.1 }
    match a.t.wait with
    | some (.resample _ _ rd dst) =>
      if m.2.2.2 ≠ 0 && (linkOf rd).isSome then b.setT { b.t with wait := some (.segmentGone rd v), met := true }
      else
        let c := deliver (clearPend b m.1 dst) m.1 dst false 8 v.toNat
        if dst.waits && answersDue c m.1 then c.setT { c.t with wait := some .answer, met := false } else completeWait c
    | _ => completeWait b)

/-- The clusters of a resample's members and clones, those that end with no copy among them (R142, R244). -/
def resampleClusters (p : Population) : List Nat := ((p.arrived.map Prod.snd ++ p.coming.map Prod.fst).map clusterOf).eraseDups

/-- The resample completes: every participating cluster's read-only cache is emptied, the members go on and the block opens with the next
generation (R243, R244). -/
def finishResample (s : State) (blk : Nat) (p : Population) : State :=
  let gen := popGen s blk
  let s1 := p.coming.foldl (finishMember blk gen) ((resampleClusters p).foldl roEmpty s)
  let s2 := mapPops s1 (fun q =>
    if q.block = blk then { q with members := p.coming.map (fun m => (m.2.2.1, m.1)), arrived := [], coming := [], clones := [] } else q)
  let s3 := writeWord s2 (blk + 8) (BitVec.ofNat 64 (popN s blk))
  let s4 := writeNat s3 (blk + 16) 4 (gen + 1)
  afterWrite (writeWord s4 (blk + 48) 1)

def closeResample (s : State) (blk : Nat) : State :=
  match popEntry s blk with
  | some p => if p.clones.isEmpty && !p.coming.isEmpty then finishResample s blk p else s
  | none => s

/-- Phase 2 of a population whose members have all arrived (R241, R242). -/
def phase2 (s : State) (p : Population) : State :=
  let blk := p.block
  let ms := uniform (arrivals s p)
  let n := popN s blk
  let w := (ms.map (fun m => m.2.2)).sum
  let cs := copiesFrom n (resampleU (popSeed s blk) (popGen s blk)) w 0 ms
  let gone := cs.filter (fun c => c.2.2.2 = 0)
  let kept := cs.filter (fun c => c.2.2.2 ≠ 0)
  let clones := (kept.map (fun c => (List.range (c.2.2.2 - 1)).map (fun j => (c.2.1, c.1, j + 1, c.2.2.1 + j + 1)))).flatten
  let s1 := writeWord s (blk + 48) 2
  let s2 := mapPops s1 (fun q =>
    if q.block = blk then { q with clones := clones, coming := kept.map (fun c => (c.2.1, c.1, c.2.2.1, 0)) } else q)
  closeResample (gone.foldl (fun a c => endMember a c.2.1) s2) blk

def execResamplePhase2 (die idx : Nat) (s : State) : Out :=
  match (s.dieAt die).pops[idx]? with
  | some p => .next (if allArrived p then phase2 s p else s)
  | none => .next s

/-! ## Clones (R242) -/

/-- Preference between two slots for a clone of a parent: tree distance, then core, then slot. -/
def nearer (core a b : Nat) : Bool :=
  let da := treeDistance core (coreOf a)
  let db := treeDistance core (coreOf b)
  da < db || (da = db && a < b)

def nearest (core : Nat) (ns : List Nat) : Option Nat :=
  match ns with
  | [] => none
  | n :: rest => some (rest.foldl (fun m x => if nearer core x m then x else m) n)

/-- A slot that can take a clone runs nothing, and its cluster is in service (R294). A gang stop does not keep a clone from it: phase 2 completes
first (R245). -/
def clonable (s : State) (n : Nat) : Bool :=
  let x := s.slotAt n
  x.phase = .idle && x.saved.isNone && !x.halted && !x.saving && !(s.clusterAt (clusterOf n)).frozen
    && !(s.dieAt (dieOf n)).retired.getLsbD (clusterOf n % 32)

/-- A slot that the population reserved. -/
def reservedFree (s : State) (p : Population) (n : Nat) : Bool := (s.slotAt n).reserve = some (.pop p.block) && clonable s n

/-- An idle slot that may join the reserved ones (R242). -/
def joinable (s : State) (p : Population) (prio n : Nat) : Bool :=
  clonable s n && (s.slotAt n).reserve.isNone && !strandWants s n && bindAdmits s n prio && bindCtx (bindOf s n) = p.ctx

/-- The slot that the next clone takes. -/
def cloneSlot (s : State) (p : Population) (parent : Nat) : Option Nat :=
  let core := coreOf parent
  match nearest core ((slotIds s).filter (reservedFree s p)) with
  | some n => some n
  | none =>
    nearest core ((domainSlots (popDomain s p.block) p.core).filter (joinable s p (s.slotAt parent).t.prio.toNat))

/-- The window of a clone: the parent's current frame as a bottom frame at entry 0. -/
def cloneFrame (src : Task) (t : Task) : Task :=
  let n := src.frame.size
  let t1 := (List.range n).foldl (fun t i => setWin t i (getWin src (src.entry i))) (zeroWin t 0 8)
  { t1 with frames := [{ base := 0, size := n, ret := 0, kind := .bottom }] }

/-- A clone's task (R242): what it has from its parent, the rest as at a task start on its own slot. -/
def cloneTask (b : List Word) (src : Task) (now : Nat) : Task :=
  let t := cloneFrame src (freshTask b ((src.runs.headD { record := [], given := false, ibRead := 0 }).record) now)
  { t with pc := src.pc, globals := src.globals, tiles := src.tiles, fflags := src.fflags, prio := src.prio, stealdom := src.stealdom,
           ctxid := src.ctxid, eregs := src.eregs, runs := src.runs.take 1,
           wait := src.wait.map (fun w => match w with | .resample b k rd _ => .resample b k rd (dstOf t rd) | w => w), waitWord := src.waitWord }

/-- Places a clone, with its copy of the state region. -/
def placeClone (s : State) (p : Population) (c : Nat × Nat × Nat × Nat) (n : Nat) : State :=
  let size := popStateSize s p.block
  let base := popStateBase s p.block
  let src := (s.slotAt c.1).t
  let bytes := readBytes s (tcmAddr (coreOf c.1) (base + c.1 % 4 * size)) size
  let dst := tcmAddr (coreOf n) (base + n % 4 * size)
  let s0 := noteRead s .lost (tcmAddr (coreOf c.1) (base + c.1 % 4 * size)) size
  let s1 := writeBytes (healWords s0 dst size) dst bytes
  let s2 := s1.updSlot n (fun x =>
    { x with phase := .running, t := { cloneTask (bindOf s n) src s.tstamp.toNat with num := x.epoch + 1 }, reserve := some (.pop p.block), epoch := x.epoch + 1,
             searched := false, served := false, stopped := x.stopped || s.stopped.contains p.ctx })
  let s3 := mapPops s2 (fun q =>
    if q.block = p.block then { q with clones := q.clones.drop 1, coming := q.coming ++ [(n, c.2.1, c.2.2.2, c.2.2.1)] } else q)
  closeResample (afterWrite s3) p.block

/-- A clone may be placed now: a slot, with no engine owning either state region. -/
def cloneReady (s : State) (p : Population) : Option Nat :=
  match p.clones with
  | [] => none
  | c :: _ =>
    let size := popStateSize s p.block
    let base := popStateBase s p.block
    match cloneSlot s p c.1 with
    | none => none
    | some n =>
      if size ≠ 0 && (owned s (tcmAddr (coreOf c.1) (base + c.1 % 4 * size)) size || owned s (tcmAddr (coreOf n) (base + n % 4 * size)) size)
      then none else some n

def execClonePlacement (die idx : Nat) (s : State) : Out :=
  match (s.dieAt die).pops[idx]? with
  | some p =>
    match p.clones, cloneReady s p with
    | c :: _, some n => .next (placeClone s p c n)
    | _, _ => .next s
  | none => .next s

end Sys2Proof.Machine
end

