-- ==== Sys2Proof/Machine/Sched.lean ====
section
/-!
DEFINITION. Where idle slots find work (spec/06_execution.md R107 to R111, R119, R129; spec/15_traps_debug.md R253): the search, theft,
inbox delivery, the backstop ring, the spawn queue's dispatcher, quantum expiry, and the forming of a strand (R120).
-/
namespace Sys2Proof.Machine

/-! ## The search (R107) -/

/-- The slot admits a record; one that holds a saved task takes nothing of lower priority first (R129). -/
def slotAdmits (s : State) (n : Nat) (r : List Word) : Bool :=
  bindAdmits s n (recPrio r) && (match (s.slotAt n).saved with | some t => recPrio r ≤ t.prio.toNat | none => true)

/-- Sources 1 and 2, of the records that p admits. -/
def inboxOffer (s : State) (n : Nat) (p : List Word → Bool) : Option (List Word) := (ibHead s (coreOf n)).filter p
def dequeOffer (s : State) (n : Nat) (p : List Word → Bool) : Option (List Word) := (dqNewest s (coreOf n)).filter p

/-- Source 3: place in the queue list, queue number and head record of the queues of a bind record that offer one, in round-robin order. -/
def queueOffers (s : State) (n : Nat) (b : List Word) (p : List Word → Bool) : List (Nat × Nat × List Word) :=
  let qs := (bindQueues b).zipIdx
  let last := (s.slotAt n).lastQueue
  ((qs.filter (fun q => q.2 > last)) ++ (qs.filter (fun q => q.2 ≤ last))).filterMap (fun q =>
    if q.1 < 2 ^ 15 then none
    else match ((s.dieAt (dieOf n)).wqs.get .reset (q.1 % 2 ^ 14)).backlog with
      | r :: _ => if p r then some (q.2, q.1 % 2 ^ 14, r) else none
      | [] => none)

/-- The offer of the lowest prio value, the first among equals. -/
def bestOffer (xs : List (Nat × Nat × List Word)) : Option (Nat × Nat × List Word) :=
  xs.foldl (fun m x => match m with | some y => if recPrio x.2.2 < recPrio y.2.2 then some x else some y | none => some x) none

/-- A record that a source offers a slot, and the state once it is taken. -/
def takeInbox (s : State) (n : Nat) (r : List Word) : State :=
  let s1 := ibTake s n
  if (s1.slotAt n).reserve = some (.tspawn r) then s1
  else match (List.range 4).find? (fun i => (s1.slotAt (coreOf n * 4 + i)).reserve = some (.tspawn r)) with
    | some i => s1.updSlot (coreOf n * 4 + i) (fun x => { x with reserve := none })
    | none => s1

def takeQueue (s : State) (n : Nat) (o : Nat × Nat × List Word) : State :=
  let d := s.dieAt (dieOf n)
  let q := d.wqs.get .reset o.2.1
  (s.setDie (dieOf n) { d with wqs := d.wqs.set .reset o.2.1 { q with backlog := q.backlog.drop 1 } }).updSlot n
    (fun x => { x with lastQueue := o.1 })

/-- The first record that sources 1 to 3 offer under a bind record, with the state that has taken it; a reserved slot has source 1 only. -/
def offerUnder (s : State) (n : Nat) (b : List Word) (p : List Word → Bool) : Option (List Word × State) :=
  match inboxOffer s n p with
  | some r => some (r, takeInbox s n r)
  | none =>
    match (s.slotAt n).reserve with
    | some _ => none
    | none =>
      match dequeOffer s n p with
      | some r => some (r, dqPop s n)
      | none => (bestOffer (queueOffers s n b p)).map (fun o => (o.2.2, takeQueue s n o))

/-- What sources 1 to 3 offer an idle slot. -/
def firstOffer (s : State) (n : Nat) : Option (List Word × State) := offerUnder s n (bindOf s n) (slotAdmits s n)

/-- The slot may search: idle, and not reserved by a population or a strand request. -/
def maySearch (s : State) (n : Nat) : Bool :=
  slotIdle s n && !strandWants s n && (match (s.slotAt n).reserve with | some (.pop _) => false | _ => true)

/-- A record taken by a slot starts; an invalid one is discarded (R105), and one that the slot has stolen counts on the slot's own die (DESIGN
CHOICE, log 93). -/
def runTaken (s : State) (n : Nat) (r : List Word) : State :=
  if recordValid r then startTask s n r else countDiscard s (dieOf n)

/-- A saved task goes on (R129): its state comes back from the save area with the interrupts that have come since, and its withdrawn
accesses go to their homes again. -/
def resumeSaved (s : State) (n : Nat) : State :=
  match (s.slotAt n).saved with
  | none => s
  | some t =>
    let x : Slot := { s.slotAt n with phase := .running, t := t, saved := none, searched := false }
    let y := loadImage s x (sramAddr (dieOf n) (bindSave t.bind))
    let t1 : Task := { y.t with qstart := s.tstamp.toNat, ipend := y.t.ipend ||| t.ipend }
    withSlot (s.setSlot n { y with bkpta := x.bkpta, bkptctl := x.bkptctl, t := t1 }) n resendPulled

/-! ## Theft (R111) -/

/-- Every slot with a bind record of its own. -/
def boundSlots (s : State) : List Nat :=
  (s.dies.map (fun d => ((d.2.slotTab.map (fun e => e.1 / 8)).eraseDups).map (fun i => d.1 * 2048 + i))).flatten

/-- The cores that a thief tries: inside the domain that its STEALDOM names, other than its own, and bound to its context. -/
def robbed (s : State) (n : Nat) : List Nat :=
  (((boundSlots s).filter (fun m => bindBit (bindOf s m) && bindCtx (bindOf s m) = bindCtx (bindOf s n))).map coreOf).eraseDups.filter
    (fun core => core ≠ coreOf n && inDomain (s.slotAt n).t.stealdom.toNat (coreOf n) core)

/-- A candidate is not passed over: its deque has an oldest record, which the thief admits. -/
def victimOk (s : State) (n core : Nat) : Bool := match dqOldest s core with | some r => slotAdmits s n r | none => false

/-- The order of the candidates: tree distance, then round-robin after the core last tried. -/
def victimKey (s : State) (n core : Nat) : Nat :=
  treeDistance (coreOf n) core * 4096 + (4095 + core + (4096 - ((s.slotAt n).lastTried.getD (coreOf n)) % 4096)) % 4096

/-- The candidate of the lowest key, and of the highest. -/
def victimOf (s : State) (n : Nat) : Option Nat :=
  ((robbed s n).filter (victimOk s n)).foldl
    (fun m c => match m with | some d => if victimKey s n c < victimKey s n d then some c else some d | none => some c) none
def lastCandidate (s : State) (n : Nat) : Option Nat :=
  (robbed s n).foldl (fun m c => match m with | some d => if victimKey s n d < victimKey s n c then some c else some d | none => some c) none

/-- The slot steals: its sources offer nothing, and its STEALDOM is not its own core. -/
def maySteal (s : State) (n : Nat) : Bool :=
  maySearch s n && (s.slotAt n).reserve.isNone && (s.slotAt n).t.stealdom ≠ 0 && (firstOffer s n).isNone

/-- A theft request at a core's deque port. -/
def theftAt (s : State) (n core : Nat) : State :=
  match dqOldest s core with
  | none => s.updSlot n (fun x => { x with searched := true, lastTried := some core })
  | some r => runTaken ((dqSteal s core n).updSlot n (fun x => { x with lastTried := some core })) n r

/-- A theft in which every candidate was passed over: all have been tried, the last one last. -/
def theftFails (s : State) (n : Nat) : State :=
  let last := lastCandidate s n
  s.updSlot n (fun x => { x with searched := true, lastTried := last.or x.lastTried })

/-- The task saved on the slot may go on now: its partition is not stopped, and no record is to come for which the slot is reserved. -/
def mayResume (s : State) (n : Nat) : Bool :=
  (s.slotAt n).reserve.isNone && (match (s.slotAt n).saved with | some t => !s.stopped.contains t.ctxid.toNat | none => false)

def execDequeTheft (slot core : Nat) (s : State) : Out :=
  .next (if maySteal s slot && victimOf s slot = some core then theftAt s slot core else s)

/-- What a slot does that has found nothing to take: its saved task goes on (R129). -/
def foundNothing (s : State) (n : Nat) : State := if mayResume s n then resumeSaved s n else s

/-- One search of an idle slot: its first three sources, then theft, then the task saved on it. A saved task lets through only records of no
lower priority (slotAdmits). -/
def searchSlot (s : State) (n : Nat) : State :=
  if !maySearch s n then s
  else match firstOffer s n with
    | some (r, s1) => runTaken s1 n r
    | none =>
      if !maySteal s n || (s.slotAt n).searched then foundNothing s n
      else match victimOf s n with
        | some c => theftAt s n c
        | none => foundNothing (theftFails s n) n

def execTakeRecord (slot : Nat) (s : State) : Out := .next (searchSlot s slot)

/-- The search again, after a theft that found nothing. -/
def execIdleSearchRetry (slot : Nat) (s : State) : Out :=
  .next (if (s.slotAt slot).searched then searchSlot (s.updSlot slot (fun x => { x with searched := false })) slot else s)

/-! ## The inbox port (R109, R253) -/

/-- A record that the inbox refuses ends the reservation that was made for it. -/
def clearPlaced (s : State) (m : RecordMsg) : State :=
  if coreAdmits s m.core m.record then s
  else match (List.range 4).find? (fun i => (s.slotAt (4 * m.core + i)).reserve = some (.tspawn m.record)) with
    | some i => s.updSlot (4 * m.core + i) (fun x => { x with reserve := none })
    | none => s

/-- A record on its way to a core goes on: the fabric holds those of a stopped partition (R255, R411). -/
def recordMoves (s : State) (core : Nat) (m : RecordMsg) : Bool := m.core = core && !s.stopped.contains m.ctx

/-- The oldest record of which p holds leaves the fabric. -/
def takeInflight (p : RecordMsg → Bool) : List RecordMsg → Option (RecordMsg × List RecordMsg)
  | [] => none
  | m :: rest => if p m then some (m, rest) else (takeInflight p rest).map (fun x => (x.1, m :: x.2))

/-- A record that waits at the port enters the ring once there is room, after those of the backstop ring; one that still waits then finds the
inbox full (R252). -/
def portStep (s : State) (core : Nat) : State :=
  let k := s.coreAt core
  match k.port with
  | (_, m) :: rest => if ibFull k || !k.backstop.isEmpty then s else ibPush (s.setCore core { k with port := rest }) core m.record
  | [] => s

def execInboxDelivery (core : Nat) (s : State) : Out :=
  .next (match takeInflight (recordMoves s core) s.inflight with
    | some (m, rest) => ibArrive (clearPlaced { s with inflight := rest } m) m
    | none => portStep s core)

/-- The oldest record at the port has waited 1 µs. -/
def portOld (s : State) (k : Core) : Bool :=
  match k.port with
  | (t, _) :: _ => ibFull k && t + 1000 ≤ s.tstamp.toNat
  | [] => false

/-- A slot stops at its boundary: its waiting instruction is withdrawn, and it keeps no element read ahead (R215, R255). -/
def stopSlot (s : State) (n : Nat) : State :=
  (if (s.slotAt n).phase = .running then withSlot s n (fun a => dropAhead (withdrawWait a) n) else s).updSlot n (fun x => { x with stopped := true })

/-- Every context's slots stop (R255, R267). -/
def stopAll (s : State) : State := (slotIds s).foldl stopSlot s

/-- A fatal error (R267): every partition stops, and die 0's foreman writes the dump. Only the first one counts. -/
def raiseFatal (s : State) (cause die addr : Nat) : State :=
  if s.fatal.isSome then s else { stopAll s with fatal := some (cause, die, addr), fatalTime := s.tstamp }

def execBackstopWrite (core : Nat) (s : State) : Out :=
  let k := s.coreAt core
  .next (match k.port with
    | (_, m) :: rest =>
      if !portOld s k then s
      else if k.backstop.length ≥ 64 then raiseFatal s 3 (core / 512) 0
      else s.setCore core { k with port := rest, backstop := k.backstop ++ [m.record] }
    | [] => s)

def execBackstopRefill (core : Nat) (s : State) : Out :=
  let k := s.coreAt core
  .next (match k.backstop with
    | r :: rest => if ibFull k then s else ibPush (s.setCore core { k with backstop := rest }) core r
    | [] => s)

/-! ## The spawn queue's dispatcher (R119) -/

/-- The idle slot that a queued record can go to: the lowest one that its domain covers, and for which nothing has been delivered since it
became idle (DEDUCED, log 57). -/
def dispatchSlot (s : State) (q : List Word × Nat × Nat × Nat) : Option Nat :=
  (boundSlots s).find? (fun n =>
    inDomain q.2.1 q.2.2.1 (coreOf n) && idleFor s n q.2.2.2 (recPrio q.1) && !(s.slotAt n).served)

/-- The oldest record with such a slot, by its place in the queue. -/
def dispatchChoice (s : State) (die : Nat) : Option (Nat × Nat × List Word × Nat) :=
  (((s.dieAt die).spawnq).zipIdx).findSome? (fun q => (dispatchSlot s q.1).map (fun n => (q.2, n, q.1.1, q.1.2.2.2)))

def execSpawnQueueDispatch (die : Nat) (s : State) : Out :=
  .next (match dispatchChoice s die with
    | some (i, n, r, ctx) =>
      let d := s.dieAt die
      let s1 := (s.setDie die { d with spawnq := d.spawnq.eraseIdx i }).updSlot n (fun x => { x with served := true })
      { s1 with inflight := s1.inflight ++ [{ core := coreOf n, record := r, slot := none, ctx := ctx }] }
    | none => s)

/-! ## Quantum expiry (R117, R129, R410, R412) -/

/-- The slot stands at a boundary where its task can be saved: it waits for no answer and is in no resample's phase 2 (R226, R367). -/
def atBoundary (s : State) (t : Task) : Bool :=
  match t.wait with
  | some w => !w.sure && !phase2Wait s w
  | none => true

/-- The task's run has passed its quantum, or it asked by YIELD. -/
def quantumDue (s : State) (n : Nat) : Bool :=
  let x := s.slotAt n
  let q := bindQuantum x.t.bind
  x.phase = .running && !x.halted && !x.stopped && x.t.prio.toNat ≥ 4 && !s.stopped.contains x.t.ctxid.toNat
    && (x.t.yielded || (q ≠ 0 && x.t.qstart + q < s.tstamp.toNat)) && atBoundary s x.t

/-- The record for which the running task gives up its slot, with the state that has taken it: of those at the same or a higher priority, the
one that R107 would have the slot take. The bind record that the task started under counts (R126). -/
def waitingRecord (s : State) (n : Nat) : Option (List Word × State) :=
  let t := (s.slotAt n).t
  offerUnder s n t.bind (fun r => levelsAdmit t.bind (recPrio r) && recPrio r ≤ t.prio.toNat)

/-- The slot's lease and its request for one end (R412). -/
def endLease (s : State) (n : Nat) : State :=
  let c := s.clusterAt (clusterOf n)
  s.setCluster (clusterOf n)
    { c with lease := (match c.lease with | some l => if l.slot = n then none else some l | none => none),
             asks := c.asks.filter (fun q => q.1 ≠ n) }

/-- The save begins: the task stops with its blocking operations restartable. -/
def beginSave (s : State) : State :=
  let s1 := endLease (dropAhead (withdrawWait s) s.cur) s.cur
  let t := { s1.t with yielded := false, fetched := [] }
  { s1 with slot := { s1.slot with phase := .idle, saved := some t, saving := true, t := t.idle } }

/-- The check at a boundary: the task is saved, waits for its outstanding results first, or gets a new quantum. -/
def quantumCheck (s : State) : State :=
  let t := s.t
  let again := s.setT { t with yielded := false, qstart := s.tstamp.toNat }
  if t.prio.toNat < 4 || t.nested || t.inStrand || s.slot.saved.isSome then again
  else match waitingRecord s s.cur with
    | none => again
    | some (r, s1) =>
      if outstandingReads (pullQualified s) s.cur then s
      else
        let s2 := beginSave s1
        { s2 with slot := { s2.slot with chosen := some r } }

def execQuantumExpiry (slot : Nat) (s : State) : Out :=
  .next (if quantumDue s slot then withSlot s slot quantumCheck else s)

/-- The save is done: the slot runs the record for which the task was saved. A slot that has been stopped or halted keeps it until it goes
on. -/
def execQuantumSaveDone (slot : Nat) (s : State) : Out :=
  let x := s.slotAt slot
  .next (match x.saving, x.saved with
    | true, some t =>
      if slotHeld s slot then s
      else
        let y : Slot := { x with t := t }
        let s1 := afterWrite (saveImage s slot y (sramAddr (dieOf slot) (bindSave t.bind)))
        let s2 := s1.updSlot slot (fun x => { x with saving := false, saved := some { t with ipend := 0 }, chosen := none })
        (match x.chosen with
         | some r => runTaken s2 slot r
         | none => searchSlot s2 slot)
    | _, _ => s)

/-! ## Strands (R120, R385) -/

/-- A follower's task: the leader's globals and current frame, and the rest as at a task start. R120 does not list PRIO, and the follower takes
the leader's (DESIGN CHOICE, log 94). -/
def followerTask (b : List Word) (src : Task) (leader member now : Nat) : Task :=
  let t := cloneFrame src (freshTask b ((src.runs.headD { record := [], given := false, ibRead := 0 }).record) now)
  { t with pc := src.pc, globals := src.globals, status := src.status &&& 3, prio := src.prio, ctxid := src.ctxid,
           member := BitVec.ofNat 64 member, runs := [{ record := [], given := false, ibRead := 0 }], leader := some leader }

def startFollower (leader : Nat) (src : Task) (count : Nat) (s : State) (p : Nat × Nat) : State :=
  s.updSlot p.1 (fun x =>
    { x with phase := .running, epoch := x.epoch + 1, searched := false, served := false,
             t := { followerTask (bindOf s p.1) src leader ((count - 1) * 16 + p.2 + 1) s.tstamp.toNat with num := x.epoch + 1 } })

/-- The strand starts: the leader's STRAND completes, and its followers begin at the instruction after it. -/
def formStrand (s : State) (count : Nat) : State :=
  let fs := strandSlots s.cur count
  let s1 := completeWait s
  let s2 := (fs.zipIdx).foldl (startFollower s1.cur s1.t count) s1
  s2.setT { s2.t with followers := fs, member := BitVec.ofNat 64 ((count - 1) * 16), strandDepth := s2.t.depth }

/-- The request whose turn it is starts when it holds all of its slots: they are idle, and what strandWants keeps them from takes no record. -/
def strandStep (s : State) : State :=
  match s.t.wait with
  | some (.strand count) => if strandTurn s s.cur && (strandSlots s.cur count).all (strandIdle s s.cur) then formStrand s count else s
  | _ => s

def execStrandForm (slot : Nat) (s : State) : Out :=
  .next (if (s.slotAt slot).halted || (s.slotAt slot).stopped then s else withSlot s slot strandStep)

end Sys2Proof.Machine
end

