-- ==== Sys2Proof/Machine/Remote.lean ====
section
/-!
DEFINITION. Accesses that wait at homes, and traffic with other devices and the host (spec/07_memory.md R135, R144, R151 to R154;
spec/08_ordering.md R155; spec/06_execution.md R104; spec/20 R318; spec/16_fabric_host.md R271, R273): arrivals at a home, replies, the
replay queue, requests from other devices, host accesses.
-/
namespace Sys2Proof.Machine

/-! ## Accesses held at homes (R144, R155, R165) -/

/-- The sender of host accesses. -/
def hostSrc : Nat := 2 ^ 12

/-- The answer to a request: 0 performed, 1 retry-later, 2 refused, 3 refused because its bytes are armed, or because there is no such barrier
or no room for a map, 4 an uncorrectable error, for an engine. -/
def answer (s : State) (code : Nat) (v : BitVec 4096) : State := { s with answered := s.answered ++ [(code, v)] }

/-- The operation of a request from outside. -/
def farOp (acc : RemoteAcc) : Option HomeOp :=
  match acc.op with
  | .load => some (.load false)
  | .store => some (.store (acc.value.truncate 512))
  | .amo aop => some (.amo aop (acc.value.truncate 64))
  | .cas e => some (.cas e (acc.value.truncate 64))
  | .feget => some .feget
  | .feset => some .feset
  | .feclr => some .feclr
  | .cadd => some (.cadd (acc.value.truncate 64))
  | _ => none

/-- The operation returns what stood in memory. -/
def opReads : HomeOp → Bool
  | .load _ | .amo _ _ | .cas _ _ => true
  | _ => false

/-- An engine of another device meets an uncorrectable error in what it reads, or changes only in part (R290). -/
def farSpoiled (s : State) (acc : RemoteAcc) (h : Held) : Bool :=
  acc.eng.isSome && ((opReads h.op && spoiledIn s h.addr h.size) || (opWrites h.op && spoiledPart s h.addr h.size))

/-- What an outside read meets in its words (R289, R290). -/
def noteFar (s : State) (acc : RemoteAcc) (h : Held) : State :=
  if !opReads h.op then s
  else if acc.eng.isSome || acc.src = hostSrc then noteRead s .lost h.addr h.size
  else noteRead s (.slotData · acc.ctx (farSlot acc)) h.addr h.size

/-- An outside access is performed, and answered: an atomic of an engine sets its granule full, as all its writes do, and ends the engine's
ownership of what it has written (R143, R165). -/
def performFar (s : State) (acc : RemoteAcc) (h : Held) : State :=
  if farSpoiled s acc h then answer (noteFar s acc h) 4 0
  else
    let r := applyOp (noteFar s acc h) h.addr h.size h.q h.op
    let s1 := match h.op with | .amo _ _ => if h.q = 0 then r.1 else setFullRange r.1 h.addr h.size | _ => r.1
    let s2 := if opWrites h.op then releaseFar s1 h.owner h.addr h.size else s1
    if acc.src = hostSrc then (if opReads h.op then { s2 with hostRead := BitVec.ofNat 512 r.2 } else s2)
    else answer s2 0 (BitVec.ofNat 4096 r.2)

/-- A checked access whose bytes are armed takes its precise PROT, at the instruction, which still holds its popped words (R225, R226,
R250). -/
def checkedProt (s : State) (push : Option (Bool × Word)) (dst : Dst) (a : Word) : State :=
  match s.t.wait with
  | none => s
  | some w =>
    let s0 := match w with | .written d _ => unclaim (endWait s) s.cur d | _ => endWait s
    let s1 := unclaim s0 s.cur dst
    takeTrap (s1.setT (undoPush s1.t push)) .prot a

/-- A write that reaches an armed segment is refused at the home and writes nothing (R225). -/
def refuseHeld (s : State) (h : Held) : State :=
  match h.far with
  | some acc => if acc.src = hostSrc then s else answer s 3 0
  | none =>
    if h.checked then withSlot s h.slot (fun a => checkedProt a h.push h.dst h.va)
    else if h.dst = .none then s
    else { s with replies := s.replies ++ [replyOf s h 0] }

/-- The answer to a request whose checks fail. -/
def refusal (c : Cause) : Nat := if c = .xlat then 1 else 2

/-- The asker of a request: a region 3 address is walked through die 0's context table, since R135 names only the receiver (DESIGN CHOICE, log
95). -/
def farAsker (acc : RemoteAcc) : Asker := { core := 0, ctx := acc.ctx, user := acc.user }

/-- A request waits here for what it names. -/
def farWait (s : State) (acc : RemoteAcc) (pa : Nat) : State := { s with farWaits := s.farWaits ++ [(acc, pa)] }

/-- What an outside operation meets in words that it reads (R289, R290). -/
def noteOutside (s : State) (acc : RemoteAcc) (pa n : Nat) : State := noteRead s (.slotData · acc.ctx (farSlot acc)) pa n

/-- The segments of an RSNEW of another device, from the header at its place (R227); its page may forbid them (R228). -/
def farSegments (s : State) (acc : RemoteAcc) (pa : Nat) : Except Cause (State × List (Nat × Nat)) :=
  rsnewAt (farAsker acc) (acc.addr &&& ~~~1) (readWords s pa 4) s

/-- RSNEW of another device (R227). -/
def farNew (s : State) (acc : RemoteAcc) (pa : Nat) : State :=
  let h := readWords s pa 4
  match farSegments s acc pa with
  | .error c => answer s (refusal c) 0
  | .ok (s1, ps) => answer (rsnewApply (acc.addr.getLsbD 0) h ps (noteOutside s1 acc pa 32)) 0 ((rsnewRise h).zeroExtend 4096)

/-- A post, a read, the status or the seal of a segment here (R228, R373). -/
def farSegment (s : State) (acc : RemoteAcc) (fn : Nat) (arg : Word) (pa : Nat) : State :=
  match fn with
  | 1 =>
    let f := residFmt (bitsOf arg 0 6)
    let r := postAt s pa (bitsOf acc.addr 0 6) f (unpackElems f.width 64 acc.value.toNat)
    answer (answerFarReads r.1) 0 (BitVec.ofNat 4096 r.2)
  | 4 => answer s 0 ((segStat s pa).zeroExtend 4096)
  | 5 => let s2 := sealAt s pa; answer s2 0 ((segStat s2 pa).zeroExtend 4096)
  | _ =>
    match readStatus s pa (farNeed arg) with
    | some st => answer s 0 (farRead s pa st (residFmt (farFmt arg)))
    | none => if fn = 2 then farWait s acc pa else answer s 0 (farRead s pa 3 (residFmt (farFmt arg)))

/-- An operation of another device that is more than one access: a watch on a counter (R337), or one on a residual object. -/
def performOutside (s : State) (acc : RemoteAcc) (pa : Nat) : State :=
  match acc.op with
  | .cwait target =>
    let s1 := noteOutside s acc pa 8
    if target.toNat ≤ readNat s1 pa 8 then answer s1 0 0 else { s1 with farWatches := s1.farWatches ++ [(acc, pa)] }
  | .resid fn arg => if fn = 0 then farNew s acc pa else farSegment (noteOutside s acc pa 1024) acc fn arg pa
  | _ => s

def isNew (acc : RemoteAcc) : Bool := match acc.op with | .resid 0 _ => true | _ => false

/-- An RSNEW waits for the segments that its object names too (R24, R165). -/
def outsideWaits (s : State) (h : Held) (earlier : List Held) : Bool :=
  match h.far with
  | some acc =>
    isNew acc
      && (match farSegments s acc h.addr with
          | .ok (s1, ps) => ps.any (fun q => ownedFar s1 h.owner h.stamp q.1 1024 || (liveHeld s1 earlier).any (fun g => overlaps g.addr g.size q.1 1024))
          | .error _ => false)
  | none => false

/-- An access is performed at its home, and its reply leaves. -/
def performNow (s : State) (h : Held) : State :=
  if opWrites h.op && inArmed s h.addr h.size then refuseHeld s h
  else match h.far with
    | some acc => if h.op = .outside then performOutside s acc h.addr else performFar s acc h
    | none =>
      let r := applyOp (noteAccess s h.slot h.addr h.size h.op) h.addr h.size h.q h.op
      if h.dst = .none then r.1 else { r.1 with replies := r.1.replies ++ [replyOf r.1 h r.2] }

/-- The access waits, or would wait, for a full/empty bit. -/
def Held.qualified (h : Held) : Bool :=
  match h.op with
  | .load _ => h.q ≠ 0
  | .store _ => h.q = 2
  | _ => false

/-- Full/empty accesses that wait at a home, which holds 32 (R144); each granule of a TLD or TST is one of them (DESIGN CHOICE, log 105). -/
def waitersAt (s : State) (home : Nat) (hs : List Held) : Nat := (hs.filter (fun g => g.qualified && orderHome s g.addr = home)).length

/-- The place in the list of those that wait at its home, for a qualified access: past 32 it waits at its core. -/
def waitPlace (s : State) (idx : Nat) : Nat :=
  match s.held[idx]? with
  | some h => if h.qualified then waitersAt s (orderHome s h.addr) (s.held.take idx) else 0
  | none => 0

/-- The access is performed now: nothing that arrived before it holds it up. -/
def homeReady (s : State) (h : Held) (earlier : List Held) : Bool := heldReady s h && !behind s h earlier && !outsideWaits s h earlier

def tryHeld (s : State) (idx : Nat) : State :=
  match s.held[idx]? with
  | some h => if homeReady s h (s.held.take idx) then performNow { s with held := s.held.eraseIdx idx } h else s
  | none => s

/-! ## Barriers of other devices (R318) -/

/-- A completed child's arrival reaches its parent. -/
def parentArrival (s : State) (idx : Nat) : State :=
  match s.arrivals[idx]? with
  | none => s
  | some p =>
    let s1 := { s with arrivals := s.arrivals.eraseIdx idx }
    if p < 2 ^ 32 then arrive s1 p 1 0
    else
      let ctx := (s.barriers.findSome? (fun e => match e.2 with | some b => if b.parent = some p then some b.ctx else none | none => none)).getD 0
      tellFar s1 (p / 2 ^ 32 - 1) ctx 0x7D (p % 2 ^ 32) 0

def execBarrierParentArrival (idx : Nat) (s : State) : Out := .next (parentArrival s idx)

/-! ## Requests of other devices (R151) -/

/-- The kind of access of a request on memory, and its alignment. -/
def farKind (acc : RemoteAcc) : Access × Nat :=
  match acc.op with
  | .load => (.load, 1)
  | .store => (.store, 1)
  | .feget | .feset | .feclr => (.fe, 1)
  | .cadd => (.counterAdd, 8)
  | .cwait _ => (.counterRead, 8)
  | .resid fn _ => if fn = 0 then (.residRead, 1024) else (if fn = 1 || fn = 5 then .residWrite else .residRead, 1024)
  | .reduce _ _ _ _ _ => (.engineWrite, 1)
  | _ => (.store, acc.size)

/-- The moment from which ownership does not delay an engine's access: its command's own registration of the bytes, or the arrival (R165). -/
def farStamp (s : State) (acc : RemoteAcc) (pa n : Nat) : Nat :=
  match acc.eng with
  | none => s.nextCid
  | some c => ((s.own.find? (fun o => o.far = some (acc.src, c) && o.touches pa n)).map Own.cid).getD s.nextCid

/-- The access as its home holds it. -/
def farHeld (s : State) (acc : RemoteAcc) (pa size : Nat) (op : HomeOp) : Held :=
  { slot := farSlot acc, seq := 0, pc := 0, addr := pa, size := size, q := acc.q, op := op, dst := .none, popA := none, popB := none,
    popC := none, pfx := none, parts := 1, far := some acc, stamp := farStamp s acc pa size }

/-- An outside access arrives at its home: it is performed now, or waits there in arrival order (R155). -/
def arriveAt (s : State) (h : Held) : State :=
  if homeReady s h s.held then performNow s h else { s with held := s.held ++ [h] }

/-- A request on memory (R151): a home has no room for a 33rd full/empty access that must wait. A participant of a bit-axis command reports its
own failure (R220). -/
def farAccess (s : State) (acc : RemoteAcc) (op : HomeOp) : State :=
  match locate s (farAsker acc) (farKind acc).1 acc.addr acc.size (max 1 (farKind acc).2) none acc.q with
  | .error c => answer s (if acc.part then 16 + codeOfCause c else refusal c) 0
  | .ok (s1, .mem pa _) =>
    let h := farHeld s1 acc pa acc.size op
    if h.qualified && 32 ≤ waitersAt s1 (orderHome s1 pa) s1.held && !homeReady s1 h s1.held then answer s1 1 0 else arriveAt s1 h
  | .ok (s1, _) => answer s1 2 0

/-- A watch on a counter, or an operation on a residual object, takes its place among the accesses at its home (R24, R228, R337): of a segment
all of it, of an RSNEW the header, whose address carries the free bit. -/
def farOutside (s : State) (acc : RemoteAcc) (mask : Word) (size : Nat) : State :=
  match locate s (farAsker acc) (farKind acc).1 (acc.addr &&& ~~~mask) size (farKind acc).2 none 0 with
  | .error c => answer s (refusal c) 0
  | .ok (s1, .mem pa _) => arriveAt s1 (farHeld s1 acc pa size .outside)
  | .ok (s1, _) => answer s1 2 0

/-- A slot's full/empty accesses that wait here are withdrawn, each with its own answer (R144). -/
def farWithdraw (s : State) (acc : RemoteAcc) : State :=
  let gone (h : Held) : Bool := h.qualified && h.far.any (fun a => a.src = acc.src && a.slot = acc.slot && a.eng.isNone)
  { s with held := s.held.filter (fun h => !gone h), answered := s.answered ++ (s.held.filter gone).map (fun _ => (1, 0)) }

/-- A CPYR chunk goes to its home (R206). -/
def farReduce (s : State) (acc : RemoteAcc) (fmt slot serial chunk : Nat) (resent : Bool) : State :=
  match locate s (farAsker acc) .engineWrite acc.addr 8 1 none 0 with
  | .error c => answer s (refusal c) 0
  | .ok (s1, .mem pa _) =>
    if inArmed s1 pa acc.data.length then answer s1 3 0
    else if spoiledIn s1 pa acc.data.length then answer s1 4 0
    else
      let m : ChunkMsg := { cid := farStamp s1 acc pa acc.data.length, cluster := 256, chunk := chunk, home := homeOf pa, lo := pa, fmt := fmt,
                            key := (acc.src, slot, serial, chunk), resent := resent, bytes := acc.data,
                            far := acc.eng.map (fun c => (acc.src, c)), ctx := acc.ctx }
      { s1 with chunks := s1.chunks ++ [m] }
  | .ok (s1, _) => answer s1 2 0

/-- Children here of a barrier of another device flip with it (R318). -/
def flipKids (s : State) (p : Nat) : State :=
  let kids := (s.barriers.filter (fun e => match e.2 with | some c => c.parent = some p | none => false)).map Prod.fst
  kids.foldl (fun a k => match barAt a k with | some b => flipBar (flipFuel b) a k | none => a) s

/-- A barrier operation on a barrier of this device's system pool, and the flip of children whose parent is the sender's (R318 to R321). What
children send reaches a barrier that has no reference left (R320). -/
def farBarrier (s : State) (acc : RemoteAcc) (fn : Nat) (arg : Word) : State :=
  let h := bitsOf acc.addr 0 32
  if fn = 0x7F then answer (flipKids s (h + (acc.src + 1) * 2 ^ 32)) 0 0
  else if fn = 0x7E then
    (match barAt s h with
     | some b => answer (setBar s h { b with far := b.far.erase acc.src }) 0 0
     | none => answer s 0 0)
  else if fn = 0x7D then answer (arrive s h 1 0) 0 0
  else match barOwn s acc.ctx h with
    | none => answer s (if fn = 0x18 then 3 else 2) 0
    | some b =>
      match fn with
      | 0x13 => answer (setBar s h { b with far := b.far ++ [acc.src] }) 0 0
      | 0x14 => answer (arrive s h 1 0) 0 ((arrivalPhase b).zeroExtend 4096)
      | 0x15 => if b.phase ≠ bitsOf arg 0 32 then answer s 0 0 else farWait s acc h
      | 0x16 => answer (dropRef s h b) 0 0
      | 0x17 => if b.refs ≥ 65535 then answer s 2 0 else answer (addRef s h b) 0 0
      | 0x18 => answer (arrive s h 0 arg.toNat) 0 0
      | _ => answer s 2 0

/-- A ferryman's message (R255, R282, R288). -/
def farFerry (s : State) (acc : RemoteAcc) (kind die idx rank run : Nat) : State :=
  let peer := (acc.src, dieOf acc.slot, acc.slot % 2048)
  let s1 :=
    match kind with
    | 0 => addCredit s die { idx := idx, ctx := acc.ctx, peer := peer, rank := rank, run := run }
    | 1 => stageChunk s die idx rank run acc.ctx peer acc.data
    | 3 => peerParked s peer true
    | 4 => peerParked s peer false
    | _ => withdrawCredits s die idx rank run peer
  answer s1 0 0

/-- The command of another device's engine that sends a request. -/
def farCommand (acc : RemoteAcc) (cid : Nat) : Option (Nat × Nat) := some (acc.src, cid)

/-- Ownership that a command of another device registers here; what fails its checks registers nothing (R165). -/
def farOwn (s : State) (acc : RemoteAcc) (cid chunk : Nat) : State :=
  match locate s (farAsker acc) .engineWrite acc.addr 8 1 none 0 with
  | .ok (s1, .mem pa _) =>
    let d := drawCid s1
    answer { d.1 with own := d.1.own ++ [{ cid := d.2, chunk := chunk, lo := pa, hi := pa + acc.size, far := farCommand acc cid }] } 0 0
  | .ok (s1, _) => answer s1 0 0
  | .error _ => answer s 0 0

/-- Bytes that it gives up, or all that it owns here (R165, R166). -/
def farDisown (s : State) (acc : RemoteAcc) (cid : Nat) : State :=
  match locate s (farAsker acc) .engineWrite acc.addr 8 1 none 0 with
  | .ok (s1, .mem pa _) => answer (cutOwn s1 (fun o => o.far = farCommand acc cid) pa acc.size) 0 0
  | .ok (s1, _) => answer s1 0 0
  | .error _ => answer s 0 0
def farDisownAll (s : State) (acc : RemoteAcc) (cid : Nat) : State :=
  answer { s with own := s.own.filter (fun o => o.far ≠ farCommand acc cid) } 0 0

/-- A map of a slot of another device takes one of the 64 places of each of the first dies' engines, or none if some engine has no room; the
places that the task held before are given up (R217). -/
def farMapRoom (s : State) (acc : RemoteAcc) (dies : Nat) : State :=
  let own (o : BxOwner) : Bool := o.slot = farSlot { acc with eng := none } && o.epoch = acc.value.toNat
  let entry : BxOwner := { slot := farSlot { acc with eng := none }, epoch := acc.value.toNat,
                           map := { nbits := 0, roles := [], efmt := 0, group := [acc.src], base := 0 } }
  if (List.range dies).any (fun d => ((s.dieAt d).bxmaps.filter (fun o => !own o)).length ≥ 64) then answer s 3 0
  else
    answer ((List.range 8).foldl (fun a d =>
      a.setDie d { a.dieAt d with bxmaps := (a.dieAt d).bxmaps.filter (fun o => !own o) ++ (if d < dies then [entry] else []) }) s) 0 0

def receive (s : State) (acc : RemoteAcc) : State :=
  match acc.op with
  | .cwait _ => farOutside s acc 0 8
  | .barrier fn arg => farBarrier s acc fn arg
  | .resid fn _ => if fn = 0 then farOutside s acc 1 32 else farOutside s acc 0x3F 1024
  | .withdraw => farWithdraw s acc
  | .record core =>
    answer { s with inflight := s.inflight ++ [{ core := core % 4096, record := wordsOf acc.value.toNat 8, slot := none, ctx := acc.ctx }] } 0 0
  | .reduce fmt slot serial chunk resent => farReduce s acc fmt slot serial chunk resent
  | .ferry kind die idx rank run => farFerry s acc kind die idx rank run
  | .own cid chunk => farOwn s acc cid chunk
  | .disown cid _ => farDisown s acc cid
  | .disownAll cid => farDisownAll s acc cid
  | .mapRoom dies => farMapRoom s acc dies
  | _ => match farOp acc with | some op => farAccess s acc op | none => s

def execRemoteReceive (acc : RemoteAcc) (s : State) : Out := .next (receive s acc)

/-- Numbers past the held accesses stand for reads of other devices that wait at a segment, once no command owns it. -/
def execAccessAtHome (idx : Nat) (s : State) : Out := .next (if idx < s.held.length then tryHeld s idx else answerFarReads s)

def execFeReissue (idx : Nat) (s : State) : Out := .next (if 32 ≤ waitPlace s idx then tryHeld s idx else s)

/-! ## Drops (R153, R154) -/

/-- PEERTAB entry n (R73). -/
def peerEntry (k : Core) (n : Nat) : Nat := bitsOf (k.peertab[n / 4]!) (16 * (n % 4)) 16

/-- The PEERFAIL bit of a device on a core. -/
def peerBit (k : Core) (device : Nat) : Nat :=
  ((List.range 63).find? (fun n => peerEntry k n / 2 ^ 15 = 1 && peerEntry k n % 2 ^ 12 = device)).getD 63

def setPeerFail (s : State) (slot device : Nat) : State :=
  s.updTaskOf slot (fun t => { t with peerfail := t.peerfail ||| (1 <<< peerBit (s.coreAt (coreOf slot)) device) })

/-- A command of the number is still in some queue, or in an image. -/
def cidLive (s : State) (cid : Nat) : Bool :=
  s.images.any (fun i => i.loomq.any (fun q => q.2.cid = cid) || i.copyq.any (fun q => q.2.cid = cid)) ||
  s.clusters.any (fun c => c.2.loomq.any (fun q => q.cid = cid) || c.2.copyq.any (fun q => q.cid = cid))
    || s.dies.any (fun d => d.2.bxq.any (fun q => q.cid = cid) || d.2.ferry.any (fun f => f.cid = cid))

/-- The outcome of an engine's request: a registration or release of ownership and an error record have none that the command waits for
(tags 6 and 8), nor has a ferryman's message that was taken (tag 7). -/
def engOutcome (s : State) (r : Remote) (cid : Nat) (value : Option (BitVec 4096)) (code : Nat) : State :=
  if r.tag = 6 || r.tag = 8 || (r.tag = 7 && value.isSome) || (r.tag ≠ 7 && !cidLive s cid) then s
  else { s with engData := s.engData ++ [{ cid := cid, tag := r.tag, addr := r.acc.addr, value := value, code := code }] }

/-- The end of a parked instruction that a reply completes: its result, or a trap that comes of it. -/
def endParked (s : State) (e : Eff) : State :=
  match e with
  | .ok s1 => completeWait s1
  | .error (.trap c v) => takeTrap (endWait s) c v
  | .error _ => endWait s

/-- The value of a request reaches its destination. -/
def remoteResult (s : State) (r : Remote) (v : Nat) : State :=
  if r.dst = .none then s else deliver (clearPend s r.slot r.dst) r.slot r.dst r.sign r.acc.size v

/-- A link that a code names has no room for a word more (R14). -/
def linkFull (s : State) (r : Reg) : Bool := match linkOf r with | some d => decide (8 ≤ linkFill s s.core d) | none => false

/-- A parked instruction ends with a word for a destination that it has claimed, once its own accesses have been performed (R214). -/
def endWritten (s : State) (d : Dst) (v : Word) : State :=
  if answersDue s s.cur then s.setT { s.t with wait := some (.written d v), met := false }
  else
    let s1 := deliver (clearPend s s.cur d) s.cur d false 8 v.toNat
    if d.waits && answersDue s1 s1.cur then s1.setT { s1.t with wait := some .answer, met := false } else completeWait s1

/-- An access by which a parked instruction ends; its slot waits until it has been performed (R226). -/
def ownAccess (s : State) (pa size : Nat) (va : Word) (op : HomeOp) : Held :=
  { slot := s.cur, seq := s.t.seq, pc := s.t.pc, addr := pa, size := size, q := 0, op := op, dst := .none, popA := none, popB := none,
    popC := none, pfx := none, parts := 1, va := va, checked := true, stamp := s.nextCid }

/-- RSREAD or RSTRY of another device ends (R230): its elements, flags and word come with the reply. The elements are stored at their home, in
arrival order, and the word follows them (R24, R373). -/
def farReadEnd (s : State) (r : Remote) (arg : Word) (v : BitVec 4096) : State :=
  let pa := r.acc.value.toNat % 2 ^ 64
  let va : Word := (r.acc.value >>> 64).truncate 64
  let f := residFmt (farFmt arg)
  let word : Word := v.truncate 64
  if bitsOf word 48 8 ≠ 0 then endWritten s r.dst word
  else
    let put (s : State) (i : Nat) : State :=
      (request s (ownAccess s (pa + 64 * i) 64 (va + BitVec.ofNat 64 (64 * i)) (.store ((v >>> (128 + 512 * i)).truncate 512)))).1
    endWritten (raiseFlags ((List.range (f.width / 8)).foldl put s) ((v >>> 64).truncate 5)) r.dst word

/-- The counter of a remote RSNEW rises, here or on another device; the instruction is not tried again (R227). -/
def farNewEnd (s : State) (r : Remote) (rb v : Word) : State :=
  if r.acc.value = 0 then
    { s with remote := s.remote ++ [remoteOf s (bitsOf rb 48 12) rb 8 0 .cadd (v.zeroExtend 4096) .none false true] }
  else (request s (ownAccess s (r.acc.value.toNat - 1) 8 rb (.cadd v))).1

/-- The read of a remote JOIN's counter is back (R115). -/
def farJoinEnd (s : State) (a target v : Word) : State :=
  if target ≤ v then completeWait s
  else
    let pc := s.t.pc
    let s0 := endWait s
    let park (b : State) : Eff :=
      match sendTo b (bitsOf a 48 12) a 8 0 (.cwait target) 0 .none false true with
      | .error e => .error e
      | .ok c => .error (.park c .remoteWait)
    match joinRest pc park s0 with
    | .ok s1 => complete s.t.waitWord (s.t.waitWord.getLsbD 0) {} s s1
    | .error (.park s1 w) => parkOn (s1.setT { s1.t with waitWord := s.t.waitWord }) w
    | .error (.trap c x) => takeTrap s0 c x
    | .error _ => s0

/-- The home of a parent has recorded the link: the child takes the parent, unless it is gone or linked by now (R319, R320). -/
def linkEnd (s : State) (h parent ctx : Nat) : State :=
  match barAt s h with
  | some b =>
    if b.refs = 0 || b.parent.isSome then unlinkBar s ctx (some parent) else completeBar (setBar s h { b with parent := some parent }) h
  | none => unlinkBar s ctx (some parent)

/-- What the reply to a request that holds its slot does, once the request is gone from the list: the request was performed (some
value), or dropped. -/
def holdOutcome (s : State) (r : Remote) (value : Option (BitVec 4096)) : State :=
  match r.acc.op with
  | .load =>
    (match s.t.wait with
     | some (.joinProbe a target) =>
       (match value with
        | some v => farJoinEnd s a target (v.truncate 64)
        | none => completeWait s)
     | _ => s.setT { s.t with fetched := s.t.fetched ++ [(r.acc.addr, value.map (fun v => v.truncate 512))] })
  | .cwait _ => if s.t.wait = some .remoteWait then completeWait s else s
  | .barrier fn arg =>
    if fn = 0x15 then (if s.t.wait = some .remoteWait then completeWait s else s)
    else if fn = 0x13 && value.isSome then linkEnd s (bitsOf arg 0 32) (bitsOf r.acc.addr 0 32 + (r.device + 1) * 2 ^ 32) r.acc.ctx
    else s
  | .resid fn arg =>
    if fn = 0 then (match value with | some v => farNewEnd s r arg (v.truncate 64) | none => s)
    else if fn = 2 || fn = 3 then farReadEnd s r arg (value.getD (BitVec.ofNat 4096 (4 * 2 ^ 48)))
    else remoteResult s r ((value.getD 0).toNat)
  | _ => remoteResult s r ((value.getD 0).toNat)

/-- The error code of an engine's request that is not performed (R76): a participant's own failure (R220), the bytes are armed, they are in error,
or the request was dropped. -/
def engCode (code : Nat) : Nat := if 16 ≤ code then code - 16 else if code = 3 then 4 else if code = 4 then 10 else 5

/-- A request was dropped, which its slot sees in PEERFAIL (R154): it was neither performed nor refused at its home for an error of the engine's
or the armed bytes' own, and its value is still wanted. -/
def isDrop (r : Remote) (code : Nat) : Bool :=
  code ≠ 0 && code < 16 && r.slot < noSlot && !(r.ahead && r.dst = .none) && !(code = 3 && (r.hold || r.eng.isSome)) && !(code = 4 && r.eng.isSome)

/-- A request that is performed, or dropped, ends. -/
def endRequest (s : State) (r : Remote) (code : Nat) (value : BitVec 4096) : State :=
  let ok : Option (BitVec 4096) := if code = 0 then some value else none
  let s1 := if isDrop r code then setPeerFail s r.slot r.device else s
  match r.eng with
  | some cid => engOutcome s1 r cid ok (engCode code)
  | none =>
    if r.slot ≥ noSlot then s1
    else if r.hold && code = 3 then withSlot s1 r.slot (fun a => checkedProt a r.push r.dst r.acc.addr)
    else if r.hold then withSlot s1 r.slot (fun a => holdOutcome a r ok)
    else
      match r.acc.op, code with
      | .resid 1 _, 0 => remoteResult s1 r value.toNat
      | .resid 1 _, _ => remoteResult s1 r 5
      | _, 0 => remoteResult s1 r value.toNat
      | _, _ => remoteResult s1 r 0

/-! ## The replay queue (R152, R153) -/

/-- Two requests share a queue: of one core or engine, to one device. -/
def sameQueue (a b : Remote) : Bool := a.unit = b.unit && a.device = b.device

/-- The home that a path 4 address names on its device, as far as the address shows it: a core, a bank, or 1 KiB of region 3. -/
def farHome (a : Word) : Nat × Nat :=
  match tokOf a with
  | some .tcm4 => (0, bitsOf a 33 12)
  | some .pad4 => (1, bitsOf a 37 8 * 128 + bitsOf a 5 7)
  | some .sram4 => (2, bitsOf a 42 3 * 64 + bitsOf a 8 6)
  | _ => (3, bitsOf a 10 38)

/-- A request on memory or on a residual object. -/
def Remote.onMemory (r : Remote) : Bool :=
  match r.acc.op with
  | .record _ | .barrier _ _ | .ferry _ _ _ _ _ | .own _ _ | .disown _ _ | .disownAll _ | .withdraw | .mapRoom _ | .reduce _ _ _ _ _ => false
  | _ => true

/-- An earlier request of the same slot to the same home, whose answer comes first (R22, R155); 1 KiB of die SRAM may be an armed segment,
which has one home (R225). -/
def sameHome (q r : Remote) : Bool :=
  q.slot = r.slot && q.device = r.device && q.eng.isNone && r.eng.isNone && q.onMemory && r.onMemory
    && (farHome q.acc.addr = farHome r.acc.addr || q.acc.addr.toNat / 1024 = r.acc.addr.toNat / 1024)

/-- A reply to the request can come now: no earlier one of its queue replays, and none of its slot to the same home is outstanding. -/
def mayReply (s : State) (idx : Nat) (r : Remote) : Bool :=
  !(s.remote.take idx).any (fun q => (q.replays && sameQueue q r) || sameHome q r)

/-- The requests that follow one which will replay wait behind it, those already on their way too (DEDUCED, log 82). -/
def queueBehind (r : Remote) (rest : List Remote) : List Remote :=
  rest.map (fun q => if sameQueue q r && q.parked.isNone then { q with queued := true } else q)

/-- The first request of a queue goes out, when it has had no reply of its own. -/
def sendNext (r : Remote) : List Remote → List Remote
  | [] => []
  | q :: rest => if q.replays && sameQueue q r then { q with queued := false } :: rest else q :: sendNext r rest

/-- The answer that a withdrawn request was not performed: it is set aside until its handler has returned (R144); what an ended task asked for
goes nowhere. -/
def setAside (s : State) (r : Remote) (level : Nat) : State :=
  if r.ahead then s
  else s.updTaskOf r.slot (fun t => { t with pulledFar := t.pulledFar ++ [(level, { r with withdrawn := none, parked := none, queued := false })] })

/-- A reply to request idx. -/
def replyAt (s : State) (idx code : Nat) (value : BitVec 4096) : State :=
  match s.remote[idx]? with
  | none => s
  | some r =>
    if !mayReply s idx r then s
    else if code = 1 then
      if r.parked.isSome then s
      else if r.withdrawn.isSome then
        setAside { s with remote := s.remote.take idx ++ sendNext r (s.remote.drop (idx + 1)) } r (r.withdrawn.getD 0)
      else
        let now := s.tstamp.toNat
        { s with remote := s.remote.take idx ++ { r with parked := some (now, now + 1000, 1000), queued := false } :: queueBehind r (s.remote.drop (idx + 1)) }
    else
      let rest := s.remote.take idx ++ sendNext r (s.remote.drop (idx + 1))
      endRequest { s with remote := rest } r code value

/-- No earlier reply of the same home is on its way to the same core (R22). -/
def replyFirst (s : State) (i : Nat) (r : Reply) : Bool := !(s.replies.take i).any (fun q => coreOf q.slot = coreOf r.slot && q.home = r.home)

/-- Numbers past the requests to other devices name replies of homes here. -/
def execMemoryReply (idx code : Nat) (value : BitVec 4096) (s : State) : Out :=
  .next (if idx < s.remote.length then replyAt s idx code value
    else match s.replies[idx - s.remote.length]? with
      | some r =>
        if !replyFirst s (idx - s.remote.length) r then s
        else
          let s1 := { s with replies := s.replies.eraseIdx (idx - s.remote.length) }
          deliver (clearPend s1 r.slot r.dst) r.slot r.dst r.sign r.size r.value.toNat
      | none => s)

/-- What a gang switch has held of a context is on its way again and has not all arrived (R206, R258, DEDUCED, log 68). -/
def rejoining (s : State) (ctx : Nat) : Bool :=
  s.inflight.any (fun m => m.ctx = ctx) || s.ferryMsgs.any (fun m => m.ctx = ctx) || s.chunks.any (fun m => m.ctx = ctx && !m.outside)
    || s.deliveries.any (fun d => d.ctx = ctx)

/-- A CPYR chunk is sent again only when its partition's held messages have arrived (R258). -/
def resendWaits (s : State) (r : Remote) : Bool := match r.acc.op with | .reduce _ _ _ _ _ => rejoining s r.acc.ctx | _ => false

/-- The head of a queue waits for a retry that is due; a request has been there for 100 µs since its own first retry-later reply. -/
def retryDue (s : State) (core idx : Nat) (r : Remote) : Bool :=
  coreOf r.slot = core && mayReply s idx r && !s.stopped.contains r.acc.ctx && !resendWaits s r
    && (match r.parked with | some (_, next, _) => next ≤ s.tstamp.toNat | none => false)
def dropDue (s : State) (core _idx : Nat) (r : Remote) : Bool :=
  coreOf r.slot = core && !s.stopped.contains r.acc.ctx
    && (match r.parked with | some (first, _, _) => first + 100000 ≤ s.tstamp.toNat | none => false)

def firstDue (p : Nat → Remote → Bool) (s : State) : Option (Nat × Remote) :=
  ((s.remote.zipIdx).find? (fun x => p x.2 x.1)).map (fun x => (x.2, x.1))

/-- A request as it goes out again: a CPYR chunk says that it was sent before (R206). -/
def Remote.resent (r : Remote) : Remote :=
  match r.acc.op with
  | .reduce fmt slot serial chunk _ => { r with acc := { r.acc with op := .reduce fmt slot serial chunk true } }
  | _ => r

/-- A retry goes out, and the interval doubles, up to 64 µs. -/
def execReplayRetry (core : Nat) (s : State) : Out :=
  .next (match firstDue (retryDue s core) s with
    | some (i, r) =>
      (match r.parked with
       | some (first, next, gap) =>
         let g := min 64000 (2 * gap)
         { s with remote := s.remote.set i { r.resent with parked := some (first, next + g, g) } }
       | none => s)
    | none => s)

/-- The request is dropped, with those behind it in its queue. -/
def execReplayDrop (core : Nat) (s : State) : Out :=
  .next (match firstDue (dropDue s core) s with
    | some (i, r) =>
      let behind (q : Remote) : Bool := q.replays && sameQueue q r
      let later := s.remote.drop (i + 1)
      (r :: later.filter behind).foldl (fun a q => endRequest a q 2 0) { s with remote := s.remote.take i ++ later.filter (fun q => !behind q) }
    | none => s)

/-! ## Bind records that change (R126, R255, R256, R291, R411) -/

/-- A new bind record of the host lets a context that an error left stopped be resumed (R291). -/
def clearFailed (s : State) (off : Nat) (v : Word) : State :=
  if 0x100000 ≤ off ∧ off < 0x120000 ∧ off % 64 = 0 ∧ v.getLsbD 32 then { s with failed := s.failed.filter (fun c => c ≠ bitsOf v 0 16) } else s

/-- What a saved partition's task holds in its cluster is in the image, and free for others. -/
def vacateCluster (k : Cluster) (n ctx : Nat) : Cluster :=
  let q := k.loomq.filter (fun c => !(c.who.slot = n && c.who.ctx = ctx))
  let free (a : Acc) : Acc := if a.owner = some n then a.free else a
  { k with loomq := q, copyq := k.copyq.filter (fun c => !(c.who.slot = n && c.who.ctx = ctx)), asks := k.asks.filter (fun x => x.1 ≠ n),
           acc0 := free k.acc0, acc1 := free k.acc1, acc2 := free k.acc2, acc3 := free k.acc3, loomUsers := k.loomUsers.set .reset n .reset }

/-- A slot of a saved partition that is bound to another context becomes free for it. -/
def vacateSlot (s : State) (n : Nat) : State :=
  let x := s.slotAt n
  if x.stopped && bindCtx (bindOf s n) ≠ x.t.ctxid.toNat && x.t.pend.isEmpty && s.images.any (fun i => i.slots.any (fun p => p.1 = n)) then
    let s1 := s.setSlot n { x with phase := .idle, t := Task.reset, saved := none, saving := false, stopped := false, reserve := none, chosen := none }
    s1.setCluster (clusterOf n) (vacateCluster (s1.clusterAt (clusterOf n)) n x.t.ctxid.toNat)
  else s

def afterBind (s : State) (die off : Nat) : State :=
  if 0x100000 ≤ off ∧ off < 0x120000 then vacateSlot s (die * 2048 + (off - 0x100000) / 64) else s

/-! ## The host (R273, R299) -/

/-- An access of the host at a home, in arrival order (R155, R273). -/
def hostAt (s : State) (pa size : Nat) (write : Bool) (value : BitVec 512) : State :=
  let acc : RemoteAcc := { src := hostSrc, ctx := 0, user := false, addr := 0, q := 0, op := if write then .store else .load,
                           size := size, value := value.zeroExtend 4096 }
  arriveAt s (farHeld s acc pa size (if write then .store value else .load false))

/-- A write of the register window by the host. -/
def hostWrite (s : State) (die off : Nat) (v : Word) : State := clearFailed (afterBind (regWrite s die off v false) die off) off v

def hostReg (s : State) (off : Nat) (write : Bool) (size : Nat) (value : BitVec 512) : State :=
  if size ≠ 8 || off % 8 ≠ 0 || off ≥ 2 ^ 35 then s
  else if write then hostWrite s (off / 2 ^ 32) (off % 2 ^ 32) (value.truncate 64)
  else { s with hostRead := (regRead s (off / 2 ^ 32) (off % 2 ^ 32)).zeroExtend 512 }

/-- The window answers while no foreman runs: BOOTSTAT, and die 0's SRAM (R297, R299). -/
def answersNow (s : State) (space : HostSpace) (off : Nat) : Bool :=
  s.boot = .ready && s.fatal.isNone
    || (match space with
        | .reg => off = 0x10
        | .sram => off < 2 ^ 25
        | .host => true
        | .hbm => false)

def hostAccess (s : State) (space : HostSpace) (off : Nat) (write : Bool) (size : Nat) (value : BitVec 512) : State :=
  if !answersNow s space off then s
  else match space with
    | .reg => hostReg s off write size value
    | .hbm => if populated off then hostAt s off size write value else if write then s else { s with hostRead := 0 }
    | .sram => if off < 2 ^ 28 then hostAt s (sramAddr (off / 2 ^ 25) (off % 2 ^ 25)) size write value else s
    | .host => hostAt s (hostAddr (off % 2 ^ 48)) size write value

end Sys2Proof.Machine
end

