-- ==== Sys2Proof/Machine/Events.lean ====
section
/-!
DEFINITION. Interrupts, the timer, and waits that end (spec/15_traps_debug.md R252, R254, R261, R262; spec/06_execution.md R130;
spec/12_residual_population.md R232; spec/22 R367): what a slot does at a boundary, and what wakes a parked one.
-/
namespace Sys2Proof.Machine

/-! ## Interrupts (R252) -/

/-- The slot can take an interrupt at this boundary: its wait, if any, may be left and has not been met. An instruction that waits for the
answers to what it has sent ends first (R226), and so does a WFI (R409). -/
def interruptible (s : State) (n : Nat) : Bool :=
  let x := s.slotAt n
  x.phase = .running && !slotHeld s n && x.t.status.getLsbD 1
    && (match x.t.wait with | none => true | some .interrupt => false | some w => !w.sure && !phase2Wait s w && !x.t.met)

def causeEnabled (s : State) (n c : Nat) : Bool := interruptible s n && (s.slotAt n).t.iemask.getLsbD c && (pendingOf s n).getLsbD c

/-- A core's interrupt goes to its lowest-numbered slot that can take it. -/
def firstTaker (s : State) (n c : Nat) : Bool :=
  (List.range 4).find? (fun i => causeEnabled s (n / 4 * 4 + i) c) = some (n % 4)

/-- The cause that the slot takes, in the order 5, 2, 4, 3, 1. -/
def interruptCause (s : State) (n : Nat) : Option Nat :=
  [5, 2, 4, 3, 1].find? (fun c => causeEnabled s n c && ((c ≠ 3 && c ≠ 4) || firstTaker s n c))

/-- Taking a core's interrupt clears its bit. -/
def clearCore (s : State) (core c : Nat) : State :=
  let k := s.coreAt core
  if c = 3 then s.setCore core { k with ipend3 := false } else if c = 4 then s.setCore core { k with ipend4 := false } else s

def enterInterrupt (s : State) (n : Nat) : State :=
  match interruptCause s n with
  | some c => withSlot (clearCore s (coreOf n) c) n (fun a => takeInterrupt a c)
  | none => s

def execInterruptEntry (slot : Nat) (s : State) : Out := .next (enterInterrupt s slot)

/-- TSTAMP has reached TCMP: IPEND bit 1 reads so, and a slot that waits for an interrupt sees it. -/
def execTimerCompare (slot : Nat) (s : State) : Out :=
  .next (match (s.slotAt slot).t.wait with
    | some .interrupt => if waitHolds s slot .interrupt then s.updTaskOf slot (fun t => { t with met := true }) else s
    | _ => s)

/-! ## Waits that end (R130) -/

/-- The wake of a home comes after its earlier replies to the same core (R22). -/
def wakeBehind (s : State) (w : Wait) : Bool := match watchHome s w with | some h => replyWaits s s.core h | none => false

/-- An ENQ or DEQ that waited for the owner of its entry: the home performs it when the entry is free, before any other on its block (R180,
R340). It issued before, so the core's port stays as it is. -/
def ringAgain (s : State) : State :=
  let k := s.coreAt s.core
  let out := match decodeWord s.t.waitWord with
    | .ok (.enq rd ra rb sw) => execEnq rd ra rb sw s
    | .ok (.deq rd ra rb sw) => execDeq rd ra rb sw s
    | _ => .next s
  match out with
  | .next t => t.setCore s.core { t.coreAt s.core with last := k.last, lost := k.lost, stalls := k.stalls }
  | _ => s

/-- The parked instruction of the slot in force, whose wait is met: it completes, or is tried again. A BARWAIT that its flip has met completes
(R321). -/
def wakeStep (s : State) : State :=
  match s.t.wait with
  | none => s
  | some w =>
    if (!s.t.met && !waitHolds s s.cur w) || wakeBehind s w then s
    else match w with
      | .reply | .marker | .spawnRoom _ _ | .popjoin _ | .dequeRoom | .release | .stores => endWait s
      | .ring _ _ _ => ringAgain (endWait s)
      | .tile | .answer => if waitHolds s s.cur w then completeWait s else s.setT { s.t with met := false }
      | .written d v => endWritten s d v
      | .flipped => completeWait s
      | .barrier h ph =>
        (match barAt s h with
         | some b => if b.phase ≠ ph then completeWait s else endWait s
         | none => endWait s)
      | .segment seg rd block need fd =>
        let f := residFmt fd
        (match readStatus s seg need, blockPlace block (8 * f.width) s with
         | some st, .ok (s1, pa) => if owned s1 pa (8 * f.width) || linkFull s1 rd then s1 else endParked s1 (finishRead rd seg st f pa s1)
         | some _, .error (.trap c v) => takeTrap (endWait s) c v
         | some _, .error _ => endWait s
         | none, _ => s.setT { s.t with met := false })
      | .segmentGone rd v => if linkFull s rd then s else endParked s (result s rd v)
      | .counter _ _ | .join _ _ | .interrupt => completeWait s
      | .strand _ | .lease | .resample _ _ _ _ | .joinProbe _ _ | .remoteWait => s

/-- A parked slot may end its wait: it is not held, or what it waits for comes before its boundary (R226, R255). -/
def mayWake (s : State) (n : Nat) : Bool := !slotHeld s n || ((s.slotAt n).t.wait.map Wait.sure).getD false

def execWatchWake (slot : Nat) (s : State) : Out := .next (if mayWake s slot then withSlot s slot wakeStep else s)

/-- A waiter without a watch entry asks its home again. -/
def execWatchRepoll (slot : Nat) (s : State) : Out :=
  .next (if slotHeld s slot || !s.watches.any (fun w => w.slot = slot && !w.entry) then s else withSlot s slot wakeStep)

/-- Reads parked on a segment whose deadline has passed wake, of this device and of others. -/
def execResidualDeadline (slot : Nat) (s : State) : Out :=
  .next (answerFarReads (match (s.slotAt slot).t.wait with
    | some (.segment seg a b need f) =>
      if waitHolds s slot (.segment seg a b need f) then s.updTaskOf slot (fun t => { t with met := true }) else s
    | _ => s))

/-! ## Halts (R255, R261 to R263) -/

/-- A slot halts at its boundary (R261). -/
def haltSlot (s : State) (n : Nat) : State :=
  if (s.slotAt n).phase = .running then withSlot s n haltHere else s.updSlot n (fun x => { x with halted := true, haltReq := false })

/-- Withdrawn accesses of the program that runs, and of no handler's interrupted one. -/
def Task.resends (t : Task) : Bool := t.pulled.any (fun h => t.handlers ≤ h.level) || t.pulledFar.any (fun p => t.handlers ≤ p.1)

/-- A slot that goes on sends its withdrawn accesses to their homes again. -/
def goOn (s : State) (n : Nat) : State := if slotHeld s n || !(s.slotAt n).t.resends then s else withSlot s n resendPulled

/-- What withdrawWait would take back from a slot that is held: a wait, or accesses that wait for a full/empty bit. -/
def withdrawable (s : State) (n : Nat) : Bool :=
  let x := s.slotAt n
  let stays := match x.t.wait with | some w => w.sure || phase2Wait s w | none => false
  !stays && (x.t.wait.isSome || s.held.any (fun h => h.slot = n && h.q ≠ 0 && h.parts ≠ 0)
    || s.remote.any (fun r => r.slot = n && r.qualified && r.withdrawn.isNone))

/-- A halt that a register write or a single step asked for, a freeze of the slot's cluster, and what follows a release. -/
def needsSettling (s : State) (n : Nat) : Bool :=
  let x := s.slotAt n
  x.phase = .running
    && (x.haltReq || (slotHeld s n && withdrawable s n) || (!slotHeld s n && x.t.resends))

def settleSlot (s : State) (n : Nat) : State :=
  if (s.slotAt n).haltReq then haltSlot s n else if slotHeld s n then withSlot s n withdrawWait else goOn s n

def execDbgHaltRequest (slot : Nat) (s : State) : Out := .next (haltSlot s slot)
def execDbgResume (slot : Nat) (s : State) : Out := .next (goOn (s.updSlot slot dbgGo) slot)
def execDbgRaiseInterrupt (slot : Nat) (s : State) : Out := .next (s.updSlot slot dbgRaise)

/-- The slots of a cluster stop where they are, or go on. -/
def settleCluster (s : State) (cluster : Nat) : State :=
  (List.range 64).foldl (fun a i => if needsSettling a (64 * cluster + i) then settleSlot a (64 * cluster + i) else a) s

/-- The loom of a frozen cluster stands at a chunk boundary: what a chunk that is not applied has read is put back (R200, R262). -/
def settleLoom (s : State) (cluster : Nat) : State := (s.clusterAt cluster).loomq.foldl unbegin s

/-- A command of a frozen loom is inside a chunk. -/
def loomUnsettled (s : State) (k : Cluster) : Bool :=
  k.frozen && k.loomq.any (fun q => q.op ≠ .mdrain && s.engData.any (fun d => d.cid = q.cid))

/-- CLFREEZE (R262). -/
def execClfreezeWrite (cluster : Nat) (v : Word) (s : State) : Out :=
  let s1 := settleCluster (freezeCluster s cluster (v.getLsbD 0)) cluster
  .next (if v.getLsbD 0 then settleLoom s1 cluster else s1)

/-! ## Register writes (R272) -/

def execDoorbellWrite (core : Nat) (v : Word) (s : State) : Out := .next (doorbell s core v)

/-- A write of the foreman, who runs once the device is ready (R299). -/
def execRegisterWindowWrite (die off : Nat) (v : Word) (s : State) : Out :=
  .next (if s.boot = .ready && off % 8 = 0 then afterBind (regWrite s die off v true) die off else s)

end Sys2Proof.Machine
end

