-- ==== Sys2Proof/Machine/WorkQ.lean ====
section
/-!
DEFINITION. Work queues (spec/16_fabric_host.md R274 to R276; spec/06_execution.md R105, R128): the queue port's decision of a record,
its errors, and the kick.
-/
namespace Sys2Proof.Machine

def wqAt (s : State) (die q : Nat) : WorkQueue := (s.dieAt die).wqs.get .reset q
def setWq (s : State) (die q : Nat) (x : WorkQueue) : State :=
  s.setDie die { s.dieAt die with wqs := (s.dieAt die).wqs.set .reset q x }

def wqLogN (x : WorkQueue) : Nat := bitsOf x.cfg 0 5
def wqLogM (x : WorkQueue) : Nat := bitsOf x.cfg 8 8
def wqCtx (x : WorkQueue) : Nat := bitsOf x.cfg 32 16
def wqVector (x : WorkQueue) : Nat := bitsOf x.cfg 48 8
def wqIe (x : WorkQueue) : Bool := x.cfg.getLsbD 56

/-- Records that wait to be decided. -/
def wqWaiting (x : WorkQueue) : Nat := (x.prod - x.cons).toNat

/-- The port reads and writes in the queue's context (R274). -/
def wqAsker (die : Nat) (x : WorkQueue) : Asker := { core := die * 512, ctx := wqCtx x, user := false }

/-- The address of the record at cons, and of its outcome byte. -/
def wqRecord (x : WorkQueue) : Word := x.base + BitVec.ofNat 64 (64 * (x.cons.toNat % 2 ^ wqLogN x))
def wqByte (x : WorkQueue) : Word := x.outaddr + BitVec.ofNat 64 (x.cons.toNat % 2 ^ wqLogN x)

/-- A place on path 7, or on path 0 in the queue's context. -/
def wqPlace (s : State) (die : Nat) (x : WorkQueue) (k : Access) (a : Word) (size align : Nat) : Option (State × Nat) :=
  if tokOf a = some .generic || tokOf a = some .host then
    match locate s (wqAsker die x) k a size align none 0 with
    | .ok (s1, .mem pa _) => if k.writes && inArmed s1 pa size then none else some (s1, pa)
    | _ => none
  else none

/-- The vector goes to the host, where ie is set. -/
def wqInterrupt (s : State) (x : WorkQueue) : State := if wqIe x then { s with hostIrq := s.hostIrq ++ [wqVector x] } else s

/-- The queue halts with an error. -/
def wqFail (s : State) (die q code : Nat) : State :=
  let x := wqAt s die q
  wqInterrupt (setWq s die q { x with error := true, code := code, firstRead := none }) x

/-- Bind records of the die that name the queue at an admitting level. -/
def wqBinds (s : State) (die q prio : Nat) : List Nat :=
  ((((s.dieAt die).slotTab.map (fun e => e.1 / 8)).eraseDups).map (fun i => die * 2048 + i)).filter (fun n =>
    bindAdmits s n prio && (bindQueues (bindOf s n)).contains (2 ^ 15 + q))

/-- The outcome of a record (R105, R128, R276). -/
def wqOutcome (s : State) (die q : Nat) (r : List Word) : Nat :=
  if !recordValid r then 5
  else match wqBinds s die q (recPrio r) with
    | [] => 2
    | n :: _ =>
      if (wqAt s die q).backlog.length ≥ 2 ^ wqLogM (wqAt s die q) then 3
      else if recPrio r < 4 && bitsOf (wordAt (bindOf s n) 6) (16 * recPrio r) 16 = 0 then 4
      else 1

/-- The record is decided, its byte performed, and it is counted. -/
def wqCount (s : State) (die q outcome : Nat) (r : List Word) : State :=
  let x := wqAt s die q
  let y := { x with cons := x.cons + 1, firstRead := none }
  if outcome = 1 then setWq s die q { y with accepted := x.accepted + 1, backlog := x.backlog ++ [r] }
  else if outcome = 5 then setWq (countDiscard s die) die q y
  else wqInterrupt (setWq s die q { y with refused := x.refused + 1 }) x

/-- The lap bit that record cons must carry. -/
def wqLap (x : WorkQueue) : Bool := x.cons.toNat / 2 ^ wqLogN x % 2 = 1

/-- The record at cons as the port reads it: the state, its words, and whether an engine owns them; none when the read faults. -/
def wqRead (s : State) (die : Nat) (x : WorkQueue) : Option (State × List Word × Bool) :=
  (wqPlace s die x .record (wqRecord x) 64 64).map (fun r => (noteRead r.1 .lost r.2 64, readWords r.1 r.2 8, owned r.1 r.2 64))

/-- One step of the port. -/
def wqStep (s : State) (die q : Nat) : State :=
  let x := wqAt s die q
  if x.error || x.prod = x.cons then s
  else if wqWaiting x > 2 ^ wqLogN x then wqFail s die q 2
  else match wqRead s die x with
    | none => wqFail s die q 3
    | some (s1, ws, busy) =>
      if busy then s1
      else if (wordAt ws 0).getLsbD 63 ≠ wqLap x then
        (if x.firstRead.isSome then s1 else setWq s1 die q { x with firstRead := some s1.tstamp.toNat })
      else
        let r := (wordAt ws 0 &&& 0x7FFFFFFFFFFFFFFF) :: ws.drop 1
        let out := wqOutcome s1 die q r
        if x.outaddr = 0 then wqCount s1 die q out r
        else match wqPlace s1 die x .store (wqByte x) 1 1 with
          | none => wqFail s1 die q 3
          | some (s2, pa) => if owned s2 pa 1 then s2 else wqCount (afterWrite (writeNat s2 pa 1 out)) die q out r

def execWqDecide (die q : Nat) (s : State) : Out := .next (wqStep s die q)

/-- The lap bit has not matched within 2 µs of the first read. -/
def wqLate (s : State) (x : WorkQueue) : Bool := match x.firstRead with | some t => t + 2000 ≤ s.tstamp.toNat | none => false

def execWqLapTimeout (die q : Nat) (s : State) : Out :=
  let x := wqAt s die q
  .next (if x.error || x.prod = x.cons || !wqLate s x then s
    else match wqRead s die x with
      | some (_, ws, false) => if (wordAt ws 0).getLsbD 63 ≠ wqLap x then wqFail s die q 1 else s
      | _ => s)

def execWqErrorClear (die q : Nat) (s : State) : Out := .next (setWq s die q { wqAt s die q with error := false, firstRead := none })
def execWqKick (die q : Nat) (prod : BitVec 32) (s : State) : Out := .next (setWq s die q { wqAt s die q with prod := prod })

end Sys2Proof.Machine
end

