-- ==== Sys2Proof/Machine/Boot.lean ====
section
/-!
DEFINITION. Reset and boot, errors, and gang switches (spec/18_reliability_boot.md R289 to R300; spec/15_traps_debug.md R255 to R258,
R267, R411; spec/16_fabric_host.md R270, R273): the steps of the boot ROM, the foremen, the fabric and the host.
-/
namespace Sys2Proof.Machine

/-! ## Boot (R296 to R299) -/

/-- Bytes of the image in die 0's SRAM. -/
def imageBytes (s : State) (lo n : Nat) : List Byte := readBytes s (sramAddr 0 lo) n
def imageLength (s : State) : Nat := readNat s (sramAddr 0 0x10) 8
def imageVersion (s : State) : Nat := readNat s (sramAddr 0 8) 4

/-- The bytes that the digest is taken over: the signature area counts as zero. -/
def hashedBytes (s : State) : List Byte :=
  imageBytes s 0 0x800 ++ List.replicate 0x600 0 ++ imageBytes s 0xE00 (imageLength s - 0xE00)

/-- The 64 bytes of a digest, over which it is signed. -/
def digestBytes (m : BitVec 512) : List Byte := (List.range 64).map (fun i => m.extractLsb' (8 * i) 8)

/-- Steps 3 to 5 of R296: the fail code, 0 for none, and the measurement. -/
def verifyImage (s : State) : Nat × BitVec 512 :=
  if readNat s (sramAddr 0 0) 8 ≠ 0x143524C33 || imageLength s < 0x1000 || 0x4000000 < imageLength s then (1, 0)
  else
    let m := shake256 (hashedBytes s)
    let key := imageBytes s 0x18 1793
    if shake256 key ≠ s.fuseKey then (2, m)
    else if !falconVerify key (imageBytes s 0x800 1280) (digestBytes m) then (3, m)
    else if imageVersion s < s.fuseVersion then (4, m)
    else (0, m)

/-- What boot leaves alone: the memory, the ID, the fuses and the flash, the clock, and what the model keeps for itself. -/
def freshUnits (s : State) : State :=
  { State.reset with mem := s.mem, devid := s.devid, tstamp := s.tstamp, flash := s.flash, fuseKey := s.fuseKey,
                     fuseVersion := s.fuseVersion, hostIrq := s.hostIrq, attest := s.attest, hostRead := s.hostRead,
                     nextCid := s.nextCid, agenda := s.agenda, elapse := s.elapse, freeCtr := s.freeCtr, turn := s.turn }

/-- The foremen start: no bind is valid, no context has a table, every granule is full. -/
def startImage (s : State) : State :=
  let v := verifyImage s
  if v.1 = 0 then { freshUnits s with boot := .ready, measure := v.2, version := imageVersion s } else { s with boot := .recovery v.1, measure := v.2 }

/-- The image is loaded from the flash into die 0's SRAM. -/
def loadFlash (s : State) : State := s.flash.foldl (fun a c => if c.1 < 0x4000000 then writeByte a (sramAddr 0 c.1) c.2 else a) s

/-- RESET: the straps are latched, HBM is trained, and the image is verified. -/
def resetDevice (devid : BitVec 12) (trained : Bool) (s : State) : State :=
  let s1 : State := { freshUnits s with mem := [], devid := devid, tstamp := 0 }
  if !trained then { s1 with boot := .recovery 5 } else startImage (loadFlash s1)

def execReset (devid : BitVec 12) (trained : Bool) (s : State) : Out := .next (resetDevice devid trained s)

/-- In recovery, the host's write of load verifies and starts the image in die 0's SRAM. -/
def bootLoad (s : State) : State := match s.boot with | .recovery _ => startImage s | _ => s
def execBootLoad (s : State) : Out := .next (bootLoad s)

/-- A host access; a write of BOOTSTAT's load bit boots. -/
def execHostAccess (space : HostSpace) (off : Nat) (write : Bool) (size : Nat) (value : BitVec 512) (s : State) : Out :=
  .next (if space = .reg && off = 0x10 && write && size = 8 then (if value.getLsbD 0 then bootLoad s else s)
    else hostAccess s space off write size value)

/-- An attestation (R300). -/
def attestFor (s : State) (nonce : BitVec 256) : Attestation :=
  { measure := s.measure, nonce := nonce, devid := s.devid, version := s.version, sign := Config.falconSign s.measure nonce s.devid s.version }
def execAttestationRequest (nonce : BitVec 256) (s : State) : Out :=
  .next (if s.boot = .ready then { s with attest := s.attest ++ [attestFor s nonce] } else s)

/-! ## Fatal errors (R267, R299) -/

/-- Where the dump lies in HBM. -/
def dumpBase : Nat := 0x17C0000000
def dumpDie (die : Nat) : Nat := dumpBase + 0x100 + 0x8000000 * die

/-- The head of the dump, with the time at which the error was detected. -/
def dumpHead (s : State) (cause : Word) (die addr : Nat) : State :=
  writeWords s dumpBase [0x144554D50, cause, s.fatalTime, BitVec.ofNat 64 (die % 8 + addr % 2 ^ 40 * 256), word4 s.measure 0]

/-- The die of the cluster or core whose memory holds an address, or of the slice. -/
def dieOfAddr (a : Nat) : Nat :=
  match kindOf a with
  | .tcm => (a - 2 ^ 44) / 2 ^ 26
  | .pad => (a - 2 ^ 45) / 2 ^ 26
  | .sram => (a - 2 ^ 46) / 2 ^ 25
  | _ => a / 2 ^ 38

/-- The die of a barrier's pool; the pools of the package and of the device count as die 0's (R174). -/
def dieOfBar (h : Nat) : Nat :=
  match h / 2 ^ 30 with
  | 0 => h / 2 ^ 20 / 32
  | 1 => h / 2 ^ 20 % 2 ^ 10
  | _ => 0

/-- What stands in a die's per-pair queues, as words: records on their way to its cores, requests of its slots to other devices, CPYR chunks and
MROT deliveries for its homes, arrivals at its barriers, and messages for its ferryman (R267; the form of an entry is DESIGN CHOICE, log 76). -/
def queueWords (s : State) (die : Nat) : List Word :=
  ((s.inflight.filter (fun m => m.core / 512 = die)).map (fun m => BitVec.ofNat 64 m.core :: (List.range 8).map (wordAt m.record))).flatten
    ++ ((s.remote.filter (fun r => r.slot < noSlot && dieOf r.slot = die)).map (fun r =>
         [BitVec.ofNat 64 r.slot, BitVec.ofNat 64 r.device, r.acc.addr, BitVec.ofNat 64 r.acc.size])).flatten
    ++ ((s.chunks.filter (fun m => dieOfAddr m.lo = die)).map (fun m =>
         [BitVec.ofNat 64 m.lo, BitVec.ofNat 64 m.bytes.length] ++ wordsOf (natOf m.bytes) ((m.bytes.length + 7) / 8))).flatten
    ++ ((s.deliveries.filter (fun d => dieOfAddr d.addr = die)).map (fun d => BitVec.ofNat 64 d.addr :: wordsOf d.bytes.toNat 2)).flatten
    ++ ((s.arrivals.filter (fun p => p < 2 ^ 32 && dieOfBar p = die)).map (fun p => BitVec.ofNat 64 p))
    ++ ((s.ferryMsgs.filter (fun m => m.die = die)).map (fun m =>
         [BitVec.ofNat 64 (m.idx + m.rank * 2 ^ 16 + boolBit m.chunk 32), BitVec.ofNat 64 m.run] ++ wordsOf (natOf m.bytes) ((m.bytes.length + 7) / 8))).flatten

/-- A die's slot images, its slot table and its per-pair queues. -/
def dumpOneDie (s : State) (die : Nat) : State :=
  let s1 := (List.range 2048).foldl (fun a i => saveImage a (die * 2048 + i) (a.slotAt (die * 2048 + i)) (dumpDie die + 0x2000 * i)) s
  let s2 := writeWords s1 (dumpDie die + 0x1000000) ((List.range 16384).map (fun i => (s.dieAt die).slotTab.get 0 i))
  writeWords s2 (dumpDie die + 0x1020000) (queueWords s die)

/-- The part waits for the host in recovery: no engine owns memory any more, and no segment is armed, so that the host's writes of an image reach it
(R297, R299). -/
def toRecovery (s : State) : State := { s with boot := .recovery 0, fatal := none, own := [], armed := [], held := [] }

/-- The error is raised: every partition stops. A second one during the dump stops the write: the head carries the first error's cause with bit
63 (DESIGN CHOICE, log 76: nothing else has been written). -/
def fatalAt (s : State) (cause die addr : Nat) : State :=
  match s.fatal with
  | some (c, d, a) => toRecovery (dumpHead s (BitVec.ofNat 64 (c + 2 ^ 63)) d a)
  | none => raiseFatal s cause die addr

/-- The dump is written, and the part waits in recovery. -/
def writeDump (s : State) (cause die addr : Nat) : State :=
  toRecovery ((List.range 8).foldl dumpOneDie (dumpHead s (BitVec.ofNat 64 cause) die addr))

/-- FATAL_ERROR raises the error, or writes the dump of the error that has been raised. -/
def execFatalError (cause die addr : Nat) (s : State) : Out :=
  .next (if s.boot ≠ .ready then s else if s.fatal = some (cause, die, addr) then writeDump s cause die addr else fatalAt s cause die addr)

def execThermalTrip (die : Nat) (s : State) : Out := .next (if s.boot = .ready then fatalAt s 2 die 0 else s)

/-! ## Gang switches (R255 to R258, R411) -/

/-- The slot belongs to the partition: its task's context, or its bind's when it is idle. A retired cluster's slots belong to none (R294). -/
def ofPartition (s : State) (ctx n : Nat) : Bool :=
  let x := s.slotAt n
  if (s.dieAt (dieOf n)).retired.getLsbD (clusterOf n % 32) then false
  else if x.phase = .running then x.t.ctxid.toNat = ctx
  else match x.saved with
    | some t => t.ctxid.toNat = ctx
    | none => bindCtx (bindOf s n) = ctx && bindBit (bindOf s n)

def partitionSlots (s : State) (ctx : Nat) : List Nat := ((slotIds s) ++ boundSlots s).eraseDups.filter (ofPartition s ctx)

/-- The leases of a partition lapse (R200). -/
def lapseLeases (s : State) (ns : List Nat) : State :=
  ns.foldl (fun a n =>
    let c := a.clusterAt (clusterOf n)
    match c.lease with
    | some l => if l.slot = n then a.setCluster (clusterOf n) { c with lease := none } else a
    | none => a) s

/-- The foremen act only while the device is ready (R299). -/
def whenReady (f : State → State) (s : State) : State := if s.boot = .ready then f s else s

/-- The loom commands of the context park at chunk boundaries (R200). -/
def parkLooms (s : State) (ctx : Nat) : State :=
  s.clusters.foldl (fun a c => (c.2.loomq.filter (fun q => q.who.ctx = ctx)).foldl (parkLoom c.1) a) s

/-- Every part of the partition stops at its boundary, and the ferryman's ring neighbours are told (R255). -/
def stopPartition (s : State) (ctx : Nat) : State :=
  if s.stopped.contains ctx then s
  else
    let ns := partitionSlots s ctx
    let s1 := tellParked ctx 3 (parkLooms (lapseLeases (ns.foldl stopSlot s) ns) ctx)
    { s1 with stopped := listInsert s1.stopped ctx }

def execGangStop (ctx : Nat) (s : State) : Out := .next (whenReady (fun s => stopPartition s ctx) s)

/-- A request of a command of this number to another device is outstanding, so that its chunk cannot go on (R255). -/
def cidWaits (s : State) (cid : Nat) : Bool := s.remote.any (fun r => r.eng = some cid)

/-- No engine of the context is in the middle of a chunk, row, group or step that it can still finish (R200, R209, R219, R286). -/
def enginesParked (s : State) (ctx : Nat) : Bool :=
  s.clusters.all (fun c =>
      c.2.copyq.all (fun q => q.who.ctx ≠ ctx || q.buf.isNone || cidWaits s q.cid)
        && c.2.loomq.all (fun q => q.who.ctx ≠ ctx || !rowBegun s q || cidWaits s q.cid))
    && s.dies.all (fun d => d.2.bxq.all (fun q => q.who.ctx ≠ ctx || q.pending.isEmpty || cidWaits s q.cid)
        && d.2.ferry.all (fun f => f.who.ctx ≠ ctx || !copying s f || cidWaits s f.cid))

/-- The result will come only when the partition goes on: its request waits at its home, was withdrawn, or stands in a replay queue. -/
def resultHeld (s : State) (n : Nat) (d : Dst) : Bool :=
  s.held.any (fun h => h.slot = n && h.dst = d) || (s.slotAt n).t.pulled.any (fun h => h.dst = d)
    || (s.slotAt n).t.pulledFar.any (fun p => p.2.dst = d)
    || s.remote.any (fun r => r.slot = n && r.eng.isNone && r.dst = d && r.replays)

/-- Every part has stopped: no result is still to come, no checked access waits, no resample is in phase 2, and the engines are parked. -/
def partsStopped (s : State) (ctx : Nat) : Bool :=
  s.stopped.contains ctx && enginesParked s ctx
    && (partitionSlots s ctx).all (fun n =>
        let t := (s.slotAt n).t
        t.pend.all (resultHeld s n) && (match t.wait with | some w => !w.sure && !phase2Wait s w | none => true))

/-- The accumulators of a cluster that slots of a list own, by cluster and number. -/
def ownedAccs (ns : List Nat) (c : Nat × Cluster) : List (Nat × Nat × Acc) :=
  ((List.range 4).filter (fun i => match (accOf c.2 i).owner with | some n => ns.contains n | none => false)).map (fun i => (c.1, i, accOf c.2 i))

/-- The image of a partition (R256). -/
def imageOf (s : State) (ctx : Nat) : Image :=
  let ns := partitionSlots s ctx
  { ctx := ctx, slots := ns.map (fun n => (n, s.slotAt n)),
    accs := (s.clusters.map (ownedAccs ns)).flatten,
    loomq := (s.clusters.map (fun c => (c.2.loomq.filter (fun q => q.who.ctx = ctx)).map (fun q => (c.1, q)))).flatten,
    copyq := (s.clusters.map (fun c => (c.2.copyq.filter (fun q => q.who.ctx = ctx)).map (fun q => (c.1, q)))).flatten,
    gates := (s.clusters.map (fun c => (c.2.gates.filter (fun g => g.ctx = ctx)).map (fun g => (c.1, g)))).flatten,
    barriers := s.barriers.filterMap (fun b => match b.2 with | some x => if x.ctx = ctx then some (b.1, x) else none | none => none),
    watches := s.watches.filter (fun w => ns.contains w.slot),
    held := s.held.filter (fun h => ns.contains h.slot),
    remote := s.remote.filter (fun r => r.acc.ctx = ctx),
    records := s.inflight.filter (fun m => m.ctx = ctx),
    chunks := s.chunks.filter (fun m => m.ctx = ctx), deliveries := s.deliveries.filter (fun d => d.ctx = ctx),
    arrivals := s.arrivals.filter (fun p => s.barriers.any (fun e => match e.2 with | some b => b.parent = some p && b.ctx = ctx | none => false)),
    ferryMsgs := s.ferryMsgs.filter (fun m => m.ctx = ctx) }

/-- The image of the partition is saved; a context that has one keeps it. -/
def savePartition (s : State) (ctx : Nat) : State :=
  if !partsStopped s ctx || s.images.any (fun i => i.ctx = ctx) then s else { s with images := s.images ++ [imageOf s ctx] }

def execPartitionSave (ctx : Nat) (s : State) : Out := .next (whenReady (fun s => savePartition s ctx) s)

/-- The slot stands where it stopped for the context; one that has been given to another, and stopped for that, does not. -/
def standsFor (s : State) (ctx n : Nat) : Bool := (s.slotAt n).stopped && ofPartition s ctx n

/-- A slot of an image stands where it stopped, or is free to take its state back; and so is an accumulator of it. -/
def slotReturns (s : State) (ctx n : Nat) : Bool :=
  let x := s.slotAt n
  standsFor s ctx n || (!x.stopped && x.phase = .idle && x.saved.isNone && !x.saving)
def accReturns (s : State) (a : Nat × Nat × Acc) : Bool :=
  let now := (accOf (s.clusterAt a.1) a.2.1).owner
  now = a.2.2.owner || now.isNone

/-- The partition can go on: the foremen wait for a slot that runs a task of another context (DESIGN CHOICE, log 69), for a new bind after a
context error (R291), and for a cluster that is being retired (R294). -/
def resumable (s : State) (im : Image) : Bool :=
  !s.failed.contains im.ctx && im.slots.all (fun p => slotReturns s im.ctx p.1 && !s.retiring.contains (clusterOf p.1)) && im.accs.all (accReturns s)

/-- A slot goes on where it stopped; one that was given to another context takes its saved state back (R258). -/
def restoreSlot (s : State) (p : Nat × Slot) : State :=
  s.updSlot p.1 (fun x =>
    if x.stopped then { x with stopped := false }
    else { x with phase := p.2.phase, t := p.2.t, saved := p.2.saved, saving := p.2.saving, reserve := p.2.reserve, chosen := p.2.chosen })

/-- What the slots of the image held in their clusters comes back where it is gone. -/
def restoreAcc (s : State) (a : Nat × Nat × Acc) : State :=
  let k := s.clusterAt a.1
  if (accOf k a.2.1).owner = a.2.2.owner then s else s.setCluster a.1 (setAcc k a.2.1 a.2.2)
def restoreLoom (s : State) (q : Nat × LoomCmd) : State :=
  let k := s.clusterAt q.1
  if k.loomq.any (fun x => x.cid = q.2.cid) then s else s.setCluster q.1 { k with loomq := k.loomq ++ [q.2] }
def restoreCopy (s : State) (q : Nat × CopyCmd) : State :=
  let k := s.clusterAt q.1
  if k.copyq.any (fun x => x.cid = q.2.cid) then s else s.setCluster q.1 { k with copyq := k.copyq ++ [q.2] }

/-- The partition goes on from its image: gates fire whose counters have reached their targets, the ring neighbours are told, and withdrawn
accesses go to their homes again (R258, R411). -/
def resumeFrom (s : State) (im : Image) : State :=
  let s1 : State := { s with stopped := s.stopped.filter (fun c => c ≠ im.ctx), images := s.images.filter (fun i => i.ctx ≠ im.ctx) }
  let s2 := im.copyq.foldl restoreCopy (im.loomq.foldl restoreLoom (im.accs.foldl restoreAcc (im.slots.foldl restoreSlot s1)))
  (im.slots.map Prod.fst).foldl goOn (tellParked im.ctx 4 (afterWrite s2))

/-- The context goes on, if it has an image and may. -/
def resumeContext (ctx : Nat) (s : State) : State :=
  match s.images.find? (fun i => i.ctx = ctx) with
  | some im => if resumable s im then resumeFrom s im else s
  | none => s

def execGangResume (ctx : Nat) (s : State) : Out := .next (whenReady (resumeContext ctx) s)

/-- The context of a slot. -/
def ctxOfSlot (s : State) (n : Nat) : Nat :=
  if (s.slotAt n).phase = .running then (s.slotAt n).t.ctxid.toNat else bindCtx (bindOf s n)

/-- The vector of a context error, for which no number is given (DESIGN CHOICE, log 21). -/
def contextVector : Nat := 256

/-- A context error (R291): the partition stops and stays stopped; its image follows. -/
def contextErrorOf (s : State) (ctx die unit : Nat) : State :=
  let s1 := logEvent (stopPartition s ctx) die 5 0 unit ctx
  { s1 with failed := listInsert s1.failed ctx, hostIrq := s1.hostIrq ++ [contextVector] }

def execContextError (slot : Nat) (s : State) : Out :=
  .next (whenReady (fun s => contextErrorOf s (ctxOfSlot s slot) (dieOf slot) (clusterOf slot % 32)) s)

/-! ## Links and scrubbing (R270, R289, R292 to R294) -/

/-- A correctable event of a unit is logged and counted; true when it makes the 17th within 600 s. -/
def countEvent (s : State) (die utype unit info : Nat) : State × Bool :=
  let s1 := logEvent s die 1 utype unit info
  let d := s1.dieAt die
  let key := utype * 65536 + unit
  let times := d.eccTimes.get [] key
  let now := s.tstamp.toNat
  let hit := match times[15]? with | some t => now ≤ t + 600000000000 | none => false
  (s1.setDie die { d with eccTimes := d.eccTimes.set [] key ((now :: times).take 16) }, hit)

/-- A link is retired: its pairs move to the next live port, which livePort finds (R270). -/
def retireLink (s : State) (die link : Nat) : State :=
  if (s.dieAt die).deadLinks.contains link then s
  else logEvent (s.setDie die { s.dieAt die with deadLinks := listInsert (s.dieAt die).deadLinks link }) die 4 3 link 0

def execLinkRetire (die link : Nat) (s : State) : Out := .next (retireLink s die link)

/-- A retry is a correctable event of its link; a lasting fault retires it. -/
def execFlitCrcRetry (die link : Nat) (s : State) : Out :=
  let r := countEvent s die 3 link 0
  .next (if r.2 then retireLink (logEvent r.1 die 3 3 link 0) die link else r.1)

/-- The scrub of a slice's channel corrects what it finds, and notes what it cannot correct; no access sees it (R289). -/
def scrubWords (s : State) (slice : Nat) (ws : List Nat) : List Nat :=
  ws.filter (fun w => kindOf (8 * w) = .hbm && orderHome s (8 * w) = unitSlice slice)
def execL2Scrub (slice : Nat) (s : State) : Out :=
  .next ((scrubWords s slice (s.faint ++ s.spoiled)).foldl (fun a w => noteRead a .lost (8 * w) 8) s)

/-! ## Errors in memory (R290 to R294) -/

/-- The unit that an address belongs to: its die, the unit's kind and its number; none for host memory (R292). -/
def unitOf (a : Nat) : Option (Nat × Nat × Nat) :=
  match kindOf a with
  | .tcm => let c := (a - 2 ^ 44) / 2 ^ 17 / 16; some (c / 32, 0, c % 32)
  | .pad => let c := (a - 2 ^ 45) / 2 ^ 21; some (c / 32, 0, c % 32)
  | .sram => some ((a - 2 ^ 46) / 2 ^ 25, 1, a / 2 ^ 8 % 64)
  | .hbm => let x := a / 2 ^ 37 * 32 + channelOf a; some (x / 64, 2, x % 64)
  | .host => none

/-- The contexts of a cluster's slots, by their binds and by the tasks that run there. -/
def clusterCtxs (s : State) (c : Nat) : List Nat :=
  ((List.range 64).filterMap (fun i =>
    let n := 64 * c + i
    if (s.slotAt n).phase = .running then some ((s.slotAt n).t.ctxid.toNat)
    else match (s.slotAt n).saved with
      | some t => some t.ctxid.toNat
      | none => if bindBit (bindOf s n) then some (bindCtx (bindOf s n)) else none)).eraseDups

/-- A lasting fault of a cluster: its partitions stop, and it is retired once they are saved (R294). -/
def beginRetire (s : State) (c : Nat) : State :=
  if s.retiring.contains c || (s.dieAt (c / 32)).retired.getLsbD (c % 32) then s
  else
    let s1 := (clusterCtxs s c).foldl stopPartition s
    { s1 with retiring := listInsert s1.retiring c }

/-- The images that the retirement waits for are there. -/
def mayRetire (s : State) (c : Nat) : Bool :=
  s.retiring.contains c && (clusterCtxs s c).all (fun x => s.images.any (fun i => i.ctx = x))

/-- A cluster of the die that no bind and no task uses. -/
def freeCluster (s : State) (die : Nat) : Option Nat :=
  ((List.range 32).map (fun i => die * 32 + i)).find? (fun c =>
    !(s.dieAt die).retired.getLsbD (c % 32) && !s.retiring.contains c && (clusterCtxs s c).isEmpty)

/-- Word i of the bind record of a slot. -/
def setBindWord (s : State) (n i : Nat) (v : Word) : State :=
  s.setDie (dieOf n) { s.dieAt (dieOf n) with slotTab := (s.dieAt (dieOf n)).slotTab.set 0 (8 * (n % 2048) + i) v }

/-- The bind records of a cluster's slots become invalid. -/
def unbindCluster (s : State) (c : Nat) : State :=
  (List.range 64).foldl (fun a i => setBindWord a (64 * c + i) 0 (wordAt (bindOf a (64 * c + i)) 0 &&& ~~~0x100000000)) s

/-- Another cluster takes over bind records, slot by slot (DESIGN CHOICE, log 97). -/
def rebindCluster (s : State) (c : Nat) (bs : List (List Word)) : State :=
  (bs.zipIdx).foldl (fun a b => (List.range 8).foldl (fun a i => setBindWord a (64 * c + b.2) i (wordAt b.1 i)) a) s

/-- A retired cluster's slots stay stopped and are reserved for nothing, its queued commands end, and each task that stood there leaves a record
(R294). -/
def emptyCluster (s : State) (c : Nat) : State :=
  let k := s.clusterAt c
  let s1 := (k.loomq.map LoomCmd.cid ++ k.copyq.map CopyCmd.cid).foldl endOwnership s
  let s2 := s1.setCluster c { s1.clusterAt c with loomq := [], copyq := [], gates := [], asks := [], lease := none }
  (List.range 64).foldl (fun a i =>
    let n := 64 * c + i
    let x := a.slotAt n
    let b := a.updSlot n (fun x => { x with stopped := true, reserve := none })
    let gone := (if x.phase = .running then [x.t.ctxid.toNat] else []) ++ (x.saved.map (fun t => t.ctxid.toNat)).toList
    gone.foldl (fun b ctx => logEvent b (dieOf n) 5 0 (c % 32) ctx) b) s2

/-- An image without a cluster. -/
def Image.without (im : Image) (c : Nat) : Image :=
  { im with slots := im.slots.filter (fun p => clusterOf p.1 ≠ c), accs := im.accs.filter (fun a => a.1 ≠ c),
            loomq := im.loomq.filter (fun q => q.1 ≠ c), copyq := im.copyq.filter (fun q => q.1 ≠ c), gates := im.gates.filter (fun g => g.1 ≠ c) }

/-- The four acts of a retirement, in their order (R294). -/
def finishRetire (s : State) (c : Nat) : State :=
  let die := c / 32
  let ctxs := clusterCtxs s c
  let bs := (List.range 64).map (fun i => bindOf s (64 * c + i))
  let s1 := unbindCluster (emptyCluster s c) c
  let d := s1.dieAt die
  let s2 := logEvent (s1.setDie die { d with retired := d.retired ||| (1 <<< (c % 32)) }) die 4 0 (c % 32) 0
  let s3 := if bs.any bindBit then ((freeCluster s2 die).map (fun f => rebindCluster s2 f bs)).getD s2 else s2
  let s4 : State := { s3 with retiring := s3.retiring.filter (· ≠ c), images := s3.images.map (fun im => im.without c) }
  ctxs.foldl (fun s c => resumeContext c s) s4

/-- A correctable event of a unit, and what a lasting fault brings about: a cluster is retired, a bank or a slice stays in service (R292,
R294). -/
def countUnit (s : State) (die utype unit info : Nat) : State :=
  let r := countEvent s die utype unit info
  if !r.2 then r.1
  else
    let s1 := logEvent r.1 die 3 utype unit 0
    if utype = 0 then beginRetire s1 (die * 32 + unit) else s1

/-- A correctable event of the unit of an address. -/
def countWord (s : State) (a : Nat) : State :=
  match unitOf a with
  | none => s
  | some (die, utype, unit) => countUnit s die utype unit a

/-- An uncorrectable error is logged with the unit of its address (R293). -/
def logLost (s : State) (a : Nat) : State :=
  match unitOf a with
  | none => s
  | some (die, utype, unit) => logEvent s die 2 utype unit a

/-- What an error leads to (R290 to R294): an event, the context error of the slot that was given the data, or a fatal error. -/
def actOn (s : State) (e : EccEvent) : State :=
  match e with
  | .corrected a => countWord s a
  | .array c => countUnit s (c / 32) 0 (c % 32) 0
  | .lost a => logLost s a
  | .slotData a ctx slot =>
    let die := if slot < noSlot then dieOf slot else ((unitOf a).map Prod.fst).getD 0
    contextErrorOf (logLost s a) ctx die (if slot < noSlot then clusterOf slot % 32 else 0)
  | .pageTable a die => raiseFatal s 1 die a

/-- The foremen act on the oldest error that has been met. -/
def noteErrors (s : State) : State :=
  match s.errors with
  | e :: rest => actOn { s with errors := rest } e
  | [] => s

end Sys2Proof.Machine
end

