-- ==== Sys2Proof/Machine/Csr.lean ====
section
/-!
DEFINITION. Control and status registers, engine registers and the prefix word (spec/04_encoding.md R69 to R75; spec/15 R266; spec/20
R334 to R336; spec/21 R344, R345, R350).
-/
namespace Sys2Proof.Machine

/-! ## The map (R69) -/

/-- A listed CSR number. -/
def csrListed (n : Nat) : Bool :=
  n ≤ 0x00A || n = 0x010 || (0x020 ≤ n && n ≤ 0x025) || (0x030 ≤ n && n ≤ 0x037) || (0x040 ≤ n && n ≤ 0x043)
    || (0x050 ≤ n && n ≤ 0x060) || (0x070 ≤ n && n ≤ 0x074) || (0x080 ≤ n && n ≤ 0x083) || (0x090 ≤ n && n ≤ 0x094)
    || n = 0x0A0 || n = 0x0A1

/-- User mode may read the register, and may write it. -/
def csrUserRead (n : Nat) : Bool :=
  n = 0x010 || (0x020 ≤ n && n ≤ 0x025) || n = 0x042 || n = 0x043 || n = 0x060 || (0x070 ≤ n && n ≤ 0x074) || n = 0x0A0 || n = 0x0A1
def csrUserWrite (n : Nat) : Bool := n = 0x010 || n = 0x060

/-- FEAT0: every feature bit of the C3. -/
def feat0 : Word := 0xFFF

/-- The value of a CSR as the slot in force reads it. -/
def csrRead (s : State) (n : Nat) : Word :=
  let t := s.t
  let k := s.coreAt s.core
  match n with
  | 0x000 => t.statusWord
  | 0x001 => t.tvec
  | 0x002 => t.tepc
  | 0x003 => t.tcause
  | 0x004 => t.tval
  | 0x005 => t.tstatus
  | 0x006 => t.tprefix
  | 0x007 => t.tscratch
  | 0x008 => t.iemask
  | 0x009 => pendingOf s s.cur
  | 0x00A => t.tcmp
  | 0x010 => t.fflags
  | 0x020 => BitVec.ofNat 64 s.cur
  | 0x021 => s.devid.zeroExtend 64
  | 0x022 => t.member
  | 0x023 => t.lineage
  | 0x024 => t.ctxid
  | 0x025 => t.prio
  | 0x030 => k.ibbase
  | 0x031 => k.ibsize
  | 0x032 => k.ibhead
  | 0x033 => k.ibtail
  | 0x034 => k.dqbase
  | 0x035 => k.dqtop
  | 0x036 => k.dqbot
  | 0x037 => t.stealdom
  | 0x040 => t.spillb
  | 0x041 => t.spillp
  | 0x042 => t.windepth
  | 0x043 => BitVec.ofNat 64 t.frame.size
  | 0x060 => t.peerfail
  | 0x070 => feat0
  | 0x074 => 0x0300
  | 0x080 => k.trcctl
  | 0x081 => k.trctrig
  | 0x082 => k.trcptr
  | 0x083 => k.trcstat
  | 0x094 => s.slot.bkptctl
  | 0x0A0 => BitVec.ofNat 64 (outstandingOf s s.cur % 128 + outstandingCore s s.core % 128 * 256)
  | 0x0A1 => BitVec.ofNat 64 (replayCount s s.core % 32)
  | n =>
    if 0x050 ≤ n && n ≤ 0x05F then k.peertab[n - 0x050]!
    else if 0x090 ≤ n && n ≤ 0x093 then s.slot.bkpta[n - 0x090]!
    else 0

/-! ## Writes (R70, R335) -/

/-- A value written, with what a W1C field clears (none under CSRC). -/
structure CsrValue where
  v : Word
  clear : Word
  deriving DecidableEq, Repr

/-- Replaces the bits of a mask. -/
def underMask (m old v : Word) : Word := (old &&& ~~~m) ||| (v &&& m)

/-- DQBASE, whose count field keeps its value when the one written is out of range. -/
def dqbaseOf (old v : Word) : Word :=
  underMask (if bitsOf v 20 4 ≤ 10 then 0xF1FFC0 else 0x1FFC0) old v

def writeSlotCsr (s : State) (n : Nat) (x : CsrValue) : State :=
  let t := s.t
  let set (t : Task) : State := s.setT t
  match n with
  | 0x000 => set { t with status := underMask 3 t.status x.v }
  | 0x001 => set { t with tvec := x.v &&& ~~~3 }
  | 0x002 => set { t with tepc := x.v, keptA := none, keptB := none, keptC := none }
  | 0x003 => set { t with tcause := x.v &&& 0x80000000000000FF }
  | 0x004 => set { t with tval := x.v }
  | 0x005 => set { t with tstatus := x.v &&& 0xF }
  | 0x006 => set { t with tprefix := x.v &&& 0xFFFFFFFF }
  | 0x007 => set { t with tscratch := x.v }
  | 0x008 => set { t with iemask := x.v &&& 0x3E }
  | 0x00A => set { t with tcmp := x.v }
  | 0x010 => set { t with fflags := x.v &&& 0x1F }
  | 0x037 => if bitsOf x.v 0 3 ≤ 4 then set { t with stealdom := x.v &&& 7 } else s
  | 0x040 => set { t with spillb := x.v &&& 0x1FFF80001FFF8 }
  | 0x041 => set { t with spillp := x.v &&& 0x1FFF8 }
  | 0x060 => set { t with peerfail := t.peerfail &&& ~~~x.clear }
  | 0x094 => { s with slot := { s.slot with bkptctl := x.v &&& 0x3FFFF } }
  | n =>
    if 0x090 ≤ n && n ≤ 0x093 then
      { s with slot := { s.slot with bkpta := s.slot.bkpta.setIfInBounds (n - 0x090) (x.v &&& 0xFFFFFFFFFFF8) } }
    else s

/-- IPEND: bits 2 and 5 are the slot's, 3 and 4 the core's; bit 1 is set again at once (R252). -/
def clearPending (s : State) (m : Word) : State :=
  let s1 := s.setT { s.t with ipend := s.t.ipend &&& ~~~m }
  let k := s1.coreAt s1.core
  s1.setCore s1.core { k with ipend3 := k.ipend3 && !m.getLsbD 3, ipend4 := k.ipend4 && !m.getLsbD 4 }

def writeCoreCsr (s : State) (n : Nat) (x : CsrValue) : State :=
  let k := s.coreAt s.core
  let set (k : Core) : State := s.setCore s.core k
  match n with
  | 0x030 => set { k with ibbase := x.v &&& 0x1FFC0 }
  | 0x031 => if bitsOf x.v 0 4 ≤ 10 then set { k with ibsize := x.v &&& 0xF } else s
  | 0x032 => set { k with ibhead := x.v &&& 0xFFFFFFFF }
  | 0x034 => set { k with dqbase := dqbaseOf k.dqbase x.v }
  | 0x035 => set { k with dqtop := x.v &&& 0xFFFFFFFF }
  | 0x036 => set { k with dqbot := x.v &&& 0xFFFFFFFF }
  | 0x080 => set { k with trcctl := x.v &&& 0x3FFF }
  | 0x081 => set { k with trctrig := x.v }
  | 0x082 => set { k with trcptr := x.v &&& 0xFF }
  | 0x083 => if x.clear.getLsbD 0 then set { k with trcstat := k.trcstat &&& ~~~5, tracePost := none } else s
  | n =>
    if 0x050 ≤ n && n ≤ 0x05F then
      let m : Word := if n = 0x05F then 0x00008FFF8FFF8FFF else 0x8FFF8FFF8FFF8FFF
      set { k with peertab := k.peertab.setIfInBounds (n - 0x050) (x.v &&& m) }
    else s

/-- A permitted write; RO registers ignore it. -/
def csrWrite (s : State) (n : Nat) (x : CsrValue) : State :=
  if n = 0x009 then clearPending s x.clear
  else if (0x030 ≤ n && n ≤ 0x036) || (0x050 ≤ n && n ≤ 0x05F) || (0x080 ≤ n && n ≤ 0x083) then writeCoreCsr s n x
  else writeSlotCsr s n x

/-- A CSR instruction: rd takes the old value, the write takes effect for the next instruction (R334). -/
def csrOp (i : Instr) (sw : Bool) (rd : Reg) (ra : Option Reg) (csr : BitVec 12) (writes : Bool) (f : Word → Word → CsrValue)
    (s : State) : Out :=
  let n := csr.toNat
  let u : Use := { a := ra, d := [rd], mixed := fun _ => !csrListed n, priv := !(if writes then csrUserWrite n else csrUserRead n) }
  issue i sw u
    (fun v s =>
      let old := csrRead s n
      match result s rd old with
      | .error e => .error e
      | .ok s1 => .ok (if writes then csrWrite s1 n (f old v.a) else s1)) s

def execCsrr (rd : Reg) (csr : BitVec 12) (sw : Bool) (s : State) : Out :=
  csrOp (.csrr rd csr sw) sw rd none csr false (fun _ _ => { v := 0, clear := 0 }) s
def execCsrw (rd ra : Reg) (csr : BitVec 12) (sw : Bool) (s : State) : Out :=
  csrOp (.csrw rd ra csr sw) sw rd (some ra) csr true (fun _ v => { v := v, clear := v }) s
def execCsrs (rd ra : Reg) (csr : BitVec 12) (sw : Bool) (s : State) : Out :=
  csrOp (.csrs rd ra csr sw) sw rd (some ra) csr (ra ≠ 0) (fun old v => { v := old ||| v, clear := v }) s
def execCsrc (rd ra : Reg) (csr : BitVec 12) (sw : Bool) (s : State) : Out :=
  csrOp (.csrc rd ra csr sw) sw rd (some ra) csr (ra ≠ 0) (fun old v => { v := old &&& ~~~v, clear := 0 }) s

/-! ## Engine registers (R75, R344, R345) -/

def eregKey (eng : BitVec 3) (ereg : BitVec 8) : Nat := eng.toNat * 256 + ereg.toNat

def execErd (x : Reg) (eng : BitVec 3) (ereg : BitVec 8) (sw : Bool) (s : State) : Out :=
  issue (.erd x eng ereg sw) sw { d := [x] } (fun _ s => result s x (s.t.eregs.get 0 (eregKey eng ereg))) s

def execErw (x : Reg) (eng : BitVec 3) (ereg : BitVec 8) (sw : Bool) (s : State) : Out :=
  issue (.erw x eng ereg sw) sw { c := some x }
    (fun v s => .ok (s.setT { s.t with eregs := s.t.eregs.set 0 (eregKey eng ereg) v.c })) s

/-! ## The prefix word (R86, R350) -/

def execFmt (fa fb fd : BitVec 6) (sm : BitVec 3) (sat : Bool) (rm : BitVec 2) (s : State) : Out :=
  let i : Instr := .fmt fa fb fd sm sat rm
  issue i false { keepPfx := true }
    (fun _ s => .ok (s.setT { s.t with pending := i.word, status := s.t.status ||| 4 })) s

end Sys2Proof.Machine
end

