-- ==== Sys2Proof/Machine/LoadStore.lean ====
section
/-!
DEFINITION. Loads, stores, atomics and the full/empty instructions (spec/20 R313, R314, R329; spec/21 R347, R354, R355; spec/22 R383,
R384).
-/
namespace Sys2Proof.Machine

/-- The address of an M word (R83). -/
def memAddr (ra : Word) (off : BitVec 11) (size : Nat) : Word := ra + off.signExtend 64 * BitVec.ofNat 64 size

/-- log2 of an access size, for the trace (R265). -/
def sizeLog (n : Nat) : Nat := Nat.log2 n

/-- One load of the slot in force (R354): rt takes the extended value when the home answers. -/
def loadAt (rt : Reg) (a : Word) (size : Nat) (sign : Bool) (q : BitVec 2) (s : State) : Eff :=
  match access s .load a size size none q (.load sign) rt with
  | .error e => .error e
  | .ok s1 => .ok (trace s1 3 (sizeLog size) (a.truncate 48))

def load (i : Instr) (sw : Bool) (rt ra : Reg) (off : BitVec 11) (q : BitVec 2) (size : Nat) (sign : Bool) (s : State) : Out :=
  issue i sw { a := some ra, d := [rt] } (fun v s => loadAt rt (memAddr v.a off size) size sign q s) s

def execLdb (rt ra : Reg) (off : BitVec 11) (q : BitVec 2) (sw : Bool) (s : State) : Out := load (.ldb rt ra off q sw) sw rt ra off q 1 true s
def execLdbu (rt ra : Reg) (off : BitVec 11) (q : BitVec 2) (sw : Bool) (s : State) : Out := load (.ldbu rt ra off q sw) sw rt ra off q 1 false s
def execLdh (rt ra : Reg) (off : BitVec 11) (q : BitVec 2) (sw : Bool) (s : State) : Out := load (.ldh rt ra off q sw) sw rt ra off q 2 true s
def execLdhu (rt ra : Reg) (off : BitVec 11) (q : BitVec 2) (sw : Bool) (s : State) : Out := load (.ldhu rt ra off q sw) sw rt ra off q 2 false s
def execLdw (rt ra : Reg) (off : BitVec 11) (q : BitVec 2) (sw : Bool) (s : State) : Out := load (.ldw rt ra off q sw) sw rt ra off q 4 true s
def execLdwu (rt ra : Reg) (off : BitVec 11) (q : BitVec 2) (sw : Bool) (s : State) : Out := load (.ldwu rt ra off q sw) sw rt ra off q 4 false s
def execLdd (rt ra : Reg) (off : BitVec 11) (q : BitVec 2) (sw : Bool) (s : State) : Out := load (.ldd rt ra off q sw) sw rt ra off q 8 false s

/-- One store of the slot in force (R383): the low bytes of the value. -/
def storeAt (a : Word) (size : Nat) (q : BitVec 2) (v : Word) (s : State) : Eff :=
  match access s .store a size size none q (.store (v.zeroExtend 512)) 0 with
  | .error e => .error e
  | .ok s1 => .ok (trace s1 4 (sizeLog size) (a.truncate 48))

/-- rt is a source, read after ra (R364). -/
def store (i : Instr) (sw : Bool) (rt ra : Reg) (off : BitVec 11) (q : BitVec 2) (size : Nat) (s : State) : Out :=
  issue i sw { a := some ra, c := some rt, store := true } (fun v s => storeAt (memAddr v.a off size) size q v.c s) s

def execStb (rt ra : Reg) (off : BitVec 11) (q : BitVec 2) (sw : Bool) (s : State) : Out := store (.stb rt ra off q sw) sw rt ra off q 1 s
def execSth (rt ra : Reg) (off : BitVec 11) (q : BitVec 2) (sw : Bool) (s : State) : Out := store (.sth rt ra off q sw) sw rt ra off q 2 s
def execStw (rt ra : Reg) (off : BitVec 11) (q : BitVec 2) (sw : Bool) (s : State) : Out := store (.stw rt ra off q sw) sw rt ra off q 4 s
def execStd (rt ra : Reg) (off : BitVec 11) (q : BitVec 2) (sw : Bool) (s : State) : Out := store (.std rt ra off q sw) sw rt ra off q 8 s

/-! ## Atomics -/

/-- The width of an atomic in bytes (R313). -/
def amoWidth (aop : Nat) (wd : Bool) : Nat := if aop = 10 then 1 else if wd then 8 else 4

def amoAt (rd : Reg) (aop : Nat) (sc : BitVec 2) (wd : Bool) (v : Vals) (s : State) : Eff :=
  access s .atomic v.a (amoWidth aop wd) (amoWidth aop wd) (some sc) 0 (.amo aop v.b) rd

def amo (i : Instr) (sw : Bool) (rd ra rb : Reg) (aop : Nat) (sc : BitVec 2) (wd : Bool) (s : State) : Out :=
  issue i sw { a := some ra, b := some rb, d := [rd] } (amoAt rd aop sc wd) s

def execAmoAdd (rd ra rb : Reg) (sc : BitVec 2) (wd sw : Bool) (s : State) : Out := amo (.amoAdd rd ra rb sc wd sw) sw rd ra rb 0 sc wd s
def execAmoAnd (rd ra rb : Reg) (sc : BitVec 2) (wd sw : Bool) (s : State) : Out := amo (.amoAnd rd ra rb sc wd sw) sw rd ra rb 1 sc wd s
def execAmoOr (rd ra rb : Reg) (sc : BitVec 2) (wd sw : Bool) (s : State) : Out := amo (.amoOr rd ra rb sc wd sw) sw rd ra rb 2 sc wd s
def execAmoXor (rd ra rb : Reg) (sc : BitVec 2) (wd sw : Bool) (s : State) : Out := amo (.amoXor rd ra rb sc wd sw) sw rd ra rb 3 sc wd s
def execAmoMin (rd ra rb : Reg) (sc : BitVec 2) (wd sw : Bool) (s : State) : Out := amo (.amoMin rd ra rb sc wd sw) sw rd ra rb 4 sc wd s
def execAmoMax (rd ra rb : Reg) (sc : BitVec 2) (wd sw : Bool) (s : State) : Out := amo (.amoMax rd ra rb sc wd sw) sw rd ra rb 5 sc wd s
def execAmoMinu (rd ra rb : Reg) (sc : BitVec 2) (wd sw : Bool) (s : State) : Out := amo (.amoMinu rd ra rb sc wd sw) sw rd ra rb 6 sc wd s
def execAmoMaxu (rd ra rb : Reg) (sc : BitVec 2) (wd sw : Bool) (s : State) : Out := amo (.amoMaxu rd ra rb sc wd sw) sw rd ra rb 7 sc wd s
def execAmoSwap (rd ra rb : Reg) (sc : BitVec 2) (wd sw : Bool) (s : State) : Out := amo (.amoSwap rd ra rb sc wd sw) sw rd ra rb 8 sc wd s
def execAmoFadd32 (rd ra rb : Reg) (sc : BitVec 2) (sw : Bool) (s : State) : Out := amo (.amoFadd32 rd ra rb sc sw) sw rd ra rb 9 sc false s
def execAmoNib (rd ra rb : Reg) (sc : BitVec 2) (sw : Bool) (s : State) : Out := amo (.amoNib rd ra rb sc sw) sw rd ra rb 10 sc false s

/-- CAS (R329): rd holds the expected value and is read after rb. -/
def casAt (rd : Reg) (sc : BitVec 2) (wd : Bool) (v : Vals) (s : State) : Eff :=
  access s .atomic v.a (amoWidth 0 wd) (amoWidth 0 wd) (some sc) 0 (.cas v.c v.b) rd

def execCas (rd ra rb : Reg) (sc : BitVec 2) (wd sw : Bool) (s : State) : Out :=
  issue (.cas rd ra rb sc wd sw) sw { a := some ra, b := some rb, c := some rd, d := [rd] } (casAt rd sc wd) s

/-! ## Full/empty instructions (R347) -/

def execFeget (rd ra : Reg) (sw : Bool) (s : State) : Out :=
  issue (.feget rd ra sw) sw { a := some ra, d := [rd] }
    (fun v s => access s .fe v.a 1 1 none 0 .feget rd) s
def execFeset (ra : Reg) (sw : Bool) (s : State) : Out :=
  issue (.feset ra sw) sw { a := some ra } (fun v s => access s .fe v.a 1 1 none 0 .feset 0) s
def execFeclr (ra : Reg) (sw : Bool) (s : State) : Out :=
  issue (.feclr ra sw) sw { a := some ra } (fun v s => access s .fe v.a 1 1 none 0 .feclr 0) s

end Sys2Proof.Machine
end

