-- ==== Sys2Proof/Machine/System.lean ====
section
/-!
DEFINITION. The system group (spec/20 R324; spec/21 R346; spec/22 R372; spec/23 R391, R393, R394, R409; spec/04_encoding.md R98, R101).
-/
namespace Sys2Proof.Machine

def execTrap (sw : Bool) (s : State) : Out := issue (.trap sw) sw { own := true } (fun _ _ => .error (.trap .trap 0)) s

def execEret (sw : Bool) (s : State) : Out :=
  issue (.eret sw) sw { priv := true, ret := true } (fun _ s => .ok (returnFromHandler s)) s

/-- WFI (R409): it ends when an enabled cause is pending, whatever STATUS.IE holds. -/
def execWfi (sw : Bool) (s : State) : Out :=
  issue (.wfi sw) sw { priv := true }
    (fun _ s => if waitHolds s s.cur .interrupt then .ok s else .error (.park s .interrupt)) s

def execBkpt (sw : Bool) (s : State) : Out :=
  issue (.bkpt sw) sw { own := true } (fun _ s => .error (if s.slot.bkptctl.getLsbD 17 then .halt else .trap .bkpt 0)) s

/-- TLBINV (R149, R391): translations of the slot's context leave every TLB of the package. -/
def tlbinvAt (ra : Reg) (a : Word) (s : State) : Eff :=
  if !released s then .error .stall
  else if ra = 0 then .ok { s with tlb := s.tlb.filter (fun e => e.ctx ≠ s.asker.ctx) }
  else if bitsOf a 60 4 ≤ 1 && bitsOf a 45 15 = 0 then
    .ok { s with tlb := s.tlb.filter (fun e => !(e.hits s.asker.ctx (bitsOf a 0 45))) }
  else .error (.trap .path a)

def execTlbinv (ra : Reg) (sw : Bool) (s : State) : Out :=
  issue (.tlbinv ra sw) sw { a := some ra, priv := true } (fun v s => tlbinvAt ra v.a s) s

/-- ROINV (R372). -/
def execRoinv (sw : Bool) (s : State) : Out :=
  issue (.roinv sw) sw {} (fun _ s => if readsPending s then .error .stall else .ok (roEmpty s s.cluster)) s

/-- TMARK (R393). -/
def execTmark (ra : Reg) (sw : Bool) (s : State) : Out :=
  issue (.tmark ra sw) sw { a := some ra } (fun v s => .ok (trace s 7 0 (v.a.truncate 48))) s

/-- A word that is no instruction takes ILLOP with TVAL = the word (R101). -/
def execIllopEncoding (w : IWord) (s : State) : Out := issue (.illopEncoding w) false { mixed := fun _ => true } (fun _ s => .ok s) s

end Sys2Proof.Machine
end

