-- ==== Sys2Proof/Machine/Vector.lean ====
section
/-!
DEFINITION. The vector group and the element group (spec/23 R388 to R408; spec/03_numbers.md R44 to R47; spec/04_encoding.md R66, R67,
R93, R94).
-/
namespace Sys2Proof.Machine

/-! ## Formats of the vector group (R29, R389) -/

/-- The formats of R29's vector arithmetic column. -/
def Fmt.vec (f : Fmt) : Bool := (f.isFloat || f.isInt) && 8 ≤ f.width

/-- A format field with the default of FP32. -/
def vfmt (code : Nat) : Fmt := (fmtOr fmtFP32 code).getD fmtFP32
def vfmtOk (code : Nat) : Bool := match fmtOr fmtFP32 code with | some f => f.vec | none => false

/-- The three formats of a V word; a unary one reads no fb. An sm of 4 to 7 is refused, as R102's worked case does for VADD, though R86 lists
sm for the loom's commands only (DEDUCED, log 86). -/
def fmts3 (un : Bool) (p : FmtWord) (ok : Fmt → Fmt → Fmt → Bool) : Bool :=
  let b := if un then p.fa else p.fb
  p.sm < 4 && vfmtOk p.fa && vfmtOk b && vfmtOk p.fd && (vfmt p.fa).width = (vfmt p.fd).width && (vfmt b).width = (vfmt p.fd).width
    && ok (vfmt p.fa) (vfmt b) (vfmt p.fd)

def okArith (a b d : Fmt) : Bool := (a.isFloat && b.isFloat && d.isFloat) || (a.isInt && b.isInt && d.isInt)
def okFloat (a b d : Fmt) : Bool := a.isFloat && b.isFloat && d.isFloat
def okCompare (a b _d : Fmt) : Bool := (a.isFloat && b.isFloat) || (a.isInt && b.isInt)
def okSeed (a _b d : Fmt) : Bool := a = fmtFP32 && d = fmtFP32
def okBits (_a _b _d : Fmt) : Bool := true

/-! ## Element operations -/

/-- An operation on one element: formats, mode, saturation, then the codes x, y and z. -/
abbrev ElemOp := Fmt → Fmt → Fmt → RMode → Bool → Nat → Nat → Nat → Nat × Flags

/-- The integer value of a code (R37). -/
def intOf (f : Fmt) (c : Nat) : Int := (f.value c).at.1

/-- An integer result reduced into its format (R398). -/
def intResult (d : Fmt) (sat : Bool) (v : Int) : Nat × Flags :=
  (intCode d.width (if sat then (if v < d.intMin then d.intMin else if v > d.intMax then d.intMax else v) else v), 0)

/-- A result that is exact in its own format, or rounded when the format differs (R398, R402). -/
def moveTo (src d : Fmt) (rm : RMode) (sat : Bool) (x : Num) : Nat × Flags := d.round x rm (sat && src.code ≠ d.code)

/-- An arithmetic operation given on numbers and on integers. -/
def arith (fl : RMode → Num → Num → Num → Num × Flags) (int : Int → Int → Int) : ElemOp :=
  fun a b d rm sat x y z =>
    if d.isInt then intResult d sat (int (intOf a x) (intOf b y))
    else
      let r := fl rm (a.value x) (b.value y) (d.value z)
      let q := d.roundFloat r.1 rm sat
      (q.1, r.2 ||| q.2)

def elemAdd : ElemOp := arith (fun rm x y _ => x.add y rm) (· + ·)
def elemSub : ElemOp := arith (fun rm x y _ => x.add y.neg rm) (· - ·)
def elemMul : ElemOp := arith (fun _ x y _ => x.mul y) (· * ·)
def elemFma : ElemOp := arith (fun rm x y z => x.fma y z rm) (fun _ _ => 0)
def elemFms : ElemOp := arith (fun rm x y z => x.fma y z.neg rm) (fun _ _ => 0)
def elemFnma : ElemOp := arith (fun rm x y z => x.neg.fma y z rm) (fun _ _ => 0)

/-- VMIN and VMAX (R47, R398): takeY says when y is taken of two numbers. -/
def elemPick (takeY : Num → Num → Bool) (int : Int → Int → Int) : ElemOp :=
  fun a b d rm sat x y _ =>
    if d.isInt then intResult d sat (int (intOf a x) (intOf b y))
    else
      let u := a.value x
      let v := b.value y
      if v.isNan || (!u.isNan && !takeY u v) then moveTo a d rm sat u else moveTo b d rm sat v

def elemMin : ElemOp := elemPick (fun u v => v.lt u) min
def elemMax : ElemOp := elemPick (fun u v => u.lt v) max

/-- VABS and VNEG (R398). -/
def elemSign (fl : Num → Num) (int : Int → Int) : ElemOp :=
  fun a _ d rm sat x _ _ => if d.isInt then intResult d sat (int (intOf a x)) else moveTo a d rm sat (fl (a.value x))

def elemAbs : ElemOp := elemSign Num.abs (fun v => v.natAbs)
def elemNeg : ElemOp := elemSign Num.neg (fun v => -v)

/-- VCVT (R402). -/
def elemCvt : ElemOp := fun a _ d rm sat x _ _ => moveTo a d rm sat (a.value x)

/-- A mask element (R401). -/
def maskElem (d : Fmt) (b : Bool) : Nat := if b then 2 ^ d.width - 1 else 0

def elemCmp (rel : Num → Num → Bool) (quiet : Bool) : ElemOp :=
  fun a b d _ _ x y _ =>
    let u := a.value x
    let v := b.value y
    (maskElem d (rel u v), flagIf (!quiet && (u.isNan || v.isNan)) flagNV)

def elemEq : ElemOp := elemCmp Num.cmpEq true
def elemLt : ElemOp := elemCmp Num.cmpLt false
def elemLe : ElemOp := elemCmp (fun u v => u.cmpLt v || u.cmpEq v) false

/-- Truncation toward zero of a finite y (R406), limited to exponents whose every result is the same beyond them. -/
def truncExp (neg : Bool) (m : Nat) (e : Int) : Int :=
  let k := if e ≥ 0 then (if e > 64 then m * 2 ^ 64 else m <<< e.toNat) else if m.log2 < (-e).toNat then 0 else m >>> (-e).toNat
  signed neg (min k 4096)

/-- VSCALE (R406). -/
def elemScale : ElemOp := fun a b d rm sat x y _ =>
  let u := a.value x
  match u, b.value y with
  | .nan, _ => (d.nan, 0)
  | _, .nan => (d.nan, 0)
  | .fin n m e, .fin yn ym ye => d.roundFloat (.fin n m (if m = 0 then e else e + truncExp yn ym ye)) rm sat
  | .inf n, .fin _ _ _ => d.roundFloat (.inf n) rm sat
  | .inf n, .inf false => d.roundFloat (.inf n) rm sat
  | .inf _, .inf true => (d.nan, flagNV)
  | .fin n m _, .inf false =>
    if m = 0 then (d.nan, flagNV) else if n && !d.signed then (d.nan, flagNV) else d.overflow n rm sat
  | .fin n m _, .inf true =>
    if m = 0 then d.roundFloat u rm sat
    else (if n && d.cls = .ieee then d.withSign true 0 else 0, flagUF ||| flagNX)

/-- VXEXP (R406). -/
def elemXexp : ElemOp := fun a _ d rm sat x _ _ =>
  match a.value x with
  | .nan => (d.nan, 0)
  | .inf _ => d.roundFloat (.inf false) rm sat
  | .fin _ m e =>
    if m = 0 then
      let q := d.roundFloat (.inf true) rm sat
      (q.1, q.2 ||| flagDZ)
    else d.roundFloat (Num.ofInt ((m.log2 : Int) + e) 0 false) rm sat

def elemRsqs : ElemOp := fun a _ _ _ _ x _ _ => rsqrt13 (a.value x)
def elemRcps : ElemOp := fun a _ _ _ _ x _ _ => recip13 (a.value x)

/-- Operations on the bits of an element of w bits (R399, R403, R407, R408). -/
def bitsOp (f : Nat → Nat → Nat → Nat → Nat) : ElemOp := fun _ _ d _ _ x y z => (f d.width x y z % 2 ^ d.width, 0)

def elemMov : ElemOp := bitsOp (fun _ x _ _ => x)
def elemSel : ElemOp := bitsOp (fun _ x y z => if x ≠ 0 then y else z)
def elemAnd : ElemOp := bitsOp (fun _ x y _ => x &&& y)
def elemOr : ElemOp := bitsOp (fun _ x y _ => x ||| y)
def elemXor : ElemOp := bitsOp (fun _ x y _ => x ^^^ y)
def elemShl : ElemOp := bitsOp (fun w x y _ => x * 2 ^ (y % w))
def elemShr : ElemOp := bitsOp (fun w x y _ => x / 2 ^ (y % w))
def elemSra : ElemOp := bitsOp (fun w x y _ => intCode w ((BitVec.ofNat w x).toInt / (2 ^ (y % w) : Nat)))

/-! ## A V word (R388) -/

/-- The range of a slice index (R66). -/
def sliceOk (col : Bool) (w : Nat) (i : Word) : Bool := i.toNat < (if col then 512 / w else 16)

/-- A tile and orientation. -/
structure Slice where
  m   : BitVec 2
  col : Bool
  deriving DecidableEq, Repr

/-- A mix of row and column slices at a width below 32 bits (R66). -/
def mixBelow32 (d a b : Slice) (p : FmtWord) : Bool :=
  (d.col ≠ a.col || d.col ≠ b.col) && (match fmtOr fmtFP32 p.fd with | some f => decide (f.width < 32) | none => false)

/-- The operation on the elements of three slices at one index; n elements, at the widths of a, b and d. -/
def sliceOp (op : ElemOp) (fa fb fd : Fmt) (rm : RMode) (sat : Bool) (n : Nat) (d a b : Slice) (i : Nat) (s : State) : State :=
  let xs := sliceElems s.t a.m.toNat a.col i fa.width
  let ys := sliceElems s.t b.m.toNat b.col i fb.width
  let zs := sliceElems s.t d.m.toNat d.col i fd.width
  let rs := (List.range n).map (fun e => op fa fb fd rm sat (xs.getD e 0) (ys.getD e 0) (zs.getD e 0))
  raiseFlags (s.setT (setSlice s.t d.m.toNat d.col i fd.width (rs.map Prod.fst))) (flagsOf (rs.map Prod.snd))

/-- The body of a V word: the slice index, the SLICE checks, the operation. -/
def vecBody (un : Bool) (op : ElemOp) (d a b : Slice) (k : BitVec 5) (p : FmtWord) (v : Vals) (s : State) : Eff :=
  let i := v.b + k.zeroExtend 64
  let fd := vfmt p.fd
  let w := fd.width
  if !(sliceOk d.col w i && sliceOk a.col w i && (un || sliceOk b.col w i)) then .error (.trap .slice i)
  else .ok (sliceOp op (vfmt p.fa) (vfmt (if un then p.fa else p.fb)) fd (rmodeOfCode p.rm) p.sat (if d.col || a.col || (!un && b.col) then 16 else 512 / w) d a b i.toNat s)

def vec (ins : Instr) (sw : Bool) (un : Bool) (ok : Fmt → Fmt → Fmt → Bool) (op : ElemOp) (d a b : Slice) (xi : Reg) (k : BitVec 5)
    (s : State) : Out :=
  let u : Use := { b := some xi, pfx := true, fmtOk := fun p => fmts3 un p ok, mixed := mixBelow32 d a (if un then a else b),
                   tiles := [d.m.toNat, a.m.toNat, b.m.toNat] }
  issue ins sw u (vecBody un op d a b k s.t.fmt) s

def execVadd (md ma mb : BitVec 2) (od oa ob : Bool) (xi : Reg) (k : BitVec 5) (sw : Bool) (s : State) : Out :=
  vec (.vadd md ma mb od oa ob xi k sw) sw false okArith elemAdd ⟨md, od⟩ ⟨ma, oa⟩ ⟨mb, ob⟩ xi k s
def execVsub (md ma mb : BitVec 2) (od oa ob : Bool) (xi : Reg) (k : BitVec 5) (sw : Bool) (s : State) : Out :=
  vec (.vsub md ma mb od oa ob xi k sw) sw false okArith elemSub ⟨md, od⟩ ⟨ma, oa⟩ ⟨mb, ob⟩ xi k s
def execVmul (md ma mb : BitVec 2) (od oa ob : Bool) (xi : Reg) (k : BitVec 5) (sw : Bool) (s : State) : Out :=
  vec (.vmul md ma mb od oa ob xi k sw) sw false okArith elemMul ⟨md, od⟩ ⟨ma, oa⟩ ⟨mb, ob⟩ xi k s
def execVfma (md ma mb : BitVec 2) (od oa ob : Bool) (xi : Reg) (k : BitVec 5) (sw : Bool) (s : State) : Out :=
  vec (.vfma md ma mb od oa ob xi k sw) sw false okFloat elemFma ⟨md, od⟩ ⟨ma, oa⟩ ⟨mb, ob⟩ xi k s
def execVfms (md ma mb : BitVec 2) (od oa ob : Bool) (xi : Reg) (k : BitVec 5) (sw : Bool) (s : State) : Out :=
  vec (.vfms md ma mb od oa ob xi k sw) sw false okFloat elemFms ⟨md, od⟩ ⟨ma, oa⟩ ⟨mb, ob⟩ xi k s
def execVfnma (md ma mb : BitVec 2) (od oa ob : Bool) (xi : Reg) (k : BitVec 5) (sw : Bool) (s : State) : Out :=
  vec (.vfnma md ma mb od oa ob xi k sw) sw false okFloat elemFnma ⟨md, od⟩ ⟨ma, oa⟩ ⟨mb, ob⟩ xi k s
def execVmin (md ma mb : BitVec 2) (od oa ob : Bool) (xi : Reg) (k : BitVec 5) (sw : Bool) (s : State) : Out :=
  vec (.vmin md ma mb od oa ob xi k sw) sw false okArith elemMin ⟨md, od⟩ ⟨ma, oa⟩ ⟨mb, ob⟩ xi k s
def execVmax (md ma mb : BitVec 2) (od oa ob : Bool) (xi : Reg) (k : BitVec 5) (sw : Bool) (s : State) : Out :=
  vec (.vmax md ma mb od oa ob xi k sw) sw false okArith elemMax ⟨md, od⟩ ⟨ma, oa⟩ ⟨mb, ob⟩ xi k s
def execVscale (md ma mb : BitVec 2) (od oa ob : Bool) (xi : Reg) (k : BitVec 5) (sw : Bool) (s : State) : Out :=
  vec (.vscale md ma mb od oa ob xi k sw) sw false okFloat elemScale ⟨md, od⟩ ⟨ma, oa⟩ ⟨mb, ob⟩ xi k s
def execVcmpeq (md ma mb : BitVec 2) (od oa ob : Bool) (xi : Reg) (k : BitVec 5) (sw : Bool) (s : State) : Out :=
  vec (.vcmpeq md ma mb od oa ob xi k sw) sw false okCompare elemEq ⟨md, od⟩ ⟨ma, oa⟩ ⟨mb, ob⟩ xi k s
def execVcmplt (md ma mb : BitVec 2) (od oa ob : Bool) (xi : Reg) (k : BitVec 5) (sw : Bool) (s : State) : Out :=
  vec (.vcmplt md ma mb od oa ob xi k sw) sw false okCompare elemLt ⟨md, od⟩ ⟨ma, oa⟩ ⟨mb, ob⟩ xi k s
def execVcmple (md ma mb : BitVec 2) (od oa ob : Bool) (xi : Reg) (k : BitVec 5) (sw : Bool) (s : State) : Out :=
  vec (.vcmple md ma mb od oa ob xi k sw) sw false okCompare elemLe ⟨md, od⟩ ⟨ma, oa⟩ ⟨mb, ob⟩ xi k s
def execVsel (md ma mb : BitVec 2) (od oa ob : Bool) (xi : Reg) (k : BitVec 5) (sw : Bool) (s : State) : Out :=
  vec (.vsel md ma mb od oa ob xi k sw) sw false okBits elemSel ⟨md, od⟩ ⟨ma, oa⟩ ⟨mb, ob⟩ xi k s
def execVand (md ma mb : BitVec 2) (od oa ob : Bool) (xi : Reg) (k : BitVec 5) (sw : Bool) (s : State) : Out :=
  vec (.vand md ma mb od oa ob xi k sw) sw false okBits elemAnd ⟨md, od⟩ ⟨ma, oa⟩ ⟨mb, ob⟩ xi k s
def execVor (md ma mb : BitVec 2) (od oa ob : Bool) (xi : Reg) (k : BitVec 5) (sw : Bool) (s : State) : Out :=
  vec (.vor md ma mb od oa ob xi k sw) sw false okBits elemOr ⟨md, od⟩ ⟨ma, oa⟩ ⟨mb, ob⟩ xi k s
def execVxor (md ma mb : BitVec 2) (od oa ob : Bool) (xi : Reg) (k : BitVec 5) (sw : Bool) (s : State) : Out :=
  vec (.vxor md ma mb od oa ob xi k sw) sw false okBits elemXor ⟨md, od⟩ ⟨ma, oa⟩ ⟨mb, ob⟩ xi k s
def execVshl (md ma mb : BitVec 2) (od oa ob : Bool) (xi : Reg) (k : BitVec 5) (sw : Bool) (s : State) : Out :=
  vec (.vshl md ma mb od oa ob xi k sw) sw false okBits elemShl ⟨md, od⟩ ⟨ma, oa⟩ ⟨mb, ob⟩ xi k s
def execVshr (md ma mb : BitVec 2) (od oa ob : Bool) (xi : Reg) (k : BitVec 5) (sw : Bool) (s : State) : Out :=
  vec (.vshr md ma mb od oa ob xi k sw) sw false okBits elemShr ⟨md, od⟩ ⟨ma, oa⟩ ⟨mb, ob⟩ xi k s
def execVsra (md ma mb : BitVec 2) (od oa ob : Bool) (xi : Reg) (k : BitVec 5) (sw : Bool) (s : State) : Out :=
  vec (.vsra md ma mb od oa ob xi k sw) sw false okBits elemSra ⟨md, od⟩ ⟨ma, oa⟩ ⟨mb, ob⟩ xi k s
def execVabs (md ma : BitVec 2) (od oa : Bool) (xi : Reg) (k : BitVec 5) (sw : Bool) (s : State) : Out :=
  vec (.vabs md ma od oa xi k sw) sw true okArith elemAbs ⟨md, od⟩ ⟨ma, oa⟩ ⟨ma, oa⟩ xi k s
def execVneg (md ma : BitVec 2) (od oa : Bool) (xi : Reg) (k : BitVec 5) (sw : Bool) (s : State) : Out :=
  vec (.vneg md ma od oa xi k sw) sw true okArith elemNeg ⟨md, od⟩ ⟨ma, oa⟩ ⟨ma, oa⟩ xi k s
def execVrsqs (md ma : BitVec 2) (od oa : Bool) (xi : Reg) (k : BitVec 5) (sw : Bool) (s : State) : Out :=
  vec (.vrsqs md ma od oa xi k sw) sw true okSeed elemRsqs ⟨md, od⟩ ⟨ma, oa⟩ ⟨ma, oa⟩ xi k s
def execVrcps (md ma : BitVec 2) (od oa : Bool) (xi : Reg) (k : BitVec 5) (sw : Bool) (s : State) : Out :=
  vec (.vrcps md ma od oa xi k sw) sw true okSeed elemRcps ⟨md, od⟩ ⟨ma, oa⟩ ⟨ma, oa⟩ xi k s
def execVxexp (md ma : BitVec 2) (od oa : Bool) (xi : Reg) (k : BitVec 5) (sw : Bool) (s : State) : Out :=
  vec (.vxexp md ma od oa xi k sw) sw true okFloat elemXexp ⟨md, od⟩ ⟨ma, oa⟩ ⟨ma, oa⟩ xi k s
def execVmov (md ma : BitVec 2) (od oa : Bool) (xi : Reg) (k : BitVec 5) (sw : Bool) (s : State) : Out :=
  vec (.vmov md ma od oa xi k sw) sw true okBits elemMov ⟨md, od⟩ ⟨ma, oa⟩ ⟨ma, oa⟩ xi k s

/-! ## VCVT (R402) -/

def cvtFmtOk (p : FmtWord) : Bool := vfmtOk p.fa && vfmtOk p.fd

/-- A mix requires both widths to be 32 bits. -/
def cvtMixed (od oa : Bool) (p : FmtWord) : Bool :=
  let narrow (c : Nat) : Bool := match fmtOr fmtFP32 c with | some f => decide (f.width < 32) | none => false
  od ≠ oa && (narrow p.fa || narrow p.fd)

def cvtBody (d a : Slice) (k : BitVec 5) (p : FmtWord) (v : Vals) (s : State) : Eff :=
  let i := v.b + k.zeroExtend 64
  let fa := vfmt p.fa
  let fd := vfmt p.fd
  if !(sliceOk d.col fd.width i && sliceOk a.col fa.width i) then .error (.trap .slice i)
  else .ok (sliceOp elemCvt fa fa fd (rmodeOfCode p.rm) p.sat (if d.col || a.col then 16 else 512 / max fa.width fd.width) d a a i.toNat s)

def execVcvt (md ma : BitVec 2) (od oa : Bool) (xi : Reg) (k : BitVec 5) (sw : Bool) (s : State) : Out :=
  let u : Use := { b := some xi, pfx := true, fmtOk := cvtFmtOk, mixed := cvtMixed od oa, tiles := [md.toNat, ma.toNat] }
  issue (.vcvt md ma od oa xi k sw) sw u (cvtBody ⟨md, od⟩ ⟨ma, oa⟩ k s.t.fmt) s

/-! ## Whole tiles (R397) -/

def execTzero (md : BitVec 2) (sw : Bool) (s : State) : Out :=
  issue (.tzero md sw) sw { tiles := [md.toNat] }
    (fun _ s => .ok (s.setT ((List.range 16).foldl (fun t r => setTileRow t md.toNat r 0) s.t))) s

/-- Row r of a transposed tile: column r of the tile. -/
def transposedRow (t : Task) (m r : Nat) : BitVec 512 :=
  (List.range 16).foldl (fun x c => putBits x (32 * c) 32 (elemOf t m c r 32)) 0

def execTtr (md ma : BitVec 2) (sw : Bool) (s : State) : Out :=
  issue (.ttr md ma sw) sw { tiles := [md.toNat, ma.toNat] }
    (fun _ s => .ok (s.setT ((List.range 16).foldl (fun t r => setTileRow t md.toNat r (transposedRow s.t ma.toNat r)) s.t))) s

/-! ## The element group (R400, R405) -/

/-- The width of VGET, VPUT and VBCAST. -/
def elemWidthOk (p : FmtWord) : Bool := match fmtOr fmtFP32 p.fd with | some f => f.width = 8 || f.width = 16 || f.width = 32 | none => false

/-- The row and element checks of R400. -/
def rowTrap (row : Word) (k : Option (Nat × Nat)) : Option Word :=
  if 16 ≤ row.toNat then some row
  else match k with
    | some (k, w) => if 512 / w ≤ k then some (BitVec.ofNat 64 k) else none
    | none => none

def execVget (mt : BitVec 2) (xs xi : Reg) (k : BitVec 6) (sw : Bool) (s : State) : Out :=
  let w := (vfmt s.t.fmt.fd).width
  issue (.vget mt xs xi k sw) sw { b := some xi, d := [xs], pfx := true, fmtOk := elemWidthOk, tiles := [mt.toNat] }
    (fun v s =>
      match rowTrap v.b (some (k.toNat, w)) with
      | some x => .error (.trap .slice x)
      | none => result s xs (BitVec.ofNat 64 (elemOf s.t mt.toNat v.b.toNat k.toNat w))) s

def execVput (mt : BitVec 2) (xs xi : Reg) (k : BitVec 6) (sw : Bool) (s : State) : Out :=
  let w := (vfmt s.t.fmt.fd).width
  issue (.vput mt xs xi k sw) sw { b := some xi, c := some xs, pfx := true, fmtOk := elemWidthOk, tiles := [mt.toNat] }
    (fun v s =>
      match rowTrap v.b (some (k.toNat, w)) with
      | some x => .error (.trap .slice x)
      | none => .ok (s.setT (setElem s.t mt.toNat v.b.toNat k.toNat w v.c.toNat))) s

def execVbcast (mt : BitVec 2) (xs xi : Reg) (sw : Bool) (s : State) : Out :=
  let w := (vfmt s.t.fmt.fd).width
  issue (.vbcast mt xs xi sw) sw { b := some xi, c := some xs, pfx := true, fmtOk := elemWidthOk, tiles := [mt.toNat] }
    (fun v s =>
      match rowTrap v.b none with
      | some x => .error (.trap .slice x)
      | none => .ok (s.setT (setSlice s.t mt.toNat false v.b.toNat w (List.replicate (512 / w) v.c.toNat)))) s

/-- The sum of a row, rounded once (R46). -/
def rowSum (fa fd : Fmt) (rm : RMode) (sat : Bool) (xs : List Nat) : Nat × Flags :=
  let r := exactSum (xs.map fa.value) rm
  let q := fd.roundFloat r.1 rm sat
  (q.1, r.2 ||| q.2)

/-- The largest element of a row (R46). -/
def rowMax (fa : Fmt) (xs : List Nat) : Nat :=
  if anyNan (xs.map fa.value) then fa.nan
  else match xs with
    | [] => 0
    | x :: rest => rest.foldl (fun m y => if (fa.value m).lt (fa.value y) then y else m) x

def execVreds (mt : BitVec 2) (xs xi : Reg) (sw : Bool) (s : State) : Out :=
  let p := s.t.fmt
  let ok (p : FmtWord) : Bool :=
    vfmtOk p.fa && vfmtOk p.fd && (vfmt p.fa).isFloat && (vfmt p.fd).isFloat && (vfmt p.fa).width = (vfmt p.fd).width
  issue (.vreds mt xs xi sw) sw { b := some xi, d := [xs], pfx := true, fmtOk := ok, tiles := [mt.toNat] }
    (fun v s =>
      match rowTrap v.b none with
      | some x => .error (.trap .slice x)
      | none =>
        let r := rowSum (vfmt p.fa) (vfmt p.fd) (rmodeOfCode p.rm) p.sat (sliceElems s.t mt.toNat false v.b.toNat (vfmt p.fa).width)
        result (raiseFlags s r.2) xs (BitVec.ofNat 64 r.1)) s

def execVredm (mt : BitVec 2) (xs xi : Reg) (sw : Bool) (s : State) : Out :=
  let p := s.t.fmt
  issue (.vredm mt xs xi sw) sw { b := some xi, d := [xs], pfx := true, fmtOk := fun p => vfmtOk p.fa, tiles := [mt.toNat] }
    (fun v s =>
      match rowTrap v.b none with
      | some x => .error (.trap .slice x)
      | none =>
        result s xs (BitVec.ofNat 64 (rowMax (vfmt p.fa) (sliceElems s.t mt.toNat false v.b.toNat (vfmt p.fa).width)))) s

end Sys2Proof.Machine
end

