-- ==== Sys2Proof/Machine/Tile.lean ====
section
/-!
DEFINITION. TLD and TST (spec/23 R392; spec/04_encoding.md R95; spec/07_memory.md R138, R143, R144).
-/
namespace Sys2Proof.Machine

/-- fd may be any format but FX96 (R392). -/
def tileFmtOk (p : FmtWord) : Bool := match fmtOr fmtFP32 p.fd with | some f => f.cls ≠ .fixed | none => false

/-- Bytes that a slice moves. -/
def sliceBytes (col : Bool) (w : Nat) : Nat := if col then 2 * w else 64

/-- The pieces of a part that act separately: its granules, under a qualifier (R138, R392). -/
def granuleParts (q : BitVec 2) (p : Nat × Nat) : List (Nat × Nat) :=
  if q = 0 then [p] else (List.range ((p.2 + 15) / 16)).map (fun i => (p.1 + 16 * i, min 16 (p.2 - 16 * i)))

/-- The parts of an access, one per home (R138, R392), in the pieces that act separately. -/
def tileParts (q : BitVec 2) (a len : Nat) : List (Nat × Nat) := (splitParts 64 a 0 len).flatMap (granuleParts q)

/-- The parts on another device: only a scratchpad's homes divide 64 aligned bytes (R139). -/
def farParts (a : Word) (len : Nat) : List (Nat × Nat) :=
  if tokOf a = some .pad4 then (List.range ((len + 31) / 32)).map (fun i => (32 * i, min 32 (len - 32 * i))) else [(0, len)]

/-- One piece of a part reaches its home. -/
def tilePart (a : Word) (pa : Nat) (q : BitVec 2) (op : Nat → Nat → HomeOp) (dst : Nat → Dst) (parts : Nat) (s : State) (p : Nat × Nat) : State :=
  match request s { heldOf s (pa + p.1) p.2 q (op p.1 p.2) (dst p.1) parts with va := a } with
  | (s1, none) => s1
  | (s1, some v) => writeDst s1 s1.cur (dst p.1) false p.2 v

/-- One piece of a part, of the number given, is sent to another device. -/
def tileFar (d : Nat) (a : Word) (q : BitVec 2) (op : Nat → Nat → HomeOp) (dst : Nat → Dst) (hold : Bool) (s : State)
    (p : (Nat × Nat) × Nat) : State :=
  let o := op p.1.1 p.1.2
  let r := remoteOf s d (a + BitVec.ofNat 64 p.1.1) p.1.2 q (remoteOp o) ((opValue o).zeroExtend 4096) (dst p.1.1) (opSign o) hold
  markPend { s with remote := s.remote ++ [{ r with tag := p.2 + 1 }] } s.cur (dst p.1.1)

/-- A TLD or TST with parts still to come keeps its prefix pending, and its slot waits (R86, R138). -/
def tileWaits (s : State) : State :=
  if s.t.hasPrefix && s.t.wait.isNone && tilesDue s s.cur then s.setT { s.t with wait := some .tile } else s

/-- The access of a slice, all checks made (R133, R226, R392). -/
def tileAccess (k : Access) (a : Word) (len : Nat) (q : BitVec 2) (op : Nat → Nat → HomeOp) (dst : Nat → Dst) (s : State) : Eff :=
  if tokOf a = some .regs then .error (.trap .path a)
  else match locate s s.asker k a len 64 none q with
    | .error c => .error (.trap c a)
    | .ok (s1, p) =>
      let stores := k = .store
      if (match p with | .mem pa _ => stores && inArmed s1 pa len | _ => false) then .error (.trap .prot a)
      else match checkData s [(a, stores)] with
      | .error e => .error e
      | .ok _ =>
        match p with
        | .mem pa _ =>
          let ps := tileParts q pa len
          if checkedAccess p a && stores && blockedHere s1 pa len then .error .stall
          else if outstandingCore s1 s1.core + (splitParts 64 pa 0 len).length > 64 then .error .stall
          else .ok (tileWaits (ps.foldl (tilePart a pa q op dst ps.length) s1))
        | .ro va pa =>
          if (owned s1 pa len || outstandingCore s1 s1.core ≥ 64) && !roHit s1 s1.cluster s1.asker.ctx va then .error .stall
          else
            let r := roRead s1 s1.cluster s1.asker.ctx va pa len
            .ok (writeDst r.1 r.1.cur (dst 0) false len r.2)
        | .remote d =>
          let ps := farParts a len
          let hold := checkedAccess p a && stores
          if replayCount s1 s1.core ≥ 16 || outstandingCore s1 s1.core + ps.length > 64 then .error .stall
          else
            let s2 := (ps.zipIdx.flatMap (fun p => (granuleParts q p.1).map (fun g => (g, p.2)))).foldl (tileFar d a q op dst hold) s1
            .ok (tileWaits (if hold then awaitAnswer s2 else s2))
        | .reg _ _ => .error (.trap .path a)

/-- The body of both instructions: the index check, then the access. -/
def tileBody (store : Bool) (mt : BitVec 2) (o : Bool) (k : BitVec 5) (q : BitVec 2) (w : Nat) (v : Vals) (s : State) : Eff :=
  let i := v.b + k.zeroExtend 64
  let len := sliceBytes o w
  if !sliceOk o w i then .error (.trap .slice i)
  else
    let image : BitVec 512 := BitVec.ofNat 512 (sliceNat s.t mt.toNat o i.toNat w)
    let r := if store then tileAccess .store v.a len q (fun off n => .store (BitVec.ofNat 512 (getBits image (8 * off) (8 * n)))) (fun _ => .none) s
      else tileAccess .load v.a len q (fun _ _ => .load false) (fun off => .slice mt.toNat o i.toNat w off) s
    match r with
    | .error e => .error e
    | .ok s1 => .ok (trace s1 (if store then 4 else 3) (sizeLog len) (v.a.truncate 48))

def tileUse (mt : BitVec 2) (ra xi : Reg) : Use := { a := some ra, b := some xi, pfx := true, fmtOk := tileFmtOk, tiles := [mt.toNat] }

def execTld (mt : BitVec 2) (o : Bool) (ra xi : Reg) (k : BitVec 5) (q : BitVec 2) (sw : Bool) (s : State) : Out :=
  issue (.tld mt o ra xi k q sw) sw (tileUse mt ra xi) (tileBody false mt o k q (vfmt s.t.fmt.fd).width) s

def execTst (mt : BitVec 2) (o : Bool) (ra xi : Reg) (k : BitVec 5) (q : BitVec 2) (sw : Bool) (s : State) : Out :=
  issue (.tst mt o ra xi k q sw) sw (tileUse mt ra xi) (tileBody true mt o k q (vfmt s.t.fmt.fd).width) s

end Sys2Proof.Machine
end

