-- ==== Sys2Proof/Machine/Dispatch.lean ====
section
/-!
DEFINITION. The meaning of every row of the opcode table, one arm per constructor of Instr.
-/
namespace Sys2Proof.Machine

/-- One step of the machine by the row that takes it. -/
def exec (i : Instr) (s : State) : Host.Outcome State Fault Refusal :=
  match i with
  | .add rd ra rb sw => Sys2Proof.Machine.execAdd rd ra rb sw s
  | .sub rd ra rb sw => Sys2Proof.Machine.execSub rd ra rb sw s
  | .and rd ra rb sw => Sys2Proof.Machine.execAnd rd ra rb sw s
  | .or rd ra rb sw => Sys2Proof.Machine.execOr rd ra rb sw s
  | .xor rd ra rb sw => Sys2Proof.Machine.execXor rd ra rb sw s
  | .shl rd ra rb sw => Sys2Proof.Machine.execShl rd ra rb sw s
  | .shr rd ra rb sw => Sys2Proof.Machine.execShr rd ra rb sw s
  | .sra rd ra rb sw => Sys2Proof.Machine.execSra rd ra rb sw s
  | .slt rd ra rb sw => Sys2Proof.Machine.execSlt rd ra rb sw s
  | .sltu rd ra rb sw => Sys2Proof.Machine.execSltu rd ra rb sw s
  | .min rd ra rb sw => Sys2Proof.Machine.execMin rd ra rb sw s
  | .max rd ra rb sw => Sys2Proof.Machine.execMax rd ra rb sw s
  | .minu rd ra rb sw => Sys2Proof.Machine.execMinu rd ra rb sw s
  | .maxu rd ra rb sw => Sys2Proof.Machine.execMaxu rd ra rb sw s
  | .sel rd ra rb sw => Sys2Proof.Machine.execSel rd ra rb sw s
  | .mix rd ra rb sw => Sys2Proof.Machine.execMix rd ra rb sw s
  | .clz rd ra sw => Sys2Proof.Machine.execClz rd ra sw s
  | .ctz rd ra sw => Sys2Proof.Machine.execCtz rd ra sw s
  | .popc rd ra sw => Sys2Proof.Machine.execPopc rd ra sw s
  | .mul rd ra rb sw => Sys2Proof.Machine.execMul rd ra rb sw s
  | .mulh rd ra rb sw => Sys2Proof.Machine.execMulh rd ra rb sw s
  | .mulhu rd ra rb sw => Sys2Proof.Machine.execMulhu rd ra rb sw s
  | .div rd ra rb sw => Sys2Proof.Machine.execDiv rd ra rb sw s
  | .divu rd ra rb sw => Sys2Proof.Machine.execDivu rd ra rb sw s
  | .rem rd ra rb sw => Sys2Proof.Machine.execRem rd ra rb sw s
  | .remu rd ra rb sw => Sys2Proof.Machine.execRemu rd ra rb sw s
  | .addi rd ra imm sw => Sys2Proof.Machine.execAddi rd ra imm sw s
  | .andi rd ra imm sw => Sys2Proof.Machine.execAndi rd ra imm sw s
  | .ori rd ra imm sw => Sys2Proof.Machine.execOri rd ra imm sw s
  | .xori rd ra imm sw => Sys2Proof.Machine.execXori rd ra imm sw s
  | .slti rd ra imm sw => Sys2Proof.Machine.execSlti rd ra imm sw s
  | .sltiu rd ra imm sw => Sys2Proof.Machine.execSltiu rd ra imm sw s
  | .shli rd ra n sw => Sys2Proof.Machine.execShli rd ra n sw s
  | .shri rd ra n sw => Sys2Proof.Machine.execShri rd ra n sw s
  | .srai rd ra n sw => Sys2Proof.Machine.execSrai rd ra n sw s
  | .lui rd imm sw => Sys2Proof.Machine.execLui rd imm sw s
  | .addpc rd imm sw => Sys2Proof.Machine.execAddpc rd imm sw s
  | .bfx rd ra pos len sw => Sys2Proof.Machine.execBfx rd ra pos len sw s
  | .bfi rd ra pos len sw => Sys2Proof.Machine.execBfi rd ra pos len sw s
  | .ldb rt ra off q sw => Sys2Proof.Machine.execLdb rt ra off q sw s
  | .ldbu rt ra off q sw => Sys2Proof.Machine.execLdbu rt ra off q sw s
  | .ldh rt ra off q sw => Sys2Proof.Machine.execLdh rt ra off q sw s
  | .ldhu rt ra off q sw => Sys2Proof.Machine.execLdhu rt ra off q sw s
  | .ldw rt ra off q sw => Sys2Proof.Machine.execLdw rt ra off q sw s
  | .ldwu rt ra off q sw => Sys2Proof.Machine.execLdwu rt ra off q sw s
  | .ldd rt ra off q sw => Sys2Proof.Machine.execLdd rt ra off q sw s
  | .stb rt ra off q sw => Sys2Proof.Machine.execStb rt ra off q sw s
  | .sth rt ra off q sw => Sys2Proof.Machine.execSth rt ra off q sw s
  | .stw rt ra off q sw => Sys2Proof.Machine.execStw rt ra off q sw s
  | .std rt ra off q sw => Sys2Proof.Machine.execStd rt ra off q sw s
  | .amoAdd rd ra rb sc wd sw => Sys2Proof.Machine.execAmoAdd rd ra rb sc wd sw s
  | .amoAnd rd ra rb sc wd sw => Sys2Proof.Machine.execAmoAnd rd ra rb sc wd sw s
  | .amoOr rd ra rb sc wd sw => Sys2Proof.Machine.execAmoOr rd ra rb sc wd sw s
  | .amoXor rd ra rb sc wd sw => Sys2Proof.Machine.execAmoXor rd ra rb sc wd sw s
  | .amoMin rd ra rb sc wd sw => Sys2Proof.Machine.execAmoMin rd ra rb sc wd sw s
  | .amoMax rd ra rb sc wd sw => Sys2Proof.Machine.execAmoMax rd ra rb sc wd sw s
  | .amoMinu rd ra rb sc wd sw => Sys2Proof.Machine.execAmoMinu rd ra rb sc wd sw s
  | .amoMaxu rd ra rb sc wd sw => Sys2Proof.Machine.execAmoMaxu rd ra rb sc wd sw s
  | .amoSwap rd ra rb sc wd sw => Sys2Proof.Machine.execAmoSwap rd ra rb sc wd sw s
  | .amoFadd32 rd ra rb sc sw => Sys2Proof.Machine.execAmoFadd32 rd ra rb sc sw s
  | .amoNib rd ra rb sc sw => Sys2Proof.Machine.execAmoNib rd ra rb sc sw s
  | .cas rd ra rb sc wd sw => Sys2Proof.Machine.execCas rd ra rb sc wd sw s
  | .feget rd ra sw => Sys2Proof.Machine.execFeget rd ra sw s
  | .feset ra sw => Sys2Proof.Machine.execFeset ra sw s
  | .feclr ra sw => Sys2Proof.Machine.execFeclr ra sw s
  | .beq ra rb disp sw => Sys2Proof.Machine.execBeq ra rb disp sw s
  | .bne ra rb disp sw => Sys2Proof.Machine.execBne ra rb disp sw s
  | .blt ra rb disp sw => Sys2Proof.Machine.execBlt ra rb disp sw s
  | .bge ra rb disp sw => Sys2Proof.Machine.execBge ra rb disp sw s
  | .bltu ra rb disp sw => Sys2Proof.Machine.execBltu ra rb disp sw s
  | .bgeu ra rb disp sw => Sys2Proof.Machine.execBgeu ra rb disp sw s
  | .j disp sw => Sys2Proof.Machine.execJ disp sw s
  | .call disp sw => Sys2Proof.Machine.execCall disp sw s
  | .callr ra sw => Sys2Proof.Machine.execCallr ra sw s
  | .jr ra sw => Sys2Proof.Machine.execJr ra sw s
  | .ret sw => Sys2Proof.Machine.execRet sw s
  | .enter k sw => Sys2Proof.Machine.execEnter k sw s
  | .shrink k sw => Sys2Proof.Machine.execShrink k sw s
  | .mif ra sw => Sys2Proof.Machine.execMif ra sw s
  | .melse sw => Sys2Proof.Machine.execMelse sw s
  | .mend sw => Sys2Proof.Machine.execMend sw s
  | .fork ra sw => Sys2Proof.Machine.execFork ra sw s
  | .join ra rb sw => Sys2Proof.Machine.execJoin ra rb sw s
  | .spawn ra rb sw => Sys2Proof.Machine.execSpawn ra rb sw s
  | .retire sw => Sys2Proof.Machine.execRetire sw s
  | .yield sw => Sys2Proof.Machine.execYield sw s
  | .tgate rd ra rb sw => Sys2Proof.Machine.execTgate rd ra rb sw s
  | .tspawn rd ra rb sw => Sys2Proof.Machine.execTspawn rd ra rb sw s
  | .strand ra sw => Sys2Proof.Machine.execStrand ra sw s
  | .unstrand sw => Sys2Proof.Machine.execUnstrand sw s
  | .popnew rd ra rb sw => Sys2Proof.Machine.execPopnew rd ra rb sw s
  | .popjoin rd ra sw => Sys2Proof.Machine.execPopjoin rd ra sw s
  | .resample rd ra rb sw => Sys2Proof.Machine.execResample rd ra rb sw s
  | .popleave ra sw => Sys2Proof.Machine.execPopleave ra sw s
  | .popinfo rd ra sw => Sys2Proof.Machine.execPopinfo rd ra sw s
  | .rsnew ra rb sw => Sys2Proof.Machine.execRsnew ra rb sw s
  | .rspost rd ra rb sw => Sys2Proof.Machine.execRspost rd ra rb sw s
  | .rsread rd ra rb sw => Sys2Proof.Machine.execRsread rd ra rb sw s
  | .rstry rd ra rb sw => Sys2Proof.Machine.execRstry rd ra rb sw s
  | .rsstat rd ra sw => Sys2Proof.Machine.execRsstat rd ra sw s
  | .rsseal rd ra sw => Sys2Proof.Machine.execRsseal rd ra sw s
  | .fenceRel rd sc sw => Sys2Proof.Machine.execFenceRel rd sc sw s
  | .fenceAcq rd sc sw => Sys2Proof.Machine.execFenceAcq rd sc sw s
  | .fenceAr rd sc sw => Sys2Proof.Machine.execFenceAr rd sc sw s
  | .cwait ra rb sw => Sys2Proof.Machine.execCwait ra rb sw s
  | .cadd ra rb sw => Sys2Proof.Machine.execCadd ra rb sw s
  | .barnew rd ra rb sw => Sys2Proof.Machine.execBarnew rd ra rb sw s
  | .barlink ra rb sw => Sys2Proof.Machine.execBarlink ra rb sw s
  | .bararr rd ra sw => Sys2Proof.Machine.execBararr rd ra sw s
  | .barwait ra rb sw => Sys2Proof.Machine.execBarwait ra rb sw s
  | .barfree ra sw => Sys2Proof.Machine.execBarfree ra sw s
  | .barref ra sw => Sys2Proof.Machine.execBarref ra sw s
  | .enq rd ra rb sw => Sys2Proof.Machine.execEnq rd ra rb sw s
  | .deq rd ra rb sw => Sys2Proof.Machine.execDeq rd ra rb sw s
  | .tstamp rd sw => Sys2Proof.Machine.execTstamp rd sw s
  | .vadd md ma mb od oa ob xi k sw => Sys2Proof.Machine.execVadd md ma mb od oa ob xi k sw s
  | .vsub md ma mb od oa ob xi k sw => Sys2Proof.Machine.execVsub md ma mb od oa ob xi k sw s
  | .vmul md ma mb od oa ob xi k sw => Sys2Proof.Machine.execVmul md ma mb od oa ob xi k sw s
  | .vfma md ma mb od oa ob xi k sw => Sys2Proof.Machine.execVfma md ma mb od oa ob xi k sw s
  | .vfms md ma mb od oa ob xi k sw => Sys2Proof.Machine.execVfms md ma mb od oa ob xi k sw s
  | .vfnma md ma mb od oa ob xi k sw => Sys2Proof.Machine.execVfnma md ma mb od oa ob xi k sw s
  | .vmin md ma mb od oa ob xi k sw => Sys2Proof.Machine.execVmin md ma mb od oa ob xi k sw s
  | .vmax md ma mb od oa ob xi k sw => Sys2Proof.Machine.execVmax md ma mb od oa ob xi k sw s
  | .vscale md ma mb od oa ob xi k sw => Sys2Proof.Machine.execVscale md ma mb od oa ob xi k sw s
  | .vcmpeq md ma mb od oa ob xi k sw => Sys2Proof.Machine.execVcmpeq md ma mb od oa ob xi k sw s
  | .vcmplt md ma mb od oa ob xi k sw => Sys2Proof.Machine.execVcmplt md ma mb od oa ob xi k sw s
  | .vcmple md ma mb od oa ob xi k sw => Sys2Proof.Machine.execVcmple md ma mb od oa ob xi k sw s
  | .vsel md ma mb od oa ob xi k sw => Sys2Proof.Machine.execVsel md ma mb od oa ob xi k sw s
  | .vand md ma mb od oa ob xi k sw => Sys2Proof.Machine.execVand md ma mb od oa ob xi k sw s
  | .vor md ma mb od oa ob xi k sw => Sys2Proof.Machine.execVor md ma mb od oa ob xi k sw s
  | .vxor md ma mb od oa ob xi k sw => Sys2Proof.Machine.execVxor md ma mb od oa ob xi k sw s
  | .vshl md ma mb od oa ob xi k sw => Sys2Proof.Machine.execVshl md ma mb od oa ob xi k sw s
  | .vshr md ma mb od oa ob xi k sw => Sys2Proof.Machine.execVshr md ma mb od oa ob xi k sw s
  | .vsra md ma mb od oa ob xi k sw => Sys2Proof.Machine.execVsra md ma mb od oa ob xi k sw s
  | .vabs md ma od oa xi k sw => Sys2Proof.Machine.execVabs md ma od oa xi k sw s
  | .vneg md ma od oa xi k sw => Sys2Proof.Machine.execVneg md ma od oa xi k sw s
  | .vcvt md ma od oa xi k sw => Sys2Proof.Machine.execVcvt md ma od oa xi k sw s
  | .vrsqs md ma od oa xi k sw => Sys2Proof.Machine.execVrsqs md ma od oa xi k sw s
  | .vrcps md ma od oa xi k sw => Sys2Proof.Machine.execVrcps md ma od oa xi k sw s
  | .vxexp md ma od oa xi k sw => Sys2Proof.Machine.execVxexp md ma od oa xi k sw s
  | .vmov md ma od oa xi k sw => Sys2Proof.Machine.execVmov md ma od oa xi k sw s
  | .tzero md sw => Sys2Proof.Machine.execTzero md sw s
  | .ttr md ma sw => Sys2Proof.Machine.execTtr md ma sw s
  | .vget mt xs xi k sw => Sys2Proof.Machine.execVget mt xs xi k sw s
  | .vput mt xs xi k sw => Sys2Proof.Machine.execVput mt xs xi k sw s
  | .vbcast mt xs xi sw => Sys2Proof.Machine.execVbcast mt xs xi sw s
  | .vreds mt xs xi sw => Sys2Proof.Machine.execVreds mt xs xi sw s
  | .vredm mt xs xi sw => Sys2Proof.Machine.execVredm mt xs xi sw s
  | .tld mt o ra xi k q sw => Sys2Proof.Machine.execTld mt o ra xi k q sw s
  | .tst mt o ra xi k q sw => Sys2Proof.Machine.execTst mt o ra xi k q sw s
  | .cpy ra rb bar nf sw => Sys2Proof.Machine.execCpy ra rb bar nf sw s
  | .cpyr ra rb bar nf sw => Sys2Proof.Machine.execCpyr ra rb bar nf sw s
  | .cpytE2p ra rb bar nf sw => Sys2Proof.Machine.execCpytE2p ra rb bar nf sw s
  | .cpytP2e ra rb bar nf sw => Sys2Proof.Machine.execCpytP2e ra rb bar nf sw s
  | .mlease m nf sw => Sys2Proof.Machine.execMlease m nf sw s
  | .mrel nf sw => Sys2Proof.Machine.execMrel nf sw s
  | .mmul ra rb acc nf sw => Sys2Proof.Machine.execMmul ra rb acc nf sw s
  | .mrot ra rb acc nf sw => Sys2Proof.Machine.execMrot ra rb acc nf sw s
  | .mdrain ra acc nf sw => Sys2Proof.Machine.execMdrain ra acc nf sw s
  | .mzero acc nf sw => Sys2Proof.Machine.execMzero acc nf sw s
  | .mstat acc clr nf sw => Sys2Proof.Machine.execMstat acc clr nf sw s
  | .bxmap nf sw => Sys2Proof.Machine.execBxmap nf sw s
  | .bxapply ra rb nf sw => Sys2Proof.Machine.execBxapply ra rb nf sw s
  | .bxswap ra rb nf sw => Sys2Proof.Machine.execBxswap ra rb nf sw s
  | .bxresume ra nf sw => Sys2Proof.Machine.execBxresume ra nf sw s
  | .colload ra rb nf sw => Sys2Proof.Machine.execColload ra rb nf sw s
  | .colgo nf sw => Sys2Proof.Machine.execColgo nf sw s
  | .colstat nf sw => Sys2Proof.Machine.execColstat nf sw s
  | .scfg st nf sw => Sys2Proof.Machine.execScfg st nf sw s
  | .sdone st nf sw => Sys2Proof.Machine.execSdone st nf sw s
  | .erd x eng ereg sw => Sys2Proof.Machine.execErd x eng ereg sw s
  | .erw x eng ereg sw => Sys2Proof.Machine.execErw x eng ereg sw s
  | .fmt fa fb fd sm sat rm => Sys2Proof.Machine.execFmt fa fb fd sm sat rm s
  | .csrr rd csr sw => Sys2Proof.Machine.execCsrr rd csr sw s
  | .csrw rd ra csr sw => Sys2Proof.Machine.execCsrw rd ra csr sw s
  | .csrs rd ra csr sw => Sys2Proof.Machine.execCsrs rd ra csr sw s
  | .csrc rd ra csr sw => Sys2Proof.Machine.execCsrc rd ra csr sw s
  | .trap sw => Sys2Proof.Machine.execTrap sw s
  | .eret sw => Sys2Proof.Machine.execEret sw s
  | .wfi sw => Sys2Proof.Machine.execWfi sw s
  | .bkpt sw => Sys2Proof.Machine.execBkpt sw s
  | .tlbinv ra sw => Sys2Proof.Machine.execTlbinv ra sw s
  | .roinv sw => Sys2Proof.Machine.execRoinv sw s
  | .tmark ra sw => Sys2Proof.Machine.execTmark ra sw s
  | .interruptEntry slot => Sys2Proof.Machine.execInterruptEntry slot s
  | .timerCompare slot => Sys2Proof.Machine.execTimerCompare slot s
  | .takeRecord slot => Sys2Proof.Machine.execTakeRecord slot s
  | .idleSearchRetry slot => Sys2Proof.Machine.execIdleSearchRetry slot s
  | .dequeTheft slot core => Sys2Proof.Machine.execDequeTheft slot core s
  | .inboxDelivery core => Sys2Proof.Machine.execInboxDelivery core s
  | .backstopWrite core => Sys2Proof.Machine.execBackstopWrite core s
  | .backstopRefill core => Sys2Proof.Machine.execBackstopRefill core s
  | .spawnQueueDispatch die => Sys2Proof.Machine.execSpawnQueueDispatch die s
  | .quantumExpiry slot => Sys2Proof.Machine.execQuantumExpiry slot s
  | .quantumSaveDone slot => Sys2Proof.Machine.execQuantumSaveDone slot s
  | .strandForm slot => Sys2Proof.Machine.execStrandForm slot s
  | .watchWake slot => Sys2Proof.Machine.execWatchWake slot s
  | .watchRepoll slot => Sys2Proof.Machine.execWatchRepoll slot s
  | .feReissue idx => Sys2Proof.Machine.execFeReissue idx s
  | .accessAtHome idx => Sys2Proof.Machine.execAccessAtHome idx s
  | .replayRetry core => Sys2Proof.Machine.execReplayRetry core s
  | .replayDrop core => Sys2Proof.Machine.execReplayDrop core s
  | .barrierParentArrival idx => Sys2Proof.Machine.execBarrierParentArrival idx s
  | .leaseGrant cluster => Sys2Proof.Machine.execLeaseGrant cluster s
  | .leaseLapse cluster => Sys2Proof.Machine.execLeaseLapse cluster s
  | .mmulExecute cluster => Sys2Proof.Machine.execMmulExecute cluster s
  | .mrotChunk cluster => Sys2Proof.Machine.execMrotChunk cluster s
  | .mrotDelivery idx => Sys2Proof.Machine.execMrotDelivery idx s
  | .mdrainExecute cluster => Sys2Proof.Machine.execMdrainExecute cluster s
  | .mzeroExecute cluster => Sys2Proof.Machine.execMzeroExecute cluster s
  | .accumulatorFree cluster acc => Sys2Proof.Machine.execAccumulatorFree cluster acc s
  | .copyChunk cluster idx => Sys2Proof.Machine.execCopyChunk cluster idx s
  | .cpyrChunkApply idx => Sys2Proof.Machine.execCpyrChunkApply idx s
  | .copySignal cluster idx => Sys2Proof.Machine.execCopySignal cluster idx s
  | .streamReadahead slot st => Sys2Proof.Machine.execStreamReadahead slot st s
  | .bxMapInstall die idx => Sys2Proof.Machine.execBxMapInstall die idx s
  | .bxGroup die idx => Sys2Proof.Machine.execBxGroup die idx s
  | .bxSwapPair die idx => Sys2Proof.Machine.execBxSwapPair die idx s
  | .bxComplete die idx => Sys2Proof.Machine.execBxComplete die idx s
  | .ferryEnd die idx => Sys2Proof.Machine.execFerryEnd die idx s
  | .ferrySend die idx => Sys2Proof.Machine.execFerrySend die idx s
  | .ferryRecv die idx => Sys2Proof.Machine.execFerryRecv die idx s
  | .ferryRrs die idx => Sys2Proof.Machine.execFerryRrs die idx s
  | .ferryCopy die idx => Sys2Proof.Machine.execFerryCopy die idx s
  | .ferryWait die idx => Sys2Proof.Machine.execFerryWait die idx s
  | .ferryLoop die idx => Sys2Proof.Machine.execFerryLoop die idx s
  | .ferrySignal die idx => Sys2Proof.Machine.execFerrySignal die idx s
  | .ferryChunkArrival die idx rank run data => Sys2Proof.Machine.execFerryChunkArrival die idx rank run data s
  | .ferryStepTimeout die idx => Sys2Proof.Machine.execFerryStepTimeout die idx s
  | .resamplePhase2 die idx => Sys2Proof.Machine.execResamplePhase2 die idx s
  | .clonePlacement die idx => Sys2Proof.Machine.execClonePlacement die idx s
  | .residualDeadline slot => Sys2Proof.Machine.execResidualDeadline slot s
  | .wqDecide die q => Sys2Proof.Machine.execWqDecide die q s
  | .wqLapTimeout die q => Sys2Proof.Machine.execWqLapTimeout die q s
  | .reset devid trained => Sys2Proof.Machine.execReset devid trained s
  | .illopEncoding w => Sys2Proof.Machine.execIllopEncoding w s
  | .divisionResult core => Sys2Proof.Machine.execDivisionResult core s
  | .keyFilterExpiry home => Sys2Proof.Machine.execKeyFilterExpiry home s
  | .ferryCreditArrival die idx rank run => Sys2Proof.Machine.execFerryCreditArrival die idx rank run s
  | .doorbellWrite core v => Sys2Proof.Machine.execDoorbellWrite core v s
  | .dbgHaltRequest slot => Sys2Proof.Machine.execDbgHaltRequest slot s
  | .dbgResume slot => Sys2Proof.Machine.execDbgResume slot s
  | .dbgRaiseInterrupt slot => Sys2Proof.Machine.execDbgRaiseInterrupt slot s
  | .clfreezeWrite cluster v => Sys2Proof.Machine.execClfreezeWrite cluster v s
  | .registerWindowWrite die off v => Sys2Proof.Machine.execRegisterWindowWrite die off v s
  | .hostAccess space off write size value => Sys2Proof.Machine.execHostAccess space off write size value s
  | .gangStop ctx => Sys2Proof.Machine.execGangStop ctx s
  | .partitionSave ctx => Sys2Proof.Machine.execPartitionSave ctx s
  | .gangResume ctx => Sys2Proof.Machine.execGangResume ctx s
  | .flitCrcRetry die link => Sys2Proof.Machine.execFlitCrcRetry die link s
  | .linkRetire die link => Sys2Proof.Machine.execLinkRetire die link s
  | .contextError slot => Sys2Proof.Machine.execContextError slot s
  | .l2Scrub slice => Sys2Proof.Machine.execL2Scrub slice s
  | .thermalTrip die => Sys2Proof.Machine.execThermalTrip die s
  | .fatalError cause die addr => Sys2Proof.Machine.execFatalError cause die addr s
  | .bootLoad => Sys2Proof.Machine.execBootLoad s
  | .attestationRequest nonce => Sys2Proof.Machine.execAttestationRequest nonce s
  | .wqErrorClear die q => Sys2Proof.Machine.execWqErrorClear die q s
  | .wqKick die q prod => Sys2Proof.Machine.execWqKick die q prod s
  | .remoteReceive acc => Sys2Proof.Machine.execRemoteReceive acc s
  | .memoryReply idx code value => Sys2Proof.Machine.execMemoryReply idx code value s

end Sys2Proof.Machine
end

