-- ==== Sys2Proof/Machine/Turns.lean ====
section
/-!
DEFINITION. The order in which the units of the device move (spec/06_execution.md R103; logs 4, 5): the boundary of the slot in
force, the fetch of its next instruction (spec/07_memory.md R142, R148; spec/15_traps_debug.md R260), the turns of the other units, and the
choice of the next slot.
-/
namespace Sys2Proof.Machine

/-! ## Time (DESIGN CHOICE, log 4) -/

/-- Clocks that stand still while their partition is stopped (R255). -/
def holdClocks (s : State) (ns : Nat) : State :=
  if s.stopped.isEmpty then holdTimers s ns
  else
    let f (x : Slot) : Slot := if x.stopped then { x with t := { x.t with qstart := x.t.qstart + ns } } else x
    let g (r : Remote) : Remote :=
      if s.stopped.contains r.acc.ctx then { r with parked := r.parked.map (fun p => (p.1 + ns, p.2.1 + ns, p.2.2)) } else r
    let s1 := mapSlots (holdTimers s ns) f
    { s1 with remote := s1.remote.map g }

/-- Time passes before each step. -/
def tick (s : State) : State :=
  let ns := s.elapse.headD 1
  holdClocks { s with tstamp := s.tstamp + BitVec.ofNat 64 ns, elapse := s.elapse.drop 1 } ns

/-! ## The boundary and the fetch -/

/-- An execute comparator that matches the PC: whether the lowest one halts (R260). -/
def execMatch (x : Slot) : Option Bool :=
  if x.t.pass = some x.t.pc then none
  else (List.range 4).findSome? (fun n =>
    if x.bkptctl.getLsbD (4 * n) && bitsOf x.bkptctl (4 * n + 1) 2 = 0 && bitsOf (x.bkpta[n]!) 3 45 = x.t.pc.toNat / 8 then
      some (x.bkptctl.getLsbD (4 * n + 3)) else none)

/-- The slot in force runs a word. -/
def runWord (w : IWord) (s : State) : Out :=
  match decodeWord w with
  | .ok i => exec i s
  | .error _ => Sys2Proof.Machine.execIllopEncoding w s

/-- The word at the PC, through the cluster's read-only cache: a trap, a wait for the unit's owner, or the word. -/
def fetchWord (s : State) : Except Stop (State × IWord) :=
  let pc := s.t.pc
  match fetchPlace s s.asker pc with
  | .error c => .error (.trap c (pc.zeroExtend 64))
  | .ok (s1, pa) =>
    if owned s1 pa 4 && !roHit s1 s1.cluster s1.asker.ctx pc.toNat then .error .stall
    else
      let r := roRead s1 s1.cluster s1.asker.ctx pc.toNat pa 4
      .ok (r.1, BitVec.ofNat 32 r.2)

/-- The slot in force issues its next instruction: a follower the oldest forwarded one, another slot the one at its PC. An error of one bit in
its state is corrected (R289, R292). -/
def issueNext (s0 : State) : Out :=
  let s := useFlaw s0 (.slot s0.cur) s0.cluster
  if s.t.leader.isSome && s.t.handlers = 0 then
    match s.t.fwd with
    | f :: _ => runWord f.word (s.setT { s.t with pc := f.pc })
    | [] => .next s
  else match fetchWord s with
    | .ok (s1, w) => runWord w s1
    | .error (.trap c v) => .next (takeTrap (noteTrap {} s c v) c v)
    | .error _ => .next (stalled s)

/-- An execute comparator acts on the slot in force (R260): it halts there, or takes BKPT; the matched instruction runs once without matching
again. -/
def matchHere (s : State) (halts : Bool) : State :=
  if halts then let s1 := haltAt s; s1.setT { s1.t with pass := some s1.t.pc }
  else
    let s1 := takeTrap s .bkpt (s.t.pc.zeroExtend 64)
    s1.setT { s1.t with matched := some s.t.pc :: s1.t.matched.drop 1, pass := if s.t.tvec = 0 then some s.t.pc else none }

/-- The slot in force at its boundary: halts, interrupts, breakpoints and the quantum come before the next instruction. -/
def slotTurn (s : State) : Out :=
  let n := s.cur
  if s.slot.phase = .idle || slotHeld s n then .next s
  else if s.slot.haltReq then .next (haltSlot s n)
  else if (interruptCause s n).isSome then Sys2Proof.Machine.execInterruptEntry n s
  else if s.t.wait.isSome then .next s
  else if quantumDue s n then Sys2Proof.Machine.execQuantumExpiry n s
  else match execMatch s.slot with
    | some halts => .next (matchHere s halts)
    | none => issueNext s

/-! ## The choice of a slot (R103) -/

/-- The slot could issue, but for its operands. -/
def canIssue (s : State) (n : Nat) : Bool :=
  let x := s.slotAt n
  x.phase = .running && !slotHeld s n && x.t.wait.isNone && (x.t.leader.isNone || x.t.handlers ≠ 0 || !x.t.fwd.isEmpty)

/-- A slot that has stalled on the scoreboard would stall again, were it to issue now. -/
def stillStalls (s : State) (n : Nat) : Bool :=
  let k := s.coreAt (coreOf n)
  k.stalls.getLsbD (n % 4)
    && (match issueNext ((s.setCore (coreOf n) { k with stalls := 0 }).makeHot n) with
        | .next a => (a.coreAt (coreOf n)).stalls.getLsbD (n % 4)
        | _ => false)

/-- It could issue, and has every operand that the scoreboard requires: it has not stalled since its core last issued, or would not stall any
more. -/
def isReady (s : State) (n : Nat) : Bool := canIssue s n && !stillStalls s n

def prioOf (s : State) (n : Nat) : Nat := (s.slotAt n).t.prio.toNat

/-- Among candidates, the one of the lowest PRIO; among equals the first after the slot that issued last. -/
def pickSlot (s : State) (last : Nat) (ns : List Nat) : Option Nat :=
  ns.foldl (fun m n => match m with
    | none => some n
    | some b =>
      if prioOf s n < prioOf s b || (prioOf s n = prioOf s b && (n + 3 - last) % 4 < (b + 3 - last) % 4) then some n else some b) none

/-- The slot of a core that gets the port. One that stalls on the scoreboard is passed over while it would stall; where all would, they are
tried in turn. -/
def coreSlot (s : State) (core : Nat) : Option Nat :=
  let k := s.coreAt core
  let slots := (List.range 4).map (fun i => 4 * core + i)
  let ready := slots.filter (isReady s)
  let last := 4 * core + k.last
  if !k.lost && ready.contains last && ready.all (fun n => prioOf s last ≤ prioOf s n) then some last
  else match pickSlot s (k.last % 4) ready with
    | some n => some n
    | none => pickSlot s (k.last % 4) (slots.filter (canIssue s))

/-- Brings a slot in force. Where every slot that could issue has stalled, they are tried anew. -/
def takePort (s : State) (n : Nat) : State :=
  let k := s.coreAt (coreOf n)
  (if isReady s n then s else s.setCore (coreOf n) { k with stalls := 0 }).makeHot n

/-- The next core, in order of core ID, that has a slot to issue from (DESIGN CHOICE, log 5). -/
def nextSlot (s : State) : State :=
  let here := s.core
  let cs := ((slotIds s).filter (canIssue s)).map (fun n => (4095 + coreOf n + (4096 - here % 4096)) % 4096)
  match cs.foldl (fun m d => match m with | some b => some (min b d) | none => some d) none with
  | none => s
  | some d =>
    match coreSlot s ((here + d + 1) % 4096) with
    | some n => takePort s n
    | none => s

/-! ## The other units (DESIGN CHOICE, log 5) -/

/-- A step that some unit may take. -/
abbrev Turnable := State → Out

def when (b : Bool) (f : Turnable) : List Turnable := if b then [f] else []

/-- Steps that concern a slot which has state of its own. -/
def slotTurns (s : State) (n : Nat) : List Turnable :=
  let x := s.slotAt n
  let met (w : Wait) : Bool := x.t.met || waitHolds s n w
  when (needsSettling s n) (fun a => .next (settleSlot a n))
    ++ when (n ≠ s.cur && (interruptCause s n).isSome) (execInterruptEntry n)
    ++ (match x.t.wait with
        | some (.strand _) => when (strandTurn s n) (execStrandForm n)
        | some (.segment g a b c d) =>
          when (!x.t.met && waitHolds s n (.segment g a b c d)) (execResidualDeadline n) ++ when (x.t.met && !slotHeld s n) (execWatchWake n)
        | some .interrupt => when (!x.t.met && met .interrupt) (execTimerCompare n) ++ when (x.t.met && !slotHeld s n) (execWatchWake n)
        | some w => when (met w && mayWake s n) (execWatchWake n)
        | none => [])
    ++ when (x.t.wait.isSome && !slotHeld s n && quantumDue s n) (execQuantumExpiry n)
    ++ when (x.saving && !slotHeld s n) (execQuantumSaveDone n)
    ++ when (x.phase = .idle && x.saved.isSome && maySearch s n && (mayResume s n || (firstOffer s n).isSome)) (execTakeRecord n)
    ++ when (x.t.sa.armed && !x.t.sa.write && x.t.handlers = 0 && !slotHeld s n) (execStreamReadahead n false)
    ++ when (x.t.sb.armed && !x.t.sb.write && x.t.handlers = 0 && !slotHeld s n) (execStreamReadahead n true)

/-- Steps of a core's ports and divider. -/
def coreTurns (s : State) (c : Nat) : List Turnable :=
  let k := s.coreAt c
  when (portOld s k) (execBackstopWrite c)
    ++ when (!k.backstop.isEmpty && !ibFull k) (execBackstopRefill c)
    ++ when (s.inflight.any (recordMoves s c) || (!k.port.isEmpty && k.backstop.isEmpty && !ibFull k)) (execInboxDelivery c)
    ++ when k.divider.isSome (execDivisionResult c)
    ++ (if ibCount k = 0 && dqCount k = 0 then []
        else ((List.range 4).filter (fun i => maySearch s (4 * c + i) && (firstOffer s (4 * c + i)).isSome)).map
          (fun i => execTakeRecord (4 * c + i)))

/-- Idle slots that may steal, when some deque holds a record. -/
def theftTurns (s : State) : List Turnable :=
  if s.cores.all (fun c => dqCount c.2 = 0) then []
  else ((boundSlots s).filter (maySteal s)).filterMap (fun n => (victimOf s n).map (fun c => execDequeTheft n c))

/-- The step of a bit-axis command. -/
def bxTurn (die idx : Nat) (op : BxOp) : List Turnable :=
  match op with
  | .map => [execBxMapInstall die idx, execBxComplete die idx]
  | .apply => [execBxGroup die idx, execBxComplete die idx]
  | .swap => [execBxSwapPair die idx, execBxComplete die idx]
  | .resume => [execBxComplete die idx]

/-- The step of a ferryman program. -/
def ferryTurn (s : State) (die idx : Nat) (f : FerryCtx) : List Turnable :=
  when (stepExpired s f) (execFerryStepTimeout die idx)
    ++ when (f.state = 2)
      (match stepOp f.step with
       | 0 => execFerryEnd die idx
       | 1 => execFerrySend die idx
       | 2 => execFerryRecv die idx
       | 3 => execFerryRrs die idx
       | 4 => execFerryCopy die idx
       | 5 => execFerryWait die idx
       | 6 => execFerryLoop die idx
       | _ => execFerrySignal die idx)

/-- Steps of a die's units. -/
def dieTurns (s : State) (die : Nat) (d : Die) : List Turnable :=
  when (!d.spawnq.isEmpty && (dispatchChoice s die).isSome) (execSpawnQueueDispatch die)
    ++ (d.wqs.map (fun q =>
        when (!q.2.error && q.2.prod ≠ q.2.cons) (execWqDecide die q.1)
          ++ when (wqLate s q.2) (execWqLapTimeout die q.1)
          ++ (if q.2.backlog.isEmpty then []
              else ((boundSlots s).filter (fun n => dieOf n = die && maySearch s n && (firstOffer s n).isSome)).map (fun n => execTakeRecord n)))).flatten
    ++ ((d.bxq.zipIdx).map (fun q => bxTurn die q.2 q.1.op)).flatten
    ++ ((d.ferry.zipIdx).map (fun f => ferryTurn s die f.2 f.1)).flatten
    ++ ((d.pops.zipIdx).map (fun p =>
        when (allArrived p.1) (execResamplePhase2 die p.2) ++ when (!p.1.clones.isEmpty) (execClonePlacement die p.2))).flatten

/-- Steps of a cluster's units. -/
def clusterTurns (s : State) (c : Nat) (k : Cluster) : List Turnable :=
  when (k.lease.isNone && (partDone s c).isNone && (!k.asks.isEmpty || !k.loomq.isEmpty)) (execLeaseGrant c)
    ++ when (leaseLapses s c) (execLeaseLapse c)
    ++ when (loomUnsettled s k) (fun a => .next (settleLoom a c))
    ++ (match loomHead s c with
        | some q =>
          (match q.op with
           | .mzero => [execMzeroExecute c]
           | .mmul => [execMmulExecute c]
           | .mrot => [execMrotChunk c]
           | .mdrain => [execMdrainExecute c])
        | none => [])
    ++ ((List.range 4).map (fun i => when ((accOf k i).freeing && !accBusy k i) (execAccumulatorFree c i))).flatten
    ++ ((k.copyq.zipIdx).map (fun q =>
        when (copyAt s c q.2).isSome (if q.1.finished && !q.1.sent then execCopySignal c q.2 else execCopyChunk c q.2))).flatten

/-- The fabric holds a CPYR chunk that a command of a stopped context has sent (R255, R258). -/
def chunkStopped (s : State) (m : ChunkMsg) : Bool := !m.outside && s.stopped.contains m.ctx

/-- The arrival comes from a child barrier of a stopped context. -/
def arrivalStopped (s : State) (p : Nat) : Bool :=
  !s.stopped.isEmpty
    && s.barriers.any (fun e => match e.2 with | some b => b.parent = some p && s.stopped.contains b.ctx | none => false)

/-- Steps of the fabric and of homes. -/
def fabricTurns (s : State) : List Turnable :=
  ((s.held.zipIdx).map (fun h => when (heldReady s h.1) (if 32 ≤ waitPlace s h.2 then execFeReissue h.2 else execAccessAtHome h.2))).flatten
    ++ when ((answerFarReads s).farWaits.length < s.farWaits.length) (execAccessAtHome s.held.length)
    ++ ((s.replies.zipIdx).map (fun r => when (replyFirst s r.2 r.1) (execMemoryReply (s.remote.length + r.2) 0 0))).flatten
    ++ ((s.arrivals.zipIdx).map (fun a => when (!arrivalStopped s a.1) (execBarrierParentArrival a.2))).flatten
    ++ ((s.deliveries.zipIdx).map (fun d => when (deliverable s d.1 && !s.stopped.contains d.1.ctx) (execMrotDelivery d.2))).flatten
    ++ ((s.chunks.zipIdx).map (fun m =>
        if chunkStopped s m.1 then []
        else if (filterOf s m.1.home).length = 256 && filterRoom s m.1.home then [execKeyFilterExpiry m.1.home, execCpyrChunkApply m.2]
        else [execCpyrChunkApply m.2])).flatten
    ++ (match s.ferryMsgs.find? (fun m => !ferryStopped s m) with
        | some m => [if m.chunk then execFerryChunkArrival m.die m.idx m.rank m.run m.bytes else execFerryCreditArrival m.die m.idx m.rank m.run]
        | none => [])
    ++ ((((s.remote.map (fun r => coreOf r.slot)).eraseDups).map (fun c =>
        when (firstDue (dropDue s c) s).isSome (execReplayDrop c) ++ when (firstDue (retryDue s c) s).isSome (execReplayRetry c))).flatten)
    ++ ((s.stopped.map (fun c => when (partsStopped s c && !s.images.any (fun i => i.ctx = c)) (execPartitionSave c))).flatten)

/-- Acts of the foremen: on errors that have been met, and on clusters to be retired (R290 to R294). -/
def foremanTurns (s : State) : List Turnable :=
  when (!s.errors.isEmpty) (fun a => .next (noteErrors a))
    ++ (s.retiring.map (fun c => when (mayRetire s c) (fun a => .next (finishRetire a c)))).flatten

/-- Cores with state or traffic of their own. -/
def coreIds (s : State) : List Nat := (s.cores.map Prod.fst ++ s.inflight.map RecordMsg.core).eraseDups

/-- Every step that a unit other than the slot in force may take now. -/
def allTurns (s : State) : List Turnable :=
  ((slotIds s).map (slotTurns s)).flatten ++ ((coreIds s).map (coreTurns s)).flatten ++ theftTurns s
    ++ ((s.dies.map (fun d => dieTurns s d.1 d.2)).flatten) ++ ((s.clusters.map (fun c => clusterTurns s c.1 c.2)).flatten) ++ fabricTurns s
    ++ foremanTurns s

/-- One of them is taken, in turn. -/
def unitTurn (s : State) : Out :=
  let ts := allTurns s
  let s1 : State := { s with rotor := s.rotor + 1 }
  match ts[s.rotor % (max 1 ts.length)]? with
  | some f => f s1
  | none => .next s1

/-! ## The step -/

/-- The device is not running: the boot ROM runs, a dump is written, or the part waits for the host. -/
def idleTurn (s : State) : Out :=
  match s.boot, s.fatal with
  | .start, _ => Sys2Proof.Machine.execReset s.devid true s
  | .recovery _, _ => .next s
  | .ready, some (c, d, a) => Sys2Proof.Machine.execFatalError c d a s
  | .ready, none => .next s

/-- What moves at a time: a step that the environment has scheduled, else the slot in force, else one of the other units. -/
def move (s : State) : Out :=
  match s.agenda with
  | i :: rest => exec i { s with agenda := rest }
  | [] =>
    if s.boot ≠ .ready || s.fatal.isSome then idleTurn s
    else match s.turn with
      | .issue => slotTurn { s with turn := .background }
      | .background => unitTurn { (nextSlot s) with turn := .issue }

/-! ## A word where the next step fetches -/

/-- The frame of HBM that a page of the model's own maps to. -/
def spareFrame : Nat := 0x100000

/-- The slot in force is at a boundary where nothing comes before its next fetch. -/
def readySlot (s : State) : State :=
  let x := s.slot
  let t := x.t
  let pc : Pc := BitVec.ofNat 48 (t.pc.toNat % 2 ^ 45 / 4 * 4)
  let t1 : Task := { t with wait := none, leader := none, yielded := false, qstart := s.tstamp.toNat + 1,
                            pc := pc, pass := if (execMatch { x with t := { t with pc := pc } }).isSome then some pc else t.pass }
  let s1 : State :=
    { s with slot := { x with phase := .running, halted := false, haltReq := false, stopped := false, t := t1 },
             agenda := [], elapse := [], turn := .issue, boot := .ready, fatal := none, stopped := [] }
  let s2 := s1.setCluster s1.cluster { s1.clusterAt s1.cluster with frozen := false, rolines := [] }
  if (interruptCause (tick s2) s2.cur).isSome then s2.setT { s2.t with status := s2.t.status &&& ~~~2 } else s2

/-- The physical address of the PC: that of its translation, or of a page that the model maps for it. -/
def fetchAt (s : State) : State × Nat :=
  match fetchPlace s s.asker s.t.pc with
  | .ok r => r
  | .error _ =>
    let pc := s.t.pc.toNat
    let e : TlbEntry := { unit := .core s.core, ctx := s.asker.ctx, level := 3, vpage := pc / 2 ^ 14, base := spareFrame, flags := 6 }
    ({ s with tlb := e :: s.tlb.filter (fun f => !(f.unit = .core s.core && f.hits s.asker.ctx pc)) }, spareFrame + pc % 2 ^ 14)

def placeWord (s : State) (nbits w : Nat) : State :=
  let r := fetchAt (readySlot s)
  let n := max 4 (nbits / 8)
  writeBytes { r.1 with own := r.1.own.filter (fun o => !o.touches r.2 n) } r.2 (bytesOf n (w % 2 ^ nbits))

end Sys2Proof.Machine
end

