-- ==== Sys2Proof/Machine/Step.lean ====
section
/-!
DEFINITION. One step of the device, and an instruction placed where the next step fetches it.
-/
namespace Sys2Proof.Machine

/-- Time passes, and one unit moves. -/
def step (s : State) : Host.Outcome State Fault Refusal := move (tick s)

/-- The state in which the next step fetches and runs the instruction whose bits are w (DEDUCED, log 6). -/
def State.withFetchWord (s : State) (nbits w : Nat) : State := placeWord s nbits w

end Sys2Proof.Machine
end

