-- ==== Sys2Proof/Safety.lean ====
section
/-!
DEFINITION. What counts as a safe run: every step has a next state, and the parts of the state that are held in a canonical form
stay so.
-/
namespace Sys2Proof.Machine

/-- A step that neither faults nor is refused. -/
def Completes (o : Host.Outcome State Fault Refusal) : Prop := ∃ s, o = .next s

/-- The state after a step; the state itself where the machine stops. -/
def after (o : Host.Outcome State Fault Refusal) (s : State) : State :=
  match o with
  | .next s1 => s1
  | _ => s

/-- Rising without repeats. -/
def risingList : List Nat → Bool
  | a :: b :: rest => decide (a < b) && risingList (b :: rest)
  | _ => true

/-- Memory in its canonical form, and the lists of empty granules and of armed segments rising. -/
def State.canonical (s : State) : Bool := Memory.wf s.mem && risingList s.empty && risingList s.armed

/-- A run of n steps in which none stops. -/
def SafeRun : Nat → State → Prop
  | 0, _ => True
  | n + 1, s => ∃ t, step s = .next t ∧ SafeRun n t

/-! ## Terms that claims use -/

/-- The slot in force runs an instruction's own effect: it is not skipped by the mask, its queues, registers and buffers are ready
(R14), the checks of R102 pass, no stream element that it pops has still to be asked of another device (R213), and its operand fields give the values v in the state s1. -/
structure Issues (i : Instr) (u : Use) (s s1 : State) (v : Vals) : Prop where
  awake : s.t.wait = none
  runs  : (s.t.active || u.control) = true
  ready : readyToIssue s u = true
  legal : staticCheck i u s.t = none
  near  : farElement s u = none
  reads : gather s u = (s1, .ok v)

/-- The state that an instruction's effect starts from: its operands read, the PC at the next instruction. -/
def advanced (s s1 : State) : State := s1.setT { s1.t with pc := s.t.pc + 4 }

/-- A code without a queue behind it: z, a global, a register of the current frame, or a stream register that is not armed (R57, R60,
R62). -/
def plainCode (t : Task) (r : Reg) : Bool := (r.toNat < 56 && !outOfFrame t r) || (isStream r && !(streamOf t r).armed)

/-- Nothing of the slot in force stands in an instruction's way: it is parked on nothing, no result is outstanding, no prefix is in force,
and it neither leads nor follows a strand. -/
structure Calm (s : State) : Prop where
  awake : s.t.wait = none
  none_pending : s.t.pend = []
  no_prefix : s.t.hasPrefix = false
  no_followers : s.t.followers = []
  no_leader : s.t.leader = none

/-- The same for one instruction, a prefix being admitted where the instruction takes it: its checks pass, and every code it names is
plain. -/
structure Goes (i : Instr) (u : Use) (s : State) : Prop where
  awake : s.t.wait = none
  none_pending : s.t.pend = []
  no_followers : s.t.followers = []
  no_leader : s.t.leader = none
  runs : (s.t.active || u.control) = true
  legal : staticCheck i u s.t = none
  plain : ∀ r ∈ u.reads ++ u.d, plainCode s.t r = true

/-- The value of an operand field that names a plain code, or of an absent one. -/
def fieldValue (t : Task) (r : Option Reg) : Word := (r.map (plainRead t)).getD 0

/-- The operands of an instruction whose fields name plain codes. -/
def plainVals (t : Task) (u : Use) : Vals := { a := fieldValue t u.a, b := fieldValue t u.b, c := fieldValue t u.c }

/-- The words on their way toward a neighbour, oldest first (R20). -/
def queueToward (s : State) (core : Nat) (d : Dir) : List Word :=
  let k := s.coreAt (neighbour core d)
  match d with
  | .north => k.qs
  | .south => k.qn
  | .east => k.qw
  | .west => k.qe

/-- The trap that an instruction takes: the state after it. -/
def trapped (s : State) (c : Cause) (v : Word) : Host.Outcome State Fault Refusal := .next (takeTrap s c v)

/-- The trap of an address that a check of R133 refuses: the errors that its walk has met are noted all the same (R289, R290). -/
def refusedAt (s : State) (c : Cause) (a : Word) : Host.Outcome State Fault Refusal := trapped (noteTrap {} s c a) c a

/-- Every byte of memory reads as before. -/
def sameBytes (s t : State) : Prop := ∀ a, readByte t a = readByte s a

/-- Every byte of memory outside n bytes at pa reads as before. -/
def sameOutside (s t : State) (pa n : Nat) : Prop := ∀ a, a < pa ∨ pa + n ≤ a → readByte t a = readByte s a

/-- Every operand code but rd reads as before (its plain value). -/
def sameCodesBut (s t : State) (rd : Reg) : Prop := ∀ r, r ≠ rd → plainRead t.t r = plainRead s.t r

/-- Every operand code reads as before. -/
def sameCodes (s t : State) : Prop := ∀ r, plainRead t.t r = plainRead s.t r

/-- The special registers of the slot (R69) and its engine registers are as before; STATUS keeps all but PP (R86). -/
def sameSpecial (s t : State) : Prop :=
  t.t.status &&& 3 = s.t.status &&& 3 ∧ t.t.tvec = s.t.tvec ∧ t.t.tepc = s.t.tepc ∧ t.t.tcause = s.t.tcause ∧ t.t.tval = s.t.tval
    ∧ t.t.tstatus = s.t.tstatus ∧ t.t.tprefix = s.t.tprefix ∧ t.t.tscratch = s.t.tscratch ∧ t.t.iemask = s.t.iemask
    ∧ t.t.ipend = s.t.ipend ∧ t.t.tcmp = s.t.tcmp ∧ t.t.member = s.t.member ∧ t.t.lineage = s.t.lineage ∧ t.t.ctxid = s.t.ctxid
    ∧ t.t.prio = s.t.prio ∧ t.t.stealdom = s.t.stealdom ∧ t.t.spillb = s.t.spillb ∧ t.t.spillp = s.t.spillp
    ∧ t.t.peerfail = s.t.peerfail ∧ t.t.eregs = s.t.eregs

/-- The tiles, FFLAGS, the mask and the frames of the slot are as before. -/
def sameTiles (s t : State) : Prop := t.t.tiles = s.t.tiles
def sameFlags (s t : State) : Prop := t.t.fflags = s.t.fflags
def sameMask (s t : State) : Prop := t.t.mask = s.t.mask ∧ t.t.active = s.t.active
def sameFrames (s t : State) : Prop := t.t.frames = s.t.frames ∧ t.t.spilled = s.t.spilled

/-- A core without its issue port (R103). -/
def portless (k : Core) : Core := { k with last := 0, lost := false, stalls := 0 }

/-- Outside the slot in force only the issue port of its core may have changed: memory, granules, other slots, cores, clusters, dies,
accesses on their way and every engine are as before. -/
def sameDevice (s t : State) : Prop :=
  t = { s with slot := t.slot, cores := t.cores } ∧ ∀ c, portless (t.coreAt c) = portless (s.coreAt c)

/-- An access of the slot in force can be performed in its step: its address passes the checks of R133 and names the physical address
pa of this device, no data breakpoint watches it, the core has a request to spare (R104), no engine owns its unit (R165), nothing waits
at a home, no reply and no record is on its way (R22), and a write meets no armed segment (R225). -/
structure Reaches (s : State) (k : Access) (a : Word) (size align : Nat) (sc : Option (BitVec 2)) (q : BitVec 2) (writes : Bool)
    (pa : Nat) : Prop where
  located : ∃ s2 fl, locate s s.asker k a size align sc q = .ok (s2, .mem pa fl)
  unwatched : dataMatch s.slot [(a, writes)] = none
  room : outstandingCore s s.core < 64
  unowned : owned s pa size = false
  alone : s.held = []
  answered : s.replies = []
  no_records : s.inflight = []
  unarmed : writes = true → inArmed s pa size = false

/-- What errors in memory leave behind (R289, R290): words with a bit in error, words past correction, and the errors met. -/
def errorsAside (s t : State) : State := { s with faint := t.faint, spoiled := t.spoiled, errors := t.errors }

/-- Every granule of a range is full, or every one is empty (R143). -/
def allFull (s : State) (pa n : Nat) : Prop := ∀ g ∈ granulesOf pa n, isFull s g = true
def allEmpty (s : State) (pa n : Nat) : Prop := ∀ g ∈ granulesOf pa n, isFull s g = false

/-- A core without what tracing records. -/
def untraced (k : Core) : Core := { portless k with trace := [], trcptr := 0, trcstat := 0, tracePost := none }

/-- The same, but for the trace of a core (R265). -/
def sameDeviceTraced (s t : State) : Prop :=
  t = { s with slot := t.slot, cores := t.cores } ∧ ∀ c, untraced (t.coreAt c) = untraced (s.coreAt c)

/-- No register, tile, flag or byte of memory changes. -/
def keepsData (s t : State) : Prop :=
  sameCodes s t ∧ sameSpecial s t ∧ sameTiles s t ∧ sameFlags s t ∧ sameBytes s t

end Sys2Proof.Machine
end

