-- ==== Sys2Proof/Certificates/Slice0/Obligations.lean ====
section
/-!
DEFINITION. The statements about the model. The tables before them are written from the instruction reference (spec/20 to spec/23);
the terms Issues, Calm, plainCode and the frame relations are in Sys2Proof/Safety.lean.
-/
namespace Sys2Proof.Machine

/-! ## Tables of the integer and control families -/

/-- An instruction that only computes: its marker, its operand fields, its destination, and its result from its address and
operands. -/
structure Computes where
  sw : Bool
  use : Use
  rd : Reg
  value : Pc → Vals → Word

/-- Bit fields (R323): L ones from bit 0, where the length code 0 stands for 64. -/
def onesUpTo (len : BitVec 6) : Word := if len = 0 then 0xFFFFFFFFFFFFFFFF else (1 <<< len.toNat) - 1

/-- The integer group without division, and the immediate forms (R311, R312, R315, R323, R330, R356, R357, R362, R363, R379, R381).
SEL is stated apart. -/
def computes : Instr → Option Computes
  | .add rd ra rb sw => some ⟨sw, use2 rd ra rb, rd, fun _ v => v.a + v.b⟩
  | .sub rd ra rb sw => some ⟨sw, use2 rd ra rb, rd, fun _ v => v.a - v.b⟩
  | .and rd ra rb sw => some ⟨sw, use2 rd ra rb, rd, fun _ v => v.a &&& v.b⟩
  | .or rd ra rb sw => some ⟨sw, use2 rd ra rb, rd, fun _ v => v.a ||| v.b⟩
  | .xor rd ra rb sw => some ⟨sw, use2 rd ra rb, rd, fun _ v => v.a ^^^ v.b⟩
  | .shl rd ra rb sw => some ⟨sw, use2 rd ra rb, rd, fun _ v => v.a <<< (v.b &&& 63)⟩
  | .shr rd ra rb sw => some ⟨sw, use2 rd ra rb, rd, fun _ v => v.a >>> (v.b &&& 63)⟩
  | .sra rd ra rb sw => some ⟨sw, use2 rd ra rb, rd, fun _ v => v.a.sshiftRight (v.b &&& 63).toNat⟩
  | .slt rd ra rb sw => some ⟨sw, use2 rd ra rb, rd, fun _ v => if v.a.toInt < v.b.toInt then 1 else 0⟩
  | .sltu rd ra rb sw => some ⟨sw, use2 rd ra rb, rd, fun _ v => if v.a.toNat < v.b.toNat then 1 else 0⟩
  | .min rd ra rb sw => some ⟨sw, use2 rd ra rb, rd, fun _ v => BitVec.ofInt 64 (min v.a.toInt v.b.toInt)⟩
  | .max rd ra rb sw => some ⟨sw, use2 rd ra rb, rd, fun _ v => BitVec.ofInt 64 (max v.a.toInt v.b.toInt)⟩
  | .minu rd ra rb sw => some ⟨sw, use2 rd ra rb, rd, fun _ v => BitVec.ofNat 64 (min v.a.toNat v.b.toNat)⟩
  | .maxu rd ra rb sw => some ⟨sw, use2 rd ra rb, rd, fun _ v => BitVec.ofNat 64 (max v.a.toNat v.b.toNat)⟩
  | .mix rd ra rb sw => some ⟨sw, use2 rd ra rb, rd, fun _ v => mix64 (v.a + v.b * 0x9E6C63D0676A9A99)⟩
  | .clz rd ra sw => some ⟨sw, use1 rd ra, rd, fun _ v => BitVec.ofNat 64 ((List.range 64).findIdx (fun i => v.a.getMsbD i))⟩
  | .ctz rd ra sw => some ⟨sw, use1 rd ra, rd, fun _ v => BitVec.ofNat 64 ((List.range 64).findIdx (fun i => v.a.getLsbD i))⟩
  | .popc rd ra sw => some ⟨sw, use1 rd ra, rd, fun _ v => BitVec.ofNat 64 ((List.range 64).countP (fun i => v.a.getLsbD i))⟩
  | .mul rd ra rb sw => some ⟨sw, use2 rd ra rb, rd, fun _ v => v.a * v.b⟩
  | .mulh rd ra rb sw => some ⟨sw, use2 rd ra rb, rd, fun _ v => BitVec.ofInt 64 (v.a.toInt * v.b.toInt / 18446744073709551616)⟩
  | .mulhu rd ra rb sw => some ⟨sw, use2 rd ra rb, rd, fun _ v => BitVec.ofNat 64 (v.a.toNat * v.b.toNat / 18446744073709551616)⟩
  | .addi rd ra imm sw => some ⟨sw, use1 rd ra, rd, fun _ v => v.a + BitVec.ofInt 64 imm.toInt⟩
  | .andi rd ra imm sw => some ⟨sw, use1 rd ra, rd, fun _ v => v.a &&& BitVec.ofInt 64 imm.toInt⟩
  | .ori rd ra imm sw => some ⟨sw, use1 rd ra, rd, fun _ v => v.a ||| BitVec.ofInt 64 imm.toInt⟩
  | .xori rd ra imm sw => some ⟨sw, use1 rd ra, rd, fun _ v => v.a ^^^ BitVec.ofInt 64 imm.toInt⟩
  | .slti rd ra imm sw => some ⟨sw, use1 rd ra, rd, fun _ v => if v.a.toInt < imm.toInt then 1 else 0⟩
  | .sltiu rd ra imm sw => some ⟨sw, use1 rd ra, rd, fun _ v => if v.a.toNat < (BitVec.ofInt 64 imm.toInt).toNat then 1 else 0⟩
  | .shli rd ra n sw => some ⟨sw, use1 rd ra, rd, fun _ v => v.a <<< n⟩
  | .shri rd ra n sw => some ⟨sw, use1 rd ra, rd, fun _ v => v.a >>> n⟩
  | .srai rd ra n sw => some ⟨sw, use1 rd ra, rd, fun _ v => v.a.sshiftRight n.toNat⟩
  | .lui rd imm sw => some ⟨sw, { d := [rd] }, rd, fun _ _ => BitVec.ofInt 64 (imm.toInt * 8192)⟩
  | .addpc rd imm sw => some ⟨sw, { d := [rd] }, rd, fun pc _ => BitVec.ofNat 64 pc.toNat + BitVec.ofInt 64 (imm.toInt * 8192)⟩
  | .bfx rd ra pos len sw => some ⟨sw, use1 rd ra, rd, fun _ v => (v.a >>> pos) &&& onesUpTo len⟩
  | .bfi rd ra pos len sw =>
    some ⟨sw, { a := some ra, c := some rd, d := [rd] }, rd,
      fun _ v => (v.c &&& ~~~(onesUpTo len <<< pos)) ||| ((v.a &&& onesUpTo len) <<< pos)⟩
  | _ => none

/-- SEL's use of its fields: rd is read after ra and rb (R378). -/
def selUse (rd ra rb : Reg) : Use := { a := some ra, b := some rb, c := some rd, d := [rd] }

/-- The four divisions: marker, fields and quotient or remainder (R342): by zero, all ones or the dividend; signed ones round toward
zero. -/
def divides : Instr → Option (Bool × Reg × Reg × Reg × (Word → Word → Word))
  | .div rd ra rb sw => some (sw, rd, ra, rb, fun x y => if y = 0 then -1 else BitVec.ofInt 64 (x.toInt.tdiv y.toInt))
  | .divu rd ra rb sw => some (sw, rd, ra, rb, fun x y => if y = 0 then -1 else BitVec.ofNat 64 (x.toNat / y.toNat))
  | .rem rd ra rb sw => some (sw, rd, ra, rb, fun x y => if y = 0 then x else BitVec.ofInt 64 (x.toInt.tmod y.toInt))
  | .remu rd ra rb sw => some (sw, rd, ra, rb, fun x y => if y = 0 then x else BitVec.ofNat 64 (x.toNat % y.toNat))
  | _ => none

/-- What an instruction that only writes rd leaves as it was, with the PC at the next instruction. -/
def onlyWrites (s t : State) (rd : Reg) : Prop :=
  t.t.pc = s.t.pc + 4 ∧ plainRead t.t 0 = 0 ∧ sameCodesBut s t rd ∧ sameSpecial s t ∧ sameTiles s t ∧ sameFlags s t ∧ sameMask s t
    ∧ sameFrames s t ∧ sameBytes s t ∧ sameDevice s t

end Sys2Proof.Machine

open Sys2Proof Sys2Proof.Machine

/-! ## Integer instructions -/

/-- R57, R311, R312, R315, R323, R330, R356, R357, R362, R363, R379, R381: on plain registers the result goes to rd, a write of z is
discarded, and nothing else changes. On every operand form (link queues, ib, eq, sa and sb among them) the instruction completes with that
write, once its fields have given their values and the write is possible; a checked store of an armed stream is waited for first (R226). -/
def Obligations.ComputedResultIsWritten : Prop :=
  (∀ (i : Instr) (c : Computes) (s : State), computes i = some c → i.wellFormed = true → Calm s → s.t.active = true →
    (∀ r ∈ c.use.reads ++ c.use.d, plainCode s.t r = true) →
    ∃ t, exec i s = .next t
      ∧ (c.rd ≠ 0 → plainRead t.t c.rd = c.value s.t.pc (plainVals s.t c.use))
      ∧ onlyWrites s t c.rd)
  ∧ (∀ (i : Instr) (c : Computes) (s s1 s2 : State) (v : Vals), computes i = some c → Issues i c.use s s1 v →
    putReg (advanced s s1) c.rd (c.value s.t.pc v) = .ok s2 → exec i s = .next (conclude i.word c.sw c.use s s2)
      ∧ (s2.t.wait = none → exec i s = .next (issued c.sw (complete i.word c.sw c.use s s2))))

/-- R378: rd takes rb when ra is not 0, and otherwise stays as it was; a queue that rb names has popped by then in both cases. That a queue
named by rd has popped too and is not written when ra is 0, so that its word is gone, is the model's reading of 'is written back' (log 17,
DEDUCED). `sel w3, w4, w5` is 0x04B3_0D1C. -/
def Obligations.SelTakesRbUnlessRaIsZero : Prop :=
  (∀ (rd ra rb : Reg) (sw : Bool) (s : State), Calm s → s.t.active = true → (∀ r ∈ [ra, rb, rd], plainCode s.t r = true) →
    ∃ t, exec (.sel rd ra rb sw) s = .next t
      ∧ (rd ≠ 0 → plainRead t.t rd = if plainRead s.t ra ≠ 0 then plainRead s.t rb else plainRead s.t rd)
      ∧ onlyWrites s t rd)
  ∧ (∀ (rd ra rb : Reg) (sw : Bool) (s s1 s2 : State) (v : Vals), Issues (.sel rd ra rb sw) (selUse rd ra rb) s s1 v →
      (if v.a = 0 then s2 = advanced s s1 else putReg (advanced s s1) rd v.b = .ok s2) →
      exec (.sel rd ra rb sw) s = .next (conclude (Instr.sel rd ra rb sw).word sw (selUse rd ra rb) s s2))
  ∧ Instr.word (.sel 11 12 13 false) = 0x04B30D1C ∧ decodeWord 0x04B30D1C = .ok (.sel 11 12 13 false)

/-- R342, R355: a division with the divider free goes on at once; the divider holds its quotient or remainder for rd, which awaits it. With
the divider busy the instruction stalls. The result reaches the global, the window entry, the neighbour's queue or the plain stream
register that the division named. -/
def Obligations.DivisionUsesTheDivider : Prop :=
  (∀ (i : Instr) (sw : Bool) (rd ra rb : Reg) (f : Word → Word → Word) (s : State), divides i = some (sw, rd, ra, rb, f) → Calm s →
    s.t.active = true → (∀ r ∈ [ra, rb, rd], plainCode s.t r = true) →
    ((s.coreAt s.core).divider = none →
      ∃ t, exec i s = .next t ∧ t.t.pc = s.t.pc + 4
        ∧ (t.coreAt s.core).divider = some { slot := s.cur, dst := dstOf s.t rd, value := f (plainRead s.t ra) (plainRead s.t rb) }
        ∧ (rd ≠ 0 → t.t.pend = [dstOf s.t rd]) ∧ sameCodes s t ∧ sameSpecial s t ∧ sameFlags s t ∧ sameBytes s t)
    ∧ ((s.coreAt s.core).divider.isSome = true → exec i s = .next (stalled s)))
  ∧ (∀ (core : Nat) (s : State) (d : Division), (s.coreAt core).divider = some d →
    ((∀ b, d.dst ≠ .stream b) →
      ∃ t, exec (.divisionResult core) s = .next t ∧ (t.coreAt core).divider = none ∧ sameBytes s t
        ∧ (∀ g, d.dst = .glob g → g < 7 → (t.slotAt d.slot).t.globals[g]! = d.value)
        ∧ (∀ e, d.dst = .win e → e < 128 → (t.slotAt d.slot).t.win[e]! = d.value)
        ∧ (∀ dir, d.dst = .link dir → queueToward t (coreOf d.slot) dir = queueToward s (coreOf d.slot) dir ++ [d.value]))
    ∧ (d.dst = .stream false → (s.slotAt d.slot).t.sa.armed = false →
        ∃ t, exec (.divisionResult core) s = .next t ∧ (t.slotAt d.slot).t.sa.value = d.value ∧ sameBytes s t)
    ∧ (d.dst = .stream true → (s.slotAt d.slot).t.sb.armed = false →
        ∃ t, exec (.divisionResult core) s = .next t ∧ (t.slotAt d.slot).t.sb.value = d.value ∧ sameBytes s t))
/-! ## Control -/

namespace Sys2Proof.Machine

/-- The conditional branches: marker, operands, displacement and condition (R322). -/
def branches : Instr → Option (Bool × Reg × Reg × BitVec 13 × (Word → Word → Bool))
  | .beq ra rb disp sw => some (sw, ra, rb, disp, fun x y => x = y)
  | .bne ra rb disp sw => some (sw, ra, rb, disp, fun x y => x ≠ y)
  | .blt ra rb disp sw => some (sw, ra, rb, disp, fun x y => x.toInt < y.toInt)
  | .bge ra rb disp sw => some (sw, ra, rb, disp, fun x y => y.toInt ≤ x.toInt)
  | .bltu ra rb disp sw => some (sw, ra, rb, disp, fun x y => x.toNat < y.toNat)
  | .bgeu ra rb disp sw => some (sw, ra, rb, disp, fun x y => y.toNat ≤ x.toNat)
  | _ => none

/-- An address 4 · n bytes after another, modulo 2^48. -/
def pcPlus (pc : Pc) (n : Int) : Pc := pc + BitVec.ofInt 48 (4 * n)

/-- The oldest resident frame f, below g, has been spilled (R64): its own entries and its descriptor stand from SPILLP on, SPILLP has moved past
them, and no other byte has changed. -/
def spilledOldest (s t : State) (f g : Frame) : Prop :=
  let n := entriesUp f.base g.base
  let d := readWord t (tcmAddr s.core (s.t.spillPtr + 8 * n))
  t.t.spilled = s.t.spilled + 1 ∧ t.t.spillPtr = s.t.spillPtr + 8 * (n + 1)
    ∧ (∀ i, i < n → readWord t (tcmAddr s.core (s.t.spillPtr + 8 * i)) = s.t.win[(f.base + i) % 128]!)
    ∧ bitsOf d 54 10 = 0 ∧ bitsOf d 48 6 = f.size ∧ bitsOf d 2 46 = (if f.kind = .bottom then 0 else f.ret.toNat / 4)
    ∧ bitsOf d 0 2 = (match f.kind with | .call => 0 | .bottom => 1 | .nested => 2)
    ∧ sameOutside s t (tcmAddr s.core s.t.spillPtr) (8 * (n + 1))

/-- CALL and CALLR: what they name, their operand, and their target when they have one (R328). -/
def calls (s : State) : Instr → Option (List Reg × Pc)
  | .call disp _ => some ([], pcPlus s.t.pc disp.toInt)
  | .callr ra _ => if (plainRead s.t ra).toNat % 4 = 0 then some ([ra], (plainRead s.t ra).truncate 48) else none
  | _ => none

end Sys2Proof.Machine

/-- R322: a branch goes to PC + 4·sext(disp) mod 2^48 or to the next instruction, on its operands' plain values, and changes no data. It
does so whatever the mask (R121). The same on every operand form, queues among them. -/
def Obligations.BranchGoesWhereItsConditionSays : Prop :=
  (∀ (i : Instr) (sw : Bool) (ra rb : Reg) (disp : BitVec 13) (taken : Word → Word → Bool) (s : State),
    branches i = some (sw, ra, rb, disp, taken) → Calm s → (∀ r ∈ [ra, rb], plainCode s.t r = true) →
    ∃ t, exec i s = .next t
      ∧ t.t.pc = (if taken (plainRead s.t ra) (plainRead s.t rb) then pcPlus s.t.pc disp.toInt else s.t.pc + 4)
      ∧ keepsData s t ∧ sameMask s t ∧ sameFrames s t ∧ sameDeviceTraced s t)
  ∧ (∀ (i : Instr) (sw : Bool) (ra rb : Reg) (disp : BitVec 13) (taken : Word → Word → Bool) (s s1 : State) (v : Vals),
    branches i = some (sw, ra, rb, disp, taken) → Issues i { a := some ra, b := some rb, control := true } s s1 v →
    ∃ t, exec i s = .next t
      ∧ (s.t.leader = none → t.t.pc = (if taken v.a v.b then pcPlus s.t.pc disp.toInt else s.t.pc + 4))
      ∧ (s.t.followers = [] → sameBytes s1 t ∧ sameCodes s1 t ∧ sameDeviceTraced s1 t))

/-- R352: J goes to PC + 4·sext(disp); JR to ra[47:0], or takes ALIGN with TVAL = ra when ra[1:0] is not zero. Neither changes the
frames or the mask stack. -/
def Obligations.JumpsGoToTheirTargets : Prop :=
  (∀ (disp : BitVec 25) (sw : Bool) (s : State), Calm s →
    ∃ t, exec (.j disp sw) s = .next t ∧ t.t.pc = pcPlus s.t.pc disp.toInt
      ∧ keepsData s t ∧ sameMask s t ∧ sameFrames s t ∧ sameDeviceTraced s t)
  ∧ (∀ (ra : Reg) (sw : Bool) (s : State), Calm s → plainCode s.t ra = true → (plainRead s.t ra).toNat % 4 = 0 →
    ∃ t, exec (.jr ra sw) s = .next t ∧ t.t.pc = (plainRead s.t ra).truncate 48
      ∧ keepsData s t ∧ sameMask s t ∧ sameFrames s t ∧ sameDeviceTraced s t)
  ∧ (∀ (ra : Reg) (sw : Bool) (s : State), Calm s → plainCode s.t ra = true → (plainRead s.t ra).toNat % 4 ≠ 0 →
    exec (.jr ra sw) s = trapped s .align (plainRead s.t ra) ∧ exec (.callr ra sw) s = trapped s .align (plainRead s.t ra))

/-- R62, R328: a call records PC + 4 in a new frame of eight registers, which are the caller's last eight, and goes to its target. The
resident entries and frames are within the bounds of R63. R369: RET from a call frame goes to the recorded PC and makes the frame below
current again; from a bottom or a nested frame it takes STACK. R343, R380: ENTER k sets FRAME to k, and registers that come into the frame
read as zero while the others keep their values; SHRINK k does so only when k is below FRAME. R63 to R65: where an ENTER would need more than
128 resident entries, or a call a 65th resident frame, the oldest frame is spilled first (here one is enough), or STACK is taken when the spill
would reach the limit; a RET to a spilled frame fills it from its descriptor, or takes STACK when that lies below the base or is malformed. -/
def Obligations.CallsAndReturnsMoveFrames : Prop :=
  (∀ (i : Instr) (rs : List Reg) (target : Pc) (s : State), calls s i = some (rs, target) → Calm s →
    (∀ r ∈ rs, plainCode s.t r = true) → s.t.frames ≠ [] → 8 ≤ s.t.frame.size → s.t.frame.size ≤ 48 → s.t.resident ≤ 128 →
    s.t.frames.length < 64 → s.t.depth < 65535 →
    ∃ t, exec i s = .next t ∧ t.t.pc = target
      ∧ t.t.frames = { base := (s.t.frame.base + s.t.frame.size - 8) % 128, size := 8, ret := s.t.pc + 4, kind := .call } :: s.t.frames
      ∧ (∀ j : Nat, j < 8 → plainRead t.t (BitVec.ofNat 6 (8 + j)) = plainRead s.t (BitVec.ofNat 6 (8 + (s.t.frame.size - 8) + j)))
      ∧ t.t.globals = s.t.globals ∧ t.t.win = s.t.win ∧ sameSpecial s t ∧ sameTiles s t ∧ sameMask s t ∧ sameBytes s t
      ∧ sameDeviceTraced s t)
  ∧ (∀ (i : Instr) (rs : List Reg) (target : Pc) (f g : Frame) (rest : List Frame) (s : State), calls s i = some (rs, target) → Calm s →
    (∀ r ∈ rs, plainCode s.t r = true) → s.t.frames.reverse = f :: g :: rest → s.t.frames.length = 64 → f.size ≤ 48 →
    spanBelow s.t.frames.dropLast + s.t.frame.size ≤ 128 → s.t.depth < 65535 → spillBlocked s = false →
    (s.t.spillPtr + 8 * (entriesUp f.base g.base + 1) ≤ s.t.spillLimit →
      ∃ t, exec i s = .next t ∧ t.t.pc = target ∧ spilledOldest s t f g ∧ t.t.win = s.t.win ∧ t.t.globals = s.t.globals
        ∧ t.t.frames = { base := (s.t.frame.base + s.t.frame.size - 8) % 128, size := 8, ret := s.t.pc + 4, kind := .call } :: s.t.frames.dropLast)
    ∧ (s.t.spillLimit < s.t.spillPtr + 8 * (entriesUp f.base g.base + 1) → exec i s = trapped s .stack 0))
  ∧ ((∀ (sw : Bool) (f g : Frame) (rest : List Frame) (s : State), Calm s → s.t.frames = f :: g :: rest → f.kind = .call →
    ∃ t, exec (.ret sw) s = .next t ∧ t.t.pc = f.ret ∧ t.t.frames = g :: rest ∧ t.t.spilled = s.t.spilled ∧ t.t.win = s.t.win
      ∧ t.t.globals = s.t.globals ∧ sameTiles s t ∧ sameMask s t ∧ sameBytes s t ∧ sameDeviceTraced s t
      ∧ (s.t.strandDepth < s.t.depth → sameSpecial s t))
  ∧ (∀ (sw : Bool) (f : Frame) (s : State), Calm s → s.t.frames = [f] → f.kind = .call → spillBlocked s = false → s.t.strandDepth < s.t.depth →
    let d := readWord s (tcmAddr s.core (s.t.spillPtr - 8))
    let n := bitsOf d 48 6 - 8
    ((s.t.spillPtr < s.t.spillBase + 8 ∨ bitsOf d 0 2 = 3 ∨ bitsOf d 48 6 < 8 ∨ 48 < bitsOf d 48 6 ∨ s.t.spillPtr < s.t.spillBase + 8 * (n + 1)) →
      exec (.ret sw) s = trapped s .stack 0)
    ∧ (s.t.spillBase + 8 * (n + 1) ≤ s.t.spillPtr → bitsOf d 0 2 ≠ 3 → 8 ≤ bitsOf d 48 6 → bitsOf d 48 6 ≤ 48 →
      ∃ t, exec (.ret sw) s = .next t ∧ t.t.pc = f.ret ∧ t.t.spilled = s.t.spilled - 1 ∧ t.t.spillPtr = s.t.spillPtr - 8 * (n + 1)
        ∧ t.t.frames = [{ base := (f.base + (128 - n)) % 128, size := bitsOf d 48 6, ret := BitVec.ofNat 48 (bitsOf d 2 46 * 4),
                          kind := if bitsOf d 0 2 = 0 then .call else if bitsOf d 0 2 = 1 then .bottom else .nested }]
        ∧ (∀ i : Nat, i < n → plainRead t.t (BitVec.ofNat 6 (8 + i)) = readWord s (tcmAddr s.core (s.t.spillPtr - 8 * (n + 1) + 8 * i)))
        ∧ (∀ i : Nat, i < 8 → plainRead t.t (BitVec.ofNat 6 (8 + n + i)) = plainRead s.t (BitVec.ofNat 6 (8 + i)))
        ∧ t.t.globals = s.t.globals ∧ sameBytes s t))
  ∧ (∀ (sw : Bool) (s : State), Calm s → s.t.frame.kind ≠ .call → exec (.ret sw) s = trapped s .stack 0))
  ∧ ((∀ (k : BitVec 6) (sw : Bool) (f : Frame) (rest : List Frame) (s : State), Calm s → 8 ≤ k.toNat → k.toNat ≤ 48 →
    s.t.frames = f :: rest → f.size ≤ 48 → rest.length < 64 → s.t.resident ≤ 128 → spanBelow s.t.frames + k.toNat ≤ 128 →
    ∃ t, exec (.enter k sw) s = .next t ∧ t.t.pc = s.t.pc + 4 ∧ t.t.frames = { f with size := k.toNat } :: rest
      ∧ (∀ j : Nat, f.size ≤ j → j < k.toNat → plainRead t.t (BitVec.ofNat 6 (8 + j)) = 0)
      ∧ (∀ j : Nat, j < f.size → j < k.toNat → plainRead t.t (BitVec.ofNat 6 (8 + j)) = plainRead s.t (BitVec.ofNat 6 (8 + j)))
      ∧ t.t.globals = s.t.globals ∧ sameSpecial s t ∧ sameTiles s t ∧ sameMask s t ∧ sameBytes s t ∧ sameDevice s t)
  ∧ (∀ (k : BitVec 6) (sw : Bool) (f g : Frame) (rest : List Frame) (s : State), Calm s → 8 ≤ k.toNat → k.toNat ≤ 48 →
    s.t.frames.reverse = f :: g :: rest → s.t.frames.length ≤ 64 → f.size ≤ 48 → s.t.frame.size ≤ 48 →
    128 < spanBelow s.t.frames + k.toNat → spanBelow s.t.frames.dropLast + k.toNat ≤ 128 → s.t.frame.size ≤ k.toNat → spillBlocked s = false →
    (s.t.spillPtr + 8 * (entriesUp f.base g.base + 1) ≤ s.t.spillLimit →
      ∃ t, exec (.enter k sw) s = .next t ∧ t.t.pc = s.t.pc + 4 ∧ spilledOldest s t f g ∧ t.t.globals = s.t.globals
        ∧ t.t.frames = { s.t.frame with size := k.toNat } :: s.t.frames.dropLast.drop 1
        ∧ (∀ j : Nat, s.t.frame.size ≤ j → j < k.toNat → plainRead t.t (BitVec.ofNat 6 (8 + j)) = 0)
        ∧ (∀ j : Nat, j < s.t.frame.size → plainRead t.t (BitVec.ofNat 6 (8 + j)) = plainRead s.t (BitVec.ofNat 6 (8 + j))))
    ∧ (s.t.spillLimit < s.t.spillPtr + 8 * (entriesUp f.base g.base + 1) → exec (.enter k sw) s = trapped s .stack 0))
  ∧ (∀ (k : BitVec 6) (sw : Bool) (f : Frame) (rest : List Frame) (s : State), Calm s → 8 ≤ k.toNat → k.toNat ≤ 48 →
    s.t.frames = f :: rest →
    ∃ t, exec (.shrink k sw) s = .next t ∧ t.t.pc = s.t.pc + 4 ∧ t.t.frames = { f with size := min k.toNat f.size } :: rest
      ∧ t.t.win = s.t.win ∧ t.t.globals = s.t.globals ∧ sameSpecial s t ∧ sameTiles s t ∧ sameMask s t ∧ sameBytes s t ∧ sameDevice s t))

/-- R122: MIF pushes the active bit and its condition, MELSE turns the top condition round, MEND pops; each takes STACK where the stack
has no room, or no entry. They act whatever the mask. R121, R122: an inactive slot passes over every instruction that is no control
instruction; here, those that only compute. -/
def Obligations.MaskGroupKeepsItsStack : Prop :=
  ((∀ (ra : Reg) (sw : Bool) (s : State), Calm s → plainCode s.t ra = true →
    (s.t.mask.length < 8 →
      ∃ t, exec (.mif ra sw) s = .next t ∧ t.t.pc = s.t.pc + 4
        ∧ t.t.mask = { parent := s.t.active, cond := decide (plainRead s.t ra ≠ 0) } :: s.t.mask
        ∧ t.t.active = (s.t.active && decide (plainRead s.t ra ≠ 0)) ∧ keepsData s t ∧ sameFrames s t ∧ sameDeviceTraced s t)
    ∧ (8 ≤ s.t.mask.length → exec (.mif ra sw) s = trapped s .stack 0))
  ∧ (∀ (sw : Bool) (e : MaskEntry) (rest : List MaskEntry) (s : State), Calm s → s.t.mask = e :: rest →
    (∃ t, exec (.melse sw) s = .next t ∧ t.t.pc = s.t.pc + 4 ∧ t.t.mask = { e with cond := !e.cond } :: rest
      ∧ t.t.active = (e.parent && !e.cond) ∧ keepsData s t ∧ sameFrames s t ∧ sameDeviceTraced s t)
    ∧ (∃ t, exec (.mend sw) s = .next t ∧ t.t.pc = s.t.pc + 4 ∧ t.t.mask = rest ∧ t.t.active = e.parent
      ∧ keepsData s t ∧ sameFrames s t ∧ sameDeviceTraced s t))
  ∧ (∀ (sw : Bool) (s : State), Calm s → s.t.mask = [] →
    exec (.melse sw) s = trapped s .stack 0 ∧ exec (.mend sw) s = trapped s .stack 0))
  ∧ (∀ (i : Instr) (c : Computes) (s : State), computes i = some c → s.t.active = false → Calm s →
    ∃ t, exec i s = .next t ∧ t.t.pc = s.t.pc + 4 ∧ keepsData s t ∧ sameMask s t ∧ sameFrames s t ∧ sameDevice s t)
/-! ## Memory -/

namespace Sys2Proof.Machine

/-- The loads: marker, fields, qualifier, size and whether the value is sign-extended (R354). -/
def loads : Instr → Option (Bool × Reg × Reg × BitVec 11 × BitVec 2 × Nat × Bool)
  | .ldb rt ra off q sw => some (sw, rt, ra, off, q, 1, true)
  | .ldbu rt ra off q sw => some (sw, rt, ra, off, q, 1, false)
  | .ldh rt ra off q sw => some (sw, rt, ra, off, q, 2, true)
  | .ldhu rt ra off q sw => some (sw, rt, ra, off, q, 2, false)
  | .ldw rt ra off q sw => some (sw, rt, ra, off, q, 4, true)
  | .ldwu rt ra off q sw => some (sw, rt, ra, off, q, 4, false)
  | .ldd rt ra off q sw => some (sw, rt, ra, off, q, 8, false)
  | _ => none

/-- The stores (R383). -/
def stores : Instr → Option (Bool × Reg × Reg × BitVec 11 × BitVec 2 × Nat)
  | .stb rt ra off q sw => some (sw, rt, ra, off, q, 1)
  | .sth rt ra off q sw => some (sw, rt, ra, off, q, 2)
  | .stw rt ra off q sw => some (sw, rt, ra, off, q, 4)
  | .std rt ra off q sw => some (sw, rt, ra, off, q, 8)
  | _ => none

/-- (ra + sext(off) · size) mod 2^64 (R83). -/
def dataAddress (ra : Word) (off : BitVec 11) (size : Nat) : Word := ra + BitVec.ofInt 64 (off.toInt * size)

/-- A value of n bytes as a load extends it. -/
def extended (sign : Bool) (n v : Nat) : Word :=
  if sign then (BitVec.ofNat (8 * n) v).signExtend 64 else (BitVec.ofNat (8 * n) v).zeroExtend 64

/-- The smaller and the larger of two values of n bytes read as signed. -/
def signedMin (n o v : Nat) : Nat := if (BitVec.ofNat (8 * n) v).toInt < (BitVec.ofNat (8 * n) o).toInt then v else o
def signedMax (n o v : Nat) : Nat := if (BitVec.ofNat (8 * n) o).toInt < (BitVec.ofNat (8 * n) v).toInt then v else o

/-- The atomics but NIB and CAS: marker, fields, scope, width in bytes and the new value f(old, v) (R313). -/
def atomics : Instr → Option (Bool × Reg × Reg × Reg × BitVec 2 × Nat × (Nat → Nat → Nat))
  | .amoAdd rd ra rb sc wd sw => some (sw, rd, ra, rb, sc, if wd then 8 else 4, fun o v => (o + v) % (if wd then 2 ^ 64 else 2 ^ 32))
  | .amoAnd rd ra rb sc wd sw => some (sw, rd, ra, rb, sc, if wd then 8 else 4, fun o v => o &&& v)
  | .amoOr rd ra rb sc wd sw => some (sw, rd, ra, rb, sc, if wd then 8 else 4, fun o v => o ||| v)
  | .amoXor rd ra rb sc wd sw => some (sw, rd, ra, rb, sc, if wd then 8 else 4, fun o v => o ^^^ v)
  | .amoMin rd ra rb sc wd sw => some (sw, rd, ra, rb, sc, if wd then 8 else 4, signedMin (if wd then 8 else 4))
  | .amoMax rd ra rb sc wd sw => some (sw, rd, ra, rb, sc, if wd then 8 else 4, signedMax (if wd then 8 else 4))
  | .amoMinu rd ra rb sc wd sw => some (sw, rd, ra, rb, sc, if wd then 8 else 4, min)
  | .amoMaxu rd ra rb sc wd sw => some (sw, rd, ra, rb, sc, if wd then 8 else 4, max)
  | .amoSwap rd ra rb sc wd sw => some (sw, rd, ra, rb, sc, if wd then 8 else 4, fun _ v => v)
  | .amoFadd32 rd ra rb sc sw =>
    some (sw, rd, ra, rb, sc, 4, fun o v => (fmtFP32.round (((fmtFP32.value o).add (fmtFP32.value v) .rne).1) .rne false).1)
  | _ => none

/-- What a write at a home may change beyond its bytes and granules: the slot's and its core's part, the translations held, and the
waits and gates that watch the bytes (R118, R130). -/
def sameButWatchers (s t : State) : Prop :=
  t = { errorsAside s t with
    slot := t.slot, cores := t.cores, tlb := t.tlb, mem := t.mem, empty := t.empty, others := t.others, clusters := t.clusters,
    inflight := t.inflight, farWatches := t.farWatches, answered := t.answered }
  ∧ (∀ c, untraced (t.coreAt c) = untraced (s.coreAt c))

end Sys2Proof.Machine

/-- R354, R355, R143: a load of this device's memory gives rt the extended value and changes no byte; `.fc` leaves its granules empty,
any other load leaves every granule as it was. R142: a load of path 1 gives what the cluster's read-only cache holds of the line, be memory
different by now; a miss takes the line from memory, and the cache holds it from then on (pages are aligned, so that the physical address
stands in its line as the virtual one does). R133, R268: a load of path 6 gives the register's value. -/
def Obligations.LoadGivesTheExtendedValue : Prop :=
  (∀ (i : Instr) (sw : Bool) (rt ra : Reg) (off : BitVec 11) (q : BitVec 2) (size : Nat) (sign : Bool) (pa : Nat) (s : State),
    loads i = some (sw, rt, ra, off, q, size, sign) → q ≠ 3 → Calm s → s.t.active = true → (∀ r ∈ [ra, rt], plainCode s.t r = true) →
    Reaches s .load (dataAddress (plainRead s.t ra) off size) size size none q false pa → (q ≠ 0 → allFull s pa size) →
    ∃ t, exec i s = .next t ∧ t.t.pc = s.t.pc + 4
      ∧ (rt ≠ 0 → plainRead t.t rt = extended sign size (readNat s pa size))
      ∧ (q = 2 → allEmpty t pa size ∧ ∀ g, (∀ h ∈ granulesOf pa size, g / 16 ≠ h / 16) → isFull t g = isFull s g)
      ∧ (q ≠ 2 → t.empty = s.empty)
      ∧ sameCodesBut s t rt ∧ sameSpecial s t ∧ sameTiles s t ∧ sameFlags s t ∧ sameMask s t ∧ sameFrames s t ∧ sameBytes s t
      ∧ t = { errorsAside s t with slot := t.slot, cores := t.cores, tlb := t.tlb, empty := t.empty })
  ∧ (∀ (i : Instr) (sw : Bool) (rt ra : Reg) (off : BitVec 11) (size : Nat) (sign : Bool) (va pa : Nat) (s s2 : State),
    loads i = some (sw, rt, ra, off, 0, size, sign) → Calm s → s.t.active = true → (∀ r ∈ [ra, rt], plainCode s.t r = true) →
    locate s s.asker .load (dataAddress (plainRead s.t ra) off size) size size none 0 = .ok (s2, .ro va pa) → pa % 128 = va % 128 →
    dataMatch s.slot [(dataAddress (plainRead s.t ra) off size, false)] = none →
    ((∀ l, (s.clusterAt s.cluster).rolines.find? (fun l => l.1 = s.asker.ctx && l.2.1 = va / 128) = some l →
        ∃ t, exec i s = .next t ∧ t.t.pc = s.t.pc + 4
          ∧ (rt ≠ 0 → plainRead t.t rt = extended sign size (l.2.2.toNat / 2 ^ (8 * (va % 128)) % 2 ^ (8 * size)))
          ∧ sameCodesBut s t rt ∧ sameSpecial s t ∧ sameTiles s t ∧ sameFlags s t ∧ sameBytes s t
          ∧ t = { errorsAside s t with slot := t.slot, cores := t.cores, tlb := t.tlb, flaws := t.flaws })
    ∧ (roHit s s.cluster s.asker.ctx va = false → owned s pa size = false → outstandingCore s s.core < 64 →
        ∃ t, exec i s = .next t ∧ t.t.pc = s.t.pc + 4
          ∧ (rt ≠ 0 → plainRead t.t rt = extended sign size (readNat s pa size)) ∧ roHit t s.cluster s.asker.ctx va = true
          ∧ sameCodesBut s t rt ∧ sameSpecial s t ∧ sameTiles s t ∧ sameFlags s t ∧ sameBytes s t
          ∧ t = { errorsAside s t with slot := t.slot, cores := t.cores, tlb := t.tlb, clusters := t.clusters })))
  ∧ (∀ (sw : Bool) (rt ra : Reg) (off : BitVec 11) (die reg : Nat) (s s2 : State), Calm s → s.t.active = true →
    (∀ r ∈ [ra, rt], plainCode s.t r = true) →
    locate s s.asker .load (dataAddress (plainRead s.t ra) off 8) 8 8 none 0 = .ok (s2, .reg die reg) →
    dataMatch s.slot [(dataAddress (plainRead s.t ra) off 8, false)] = none → outstandingCore s s.core < 64 →
    ∃ t, exec (.ldd rt ra off 0 sw) s = .next t ∧ t.t.pc = s.t.pc + 4 ∧ (rt ≠ 0 → plainRead t.t rt = regRead s die reg)
      ∧ sameCodesBut s t rt ∧ sameSpecial s t ∧ sameTiles s t ∧ sameFlags s t ∧ sameBytes s t ∧ sameDeviceTraced s t)

/-- R383, R143, R169: a store changes the bytes at the address it computes and no other byte, and no register; with a qualifier its
granules are full afterwards. -/
def Obligations.StoreWritesTheNamedBytes : Prop :=
  ∀ (i : Instr) (sw : Bool) (rt ra : Reg) (off : BitVec 11) (q : BitVec 2) (size pa : Nat) (s : State),
    stores i = some (sw, rt, ra, off, q, size) → q ≠ 3 → Calm s → s.t.active = true → (∀ r ∈ [ra, rt], plainCode s.t r = true) →
    Reaches s .store (dataAddress (plainRead s.t ra) off size) size size none q true pa → (q = 2 → allEmpty s pa size) →
    (q ≠ 0 → hasGranules pa = true) →
    ∃ t, exec i s = .next t ∧ t.t.pc = s.t.pc + 4
      ∧ readNat t pa size = (plainRead s.t rt).toNat % 2 ^ (8 * size) ∧ sameOutside s t pa size
      ∧ (q ≠ 0 → allFull t pa size) ∧ (q = 0 → t.empty = s.empty)
      ∧ sameCodes s t ∧ sameSpecial s t ∧ sameTiles s t ∧ sameFlags s t ∧ sameMask s t ∧ sameFrames s t ∧ sameButWatchers s t

/-- R313: an atomic replaces the old value by f(old, v), where v is the low bytes of rb, and gives rd the old value zero-extended.
R170, R313: NIB replaces the nibble that v[4] names, the low one at 0, and gives rd the old nibble; the byte's other nibble stays.
R329: CAS writes v when the old value is the one that rd holds, and otherwise writes nothing; rd takes the old value. -/
def Obligations.AtomicsReplaceTheOldValue : Prop :=
  (∀ (i : Instr) (sw : Bool) (rd ra rb : Reg) (sc : BitVec 2) (w : Nat) (f : Nat → Nat → Nat) (pa : Nat) (s : State),
    atomics i = some (sw, rd, ra, rb, sc, w, f) → Calm s → s.t.active = true → (∀ r ∈ [ra, rb, rd], plainCode s.t r = true) →
    Reaches s .atomic (plainRead s.t ra) w w (some sc) 0 true pa →
    ∃ t, exec i s = .next t ∧ t.t.pc = s.t.pc + 4
      ∧ readNat t pa w = f (readNat s pa w) ((plainRead s.t rb).toNat % 2 ^ (8 * w)) % 2 ^ (8 * w) ∧ sameOutside s t pa w
      ∧ (rd ≠ 0 → plainRead t.t rd = BitVec.ofNat 64 (readNat s pa w)) ∧ sameCodesBut s t rd
      ∧ sameSpecial s t ∧ sameTiles s t ∧ sameFlags s t ∧ sameMask s t ∧ sameFrames s t ∧ t.empty = s.empty ∧ sameButWatchers s t)
  ∧ (∀ (rd ra rb : Reg) (sc : BitVec 2) (sw : Bool) (pa : Nat) (s : State), Calm s → s.t.active = true →
    (∀ r ∈ [ra, rb, rd], plainCode s.t r = true) → Reaches s .atomic (plainRead s.t ra) 1 1 (some sc) 0 true pa →
    ∃ t, exec (.amoNib rd ra rb sc sw) s = .next t ∧ t.t.pc = s.t.pc + 4
      ∧ readByte t pa = (if (plainRead s.t rb).getLsbD 4 then (plainRead s.t rb).extractLsb' 0 4 ++ (readByte s pa).extractLsb' 0 4
          else (readByte s pa).extractLsb' 4 4 ++ (plainRead s.t rb).extractLsb' 0 4)
      ∧ sameOutside s t pa 1
      ∧ (rd ≠ 0 → plainRead t.t rd = ((readByte s pa).extractLsb' (if (plainRead s.t rb).getLsbD 4 then 4 else 0) 4).zeroExtend 64)
      ∧ sameCodesBut s t rd ∧ sameSpecial s t ∧ sameTiles s t ∧ sameFlags s t ∧ sameButWatchers s t)
  ∧ (∀ (rd ra rb : Reg) (sc : BitVec 2) (wd sw : Bool) (w pa : Nat) (s : State), w = (if wd then 8 else 4) → Calm s →
    s.t.active = true → (∀ r ∈ [ra, rb, rd], plainCode s.t r = true) → Reaches s .atomic (plainRead s.t ra) w w (some sc) 0 true pa →
    ∃ t, exec (.cas rd ra rb sc wd sw) s = .next t ∧ t.t.pc = s.t.pc + 4
      ∧ (readNat s pa w = (plainRead s.t rd).toNat % 2 ^ (8 * w) → readNat t pa w = (plainRead s.t rb).toNat % 2 ^ (8 * w))
      ∧ (readNat s pa w ≠ (plainRead s.t rd).toNat % 2 ^ (8 * w) → sameBytes s t)
      ∧ sameOutside s t pa w ∧ (rd ≠ 0 → plainRead t.t rd = BitVec.ofNat 64 (readNat s pa w))
      ∧ sameCodesBut s t rd ∧ sameSpecial s t ∧ sameTiles s t ∧ sameFlags s t ∧ sameButWatchers s t)

/-- R347, R143: FEGET reads the granule's bit, FESET and FECLR set it full and empty; no byte, and no other granule, changes. -/
def Obligations.FullEmptyInstructions : Prop :=
  ∀ (ra : Reg) (sw : Bool) (pa : Nat) (s : State), Calm s → s.t.active = true → plainCode s.t ra = true →
    ((∀ rd, plainCode s.t rd = true → Reaches s .fe (plainRead s.t ra) 1 1 none 0 false pa →
        ∃ t, exec (.feget rd ra sw) s = .next t ∧ t.t.pc = s.t.pc + 4
          ∧ (rd ≠ 0 → plainRead t.t rd = if isFull s pa then 1 else 0) ∧ sameCodesBut s t rd ∧ sameSpecial s t ∧ sameTiles s t
          ∧ sameFlags s t ∧ sameBytes s t ∧ sameDevice s t)
    ∧ (Reaches s .fe (plainRead s.t ra) 1 1 none 0 true pa →
        (∃ t, exec (.feset ra sw) s = .next t ∧ t.t.pc = s.t.pc + 4 ∧ (∀ g, isFull t g = (isFull s g || decide (g / 16 = pa / 16)))
          ∧ keepsData s t ∧ t = { s with slot := t.slot, cores := t.cores, empty := t.empty })
        ∧ (∃ t, exec (.feclr ra sw) s = .next t ∧ t.t.pc = s.t.pc + 4 ∧ (∀ g, isFull t g = (isFull s g && decide (g / 16 ≠ pa / 16)))
          ∧ keepsData s t ∧ t = { s with slot := t.slot, cores := t.cores, empty := t.empty })))

/-- R133: an address that fails a check takes that check's trap with TVAL = the address, and the access is not made; that PRIV of a register
window too has the address, where R247's table has the instruction word, is the model's choice (log 24, DEDUCED). R133, R148: the checks come
in their order (path, mode of a register window, alignment, translation, protection), and each has its own cause; an address of paths 1, 2 and
4 is translated. R225: a store or an atomic into an armed segment takes PROT. -/
def Obligations.AddressChecksInOrder : Prop :=
  ((∀ (i : Instr) (sw : Bool) (rt ra : Reg) (off : BitVec 11) (q : BitVec 2) (size : Nat) (sign : Bool) (c : Cause) (s : State),
    loads i = some (sw, rt, ra, off, q, size, sign) → q ≠ 3 → Calm s → s.t.active = true → (∀ r ∈ [ra, rt], plainCode s.t r = true) →
    locate s s.asker .load (dataAddress (plainRead s.t ra) off size) size size none q = .error c →
    exec i s = refusedAt s c (dataAddress (plainRead s.t ra) off size))
  ∧ (∀ (i : Instr) (sw : Bool) (rt ra : Reg) (off : BitVec 11) (q : BitVec 2) (size : Nat) (c : Cause) (s : State),
    stores i = some (sw, rt, ra, off, q, size) → q ≠ 3 → Calm s → s.t.active = true → (∀ r ∈ [ra, rt], plainCode s.t r = true) →
    locate s s.asker .store (dataAddress (plainRead s.t ra) off size) size size none q = .error c →
    exec i s = refusedAt s c (dataAddress (plainRead s.t ra) off size))
  ∧ (∀ (i : Instr) (sw : Bool) (rt ra : Reg) (off : BitVec 11) (q : BitVec 2) (size pa fl : Nat) (s s2 : State),
    stores i = some (sw, rt, ra, off, q, size) → q ≠ 3 → Calm s → s.t.active = true → (∀ r ∈ [ra, rt], plainCode s.t r = true) →
    locate s s.asker .store (dataAddress (plainRead s.t ra) off size) size size none q = .ok (s2, .mem pa fl) → inArmed s pa size = true →
    exec i s = refusedAt s .prot (dataAddress (plainRead s.t ra) off size))
  ∧ (∀ (i : Instr) (sw : Bool) (rd ra rb : Reg) (sc : BitVec 2) (w : Nat) (f : Nat → Nat → Nat) (pa fl : Nat) (s s2 : State),
    atomics i = some (sw, rd, ra, rb, sc, w, f) → Calm s → s.t.active = true → (∀ r ∈ [ra, rb, rd], plainCode s.t r = true) →
    locate s s.asker .atomic (plainRead s.t ra) w w (some sc) 0 = .ok (s2, .mem pa fl) → inArmed s pa w = true →
    exec i s = refusedAt s .prot (plainRead s.t ra))
  ∧ (∀ (i : Instr) (sw : Bool) (rd ra rb : Reg) (sc : BitVec 2) (w : Nat) (f : Nat → Nat → Nat) (c : Cause) (s : State),
    atomics i = some (sw, rd, ra, rb, sc, w, f) → Calm s → s.t.active = true → (∀ r ∈ [ra, rb, rd], plainCode s.t r = true) →
    locate s s.asker .atomic (plainRead s.t ra) w w (some sc) 0 = .error c → exec i s = refusedAt s c (plainRead s.t ra)))
  ∧ (∀ (s : State) (who : Asker) (k : Access) (a : Word) (size align : Nat) (sc : Option (BitVec 2)) (q : BitVec 2),
    (pathOk s.devid k a size sc q = none → locate s who k a size align sc q = .error .path)
    ∧ (∀ tok remote, pathOk s.devid k a size sc q = some (tok, remote) →
      (tok = .regs → who.user = true → locate s who k a size align sc q = .error .priv)
      ∧ ((tok = .regs → who.user = false) → a.toNat % align ≠ 0 → locate s who k a size align sc q = .error .align)
      ∧ ((tok = .generic ∨ tok = .ro ∨ tok = .gen4) → remote = false → a.toNat % align = 0 →
          translate s who.core who.ctx (bitsOf a 0 45) = none → locate s who k a size align sc q = .error .xlat)
      ∧ (tok = .ro → a.toNat % align = 0 → ∀ s' pa fl, translate s who.core who.ctx (bitsOf a 0 45) = some (s', pa, fl) →
          locate s who k a size align sc q = if who.user = true ∧ leafU fl = false then .error .prot else .ok (s', .ro (bitsOf a 0 45) pa))
      ∧ ((tok = .generic ∨ tok = .gen4) → remote = false → a.toNat % align = 0 →
          ∀ s' pa fl, translate s who.core who.ctx (bitsOf a 0 45) = some (s', pa, fl) →
          ((k.writes = true ∨ q = 2) ∧ leafW fl = false ∨ who.user = true ∧ leafU fl = false →
            locate s who k a size align sc q = .error .prot)
          ∧ (((k.writes = true ∨ q = 2) → leafW fl = true) → (who.user = true → leafU fl = true) →
            locate s who k a size align sc q = .ok (s', .mem pa fl)))))
/-! ## Operand codes -/

/-- R57 to R61, R20: what each kind of code gives when it is read, and what the read uses up. R57, R58, R60, R20: a write of z is
discarded; a plain code takes the value and no other code changes; a link code pushes toward its neighbour; ib, eq and a stream armed for
reading take QUEUE with TVAL = the code. R14: an instruction whose link queues are not ready stalls: it pops and pushes nothing and stays
where it is. Here, for every instruction that only computes. -/
def Obligations.OperandCodesReadAndWrite : Prop :=
  (∀ s : State,
    (∀ r, plainCode s.t r = true → readReg s r = .ok (s, plainRead s.t r))
    ∧ plainRead s.t 0 = 0
    ∧ (∀ n : Nat, n < 7 → plainRead s.t (BitVec.ofNat 6 (1 + n)) = s.t.globals[n]!)
    ∧ (∀ n : Nat, n < 48 → plainRead s.t (BitVec.ofNat 6 (8 + n)) = s.t.win[(s.t.frame.base + n) % 128]!)
    ∧ (∀ (r : Reg) (d : Dir) (w : Word) (rest : List Word), linkOf r = some d → linkQueue (s.coreAt s.core) d = w :: rest →
        ∃ s1, readReg s r = .ok (s1, w) ∧ linkQueue (s1.coreAt s.core) d = rest
          ∧ (∀ e, e ≠ d → linkQueue (s1.coreAt s.core) e = linkQueue (s.coreAt s.core) e)
          ∧ (∀ c, c ≠ s.core → s1.coreAt c = s.coreAt c) ∧ s1 = { s with cores := s1.cores })
    ∧ (∀ (run : Run) (rest : List Run), s.t.runs = run :: rest → run.given = true → run.ibRead < 6 →
        ∃ s1, readReg s 60 = .ok (s1, run.record.getD (2 + run.ibRead) 0)
          ∧ s1 = s.setT { s.t with runs := { run with ibRead := run.ibRead + 1 } :: rest })
    ∧ (∀ (run : Run) (rest : List Run), s.t.runs = run :: rest → (run.given = false ∨ 6 ≤ run.ibRead) →
        readReg s 60 = .error (.trap .queue 60))
    ∧ (∀ (w : Word) (rest : List Word), s.t.eq = w :: rest → readReg s 63 = .ok (s.setT { s.t with eq := rest }, w))
    ∧ (s.t.eq = [] → readReg s 63 = .error (.trap .queue 63))
    ∧ (s.t.sa.armed = true → s.t.sa.write = true → readReg s 61 = .error (.trap .queue 61))
    ∧ (s.t.sb.armed = true → s.t.sb.write = true → readReg s 62 = .error (.trap .queue 62)))
  ∧ (∀ (s : State) (v : Word),
    putReg s 0 v = .ok s
    ∧ (∀ r, plainCode s.t r = true → r ≠ 0 →
        ∃ s1, putReg s r v = .ok s1 ∧ plainRead s1.t r = v ∧ sameCodesBut s s1 r ∧ s1 = s.setT s1.t ∧ s1.t.frames = s.t.frames)
    ∧ (∀ (r : Reg) (d : Dir), linkOf r = some d →
        ∃ s1, putReg s r v = .ok s1 ∧ queueToward s1 s.core d = queueToward s s.core d ++ [v]
          ∧ (∀ c, c ≠ neighbour s.core d → s1.coreAt c = s.coreAt c) ∧ s1 = { s with cores := s1.cores })
    ∧ putReg s 60 v = .error (.trap .queue 60) ∧ putReg s 63 v = .error (.trap .queue 63)
    ∧ (s.t.sa.armed = true → s.t.sa.write = false → putReg s 61 v = .error (.trap .queue 61))
    ∧ (s.t.sb.armed = true → s.t.sb.write = false → putReg s 62 v = .error (.trap .queue 62)))
  ∧ (∀ (i : Instr) (c : Computes) (s : State), computes i = some c → s.t.active = true → linksReady s c.use = false →
    ∃ t, exec i s = .next t ∧ t.t = s.t ∧ (t.coreAt s.core).stalls.getLsbD (s.cur % 4) = true ∧ sameDevice s t)

/-! ## Traps and interrupts -/

/-- R74, R248, R250: what a trap saves, and where the slot goes. -/
def Obligations.TrapEntrySavesTheState : Prop :=
  ∀ (s : State) (c : Cause) (v : Word), s.t.wait = none →
    let t := takeTrap s c v
    t.t.tepc = s.t.pc.zeroExtend 64 ∧ t.t.tcause = BitVec.ofNat 64 (causeCode c) ∧ t.t.tval = v ∧ t.t.tstatus = s.t.statusWord
      ∧ (s.t.hasPrefix = true → t.t.tprefix = s.t.pending.zeroExtend 64) ∧ (s.t.hasPrefix = false → t.t.tprefix = s.t.tprefix)
      ∧ t.t.status = 1 ∧ (s.t.tvec ≠ 0 → t.t.pc = s.t.tvec.truncate 48 ∧ t.slot.halted = s.slot.halted)
      ∧ (s.t.tvec = 0 → t.slot.halted = true ∧ t.t.pc = s.t.pc)
      ∧ (t.t.keptA, t.t.keptB, t.t.keptC) = (s.t.heldA, s.t.heldB, s.t.heldC)
      ∧ t.t.tvec = s.t.tvec ∧ t.t.tscratch = s.t.tscratch ∧ t.t.iemask = s.t.iemask ∧ t.t.fflags = s.t.fflags ∧ t.t.mask = s.t.mask
      ∧ sameCodes s t ∧ sameTiles s t ∧ sameFrames s t ∧ sameBytes s t

/-- R394 for TRAP, R324 for BKPT, R101 for a word that is no instruction: their effect is the trap, with their TVAL. A BKPT whose slot has
BKPTCTL[17] set halts the slot instead. R247: the cause codes. -/
def Obligations.TrapInstructionsTrap : Prop :=
  (∀ (s : State), Calm s → s.t.active = true →
    (∀ sw, exec (.trap sw) s = trapped s .trap 0)
    ∧ (∀ sw, s.slot.bkptctl.getLsbD 17 = false → exec (.bkpt sw) s = trapped s .bkpt 0)
    ∧ (∀ sw, s.slot.bkptctl.getLsbD 17 = true → ∃ t, exec (.bkpt sw) s = .next t ∧ t.slot.halted = true ∧ t.slot.haltReq = false
        ∧ ((∀ h ∈ s.held, h.slot = s.cur → h.q = 0) → (∀ r ∈ s.remote, r.slot = s.cur → r.qualified = false) → t.t = s.t ∧ t = { s with slot := t.slot }))
    ∧ (∀ w, exec (.illopEncoding w) s = trapped s .illop (w.zeroExtend 64)))
  ∧ ([Cause.illop, .illreg, .illfmt, .slice, .align, .path, .xlat, .prot, .priv, .stack, .accown, .accinv, .queue, .popmem, .trap, .bkpt].map
    causeCode = [0x01, 0x02, 0x03, 0x04, 0x05, 0x06, 0x07, 0x08, 0x09, 0x0A, 0x0B, 0x0C, 0x0D, 0x0E, 0x10, 0x11])

/-- R102: the first check that fails decides the trap: a bad restored prefix, an illegal place after a prefix, the prefix's formats, the
mode, then the registers. Here, for every instruction that only computes and so accepts no prefix; which of several registers outside the
frame TVAL names, the sources in order and then rd, is the model's reading (log 23, DEDUCED). R98, R247: in user mode the
supervisor's instructions take PRIV with TVAL = the word. -/
def Obligations.IssueChecksInOrder : Prop :=
  (∀ (i : Instr) (c : Computes) (s : State), computes i = some c → s.t.active = true → readyToIssue s c.use = true →
    (s.t.badPrefix = true → exec i s = trapped s .illop (s.t.pending.zeroExtend 64))
    ∧ (s.t.badPrefix = false → s.t.hasPrefix = true → exec i s = trapped s .illop (i.word.zeroExtend 64))
    ∧ (s.t.hasPrefix = false → i.wellFormed = true → ∀ r : Reg, (c.use.reads ++ c.use.d).find? (outOfFrame s.t) = some r →
        exec i s = trapped s .illreg (r.zeroExtend 64)))
  ∧ (∀ (i : Instr) (s : State), (∃ sw, i = .eret sw ∨ i = .wfi sw ∨ ∃ ra, i = .tlbinv ra sw ∧ plainCode s.t ra = true) → Calm s →
    s.t.active = true → s.t.status.getLsbD 0 = false → exec i s = trapped s .priv (i.word.zeroExtend 64))

/-- R251, R346, R74: ERET restores STATUS from TSTATUS, the prefix from TPREFIX when the restored PP is 1, the held operands, and goes
to TEPC[47:2]. -/
def Obligations.EretRestoresTheSavedState : Prop :=
  (∀ (sw : Bool) (s : State), Calm s → s.t.active = true → s.t.status.getLsbD 0 = true → s.t.pulled = [] → s.t.pulledFar = [] →
    ∃ t, exec (.eret sw) s = .next t ∧ t.t.status = s.t.tstatus &&& 7 ∧ t.t.pc = s.t.tepc.truncate 48 &&& ~~~3
      ∧ (s.t.tstatus.getLsbD 2 = true → t.t.pending = s.t.tprefix.truncate 32)
      ∧ (t.t.heldA, t.t.heldB, t.t.heldC) = (s.t.keptA, s.t.keptB, s.t.keptC)
      ∧ t.t.tepc = s.t.tepc ∧ t.t.tcause = s.t.tcause ∧ t.t.tval = s.t.tval ∧ t.t.tstatus = s.t.tstatus ∧ t.t.tprefix = s.t.tprefix
      ∧ t.t.tvec = s.t.tvec ∧ sameCodes s t ∧ sameTiles s t ∧ sameFlags s t ∧ sameMask s t ∧ sameFrames s t ∧ sameBytes s t)
  ∧ (∀ (sw : Bool) (s : State), Calm s → s.t.active = true → s.t.status.getLsbD 0 = false →
    exec (.eret sw) s = trapped s .priv ((Instr.eret sw).word.zeroExtend 64))

/-- R252, R248: an interrupt that the slot can take is taken at its boundary: TCAUSE[63] and its number, TVAL = 0, TEPC the next
instruction or the waiting one (no access of the slot waits at a home for a full/empty bit, and no slice of a tile), and the handler at TVEC
with interrupts off; TVEC = 0 halts the slot. A core's mailbox or inbox interrupt is then no longer pending. R252: an interrupt is taken only by
a running slot with STATUS.IE set, for a cause that is enabled and pending, and the causes are taken in the order 5, 2, 4, 3, 1, those of the
core (4 and 3) by its first slot that can take them. -/
def Obligations.InterruptsAreTakenInOrder : Prop :=
  (∀ (slot c : Nat) (s : State), interruptCause s slot = some c → (∀ h ∈ s.held, h.slot = slot → h.q = 0) →
    (s.slotAt slot).t.wait ≠ some .tile →
    ∃ t, exec (.interruptEntry slot) s = .next t
      ∧ (t.slotAt slot).t.tcause = 0x8000000000000000 + BitVec.ofNat 64 c ∧ (t.slotAt slot).t.tval = 0
      ∧ (t.slotAt slot).t.tepc = (s.slotAt slot).t.pc.zeroExtend 64 ∧ (t.slotAt slot).t.tstatus = (s.slotAt slot).t.statusWord
      ∧ (t.slotAt slot).t.status = 1
      ∧ ((s.slotAt slot).t.tvec ≠ 0 → (t.slotAt slot).t.pc = (s.slotAt slot).t.tvec.truncate 48)
      ∧ ((s.slotAt slot).t.tvec = 0 → (t.slotAt slot).t.pc = (s.slotAt slot).t.pc ∧ (t.slotAt slot).halted = true)
      ∧ (c = 3 → (t.coreAt (coreOf slot)).ipend3 = false) ∧ (c = 4 → (t.coreAt (coreOf slot)).ipend4 = false) ∧ sameBytes s t)
  ∧ (∀ (slot : Nat) (s : State),
    (∀ c, interruptCause s slot = some c →
      (s.slotAt slot).t.status.getLsbD 1 = true ∧ (s.slotAt slot).phase = .running ∧ (s.slotAt slot).halted = false
        ∧ (s.slotAt slot).t.iemask.getLsbD c = true ∧ (pendingOf s slot).getLsbD c = true ∧ c ∈ [5, 2, 4, 3, 1])
    ∧ (causeEnabled s slot 5 = true → interruptCause s slot = some 5)
    ∧ (causeEnabled s slot 5 = false → causeEnabled s slot 2 = true → interruptCause s slot = some 2)
    ∧ (causeEnabled s slot 5 = false → causeEnabled s slot 2 = false →
        (causeEnabled s slot 4 = true → firstTaker s slot 4 = true → interruptCause s slot = some 4)
        ∧ ((causeEnabled s slot 4 = false ∨ firstTaker s slot 4 = false) →
            (causeEnabled s slot 3 = true → firstTaker s slot 3 = true → interruptCause s slot = some 3)
            ∧ ((causeEnabled s slot 3 = false ∨ firstTaker s slot 3 = false) → causeEnabled s slot 1 = true → interruptCause s slot = some 1)))
    ∧ (∀ c, c = 4 ∨ c = 3 → firstTaker s slot c = true →
        causeEnabled s slot c = true ∧ ∀ i, i < slot % 4 → causeEnabled s (slot / 4 * 4 + i) c = false))

/-- R409: WFI ends at once when an enabled cause is pending, whatever STATUS.IE holds, and parks its slot otherwise; a parked one sees
its timer, wakes, and goes on to the next instruction. -/
def Obligations.WfiWaitsForAnEnabledCause : Prop :=
  (∀ (sw : Bool) (s : State), Calm s → s.t.active = true → s.t.status.getLsbD 0 = true →
    (pendingOf s s.cur &&& s.t.iemask &&& 0x3E ≠ 0 →
      ∃ t, exec (.wfi sw) s = .next t ∧ t.t.pc = s.t.pc + 4 ∧ keepsData s t ∧ sameMask s t ∧ sameFrames s t ∧ sameDevice s t)
    ∧ (pendingOf s s.cur &&& s.t.iemask &&& 0x3E = 0 →
      ∃ t, exec (.wfi sw) s = .next t ∧ t.t.pc = s.t.pc ∧ t.t.wait = some .interrupt ∧ t.t.met = false ∧ keepsData s t))
  ∧ (∀ (slot : Nat) (s : State), (s.slotAt slot).t.wait = some .interrupt →
      pendingOf s slot &&& (s.slotAt slot).t.iemask &&& 0x3E ≠ 0 →
      (∃ t, exec (.timerCompare slot) s = .next t ∧ (t.slotAt slot).t.met = true ∧ (t.slotAt slot).t.pc = (s.slotAt slot).t.pc ∧ sameBytes s t)
      ∧ (slotHeld s slot = false → (s.slotAt slot).t.leader = none → (s.slotAt slot).t.followers = [] →
          ∃ t, exec (.watchWake slot) s = .next t ∧ (t.slotAt slot).t.wait ≠ some .interrupt ∧ (t.slotAt slot).t.pc = (s.slotAt slot).t.pc + 4
            ∧ sameBytes s t))

/-! ## Special registers -/

namespace Sys2Proof.Machine

/-- The special registers that hold what is written to them, with the bits that they have (R69, R71 to R73, R260, R265). -/
def csrMask : Nat → Option Word
  | 0x001 => some 0xFFFFFFFFFFFFFFFC
  | 0x002 | 0x004 | 0x007 | 0x00A | 0x081 => some 0xFFFFFFFFFFFFFFFF
  | 0x003 => some 0x80000000000000FF
  | 0x005 => some 0xF
  | 0x006 | 0x032 | 0x035 | 0x036 => some 0xFFFFFFFF
  | 0x008 => some 0x3E
  | 0x010 => some 0x1F
  | 0x030 => some 0x1FFC0
  | 0x040 => some 0x1FFF80001FFF8
  | 0x041 => some 0x1FFF8
  | 0x080 => some 0x3FFF
  | 0x082 => some 0xFF
  | 0x090 | 0x091 | 0x092 | 0x093 => some 0xFFFFFFFFFFF8
  | 0x094 => some 0x3FFFF
  | _ => none

/-- What CSRW, CSRS and CSRC write, from the old value and ra (R334 to R336). -/
def csrNew : Instr → Option (Bool × Reg × Reg × BitVec 12 × (Word → Word → Word))
  | .csrw rd ra csr sw => some (sw, rd, ra, csr, fun _ v => v)
  | .csrs rd ra csr sw => some (sw, rd, ra, csr, fun old v => old ||| v)
  | .csrc rd ra csr sw => some (sw, rd, ra, csr, fun old v => old &&& ~~~v)
  | _ => none

/-- What the registers with ranged fields take, from the old value and the new one (R70 to R73): STATUS, whose two writable bits count,
IBSIZE, DQBASE, STEALDOM and PEERTAB, whose entry 63 is reserved. -/
def csrTakes (n : Nat) (old new : Word) : Option Word :=
  match n with
  | 0x000 => some (new &&& 3)
  | 0x031 => some (if bitsOf new 0 4 ≤ 10 then new &&& 0xF else old)
  | 0x034 =>
    let m : Word := if bitsOf new 20 4 ≤ 10 then 0xF1FFC0 else 0x1FFC0
    some ((old &&& ~~~m) ||| (new &&& m))
  | 0x037 => some (if bitsOf new 0 3 ≤ 4 then new &&& 7 else old)
  | 0x05F => some (new &&& 0x00008FFF8FFF8FFF)
  | n => if 0x050 ≤ n ∧ n < 0x05F then some (new &&& 0x8FFF8FFF8FFF8FFF) else none

/-- What W1C leaves of a register (R252, R266, R335): IPEND but for its timer bit, PEERFAIL, and TRCSTAT, whose done bit clears the trigger
bit with it. -/
def csrClears (n : Nat) (old ones : Word) : Option Word :=
  match n with
  | 0x009 => some (old &&& ~~~(ones &&& 0x3C))
  | 0x060 => some (old &&& ~~~ones)
  | 0x083 => some (if ones.getLsbD 0 then old &&& ~~~5 else old)
  | _ => none

/-- The ones that CSRW and CSRS write into a W1C field; CSRC leaves it (R335). -/
def csrOnes (i : Instr) (v : Word) : Word := match i with | .csrc _ _ _ _ => 0 | _ => v

/-- The registers that ignore a write (R69). -/
def csrReadOnly (n : Nat) : Bool := [0x020, 0x021, 0x022, 0x023, 0x024, 0x025, 0x033, 0x042, 0x043, 0x070, 0x071, 0x072, 0x073, 0x074, 0x0A1].contains n

/-- Special registers whose value follows other state: STATUS, IPEND and OUTST. -/
def csrDerived (n : Nat) : Bool := n = 0x000 || n = 0x009 || n = 0x0A0

end Sys2Proof.Machine

/-- R70, R334 to R336: a write of a special register gives rd the old value, keeps the bits that the register has, and leaves every other
special register, every code and memory as they were; TVEC keeps its bits [63:48] (the model's reading, log 19, DEDUCED). A value out of a
field's range leaves the field, W1C clears, a read-only register ignores the write. In user mode only FFLAGS and PEERFAIL may be written: any
other write takes PRIV; CSRS and CSRC with ra = z only read. R69, R70: CSRR gives rd the register's value; the identity and
feature registers read as the part's own; a register that the table does not list is an illegal encoding, and one that user mode may not
read takes PRIV there. -/
def Obligations.CsrsReadAndWriteByTheirFields : Prop :=
  (∀ (i : Instr) (sw : Bool) (rd ra : Reg) (csr : BitVec 12) (f : Word → Word → Word) (m : Word) (s : State),
    csrNew i = some (sw, rd, ra, csr, f) → csrMask csr.toNat = some m → Calm s → s.t.active = true → (s.t.status.getLsbD 0 = true ∨ csr = 0x010) →
    (∀ r ∈ [ra, rd], plainCode s.t r = true) → (ra ≠ 0 ∨ i = .csrw rd ra csr sw) →
    ∃ t, exec i s = .next t ∧ t.t.pc = s.t.pc + 4 ∧ (rd ≠ 0 → plainRead t.t rd = csrRead s csr.toNat)
      ∧ csrRead t csr.toNat = f (csrRead s csr.toNat) (plainRead s.t ra) &&& m
      ∧ (∀ n, n ≠ csr.toNat → csrDerived n = false → csrRead t n = csrRead s n)
      ∧ sameCodesBut s t rd ∧ sameTiles s t ∧ sameMask s t ∧ sameFrames s t ∧ sameBytes s t)
  ∧ (∀ (i : Instr) (sw : Bool) (rd ra : Reg) (csr : BitVec 12) (f : Word → Word → Word) (s : State),
    csrNew i = some (sw, rd, ra, csr, f) → Calm s → s.t.active = true → (∀ r ∈ [ra, rd], plainCode s.t r = true) →
    (ra ≠ 0 ∨ i = .csrw rd ra csr sw) →
    (s.t.status.getLsbD 0 = true → ∀ v, csrTakes csr.toNat (csrRead s csr.toNat) (f (csrRead s csr.toNat) (plainRead s.t ra)) = some v →
      ∃ t, exec i s = .next t ∧ t.t.pc = s.t.pc + 4 ∧ (rd ≠ 0 → plainRead t.t rd = csrRead s csr.toNat) ∧ csrRead t csr.toNat = v
        ∧ (∀ n, n ≠ csr.toNat → csrDerived n = false → csrRead t n = csrRead s n)
        ∧ sameCodesBut s t rd ∧ sameTiles s t ∧ sameMask s t ∧ sameFrames s t ∧ sameBytes s t)
    ∧ ((s.t.status.getLsbD 0 = true ∨ csr = 0x060) →
      ∀ v, csrClears csr.toNat (csrRead s csr.toNat) (csrOnes i (plainRead s.t ra)) = some v →
      ∃ t, exec i s = .next t ∧ t.t.pc = s.t.pc + 4 ∧ (rd ≠ 0 → plainRead t.t rd = csrRead s csr.toNat) ∧ csrRead t csr.toNat = v
        ∧ (∀ n, n ≠ csr.toNat → csrDerived n = false → csrRead t n = csrRead s n)
        ∧ sameCodesBut s t rd ∧ sameTiles s t ∧ sameMask s t ∧ sameFrames s t ∧ sameBytes s t)
    ∧ (s.t.status.getLsbD 0 = true → csrReadOnly csr.toNat = true →
      ∃ t, exec i s = .next t ∧ (rd ≠ 0 → plainRead t.t rd = csrRead s csr.toNat) ∧ onlyWrites s t rd)
    ∧ (s.t.status.getLsbD 0 = false → csrListed csr.toNat = true → csr ≠ 0x010 → csr ≠ 0x060 →
      exec i s = trapped s .priv (i.word.zeroExtend 64))
    ∧ (csrListed csr.toNat = false → exec i s = trapped s .illop (i.word.zeroExtend 64)))
  ∧ (∀ (i : Instr) (rd : Reg) (csr : BitVec 12) (sw : Bool) (s : State), (i = .csrs rd 0 csr sw ∨ i = .csrc rd 0 csr sw) → Calm s →
    s.t.active = true → plainCode s.t rd = true → csrListed csr.toNat = true →
    (s.t.status.getLsbD 0 || csrUserRead csr.toNat) = true →
    ∃ t, exec i s = .next t ∧ (rd ≠ 0 → plainRead t.t rd = csrRead s csr.toNat) ∧ onlyWrites s t rd)
  ∧ (∀ (rd : Reg) (csr : BitVec 12) (sw : Bool) (s : State), Calm s → s.t.active = true → plainCode s.t rd = true →
    (csrListed csr.toNat = true → (s.t.status.getLsbD 0 || csrUserRead csr.toNat) = true →
      ∃ t, exec (.csrr rd csr sw) s = .next t ∧ (rd ≠ 0 → plainRead t.t rd = csrRead s csr.toNat) ∧ onlyWrites s t rd)
    ∧ (csrListed csr.toNat = false → exec (.csrr rd csr sw) s = trapped s .illop ((Instr.csrr rd csr sw).word.zeroExtend 64))
    ∧ (csrListed csr.toNat = true → s.t.status.getLsbD 0 = false → csrUserRead csr.toNat = false →
        exec (.csrr rd csr sw) s = trapped s .priv ((Instr.csrr rd csr sw).word.zeroExtend 64))
    ∧ csrRead s 0x020 = BitVec.ofNat 64 s.cur ∧ csrRead s 0x021 = s.devid.zeroExtend 64 ∧ csrRead s 0x074 = 0x0300
    ∧ csrRead s 0x071 = 0 ∧ csrRead s 0x072 = 0 ∧ csrRead s 0x073 = 0)

/-- R75, R344, R345: ERW writes all 64 bits of the slot's copy of an engine register, ERD gives them back, and no other engine register
changes. -/
def Obligations.EngineRegistersKeepWhatIsWritten : Prop :=
  ∀ (x : Reg) (eng : BitVec 3) (ereg : BitVec 8) (sw : Bool) (s : State), Calm s → s.t.active = true → plainCode s.t x = true →
    engineRegOk eng ereg = true →
    (∃ t, exec (.erw x eng ereg sw) s = .next t ∧ t.t.pc = s.t.pc + 4 ∧ t.t.eregs.get 0 (eng.toNat * 256 + ereg.toNat) = plainRead s.t x
      ∧ (∀ k, k ≠ eng.toNat * 256 + ereg.toNat → t.t.eregs.get 0 k = s.t.eregs.get 0 k) ∧ sameCodes s t ∧ sameTiles s t ∧ sameFlags s t
      ∧ sameBytes s t ∧ sameDevice s t)
    ∧ (∃ t, exec (.erd x eng ereg sw) s = .next t ∧ (x ≠ 0 → plainRead t.t x = s.t.eregs.get 0 (eng.toNat * 256 + ereg.toNat))
      ∧ onlyWrites s t x)

/-- R86, R350: an FMT word becomes the pending prefix with STATUS.PP set, and governs the next instruction; a second FMT word is
illegal. -/
def Obligations.FmtBecomesThePendingPrefix : Prop :=
  ∀ (fa fb fd : BitVec 6) (sm : BitVec 3) (sat : Bool) (rm : BitVec 2) (s : State), s.t.wait = none → s.t.active = true → s.t.pend = [] →
    s.t.followers = [] → s.t.leader = none →
    (s.t.hasPrefix = false →
      ∃ t, exec (.fmt fa fb fd sm sat rm) s = .next t ∧ t.t.pc = s.t.pc + 4 ∧ t.t.hasPrefix = true
        ∧ t.t.fmt = { fa := fa.toNat, fb := fb.toNat, fd := fd.toNat, sm := sm.toNat, sat := sat, rm := rm.toNat }
        ∧ t.t.badPrefix = false ∧ keepsData s t ∧ sameDevice s t)
    ∧ (s.t.hasPrefix = true → s.t.badPrefix = false →
        exec (.fmt fa fb fd sm sat rm) s = trapped s .illop ((Instr.fmt fa fb fd sm sat rm).word.zeroExtend 64))

/-! ## Order and synchronisation -/

namespace Sys2Proof.Machine

/-- The fences: marker, destination, scope, and whether they release and acquire (R349). -/
def fences : Instr → Option (Bool × Reg × BitVec 2 × Bool × Bool)
  | .fenceRel rd sc sw => some (sw, rd, sc, true, false)
  | .fenceAcq rd sc sw => some (sw, rd, sc, false, true)
  | .fenceAr rd sc sw => some (sw, rd, sc, true, true)
  | _ => none

/-- The barrier that an operand names here, allocated and of the slot's context (R177). -/
def namesBarrier (s : State) (a : Word) (h : Nat) (b : Barrier) : Prop := barName s a = some (.here h) ∧ barOwn s s.asker.ctx h = some b

/-- Every barrier but one is as before. -/
def otherBarriers (s t : State) (h : Nat) : Prop := ∀ g, g ≠ h → barAt t g = barAt s g

/-- The pool of a level that serves a slot: its handles are the n after the first number (R174). -/
def poolOf (s : State) (lvl : Nat) : Nat × Nat :=
  if lvl = 0 then (s.cluster * 1048576, 32) else if lvl = 1 then (1073741824 + s.die * 1048576, 64)
  else if lvl = 2 then (2147483648, 16) else (3221225472, 8)

/-- A barrier as BARNEW leaves it (R317). -/
def newBarrier (ctx a b : Nat) : Barrier :=
  { ctx := ctx, phase := 0, arr := a, bytes := b, a := a, b := b, refs := 1, parent := none, held := false, far := [] }

end Sys2Proof.Machine

/-- R160 to R162: a release waits for the stores of its scope, an acquire for the reads; a fence that need not wait gives rd PEERFAIL,
and an acquire of device or system scope empties the read-only cache. -/
def Obligations.FencesWaitForTheirScope : Prop :=
  ∀ (i : Instr) (sw : Bool) (rd : Reg) (sc : BitVec 2) (rel acq : Bool) (s : State), fences i = some (sw, rd, sc, rel, acq) → Calm s →
    s.t.active = true → plainCode s.t rd = true →
    ((rel = true ∧ storesPending s sc = true ∨ acq = true ∧ readsPending s = true) → exec i s = .next (stalled s))
    ∧ ((rel = true → storesPending s sc = false) → (acq = true → readsPending s = false) →
        ∃ t, exec i s = .next t ∧ t.t.pc = s.t.pc + 4 ∧ (rd ≠ 0 → plainRead t.t rd = s.t.peerfail) ∧ sameCodesBut s t rd ∧ sameSpecial s t
          ∧ sameTiles s t ∧ sameFlags s t ∧ sameMask s t ∧ sameFrames s t ∧ sameBytes s t
          ∧ (acq = true → 2 ≤ sc.toNat → (t.clusterAt s.cluster).rolines = []) ∧ (acq = false ∨ sc.toNat < 2 → sameDevice s t))

/-- R173, R327, R337, R130: CADD adds to the counter. CWAIT goes on when the counter has reached its target, and otherwise parks at its
home; a parked one that sees the target reached goes on to the next instruction, whether the home wakes it or it asks again, once no earlier reply
of that home to its core is on its way (R22). -/
def Obligations.CountersAddAndAreWaitedFor : Prop :=
  (∀ (ra rb : Reg) (sw : Bool) (pa : Nat) (s : State), Calm s → s.t.active = true → (∀ r ∈ [ra, rb], plainCode s.t r = true) →
    Reaches s .counterAdd (plainRead s.t ra) 8 8 none 0 true pa →
    ∃ t, exec (.cadd ra rb sw) s = .next t ∧ t.t.pc = s.t.pc + 4 ∧ readWord t pa = readWord s pa + plainRead s.t rb ∧ sameOutside s t pa 8
      ∧ sameCodes s t ∧ sameSpecial s t ∧ sameTiles s t ∧ sameFlags s t ∧ sameMask s t ∧ sameFrames s t ∧ t.empty = s.empty
      ∧ sameButWatchers s t)
  ∧ (∀ (ra rb : Reg) (sw : Bool) (pa fl : Nat) (s s2 : State), Calm s → s.t.active = true → (∀ r ∈ [ra, rb], plainCode s.t r = true) →
    locate s s.asker .counterRead (plainRead s.t ra) 8 8 none 0 = .ok (s2, .mem pa fl) → dataMatch s.slot [(plainRead s.t ra, false)] = none →
    requestBlocked s pa 8 = false →
    ((plainRead s.t rb).toNat ≤ readNat s pa 8 →
      ∃ t, exec (.cwait ra rb sw) s = .next t ∧ t.t.pc = s.t.pc + 4 ∧ keepsData s t ∧ sameMask s t ∧ sameFrames s t
        ∧ t = { errorsAside s t with slot := t.slot, cores := t.cores, tlb := t.tlb })
    ∧ (readNat s pa 8 < (plainRead s.t rb).toNat →
      ∃ t, exec (.cwait ra rb sw) s = .next t ∧ t.t.pc = s.t.pc ∧ t.t.wait = some (.counter pa (plainRead s.t rb)) ∧ t.t.met = false
        ∧ keepsData s t ∧ sameMask s t ∧ sameFrames s t))
  ∧ (∀ (slot pa : Nat) (target : Word) (s : State), (s.slotAt slot).t.wait = some (.counter pa target) → target.toNat ≤ readNat s pa 8 →
    slotHeld s slot = false → (s.slotAt slot).t.leader = none → (s.slotAt slot).t.followers = [] →
    replyWaits s (coreOf slot) (homeOf pa) = false →
    (∃ t, exec (.watchWake slot) s = .next t ∧ (t.slotAt slot).t.pc = (s.slotAt slot).t.pc + 4
      ∧ (t.slotAt slot).t.wait ≠ some (.counter pa target) ∧ sameBytes s t)
    ∧ ((∃ w ∈ s.watches, w.slot = slot ∧ w.entry = false) →
      ∃ t, exec (.watchRepoll slot) s = .next t ∧ (t.slotAt slot).t.pc = (s.slotAt slot).t.pc + 4
        ∧ (t.slotAt slot).t.wait ≠ some (.counter pa target) ∧ sameBytes s t))

/-- R317 to R321, R174 to R177: what the barrier instructions leave in the barrier they name, and that an operand that names no barrier
of the context takes PROT. An arrival at a child's parent counts like any other. -/
def Obligations.BarrierInstructions : Prop :=
  (∀ (rd ra rb : Reg) (sw : Bool) (s : State), Calm s → s.t.active = true → (∀ r ∈ [ra, rb, rd], plainCode s.t r = true) →
    bitsOf (plainRead s.t ra) 34 30 = 0 → (plainRead s.t rb).getLsbD 63 = false → (bitsOf (plainRead s.t ra) 0 32 ≠ 0 ∨ plainRead s.t rb ≠ 0) →
    let pool := poolOf s (bitsOf (plainRead s.t ra) 32 2)
    (∀ x, (List.range pool.2).find? (fun x => barReturned s (pool.1 + x + 1)) = some x →
      ∃ t, exec (.barnew rd ra rb sw) s = .next t ∧ t.t.pc = s.t.pc + 4 ∧ (rd ≠ 0 → plainRead t.t rd = BitVec.ofNat 64 (pool.1 + x + 1))
        ∧ barAt t (pool.1 + x + 1) = some (newBarrier s.asker.ctx (bitsOf (plainRead s.t ra) 0 32) (plainRead s.t rb).toNat)
        ∧ otherBarriers s t (pool.1 + x + 1) ∧ sameCodesBut s t rd ∧ sameSpecial s t ∧ sameBytes s t)
    ∧ ((∀ x, x < pool.2 → barReturned s (pool.1 + x + 1) = false) →
      ∃ t, exec (.barnew rd ra rb sw) s = .next t ∧ (rd ≠ 0 → plainRead t.t rd = 0) ∧ onlyWrites s t rd))
  ∧ (∀ (rd ra : Reg) (sw : Bool) (h : Nat) (b : Barrier) (s : State), Calm s → s.t.active = true → (∀ r ∈ [ra, rd], plainCode s.t r = true) →
    namesBarrier s (plainRead s.t ra) h b →
    (storesPending s (if barLevel h = 3 then 3 else 2) = false →
      ∃ t, exec (.bararr rd ra sw) s = .next t ∧ t.t.pc = s.t.pc + 4
        ∧ (rd ≠ 0 → plainRead t.t rd = BitVec.ofNat 64 (if 0 < b.arr then b.phase else (b.phase + 1) % 4294967296))
        ∧ (1 < b.arr ∨ 0 < b.bytes → barAt t h = some { b with arr := b.arr - 1 } ∧ otherBarriers s t h)
        ∧ (b.arr = 1 → b.bytes ≤ 0 → b.held = false → b.parent = none → b.far = [] → 0 < b.a →
            (∀ e ∈ s.barriers, ∀ c, e.2 = some c → c.parent ≠ some h) →
            barAt t h = some { b with phase := (b.phase + 1) % 4294967296, arr := b.a, bytes := b.b + b.bytes } ∧ otherBarriers s t h)
        ∧ sameCodesBut s t rd ∧ sameSpecial s t ∧ sameBytes s t)
    ∧ (b.refs < 65535 →
      ∃ t, exec (.barref ra sw) s = .next t ∧ t.t.pc = s.t.pc + 4 ∧ barAt t h = some { b with refs := b.refs + 1 } ∧ otherBarriers s t h ∧ keepsData s t)
    ∧ (1 < b.refs →
      ∃ t, exec (.barfree ra sw) s = .next t ∧ t.t.pc = s.t.pc + 4 ∧ barAt t h = some { b with refs := b.refs - 1 } ∧ otherBarriers s t h ∧ keepsData s t))
  ∧ (∀ (ra rb : Reg) (sw : Bool) (h : Nat) (b : Barrier) (s : State), Calm s → s.t.active = true → (∀ r ∈ [ra, rb], plainCode s.t r = true) →
    namesBarrier s (plainRead s.t ra) h b →
    (b.phase ≠ bitsOf (plainRead s.t rb) 0 32 →
      ∃ t, exec (.barwait ra rb sw) s = .next t ∧ t.t.pc = s.t.pc + 4 ∧ keepsData s t ∧ sameDevice s t)
    ∧ (b.phase = bitsOf (plainRead s.t rb) 0 32 →
      ∃ t, exec (.barwait ra rb sw) s = .next t ∧ t.t.pc = s.t.pc ∧ t.t.wait = some (.barrier h b.phase) ∧ t.t.met = false ∧ keepsData s t)
    ∧ (∀ q p, namesBarrier s (plainRead s.t rb) q p → barLevel h < barLevel q → b.parent = none → 0 < b.arr →
      ∃ t, exec (.barlink ra rb sw) s = .next t ∧ t.t.pc = s.t.pc + 4 ∧ barAt t h = some { b with parent := some q } ∧ otherBarriers s t h
        ∧ keepsData s t))
  ∧ (∀ (ra : Reg) (sw : Bool) (s : State), Calm s → s.t.active = true → plainCode s.t ra = true →
    (barName s (plainRead s.t ra) = none ∨ ∃ h, barName s (plainRead s.t ra) = some (.here h) ∧ barOwn s s.asker.ctx h = none) →
    exec (.barref ra sw) s = trapped s .prot (plainRead s.t ra) ∧ exec (.barfree ra sw) s = trapped s .prot (plainRead s.t ra))
  ∧ (∀ (idx p : Nat) (b : Barrier) (s : State), s.arrivals[idx]? = some p → p < 4294967296 → barAt s p = some b → 1 < b.arr →
    ∃ t, exec (.barrierParentArrival idx) s = .next t ∧ t.arrivals = s.arrivals.eraseIdx idx ∧ barAt t p = some { b with arr := b.arr - 1 }
      ∧ otherBarriers s t p ∧ sameBytes s t)

/-- R180, R340, R341: ENQ puts rb into the entry at tail and advances tail, DEQ takes the entry at head and advances head; the status is
0, 1 for a full or an empty ring, and 2 for a malformed block, which leave memory as it was, and DEQ's rd then 0; that a ring whose entry the
slot may not reach counts as malformed is the model's reading (log 34, DEDUCED). The block and entry are those that the
checks of the instructions find (ringBlock, ringPlace). -/
def Obligations.RingsQueueAndDequeue : Prop :=
  (∀ (rd ra rb : Reg) (sw : Bool) (pa : Nat) (s s1 : State), Calm s → s.t.active = true → (∀ r ∈ [ra, rb, rd], plainCode s.t r = true) →
    ringBlock (plainRead s.t ra) (advanced s s) = .ok (s1, pa) →
    (ringPlace s1 .ring (readWords s1 pa 8) (readWord s (pa + 24)) = none →
      ∃ t, exec (.enq rd ra rb sw) s = .next t ∧ t.t.pc = s.t.pc + 4 ∧ (rd ≠ 0 → plainRead t.t rd = 2) ∧ sameCodesBut s t rd ∧ sameBytes s t)
    ∧ (∀ s2 e, ringPlace s1 .ring (readWords s1 pa 8) (readWord s (pa + 24)) = some (s2, e) →
      (ringFill (readWords s pa 8) = 2 ^ ringLog (readWords s pa 8) →
        ∃ t, exec (.enq rd ra rb sw) s = .next t ∧ t.t.pc = s.t.pc + 4 ∧ (rd ≠ 0 → plainRead t.t rd = 1) ∧ sameCodesBut s t rd ∧ sameBytes s t)
      ∧ (ringFill (readWords s pa 8) ≠ 2 ^ ringLog (readWords s pa 8) → owned s e 8 = false → (e + 8 ≤ pa + 24 ∨ pa + 32 ≤ e) →
        ∃ t, exec (.enq rd ra rb sw) s = .next t ∧ t.t.pc = s.t.pc + 4 ∧ (rd ≠ 0 → plainRead t.t rd = 0) ∧ sameCodesBut s t rd ∧ sameSpecial s t
          ∧ readWord t e = plainRead s.t rb ∧ readWord t (pa + 24) = readWord s (pa + 24) + 1
          ∧ (∀ a, (a < e ∨ e + 8 ≤ a) → (a < pa + 24 ∨ pa + 32 ≤ a) → readByte t a = readByte s a))))
  ∧ (∀ (rd ra rb : Reg) (sw : Bool) (pa : Nat) (s s1 : State), Calm s → s.t.active = true → (∀ r ∈ [ra, rd, rb], plainCode s.t r = true) →
    statusReg rb = true → ringBlock (plainRead s.t ra) (advanced s s) = .ok (s1, pa) →
    (ringPlace s1 .ringRead (readWords s1 pa 8) (readWord s (pa + 16)) = none →
      ∃ t, exec (.deq rd ra rb sw) s = .next t ∧ t.t.pc = s.t.pc + 4 ∧ plainRead t.t rb = 2 ∧ (rd ≠ rb → plainRead t.t rd = 0)
        ∧ (∀ r, r ≠ rd → r ≠ rb → plainRead t.t r = plainRead s.t r) ∧ sameBytes s t)
    ∧ (∀ s2 e, ringPlace s1 .ringRead (readWords s1 pa 8) (readWord s (pa + 16)) = some (s2, e) →
      (ringFill (readWords s pa 8) = 0 →
        ∃ t, exec (.deq rd ra rb sw) s = .next t ∧ t.t.pc = s.t.pc + 4 ∧ plainRead t.t rb = 1 ∧ (rd ≠ rb → plainRead t.t rd = 0)
          ∧ (∀ r, r ≠ rd → r ≠ rb → plainRead t.t r = plainRead s.t r) ∧ sameBytes s t)
      ∧ (ringFill (readWords s pa 8) ≠ 0 → owned s e 8 = false →
        ∃ t, exec (.deq rd ra rb sw) s = .next t ∧ t.t.pc = s.t.pc + 4 ∧ plainRead t.t rb = 0
          ∧ (rd ≠ 0 → rd ≠ rb → plainRead t.t rd = readWord s e)
          ∧ (∀ r, r ≠ rd → r ≠ rb → plainRead t.t r = plainRead s.t r) ∧ sameSpecial s t
          ∧ readWord t (pa + 16) = readWord s (pa + 16) + 1 ∧ sameOutside s t (pa + 16) 8)))

/-! ## Tasks -/

/-- R113, R351, R115, R353, R114, R382, R116, R370, R410, R120, R385, R386: what the task instructions do with records, the deque, the
slot and a strand: JOIN and FORK run a record as a nested run, and discard and count an invalid one; RETIRE ends a nested run, a task, and a
strand with it, whose followers become idle as they are done. The record that FORK and SPAWN read is the one at their address (readAtIssue). -/
def Obligations.TaskInstructions : Prop :=
  (∀ (ra : Reg) (sw : Bool) (v : Nat) (s s1 : State), Calm s → s.t.active = true → plainCode s.t ra = true → released s = true →
    (plainRead s.t ra).toNat % 64 = 0 → ownTcm s (plainRead s.t ra) = true →
    readAtIssue (advanced s s) .record (plainRead s.t ra) 64 64 = .ok (s1, v) →
    let k := s.coreAt s.core
    (dqCount k < dqMask k →
      ∃ t, exec (.fork ra sw) s = .next t ∧ t.t.pc = s.t.pc + 4
        ∧ (t.coreAt s.core).dqbot = BitVec.ofNat 64 ((k.dqbot.toNat + 1) % 4294967296) ∧ (t.coreAt s.core).dqtop = k.dqtop
        ∧ readWords t (dqAddr s.core k k.dqbot.toNat) 8 = wordsOf v 8 ∧ sameOutside s t (dqAddr s.core k k.dqbot.toNat) 64
        ∧ sameCodes s t ∧ sameSpecial s t ∧ sameFrames s t)
    ∧ (dqMask k ≤ dqCount k → recordValid (wordsOf v 8) = true → nestBlocked s1 = false →
      ∀ s2, startNested s1 (s.t.pc + 4) (wordsOf v 8) = some s2 →
      ∃ t, exec (.fork ra sw) s = .next t ∧ t.t.pc = recPc (wordsOf v 8) ∧ t.t.runs = { record := wordsOf v 8, given := true, ibRead := 0 } :: s.t.runs
        ∧ t.t.frame.kind = .nested ∧ t.t.frame.ret = s.t.pc + 4 ∧ t.t.frame.size = 8
        ∧ (∀ j : Nat, j < 6 → plainRead t.t (BitVec.ofNat 6 (8 + j)) = (wordsOf v 8).getD (2 + j) 0))
    ∧ (dqMask k ≤ dqCount k → recordValid (wordsOf v 8) = false →
      ∃ t, exec (.fork ra sw) s = .next t ∧ t.t.pc = s.t.pc + 4 ∧ (t.dieAt s.die).discards = (s.dieAt s.die).discards + 1
        ∧ (t.coreAt s.core).dqbot = k.dqbot ∧ keepsData s t))
  ∧ (∀ (ra rb : Reg) (sw : Bool) (pa fl : Nat) (s s2 : State), Calm s → s.t.active = true → (∀ r ∈ [ra, rb], plainCode s.t r = true) →
    (plainRead s.t ra).toNat % 8 = 0 →
    locate s s.asker .counterRead (plainRead s.t ra) 8 8 none 0 = .ok (s2, .mem pa fl) → dataMatch s.slot [(plainRead s.t ra, false)] = none →
    requestBlocked s pa 8 = false →
    ((plainRead s.t rb).toNat ≤ readNat s pa 8 →
      ∃ t, exec (.join ra rb sw) s = .next t ∧ t.t.pc = s.t.pc + 4 ∧ keepsData s t ∧ sameMask s t ∧ sameFrames s t)
    ∧ (readNat s pa 8 < (plainRead s.t rb).toNat → dqNewest s s.core = none →
      ∃ t, exec (.join ra rb sw) s = .next t ∧ t.t.pc = s.t.pc ∧ t.t.wait = some (.join pa (plainRead s.t rb)) ∧ keepsData s t)
    ∧ (∀ r, readNat s pa 8 < (plainRead s.t rb).toNat → dqNewest s s.core = some r → s.t.resident ≤ 120 → s.t.frames.length < 64 →
      s.t.depth < 65535 →
      (recordValid r = true →
        ∃ t, exec (.join ra rb sw) s = .next t ∧ t.t.pc = recPc r ∧ t.t.runs = { record := r, given := true, ibRead := 0 } :: s.t.runs
          ∧ t.t.frame.kind = .nested ∧ t.t.frame.ret = s.t.pc ∧ t.t.frame.size = 8
          ∧ (∀ j : Nat, j < 6 → plainRead t.t (BitVec.ofNat 6 (8 + j)) = r.getD (2 + j) 0)
          ∧ (t.coreAt s.core).dqbot = BitVec.ofNat 64 ((4294967295 + (s.coreAt s.core).dqbot.toNat) % 4294967296) ∧ sameBytes s t)
      ∧ (recordValid r = false →
        ∃ t, exec (.join ra rb sw) s = .next t ∧ t.t.pc = s.t.pc ∧ t.t.wait ≠ some (.join pa (plainRead s.t rb)) ∧ t.t.runs = s.t.runs
          ∧ (t.dieAt s.die).discards = (s.dieAt s.die).discards + 1
          ∧ (t.coreAt s.core).dqbot = BitVec.ofNat 64 ((4294967295 + (s.coreAt s.core).dqbot.toNat) % 4294967296) ∧ keepsData s t)))
  ∧ (∀ (ra rb : Reg) (sw : Bool) (v : Nat) (s s1 : State), Calm s → s.t.active = true → (∀ r ∈ [ra, rb], plainCode s.t r = true) →
    released s = true → readAtIssue (advanced s s) .record (plainRead s.t ra) 64 64 = .ok (s1, v) →
    ((plainRead s.t rb).getLsbD 31 = false ∨ bitsOf (plainRead s.t rb) 16 12 = s.devid.toNat) → outstandingCore s1 s.core < 64 →
    ∃ t, exec (.spawn ra rb sw) s = .next t ∧ t.t.pc = s.t.pc + 4
      ∧ t.inflight = s.inflight ++ [{ core := bitsOf (plainRead s.t rb) 0 12, record := wordsOf v 8, slot := some s.cur, ctx := s.asker.ctx }]
      ∧ keepsData s t ∧ sameMask s t ∧ sameFrames s t)
  ∧ (∀ (sw : Bool) (run : Run) (s : State), Calm s → s.t.runs = [run] → s.t.popOf = none → s.t.pulled = [] → s.t.pulledFar = [] →
    released s = true →
    ((if run.given then counterAddr s.devid run.record else none) = none →
      ∃ t, exec (.retire sw) s = .next t ∧ t.slot.phase = .idle ∧ sameBytes s t)
    ∧ (∀ c s2 pa fl, (if run.given then counterAddr s.devid run.record else none) = some c →
      locate s s.asker .counterAdd c 8 8 none 0 = .ok (s2, .mem pa fl) → inArmed s pa 8 = false → requestBlocked s pa 8 = false →
      ∃ t, exec (.retire sw) s = .next t ∧ t.slot.phase = .idle ∧ readWord t pa = readWord s pa + 1 ∧ sameOutside s t pa 8))
  ∧ (∀ (sw : Bool) (s : State), Calm s → s.t.active = true →
    (∃ t, exec (.yield sw) s = .next t ∧ t.t.pc = s.t.pc + 4
      ∧ t.t.yielded = (s.t.yielded || (decide (4 ≤ s.t.prio.toNat) && !s.t.nested)) ∧ keepsData s t ∧ sameMask s t ∧ sameFrames s t ∧ sameDevice s t)
    ∧ ((s.t.handlers ≠ 0 ∨ s.t.strandDepth = 0) →
        ∃ t, exec (.unstrand sw) s = .next t ∧ t.t.pc = s.t.pc + 4 ∧ keepsData s t ∧ sameMask s t ∧ sameFrames s t ∧ sameDevice s t)
    ∧ (s.t.handlers = 0 → s.t.strandDepth ≠ 0 →
        ∃ t, exec (.unstrand sw) s = .next t ∧ t.t.pc = s.t.pc + 4 ∧ t.t.member = 0 ∧ t.t.strandDepth = 0 ∧ sameCodes s t ∧ sameBytes s t
          ∧ sameDevice s t))
  ∧ (∀ (ra : Reg) (sw : Bool) (s : State), Calm s → plainCode s.t ra = true → s.t.popOf = none → released s = true →
    (s.t.handlers ≠ 0 → ∃ t, exec (.strand ra sw) s = .next t ∧ t.t.pc = s.t.pc + 4 ∧ keepsData s t ∧ sameDevice s t)
    ∧ (s.t.handlers = 0 → (plainRead s.t ra).toNat ≤ 1 →
      ∃ t, exec (.strand ra sw) s = .next t ∧ t.t.pc = s.t.pc + 4 ∧ t.t.member = 0 ∧ t.t.followers = [] ∧ sameCodes s t ∧ sameBytes s t)
    ∧ (s.t.handlers = 0 → s.t.strandDepth = 0 → 1 < (plainRead s.t ra).toNat →
      ∃ t, exec (.strand ra sw) s = .next t ∧ t.t.pc = s.t.pc ∧ t.t.wait = some (.strand (min (plainRead s.t ra).toNat 16)) ∧ keepsData s t))
  ∧ (∀ (sw : Bool) (run r2 : Run) (more : List Run) (f g : Frame) (rest : List Frame) (s : State), Calm s → s.t.runs = run :: r2 :: more →
    s.t.pulled = [] → s.t.pulledFar = [] → released s = true → s.t.strandDepth = 0 → spillBlocked s = false → s.t.frames = f :: g :: rest →
    f.kind = .nested → (if run.given then counterAddr s.devid run.record else none) = none →
    ∃ t, exec (.retire sw) s = .next t ∧ t.slot.phase = s.slot.phase ∧ t.t.pc = f.ret ∧ t.t.frames = g :: rest ∧ t.t.runs = r2 :: more
      ∧ t.t.globals = s.t.globals ∧ t.t.win = s.t.win ∧ sameBytes s t)
  ∧ (∀ (i : Instr) (sw : Bool) (s s1 : State) (v : Vals), (i = .unstrand sw ∨ i = .retire sw) → Issues i { control := true } s s1 v →
    s.t.handlers = 0 → s.t.leader = none → s.t.strandDepth ≠ 0 → s.cur ∉ s.t.followers →
    (∀ n ∈ s.t.followers, (s.slotAt n).t.popOf = none) →
    (i = .retire sw → s.t.popOf = none ∧ s.t.pulled = [] ∧ s.t.pulledFar = [] ∧ released s = true
      ∧ ∃ run, s.t.runs = [run] ∧ (if run.given then counterAddr s.devid run.record else none) = none) →
    ∃ t, exec i s = .next t ∧ sameBytes s t
      ∧ (∀ n ∈ s.t.followers, followerDone s n = true → (s.slotAt n).t.leader.isSome = true → (t.slotAt n).phase = .idle)
      ∧ ((∃ n ∈ s.t.followers, followerDone s n = false) →
          t.t.pc = s.t.pc ∧ t.t.wait = some .release ∧ t.t.followers = s.t.followers.filter (fun n => !followerDone s n))
      ∧ ((∀ n ∈ s.t.followers, followerDone s n = true) → t.t.followers = []
          ∧ (i = .unstrand sw → t.t.pc = s.t.pc + 4 ∧ t.t.member = 0 ∧ t.t.strandDepth = 0) ∧ (i = .retire sw → t.slot.phase = .idle)))

/-- R118, R390: TGATE gives 1 when the cluster's table of 64 gates is full; it sends the record at once when the counter has reached its
target, and otherwise keeps the gate. R119, R395: TSPAWN places or queues the records of 1 to 32 rows and gives their number, with the
number of those of more than 32 rows above it. -/
def Obligations.GatesAndTileRecords : Prop :=
  (∀ (rd ra rb : Reg) (sw : Bool) (v pa fl : Nat) (p : Place) (s s0 s1 s2 : State), Calm s → s.t.active = true →
    (∀ r ∈ [ra, rb, rd], plainCode s.t r = true) → released s = true →
    locate (advanced s s) s.asker .record (plainRead s.t ra) 64 64 none 0 = .ok (s0, p) →
    locate s0 s.asker .ringRead (plainRead s.t rb) 8 8 none 0 = .ok (s1, .mem pa fl) →
    dataMatch s.slot [(plainRead s.t ra, false), (plainRead s.t rb, false)] = none →
    readAtIssue s1 .record (plainRead s.t ra) 64 64 = .ok (s2, v) →
    let gates := (s.clusterAt s.cluster).gates
    (64 ≤ gates.length → ∃ t, exec (.tgate rd ra rb sw) s = .next t ∧ t.t.pc = s.t.pc + 4 ∧ (rd ≠ 0 → plainRead t.t rd = 1) ∧ sameCodesBut s t rd
      ∧ (t.clusterAt s.cluster).gates = gates ∧ t.inflight = s.inflight ∧ sameBytes s t)
    ∧ (gates.length < 64 → requestBlocked s pa 8 = false →
      ∃ t, exec (.tgate rd ra rb sw) s = .next t ∧ t.t.pc = s.t.pc + 4 ∧ (rd ≠ 0 → plainRead t.t rd = 0) ∧ sameCodesBut s t rd ∧ sameBytes s t
        ∧ ((plainRead s.t rd).toNat ≤ readNat s pa 8 →
            t.inflight = s.inflight ++ [{ core := s.core, record := wordsOf v 8, slot := none, ctx := s.asker.ctx }] ∧ (t.clusterAt s.cluster).gates = gates)
        ∧ (readNat s pa 8 < (plainRead s.t rd).toNat → t.inflight = s.inflight ∧ (t.clusterAt s.cluster).gates =
            gates ++ [{ record := wordsOf v 8, addr := pa, target := plainRead s.t rd, core := s.core, ctx := s.asker.ctx }])))
  ∧ (∀ (rd ra rb : Reg) (sw : Bool) (rs : List (List Word)) (s s1 s2 : State), Calm s → s.t.active = true →
    (∀ r ∈ [ra, rb, rd], plainCode s.t r = true) → released s = true →
    checkTiles (advanced s s) (plainRead s.t ra) (min (plainRead s.t rb).toNat 1024) = .ok s1 →
    readTiles s1 (plainRead s.t ra) (min (plainRead s.t rb).toNat 1024) = .ok (s2, rs) →
    let good := rs.countP (fun r => decide (1 ≤ rowCount r) && decide (rowCount r ≤ 32))
    (good = 0 ∨ (s2.dieAt s.die).spawnq.length + good ≤ 1024) →
    ∃ t, exec (.tspawn rd ra rb sw) s = .next t ∧ t.t.pc = s.t.pc + 4
      ∧ (rd ≠ 0 → plainRead t.t rd = BitVec.ofNat 64 (rs.countP (fun r => decide (32 < rowCount r)) * 4294967296 + good))
      ∧ t.inflight.length + (t.dieAt s.die).spawnq.length = s2.inflight.length + (s2.dieAt s.die).spawnq.length + good
      ∧ sameCodesBut s t rd ∧ sameBytes s2 t)

/-- R105 to R111, R119: an idle slot that takes a record runs it with the record's PC, level and payload; a thief takes the oldest record of
another core's deque. Records on their way enter the core's inbox ring, and one that waits longer than 1 µs enters the backstop ring. That the
dispatcher of the spawn queue leaves the slot's reservation as it was is the model's reading (log 57, DEDUCED). -/
def Obligations.IdleSlotsTakeRecords : Prop :=
  (∀ (slot : Nat) (r : List Word) (s s1 : State), maySearch s slot = true → firstOffer s slot = some (r, s1) → recordValid r = true →
    ∃ t, exec (.takeRecord slot) s = .next t ∧ (t.slotAt slot).phase = .running ∧ (t.slotAt slot).t.pc = recPc r
      ∧ (t.slotAt slot).t.prio = BitVec.ofNat 64 (recPrio r) ∧ (t.slotAt slot).t.status = 2
      ∧ (t.slotAt slot).t.ctxid = BitVec.ofNat 64 (bindCtx (bindOf s1 slot)) ∧ (t.slotAt slot).t.runs = [{ record := r, given := true, ibRead := 0 }]
      ∧ (∀ j : Nat, j < 6 → plainRead (t.slotAt slot).t (BitVec.ofNat 6 (8 + j)) = (recPayload r).getD j 0) ∧ sameBytes s1 t)
  ∧ (∀ (slot : Nat) (r : List Word) (s s1 : State), (s.slotAt slot).searched = true →
    maySearch (s.updSlot slot (fun x => { x with searched := false })) slot = true →
    firstOffer (s.updSlot slot (fun x => { x with searched := false })) slot = some (r, s1) → recordValid r = true →
    ∃ t, exec (.idleSearchRetry slot) s = .next t ∧ (t.slotAt slot).phase = .running ∧ (t.slotAt slot).t.pc = recPc r ∧ sameBytes s1 t)
  ∧ (∀ (slot core : Nat) (r : List Word) (s : State), maySteal s slot = true → victimOf s slot = some core → dqOldest s core = some r →
    recordValid r = true →
    ∃ t, exec (.dequeTheft slot core) s = .next t ∧ (t.slotAt slot).phase = .running ∧ (t.slotAt slot).t.pc = recPc r
      ∧ (t.coreAt core).dqtop = BitVec.ofNat 64 (((s.coreAt core).dqtop.toNat + 1) % 4294967296)
      ∧ (t.coreAt core).dqbot = (s.coreAt core).dqbot ∧ sameBytes s t)
  ∧ (∀ (core : Nat) (m : RecordMsg) (rest : List RecordMsg) (s : State), takeInflight (recordMoves s core) s.inflight = some (m, rest) →
    m.record.length = 8 → coreAdmits s core m.record = true → (s.coreAt core).port = [] → (s.coreAt core).backstop = [] →
    (ibFull (s.coreAt core) = false →
      ∃ t, exec (.inboxDelivery core) s = .next t
        ∧ (t.coreAt core).ibtail = BitVec.ofNat 64 (((s.coreAt core).ibtail.toNat + 1) % 4294967296)
        ∧ readWords t (ibAddr core (s.coreAt core) (s.coreAt core).ibtail.toNat) 8 = m.record
        ∧ sameOutside s t (ibAddr core (s.coreAt core) (s.coreAt core).ibtail.toNat) 64)
    ∧ (ibFull (s.coreAt core) = true →
      ∃ t, exec (.inboxDelivery core) s = .next t ∧ (t.coreAt core).port = [(s.tstamp.toNat, m)] ∧ (t.coreAt core).ipend4 = true
        ∧ t.inflight = rest ∧ sameBytes s t))
  ∧ (∀ (core since : Nat) (m : RecordMsg) (rest : List (Nat × RecordMsg)) (s : State), (s.coreAt core).port = (since, m) :: rest →
    ibFull (s.coreAt core) = true → since + 1000 ≤ s.tstamp.toNat → (s.coreAt core).backstop.length < 64 →
    ∃ t, exec (.backstopWrite core) s = .next t ∧ (t.coreAt core).port = rest ∧ (t.coreAt core).backstop = (s.coreAt core).backstop ++ [m.record]
      ∧ sameBytes s t)
  ∧ (∀ (core : Nat) (r : List Word) (rest : List (List Word)) (s : State), (s.coreAt core).backstop = r :: rest → r.length = 8 →
    ibFull (s.coreAt core) = false →
    ∃ t, exec (.backstopRefill core) s = .next t ∧ (t.coreAt core).backstop = rest
      ∧ (t.coreAt core).ibtail = BitVec.ofNat 64 (((s.coreAt core).ibtail.toNat + 1) % 4294967296)
      ∧ readWords t (ibAddr core (s.coreAt core) (s.coreAt core).ibtail.toNat) 8 = r)
  ∧ (∀ (die i slot ctx : Nat) (r : List Word) (s : State), dispatchChoice s die = some (i, slot, r, ctx) →
    ∃ t, exec (.spawnQueueDispatch die) s = .next t ∧ t.inflight = s.inflight ++ [{ core := coreOf slot, record := r, slot := none, ctx := ctx }]
      ∧ (t.slotAt slot).reserve = (s.slotAt slot).reserve ∧ (t.dieAt die).spawnq = (s.dieAt die).spawnq.eraseIdx i ∧ sameBytes s t)

/-- R117, R129, R410: at the end of its quantum a task goes on when no record of its level or above waits; otherwise it is saved and its
slot runs that record once the save is done. R120, R385: a strand forms when every follower slot is idle; its followers begin at the instruction after the STRAND. -/
def Obligations.QuantaAndStrands : Prop :=
  (∀ (slot : Nat) (s : State), quantumDue s slot = true →
    let h := s.makeHot slot
    (waitingRecord h slot = none →
      ∃ t, exec (.quantumExpiry slot) s = .next t ∧ (t.slotAt slot).phase = .running ∧ (t.slotAt slot).t.yielded = false
        ∧ (t.slotAt slot).t.qstart = s.tstamp.toNat ∧ (t.slotAt slot).t.pc = (s.slotAt slot).t.pc ∧ sameBytes s t)
    ∧ (∀ r s1, waitingRecord h slot = some (r, s1) → h.t.nested = false → h.t.inStrand = false → h.slot.saved = none → h.held = [] →
        h.t.wait = none → outstandingReads h slot = false →
      ∃ t x, exec (.quantumExpiry slot) s = .next t ∧ (t.slotAt slot).phase = .idle ∧ (t.slotAt slot).saved = some x
        ∧ (t.slotAt slot).saving = true ∧ (t.slotAt slot).chosen = some r ∧ x.pc = h.t.pc ∧ x.globals = h.t.globals ∧ x.win = h.t.win ∧ x.tiles = h.t.tiles ∧ sameBytes s t))
  ∧ (∀ (slot : Nat) (x : Task) (r : List Word) (s : State), (s.slotAt slot).saving = true → (s.slotAt slot).saved = some x →
    (s.slotAt slot).chosen = some r → recordValid r = true → slotHeld s slot = false →
    ∃ t, exec (.quantumSaveDone slot) s = .next t ∧ (t.slotAt slot).saving = false ∧ (t.slotAt slot).phase = .running ∧ (t.slotAt slot).t.pc = recPc r ∧ (t.slotAt slot).saved = some { x with ipend := 0 }
      ∧ readWord t (sramAddr (dieOf slot) (bindSave x.bind) + 0x1438) = x.pc.zeroExtend 64
      ∧ (∀ j : Nat, j < 7 → readWord t (sramAddr (dieOf slot) (bindSave x.bind) + 0x1400 + 8 * j) = x.globals[j]!)
      ∧ sameOutside s t (sramAddr (dieOf slot) (bindSave x.bind)) 8192)
  ∧ (∀ (slot count : Nat) (s : State), (s.slotAt slot).t.wait = some (.strand count) → 2 ≤ count → count ≤ 16 → slotHeld s slot = false →
    (s.slotAt slot).phase = .running → (s.slotAt slot).t.leader = none → (s.slotAt slot).t.followers = [] → strandTurn s slot = true →
    (∀ n ∈ strandSlots slot count, strandIdle (s.makeHot slot) slot n = true) →
    ∃ t, exec (.strandForm slot) s = .next t ∧ (t.slotAt slot).t.followers = strandSlots slot count
      ∧ (t.slotAt slot).t.pc = (s.slotAt slot).t.pc + 4
      ∧ (∀ n ∈ strandSlots slot count, (t.slotAt n).phase = .running ∧ (t.slotAt n).t.leader = some slot
          ∧ (t.slotAt n).t.pc = (s.slotAt slot).t.pc + 4 ∧ (t.slotAt n).t.globals = (s.slotAt slot).t.globals)
      ∧ sameBytes s t)

/-! ## Vectors and tiles -/

namespace Sys2Proof.Machine

/-- A V word: marker, what it names, whether it is unary, its element operation, its slices and its index (R388). -/
structure VecWord where
  sw : Bool
  use : Use
  un : Bool
  op : ElemOp
  d : Slice
  a : Slice
  b : Slice
  xi : Reg
  k : BitVec 5

/-- What a V word of two sources, of one source, and VCVT name. -/
def binaryUse (ok : Fmt → Fmt → Fmt → Bool) (d a b : Slice) (xi : Reg) : Use :=
  { b := some xi, pfx := true, fmtOk := fun p => fmts3 false p ok, mixed := mixBelow32 d a b, tiles := [d.m.toNat, a.m.toNat, b.m.toNat] }
def unaryUse (ok : Fmt → Fmt → Fmt → Bool) (d a : Slice) (xi : Reg) : Use :=
  { b := some xi, pfx := true, fmtOk := fun p => fmts3 true p ok, mixed := mixBelow32 d a a, tiles := [d.m.toNat, a.m.toNat, a.m.toNat] }
def cvtUse (d a : Slice) (xi : Reg) : Use :=
  { b := some xi, pfx := true, fmtOk := cvtFmtOk, mixed := cvtMixed d.col a.col, tiles := [d.m.toNat, a.m.toNat] }

/-- The V words (R398 to R404, R406 to R408). -/
def vectors : Instr → Option VecWord
  | .vadd md ma mb od oa ob xi k sw => some ⟨sw, binaryUse okArith ⟨md, od⟩ ⟨ma, oa⟩ ⟨mb, ob⟩ xi, false, elemAdd, ⟨md, od⟩, ⟨ma, oa⟩, ⟨mb, ob⟩, xi, k⟩
  | .vsub md ma mb od oa ob xi k sw => some ⟨sw, binaryUse okArith ⟨md, od⟩ ⟨ma, oa⟩ ⟨mb, ob⟩ xi, false, elemSub, ⟨md, od⟩, ⟨ma, oa⟩, ⟨mb, ob⟩, xi, k⟩
  | .vmul md ma mb od oa ob xi k sw => some ⟨sw, binaryUse okArith ⟨md, od⟩ ⟨ma, oa⟩ ⟨mb, ob⟩ xi, false, elemMul, ⟨md, od⟩, ⟨ma, oa⟩, ⟨mb, ob⟩, xi, k⟩
  | .vfma md ma mb od oa ob xi k sw => some ⟨sw, binaryUse okFloat ⟨md, od⟩ ⟨ma, oa⟩ ⟨mb, ob⟩ xi, false, elemFma, ⟨md, od⟩, ⟨ma, oa⟩, ⟨mb, ob⟩, xi, k⟩
  | .vfms md ma mb od oa ob xi k sw => some ⟨sw, binaryUse okFloat ⟨md, od⟩ ⟨ma, oa⟩ ⟨mb, ob⟩ xi, false, elemFms, ⟨md, od⟩, ⟨ma, oa⟩, ⟨mb, ob⟩, xi, k⟩
  | .vfnma md ma mb od oa ob xi k sw => some ⟨sw, binaryUse okFloat ⟨md, od⟩ ⟨ma, oa⟩ ⟨mb, ob⟩ xi, false, elemFnma, ⟨md, od⟩, ⟨ma, oa⟩, ⟨mb, ob⟩, xi, k⟩
  | .vmin md ma mb od oa ob xi k sw => some ⟨sw, binaryUse okArith ⟨md, od⟩ ⟨ma, oa⟩ ⟨mb, ob⟩ xi, false, elemMin, ⟨md, od⟩, ⟨ma, oa⟩, ⟨mb, ob⟩, xi, k⟩
  | .vmax md ma mb od oa ob xi k sw => some ⟨sw, binaryUse okArith ⟨md, od⟩ ⟨ma, oa⟩ ⟨mb, ob⟩ xi, false, elemMax, ⟨md, od⟩, ⟨ma, oa⟩, ⟨mb, ob⟩, xi, k⟩
  | .vscale md ma mb od oa ob xi k sw => some ⟨sw, binaryUse okFloat ⟨md, od⟩ ⟨ma, oa⟩ ⟨mb, ob⟩ xi, false, elemScale, ⟨md, od⟩, ⟨ma, oa⟩, ⟨mb, ob⟩, xi, k⟩
  | .vcmpeq md ma mb od oa ob xi k sw => some ⟨sw, binaryUse okCompare ⟨md, od⟩ ⟨ma, oa⟩ ⟨mb, ob⟩ xi, false, elemEq, ⟨md, od⟩, ⟨ma, oa⟩, ⟨mb, ob⟩, xi, k⟩
  | .vcmplt md ma mb od oa ob xi k sw => some ⟨sw, binaryUse okCompare ⟨md, od⟩ ⟨ma, oa⟩ ⟨mb, ob⟩ xi, false, elemLt, ⟨md, od⟩, ⟨ma, oa⟩, ⟨mb, ob⟩, xi, k⟩
  | .vcmple md ma mb od oa ob xi k sw => some ⟨sw, binaryUse okCompare ⟨md, od⟩ ⟨ma, oa⟩ ⟨mb, ob⟩ xi, false, elemLe, ⟨md, od⟩, ⟨ma, oa⟩, ⟨mb, ob⟩, xi, k⟩
  | .vsel md ma mb od oa ob xi k sw => some ⟨sw, binaryUse okBits ⟨md, od⟩ ⟨ma, oa⟩ ⟨mb, ob⟩ xi, false, elemSel, ⟨md, od⟩, ⟨ma, oa⟩, ⟨mb, ob⟩, xi, k⟩
  | .vand md ma mb od oa ob xi k sw => some ⟨sw, binaryUse okBits ⟨md, od⟩ ⟨ma, oa⟩ ⟨mb, ob⟩ xi, false, elemAnd, ⟨md, od⟩, ⟨ma, oa⟩, ⟨mb, ob⟩, xi, k⟩
  | .vor md ma mb od oa ob xi k sw => some ⟨sw, binaryUse okBits ⟨md, od⟩ ⟨ma, oa⟩ ⟨mb, ob⟩ xi, false, elemOr, ⟨md, od⟩, ⟨ma, oa⟩, ⟨mb, ob⟩, xi, k⟩
  | .vxor md ma mb od oa ob xi k sw => some ⟨sw, binaryUse okBits ⟨md, od⟩ ⟨ma, oa⟩ ⟨mb, ob⟩ xi, false, elemXor, ⟨md, od⟩, ⟨ma, oa⟩, ⟨mb, ob⟩, xi, k⟩
  | .vshl md ma mb od oa ob xi k sw => some ⟨sw, binaryUse okBits ⟨md, od⟩ ⟨ma, oa⟩ ⟨mb, ob⟩ xi, false, elemShl, ⟨md, od⟩, ⟨ma, oa⟩, ⟨mb, ob⟩, xi, k⟩
  | .vshr md ma mb od oa ob xi k sw => some ⟨sw, binaryUse okBits ⟨md, od⟩ ⟨ma, oa⟩ ⟨mb, ob⟩ xi, false, elemShr, ⟨md, od⟩, ⟨ma, oa⟩, ⟨mb, ob⟩, xi, k⟩
  | .vsra md ma mb od oa ob xi k sw => some ⟨sw, binaryUse okBits ⟨md, od⟩ ⟨ma, oa⟩ ⟨mb, ob⟩ xi, false, elemSra, ⟨md, od⟩, ⟨ma, oa⟩, ⟨mb, ob⟩, xi, k⟩
  | .vabs md ma od oa xi k sw => some ⟨sw, unaryUse okArith ⟨md, od⟩ ⟨ma, oa⟩ xi, true, elemAbs, ⟨md, od⟩, ⟨ma, oa⟩, ⟨ma, oa⟩, xi, k⟩
  | .vneg md ma od oa xi k sw => some ⟨sw, unaryUse okArith ⟨md, od⟩ ⟨ma, oa⟩ xi, true, elemNeg, ⟨md, od⟩, ⟨ma, oa⟩, ⟨ma, oa⟩, xi, k⟩
  | .vrsqs md ma od oa xi k sw => some ⟨sw, unaryUse okSeed ⟨md, od⟩ ⟨ma, oa⟩ xi, true, elemRsqs, ⟨md, od⟩, ⟨ma, oa⟩, ⟨ma, oa⟩, xi, k⟩
  | .vrcps md ma od oa xi k sw => some ⟨sw, unaryUse okSeed ⟨md, od⟩ ⟨ma, oa⟩ xi, true, elemRcps, ⟨md, od⟩, ⟨ma, oa⟩, ⟨ma, oa⟩, xi, k⟩
  | .vxexp md ma od oa xi k sw => some ⟨sw, unaryUse okFloat ⟨md, od⟩ ⟨ma, oa⟩ xi, true, elemXexp, ⟨md, od⟩, ⟨ma, oa⟩, ⟨ma, oa⟩, xi, k⟩
  | .vmov md ma od oa xi k sw => some ⟨sw, unaryUse okBits ⟨md, od⟩ ⟨ma, oa⟩ xi, true, elemMov, ⟨md, od⟩, ⟨ma, oa⟩, ⟨ma, oa⟩, xi, k⟩
  | .vcvt md ma od oa xi k sw => some ⟨sw, cvtUse ⟨md, od⟩ ⟨ma, oa⟩ xi, true, elemCvt, ⟨md, od⟩, ⟨ma, oa⟩, ⟨ma, oa⟩, xi, k⟩
  | _ => none

/-- Formats of a V word under a prefix. -/
def VecWord.fa (_v : VecWord) (p : FmtWord) : Fmt := vfmt p.fa
def VecWord.fb (v : VecWord) (p : FmtWord) : Fmt := vfmt (if v.un then p.fa else p.fb)
def VecWord.fd (_v : VecWord) (p : FmtWord) : Fmt := vfmt p.fd

/-- The index lies in the range of every slice in use (R66). -/
def VecWord.inRange (v : VecWord) (p : FmtWord) (i : Word) : Prop :=
  i.toNat < (if v.d.col then 512 / (v.fd p).width else 16) ∧ i.toNat < (if v.a.col then 512 / (v.fa p).width else 16)
    ∧ (v.un = false → i.toNat < (if v.b.col then 512 / (v.fb p).width else 16))

/-- Element j of a slice at an index. -/
def sliceElem (t : Task) (x : Slice) (i w j : Nat) : Nat := if x.col then elemOf t x.m.toNat j i w else elemOf t x.m.toNat i j w

/-- The place of element (r, c) of a tile in the slice at an index; none outside it. -/
def placeInSlice (x : Slice) (i m r c : Nat) : Option Nat :=
  if m ≠ x.m.toNat then none else if x.col then (if c = i then some r else none) else if r = i then some c else none

/-- Elements that a V word computes. -/
def VecWord.count (v : VecWord) (p : FmtWord) : Nat :=
  if v.d.col || v.a.col || (!v.un && v.b.col) then 16 else 512 / max (v.fa p).width (v.fd p).width

/-- Result j of a V word: element and flags. -/
def VecWord.result (v : VecWord) (t : Task) (p : FmtWord) (i j : Nat) : Nat × Flags :=
  v.op (v.fa p) (v.fb p) (v.fd p) (rmodeOfCode p.rm) p.sat (sliceElem t v.a i (v.fa p).width j) (sliceElem t v.b i (v.fb p).width j)
    (sliceElem t v.d i (v.fd p).width j)

/-- VGET, VPUT, VBCAST, VREDS and VREDM name a tile, a scalar register and a row (R400, R405). -/
def elemUse (xs xi : Reg) (writes : Bool) (ok : FmtWord → Bool) (mt : BitVec 2) : Use :=
  { b := some xi, c := if writes then none else some xs, d := if writes then [xs] else [], pfx := true, fmtOk := ok, tiles := [mt.toNat] }

/-- Formats of VREDS. -/
def redsFmtOk (p : FmtWord) : Bool :=
  vfmtOk p.fa && vfmtOk p.fd && (vfmt p.fa).isFloat && (vfmt p.fd).isFloat && (vfmt p.fa).width = (vfmt p.fd).width

/-- What is left as it was by an instruction that writes tiles only, apart from FFLAGS. -/
def onlyTiles (s t : State) : Prop :=
  t.t.pc = s.t.pc + 4 ∧ sameCodes s t ∧ sameSpecial s t ∧ sameMask s t ∧ sameFrames s t ∧ sameBytes s t ∧ sameDevice s t

end Sys2Proof.Machine

/-- R388, R44, R66: a V word writes its results to the first elements of its slice d, every other element of the four tiles keeps its
bits, the flags of all elements stick in FFLAGS, and nothing else changes; an index out of a slice's range takes SLICE with TVAL = the
index. -/
def Obligations.VectorWordsWriteOneSlice : Prop :=
  ∀ (ins : Instr) (v : VecWord) (s : State), vectors ins = some v → Goes ins v.use s →
    let p := s.t.fmt
    let i := plainRead s.t v.xi + v.k.zeroExtend 64
    (v.inRange p i →
      ∃ t, exec ins s = .next t
        ∧ (∀ m r c, m < 4 → r < 16 → c < 512 / (v.fd p).width →
            elemOf t.t m r c (v.fd p).width =
              match placeInSlice v.d i.toNat m r c with
              | some j => if j < v.count p then (v.result s.t p i.toNat j).1 % 2 ^ (v.fd p).width else elemOf s.t m r c (v.fd p).width
              | none => elemOf s.t m r c (v.fd p).width)
        ∧ t.t.fflags = s.t.fflags ||| (flagsOf ((List.range (v.count p)).map (fun j => (v.result s.t p i.toNat j).2))).zeroExtend 64
        ∧ onlyTiles s t)
    ∧ (¬ v.inRange p i → exec ins s = trapped s .slice i)

namespace Sys2Proof.Machine

/-! ### Numbers as rationals, and the rounding of R40 and R41 -/

/-- The value of a finite number. -/
def Num.real : Num → ℚ
  | .fin n m e => (if n then -1 else 1) * (m : ℚ) * (2 : ℚ) ^ e
  | _ => 0

def Num.finite : Num → Bool
  | .fin _ _ _ => true
  | _ => false

/-- The integer formats of the vector group (R29). -/
def intFmts : List Fmt := [fmtInt 0x24 8 true, fmtInt 0x25 8 false, fmtInt 0x27 16 true, fmtINT32]

/-- A floating-point format of R28. -/
def floatFmt (f : Fmt) : Prop := f.isFloat = true ∧ ∃ c, fmtOfCode c = some f

/-- The integer value of a code of an integer format (R37). -/
def intVal (f : Fmt) (c : Nat) : Int := if f.signed then (BitVec.ofNat f.width c).toInt else c

/-- The least and the greatest value of an integer format (R37). -/
def Fmt.lowest (d : Fmt) : Int := if d.signed then -(2 ^ (d.width - 1)) else 0
def Fmt.highest (d : Fmt) : Int := if d.signed then 2 ^ (d.width - 1) - 1 else 2 ^ d.width - 1

/-- An integer result in a format: clamped to its range under sat, else modulo 2^w (R398). -/
def intInto (d : Fmt) (sat : Bool) (v : Int) : Nat :=
  (BitVec.ofInt d.width (if sat then max d.lowest (min d.highest v) else v)).toNat

/-- The order of numbers, where −0 equals +0 (R401). -/
def numLess : Num → Num → Prop
  | .inf a, .inf b => a = true ∧ b = false
  | .inf a, .fin _ _ _ => a = true
  | .fin _ _ _, .inf b => b = false
  | .fin n m e, .fin n' m' e' => (Num.fin n m e).real < (Num.fin n' m' e').real
  | _, _ => False

/-- The same order with −0 below +0 (R46, R47). -/
def numBelow (u v : Num) : Prop := numLess u v ∨ (u.isZero = true ∧ v.isZero = true ∧ u.isNeg = true ∧ v.isNeg = false)

/-- Two numbers are equal, −0 and +0 being so; a NaN equals nothing. -/
def numSame (u v : Num) : Prop := u ≠ .nan ∧ v ≠ .nan ∧ ¬ numLess u v ∧ ¬ numLess v u

/-- A compare writes all ones where its relation holds and zero elsewhere, with these flags (R401). -/
def masks (d : Fmt) (holds : Prop) (fl : Flags) (r : Nat × Flags) : Prop :=
  (holds → r = (2 ^ d.width - 1, fl)) ∧ (¬ holds → r = (0, fl))

/-- A point of a format's grid: at most t + 1 significant bits, and, where the exponent range is bounded below, a multiple of the least step. -/
def Fmt.onGrid (f : Fmt) (bounded : Bool) (y : ℚ) : Prop :=
  ∃ k q : ℤ, (bounded = true → f.emin ≤ q) ∧ |k| < 2 ^ (f.t + 1) ∧ y = (k : ℚ) * 2 ^ q

/-- A grid point whose least significant fraction bit is 0. -/
def Fmt.evenPoint (f : Fmt) (bounded : Bool) (y : ℚ) : Prop :=
  ∃ k q : ℤ, Even k ∧ |k| < 2 ^ (f.t + 1) ∧ y = (k : ℚ) * 2 ^ q ∧ (2 ^ f.t ≤ |k| ∨ k = 0 ∨ (bounded = true ∧ q = f.emin))

/-- The grid point that a mode chooses for x (R40). Which of two points a tie goes to is left open for a format without fraction bits (log 12). -/
def Fmt.roundsTo (f : Fmt) (bounded : Bool) (rm : RMode) (x y : ℚ) : Prop :=
  f.onGrid bounded y ∧
    match rm with
    | .rne => ∀ z, f.onGrid bounded z → |x - y| ≤ |x - z| ∧ (z ≠ y → |x - y| = |x - z| → 1 ≤ f.t → f.evenPoint bounded y)
    | .rz => |y| ≤ |x| ∧ 0 ≤ x * y ∧ ∀ z, f.onGrid bounded z → |z| ≤ |x| → |z| ≤ |y|
    | .rd => y ≤ x ∧ ∀ z, f.onGrid bounded z → z ≤ x → z ≤ y
    | .ru => x ≤ y ∧ ∀ z, f.onGrid bounded z → x ≤ z → y ≤ z

/-- The table of R41. -/
def Fmt.overflowTo (f : Fmt) (neg : Bool) (rm : RMode) (sat : Bool) : Nat × Flags :=
  let sign : Nat := if neg then 2 ^ (f.width - 1) else 0
  let away : Bool := rm = .rne || (rm = .rd && neg) || (rm = .ru && !neg)
  if sat then (f.maxCode + sign, flagNX)
  else if f.hasInf && away then (f.infCode + sign, flagOF ||| flagNX)
  else (f.maxCode + sign, flagOF ||| flagNX)

/-- The result of a value that is not 0 is tiny (R41). -/
def Fmt.isTiny (f : Fmt) (rm : RMode) (x : ℚ) : Prop := ∃ u, f.roundsTo false rm x u ∧ |u| < 2 ^ (f.emin + f.t)

/-- A code and flags stand for the grid point y to which x has been rounded (R40, R41). -/
def Fmt.stands (f : Fmt) (rm : RMode) (x y : ℚ) (r : Nat × Flags) : Prop :=
  r.1 < 2 ^ f.width
    ∧ (∃ m e, f.value r.1 = .fin (decide (y < 0 ∨ (y = 0 ∧ x < 0 ∧ f.cls = .ieee))) m e ∧ (f.value r.1).real = y)
    ∧ (y = x → r.2 = 0)
    ∧ (y ≠ x → (r.2 = flagNX ∨ r.2 = flagNX ||| flagUF) ∧ (1 ≤ f.t ∨ rm ≠ .rne → (r.2 = flagNX ||| flagUF ↔ f.isTiny rm x)))

/-- A value that is not 0 and whose sign the format has is rounded once, or overflows (R40, R41). -/
def Fmt.roundedTo (f : Fmt) (rm : RMode) (sat : Bool) (x : ℚ) (r : Nat × Flags) : Prop :=
  ∃ y, f.roundsTo true rm x y
    ∧ ((f.value f.maxCode).real < |y| → r = f.overflowTo (decide (x < 0)) rm sat)
    ∧ (|y| ≤ (f.value f.maxCode).real → f.stands rm x y r)

/-- An exact result is delivered into a format (R40, R42). -/
def Fmt.lands (f : Fmt) (rm : RMode) (sat : Bool) (e : Num) (r : Nat × Flags) : Prop :=
  match e with
  | .nan => r = (f.nan, 0)
  | .inf neg =>
    r = if !f.signed && neg then (f.nan, flagNV)
        else if f.hasInf && !sat then (f.infCode + (if neg then 2 ^ (f.width - 1) else 0), 0)
        else f.overflowTo neg rm sat
  | .fin neg m k =>
    if m = 0 then r = (if neg && f.cls = .ieee then 2 ^ (f.width - 1) else 0, 0)
    else if !f.signed && neg then r = (f.nan, flagNV)
    else f.roundedTo rm sat (Num.fin neg m k).real r

/-- An exact finite result is delivered into a format; an exact 0 has the sign zneg. -/
def Fmt.landsAs (f : Fmt) (rm : RMode) (sat : Bool) (v : ℚ) (zneg : Bool) (r : Nat × Flags) : Prop :=
  ∃ n m k, (Num.fin n m k).real = v ∧ (v = 0 → n = zneg) ∧ f.lands rm sat (.fin n m k) r

/-- A sum is delivered (R42, R47). -/
def Fmt.landsSum (d : Fmt) (rm : RMode) (sat : Bool) (u v : Num) (r : Nat × Flags) : Prop :=
  if u = .nan ∨ v = .nan then r = (d.nan, 0)
  else match u, v with
    | .inf a, .inf b => if a = b then d.lands rm sat (.inf a) r else r = (d.nan, flagNV)
    | .inf a, _ => d.lands rm sat (.inf a) r
    | _, .inf b => d.lands rm sat (.inf b) r
    | u, v => d.landsAs rm sat (u.real + v.real) (if u.isZero && v.isZero && u.isNeg = v.isNeg then u.isNeg else decide (rm = .rd)) r

/-- 0 × ∞. -/
def badProduct (u v : Num) : Bool := (u.isZero && v.isInf) || (u.isInf && v.isZero)

/-- A product is delivered (R42). -/
def Fmt.landsProduct (d : Fmt) (rm : RMode) (sat : Bool) (u v : Num) (r : Nat × Flags) : Prop :=
  if u = .nan ∨ v = .nan then r = (d.nan, 0)
  else if badProduct u v then r = (d.nan, flagNV)
  else if u.isInf || v.isInf then d.lands rm sat (.inf (u.isNeg != v.isNeg)) r
  else d.landsAs rm sat (u.real * v.real) (u.isNeg != v.isNeg) r

/-- A product and a sum are delivered with one rounding (R42, R47). -/
def Fmt.landsFused (d : Fmt) (rm : RMode) (sat : Bool) (u v z : Num) (r : Nat × Flags) : Prop :=
  let neg := u.isNeg != v.isNeg
  if badProduct u v then r = (d.nan, flagNV)
  else if u = .nan ∨ v = .nan ∨ z = .nan then r = (d.nan, 0)
  else if u.isInf || v.isInf then (if z = .inf (!neg) then r = (d.nan, flagNV) else d.lands rm sat (.inf neg) r)
  else if z.isInf then d.lands rm sat z r
  else d.landsAs rm sat (u.real * v.real + z.real)
    (if (u.isZero || v.isZero) && z.isZero && neg = z.isNeg then neg else decide (rm = .rd)) r

/-- The integer that a mode chooses for x (R43). -/
def intRounds (rm : RMode) (x : ℚ) (k : ℤ) : Prop :=
  match rm with
  | .rne => ∀ j : ℤ, |x - k| ≤ |x - j| ∧ (j ≠ k → |x - k| = |x - j| → Even k)
  | .rz => k = if 0 ≤ x then ⌊x⌋ else ⌈x⌉
  | .rd => k = ⌊x⌋
  | .ru => k = ⌈x⌉

/-- A value is delivered into an integer format (R43). -/
def Fmt.landsInt (d : Fmt) (rm : RMode) (u : Num) (r : Nat × Flags) : Prop :=
  match u with
  | .nan => r = (0, flagNV)
  | .inf neg => r = (intInto d true (if neg then d.lowest else d.highest), flagNV)
  | .fin n m e =>
    let x := (Num.fin n m e).real
    ∃ k : ℤ, intRounds rm x k
      ∧ r = (intInto d true k, if k < d.lowest ∨ d.highest < k then flagNV else flagIf (decide (x ≠ k)) flagNX)

/-- The value of a code of a floating-point format (R30, R31, R35, R36). -/
def codeValue (f : Fmt) (c : Nat) (u : Num) : Prop :=
  let neg := f.signed && decide (2 ^ (f.width - 1) ≤ c)
  let m := if f.signed then c % 2 ^ (f.width - 1) else c
  let e : ℤ := ((m / 2 ^ f.t : ℕ) : ℤ)
  let fr : ℚ := ((m % 2 ^ f.t : ℕ) : ℚ) / 2 ^ f.t
  if c = f.nan ∨ (f.cls = .ieee ∧ f.infCode < m) then u = .nan
  else if f.hasInf ∧ m = f.infCode then u = .inf neg
  else u.finite = true ∧ u.isNeg = neg
    ∧ u.real = (if neg then -1 else 1) * (if e = 0 then 2 ^ (1 - (f.bias : ℤ)) * fr else 2 ^ (e - f.bias) * (1 + fr))

/-- What R49 keeps of a term at a step 2^q, and the kept sum of a list. -/
def keptOf (q : ℤ) (t : ℚ) : ℚ := (if t < 0 then -1 else 1) * (⌊|t| / 2 ^ q⌋ : ℚ) * 2 ^ q
def keptSum (q : ℤ) (ts : List ℚ) : ℚ := (ts.map (keptOf q)).sum

/-- The step of R49's window: q = E − 63, E the largest exponent of a term that is not zero. -/
def windowStep (ts : List ℚ) (q : ℤ) : Prop := (∀ t ∈ ts, |t| < 2 ^ (q + 64)) ∧ ∃ t ∈ ts, 2 ^ (q + 63) ≤ |t|

/-- The FP32 value of at most 13 significant bits (R45). -/
def seedPoint (y : ℚ) : Prop := ∃ k q : ℤ, |k| < 8192 ∧ -149 ≤ q ∧ y = (k : ℚ) * 2 ^ q

end Sys2Proof.Machine

/-- R398, R399, R401, R403, R407, R408, R37, R50: elements that are not rounded. An integer result is exact and then clamped under sat, or taken
modulo 2^w, each operand being read by its own format; a compare gives all ones or zero, and NV only for an order compare of a NaN; the bit
instructions act on the bits, and a shift takes its amount from the low bits of y. The loom adds the exact integer products of a chunk to an
accumulator element modulo 2^32. -/
def Obligations.IntegerBitAndCompareElements : Prop :=
  (∀ (a b d : Fmt) (rm : RMode) (sat : Bool) (x y z : Nat), a ∈ intFmts → b ∈ intFmts → d ∈ intFmts → a.width = d.width → b.width = d.width →
    x < 2 ^ d.width → y < 2 ^ d.width →
    elemAdd a b d rm sat x y z = (intInto d sat (intVal a x + intVal b y), 0)
    ∧ elemSub a b d rm sat x y z = (intInto d sat (intVal a x - intVal b y), 0)
    ∧ elemMul a b d rm sat x y z = (intInto d sat (intVal a x * intVal b y), 0)
    ∧ elemMin a b d rm sat x y z = (intInto d sat (min (intVal a x) (intVal b y)), 0)
    ∧ elemMax a b d rm sat x y z = (intInto d sat (max (intVal a x) (intVal b y)), 0)
    ∧ elemNeg a b d rm sat x y z = (intInto d sat (-intVal a x), 0)
    ∧ elemAbs a b d rm sat x y z = (intInto d sat |intVal a x|, 0)
    ∧ masks d (intVal a x = intVal b y) 0 (elemEq a b d rm sat x y z)
    ∧ masks d (intVal a x < intVal b y) 0 (elemLt a b d rm sat x y z)
    ∧ masks d (intVal a x ≤ intVal b y) 0 (elemLe a b d rm sat x y z))
  ∧ (∀ (a b d : Fmt) (rm : RMode) (sat : Bool) (x y z : Nat), floatFmt a → floatFmt b →
    let u := a.value x
    let v := b.value y
    let fl := flagIf (u.isNan || v.isNan) flagNV
    masks d (numSame u v) 0 (elemEq a b d rm sat x y z) ∧ masks d (numLess u v) fl (elemLt a b d rm sat x y z)
      ∧ masks d (numLess u v ∨ numSame u v) fl (elemLe a b d rm sat x y z))
  ∧ (∀ (a b d : Fmt) (rm : RMode) (sat : Bool) (x y z : Nat), d.width ∈ [8, 16, 32] → x < 2 ^ d.width → y < 2 ^ d.width → z < 2 ^ d.width →
    elemAnd a b d rm sat x y z = (x &&& y, 0) ∧ elemOr a b d rm sat x y z = (x ||| y, 0) ∧ elemXor a b d rm sat x y z = (x ^^^ y, 0)
    ∧ elemMov a b d rm sat x y z = (x, 0) ∧ elemSel a b d rm sat x y z = (if x ≠ 0 then y else z, 0)
    ∧ elemShl a b d rm sat x y z = (x * 2 ^ (y % d.width) % 2 ^ d.width, 0) ∧ elemShr a b d rm sat x y z = (x / 2 ^ (y % d.width), 0)
    ∧ elemSra a b d rm sat x y z = (((BitVec.ofNat d.width x).sshiftRight (y % d.width)).toNat, 0))
  ∧ (∀ (q : LoomCmd) (old : Nat) (ps : List (Nat × Nat)), (fmtA q).isInt = true → (fmtB q).isInt = true →
    (∀ p ∈ ps, p.1 < 2 ^ (fmtA q).width ∧ p.2 < 2 ^ (fmtB q).width) →
    intElem q old (ps.map Prod.fst) (ps.map Prod.snd)
      = (((old : Int) + (ps.map (fun p => intVal (fmtA q) p.1 * intVal (fmtB q) p.2)).sum) % 4294967296).toNat)

/-- R30, R31, R35, R36, R40 to R43, R46, R47, R398, R402, R405, R406: floating-point elements. The value of a code is the formula's; the greatest
finite value is the code of maxfin. VADD, VSUB, VMUL, VFMA, VFMS and VFNMA are the exact result rounded once to fd, as are the row sum of VREDS,
VCVT, VSCALE and VXEXP; 0 × ∞ and ∞ − ∞ give NaN with NV and another NaN operand gives NaN without. VMIN, VMAX, VABS and VNEG choose an
operand or its sign and round only into another format; VREDM chooses a greatest element. Left free: a tie of a format without fraction bits
(log 12), and a row with a NaN and both infinities (log 99). -/
def Obligations.FloatElementsRoundOnce : Prop :=
  (∀ (f : Fmt) (c : Nat), floatFmt f → c < 2 ^ f.width →
    codeValue f c (f.value c) ∧ (f.value f.maxCode).finite = true ∧ ((f.value c).finite = true → |(f.value c).real| ≤ (f.value f.maxCode).real))
  ∧ (∀ (a b d : Fmt) (rm : RMode) (sat : Bool) (x y z : Nat), floatFmt a → floatFmt b → floatFmt d →
    let u := a.value x
    let v := b.value y
    let w := d.value z
    let satA := sat && decide (a.code ≠ d.code)
    let satB := sat && decide (b.code ≠ d.code)
    d.landsSum rm sat u v (elemAdd a b d rm sat x y z)
    ∧ d.landsSum rm sat u v.neg (elemSub a b d rm sat x y z)
    ∧ d.landsProduct rm sat u v (elemMul a b d rm sat x y z)
    ∧ d.landsFused rm sat u v w (elemFma a b d rm sat x y z)
    ∧ d.landsFused rm sat u v w.neg (elemFms a b d rm sat x y z)
    ∧ d.landsFused rm sat u.neg v w (elemFnma a b d rm sat x y z)
    ∧ d.lands rm satA u (elemCvt a b d rm sat x y z)
    ∧ d.lands rm satA u.abs (elemAbs a b d rm sat x y z)
    ∧ d.lands rm satA u.neg (elemNeg a b d rm sat x y z)
    ∧ (v = .nan → d.lands rm satA u (elemMin a b d rm sat x y z) ∧ d.lands rm satA u (elemMax a b d rm sat x y z))
    ∧ (u = .nan → v ≠ .nan → d.lands rm satB v (elemMin a b d rm sat x y z) ∧ d.lands rm satB v (elemMax a b d rm sat x y z))
    ∧ (numBelow u v → d.lands rm satA u (elemMin a b d rm sat x y z) ∧ d.lands rm satB v (elemMax a b d rm sat x y z))
    ∧ (numBelow v u → d.lands rm satB v (elemMin a b d rm sat x y z) ∧ d.lands rm satA u (elemMax a b d rm sat x y z))
    ∧ (u ≠ .nan → v ≠ .nan → ¬ numBelow u v → ¬ numBelow v u →
        (d.lands rm satA u (elemMin a b d rm sat x y z) ∨ d.lands rm satB v (elemMin a b d rm sat x y z))
        ∧ (d.lands rm satA u (elemMax a b d rm sat x y z) ∨ d.lands rm satB v (elemMax a b d rm sat x y z)))
    ∧ (let r := elemScale a b d rm sat x y z
      (u = .nan ∨ v = .nan → r = (d.nan, 0))
      ∧ (u.finite = true → v.finite = true →
          d.landsAs rm sat (u.real * 2 ^ (if 0 ≤ v.real then ⌊v.real⌋ else ⌈v.real⌉)) u.isNeg r)
      ∧ (u.isInf = true → v.finite = true ∨ v = .inf false → d.lands rm sat u r)
      ∧ (u.isInf = true → v = .inf true → r = (d.nan, flagNV))
      ∧ (u.isZero = true → v = .inf false → r = (d.nan, flagNV))
      ∧ (u.finite = true → u.isZero = false → v = .inf false →
          r = if u.isNeg && !d.signed then (d.nan, flagNV) else d.overflowTo u.isNeg rm sat)
      ∧ (u.finite = true → u.isZero = false → v = .inf true →
          r = (if u.isNeg && d.cls = .ieee then 2 ^ (d.width - 1) else 0, flagUF ||| flagNX)))
    ∧ (let r := elemXexp a b d rm sat x y z
      (u = .nan → r = (d.nan, 0))
      ∧ (u.isInf = true → d.lands rm sat (.inf false) r)
      ∧ (u.isZero = true → ∃ q, d.lands rm sat (.inf true) q ∧ r = (q.1, q.2 ||| flagDZ))
      ∧ (u.finite = true → u.isZero = false →
          ∃ e : ℤ, 2 ^ e ≤ |u.real| ∧ |u.real| < 2 ^ (e + 1) ∧ d.landsAs rm sat e false r)))
  ∧ (∀ (a d b : Fmt) (rm : RMode) (sat : Bool) (x y z : Nat), a ∈ intFmts → x < 2 ^ a.width →
    (floatFmt d → d.landsAs rm sat (intVal a x) false (elemCvt a b d rm sat x y z))
    ∧ (d ∈ intFmts → elemCvt a b d rm sat x y z
        = (intInto d true (intVal a x), flagIf (decide (intVal a x < d.lowest ∨ d.highest < intVal a x)) flagNV)))
  ∧ (∀ (a d b : Fmt) (rm : RMode) (sat : Bool) (x y z : Nat), floatFmt a → d ∈ intFmts →
    d.landsInt rm (a.value x) (elemCvt a b d rm sat x y z))
  ∧ (∀ (a d : Fmt) (rm : RMode) (sat : Bool) (xs : List Nat), floatFmt a → floatFmt d →
    let us := xs.map a.value
    let r := rowSum a d rm sat xs
    (Num.nan ∈ us → ¬ (Num.inf true ∈ us ∧ Num.inf false ∈ us) → r = (d.nan, 0))
    ∧ (Num.nan ∉ us → Num.inf true ∈ us → Num.inf false ∈ us → r = (d.nan, flagNV))
    ∧ (∀ n, Num.nan ∉ us → Num.inf n ∈ us → Num.inf (!n) ∉ us → d.lands rm sat (.inf n) r)
    ∧ ((∀ u ∈ us, u.finite = true) →
        d.landsAs rm sat (us.map Num.real).sum
          (us.all (fun u => u.isZero && u.isNeg) || (decide (rm = .rd) && us.any (fun u => !u.isZero))) r))
  ∧ (∀ (a : Fmt) (xs : List Nat), (floatFmt a ∨ a ∈ intFmts) → xs ≠ [] →
    (Num.nan ∈ xs.map a.value → rowMax a xs = a.nan)
    ∧ (Num.nan ∉ xs.map a.value → rowMax a xs ∈ xs ∧ ∀ y ∈ xs, ¬ numBelow (a.value (rowMax a xs)) (a.value y)))

/-- R45, R48, R49, R53: the two seeds and the loom's sums. VRSQS and VRCPS give the nearest FP32 value of at most 13 significant bits, by the
table of R45 for zeros, infinities and NaN; underflow is judged on the value so rounded (log 88). The loom adds the exact products of a chunk
to an accumulator element with one rounding, or, where A or B is BF16 or FP32, through the window of R49: the terms truncated at 2^(E−63), a
halfway sum going away from zero when something was dropped. Underflow is there judged on the kept sum (log 99), and an exact zero is −0
only when every term is (R48: log 89). NaN and infinities are decided before either. -/
def Obligations.SeedsAndLoomSums : Prop :=
  (∀ (b d : Fmt) (rm : RMode) (sat : Bool) (x y z : Nat),
    let u := fmtFP32.value x
    let s := elemRsqs fmtFP32 b d rm sat x y z
    let c := elemRcps fmtFP32 b d rm sat x y z
    let sign : Nat := if u.isNeg then 2147483648 else 0
    (u = .nan → s = (0x7FC00000, 0) ∧ c = (0x7FC00000, 0))
    ∧ (u.isZero = true → s = (0x7F800000 + sign, flagDZ) ∧ c = (0x7F800000 + sign, flagDZ))
    ∧ (∀ n, u = .inf n → s = (if n then (0x7FC00000, flagNV) else (0, 0)) ∧ c = (sign, 0))
    ∧ (u.finite = true → u.isZero = false → u.isNeg = true → s = (0x7FC00000, flagNV))
    ∧ (u.finite = true → 0 < u.real →
        ∃ r : ℚ, seedPoint r ∧ 0 < r ∧ (fmtFP32.value s.1).finite = true ∧ (fmtFP32.value s.1).real = r
          ∧ (∀ w, seedPoint w → 0 ≤ w → (w < r → u.real * (w + r) ^ 2 ≤ 4) ∧ (r < w → 4 ≤ u.real * (w + r) ^ 2))
          ∧ s.2 = flagIf (decide (u.real * r ^ 2 ≠ 1)) flagNX)
    ∧ (u.finite = true → u.isZero = false →
        ∃ r : ℚ, seedPoint r ∧ (∀ w, seedPoint w → |1 / u.real - r| ≤ |1 / u.real - w|)
          ∧ (2 ^ 128 ≤ |r| → c = (0x7F800000 + sign, flagOF ||| flagNX))
          ∧ (|r| < 2 ^ 128 → (fmtFP32.value c.1).finite = true ∧ (fmtFP32.value c.1).real = r
              ∧ c.2 = if r * u.real = 1 then 0 else flagNX ||| flagIf (decide (|r| < 2 ^ (-126 : ℤ))) flagUF)))
  ∧ (∀ (window : Bool) (acc : Nat) (ps : List (Machine.Num × Machine.Num)),
    let us := fmtFP32.value acc :: ps.map (fun p => (p.1.mul p.2).1)
    let bad := ps.any (fun p => badProduct p.1 p.2)
    let r := chunkAdd window acc (ps.map (fun p => p.1.mul p.2))
    (bad = false → Num.nan ∈ us → ¬ (Num.inf true ∈ us ∧ Num.inf false ∈ us) → r = (0x7FC00000, 0))
    ∧ (fmtFP32.value acc ≠ .nan → (∀ p ∈ ps, p.1 ≠ .nan ∧ p.2 ≠ .nan) → bad = true ∨ (Num.inf true ∈ us ∧ Num.inf false ∈ us) → r = (0x7FC00000, flagNV))
    ∧ (∀ n, bad = false → Num.nan ∉ us → Num.inf n ∈ us → Num.inf (!n) ∉ us → r = (0x7F800000 + (if n then 2147483648 else 0), 0)))
  ∧ (∀ (acc : Nat) (ps : List (Machine.Num × Machine.Num)), (fmtFP32.value acc).finite = true → (∀ p ∈ ps, p.1.finite = true ∧ p.2.finite = true) →
    let ts := (fmtFP32.value acc).real :: ps.map (fun p => p.1.real * p.2.real)
    let allNegZero := (fmtFP32.value acc).isZero && (fmtFP32.value acc).isNeg
      && ps.all (fun p => (p.1.isZero || p.2.isZero) && (p.1.isNeg != p.2.isNeg))
    fmtFP32.landsAs .rne false ts.sum allNegZero (chunkAdd false acc (ps.map (fun p => p.1.mul p.2)))
    ∧ ((∀ t ∈ ts, t = 0) → chunkAdd true acc (ps.map (fun p => p.1.mul p.2)) = (if allNegZero then 2147483648 else 0, 0))
    ∧ (∀ q, windowStep ts q →
        let sum := keptSum q ts
        let dropped := ∃ t ∈ ts, keptOf q t ≠ t
        let r := chunkAdd true acc (ps.map (fun p => p.1.mul p.2))
        (sum = 0 → (dropped → r = (0, flagNX)) ∧ (¬ dropped → r = (0, 0)))
        ∧ (sum ≠ 0 → ∃ y, fmtFP32.onGrid true y
            ∧ (∀ w, fmtFP32.onGrid true w → |sum - y| ≤ |sum - w|
                ∧ (w ≠ y → |sum - y| = |sum - w| → (dropped → |w| < |y|) ∧ (¬ dropped → fmtFP32.evenPoint true y)))
            ∧ ((fmtFP32.value fmtFP32.maxCode).real < |y| → r = (0x7F800000 + (if sum < 0 then 2147483648 else 0), flagOF ||| flagNX))
            ∧ (|y| ≤ (fmtFP32.value fmtFP32.maxCode).real →
                (∃ m e, fmtFP32.value r.1 = .fin (decide (sum < 0)) m e) ∧ (fmtFP32.value r.1).real = y
                ∧ (y = sum → ¬ dropped → r.2 = 0)
                ∧ (y ≠ sum ∨ dropped → (r.2 = flagNX ∨ r.2 = flagNX ||| flagUF) ∧ (r.2 = flagNX ||| flagUF ↔ fmtFP32.isTiny .rne sum))))))

/-- R397, R400, R405, R46: TZERO and TTR write a whole tile, VPUT one element, VBCAST one row; VGET, VREDS and VREDM give a scalar
register an element, the sum of a row rounded once, and its largest element. A row or element out of range takes SLICE. -/
def Obligations.TilesAndElements : Prop :=
  (∀ (md : BitVec 2) (sw : Bool) (s : State), Goes (.tzero md sw) { tiles := [md.toNat] } s →
    ∃ t, exec (.tzero md sw) s = .next t ∧ onlyTiles s t ∧ sameFlags s t
      ∧ (∀ m r c, m < 4 → r < 16 → c < 16 → elemOf t.t m r c 32 = if m = md.toNat then 0 else elemOf s.t m r c 32))
  ∧ (∀ (md ma : BitVec 2) (sw : Bool) (s : State), Goes (.ttr md ma sw) { tiles := [md.toNat, ma.toNat] } s →
    ∃ t, exec (.ttr md ma sw) s = .next t ∧ onlyTiles s t ∧ sameFlags s t
      ∧ (∀ m r c, m < 4 → r < 16 → c < 16 → elemOf t.t m r c 32 = if m = md.toNat then elemOf s.t ma.toNat c r 32 else elemOf s.t m r c 32))
  ∧ (∀ (mt : BitVec 2) (xs xi : Reg) (k : BitVec 6) (sw : Bool) (s : State),
    let w := (vfmt s.t.fmt.fd).width
    let row := plainRead s.t xi
    (Goes (.vget mt xs xi k sw) (elemUse xs xi true elemWidthOk mt) s →
      (row.toNat < 16 → k.toNat < 512 / w →
        ∃ t, exec (.vget mt xs xi k sw) s = .next t ∧ (xs ≠ 0 → plainRead t.t xs = BitVec.ofNat 64 (elemOf s.t mt.toNat row.toNat k.toNat w))
          ∧ onlyWrites s t xs)
      ∧ (16 ≤ row.toNat → exec (.vget mt xs xi k sw) s = trapped s .slice row)
      ∧ (row.toNat < 16 → 512 / w ≤ k.toNat → exec (.vget mt xs xi k sw) s = trapped s .slice (k.zeroExtend 64)))
    ∧ (Goes (.vput mt xs xi k sw) (elemUse xs xi false elemWidthOk mt) s → row.toNat < 16 → k.toNat < 512 / w →
      ∃ t, exec (.vput mt xs xi k sw) s = .next t ∧ onlyTiles s t ∧ sameFlags s t
        ∧ (∀ m r c, m < 4 → r < 16 → c < 512 / w → elemOf t.t m r c w =
            if m = mt.toNat ∧ r = row.toNat ∧ c = k.toNat then (plainRead s.t xs).toNat % 2 ^ w else elemOf s.t m r c w))
    ∧ (Goes (.vbcast mt xs xi sw) (elemUse xs xi false elemWidthOk mt) s → row.toNat < 16 →
      ∃ t, exec (.vbcast mt xs xi sw) s = .next t ∧ onlyTiles s t ∧ sameFlags s t
        ∧ (∀ m r c, m < 4 → r < 16 → c < 512 / w → elemOf t.t m r c w =
            if m = mt.toNat ∧ r = row.toNat then (plainRead s.t xs).toNat % 2 ^ w else elemOf s.t m r c w))
    ∧ (Goes (.vreds mt xs xi sw) (elemUse xs xi true redsFmtOk mt) s → row.toNat < 16 →
      let p := s.t.fmt
      let fa := vfmt p.fa
      let sum := rowSum fa (vfmt p.fd) (rmodeOfCode p.rm) p.sat ((List.range (512 / fa.width)).map (fun c => elemOf s.t mt.toNat row.toNat c fa.width))
      ∃ t, exec (.vreds mt xs xi sw) s = .next t ∧ (xs ≠ 0 → plainRead t.t xs = BitVec.ofNat 64 sum.1)
        ∧ t.t.fflags = s.t.fflags ||| sum.2.zeroExtend 64 ∧ sameCodesBut s t xs ∧ sameSpecial s t ∧ sameTiles s t ∧ sameBytes s t ∧ sameDevice s t)
    ∧ (Goes (.vredm mt xs xi sw) (elemUse xs xi true (fun p => vfmtOk p.fa) mt) s → row.toNat < 16 →
      let fa := vfmt s.t.fmt.fa
      ∃ t, exec (.vredm mt xs xi sw) s = .next t
        ∧ (xs ≠ 0 → plainRead t.t xs =
            BitVec.ofNat 64 (rowMax fa ((List.range (512 / fa.width)).map (fun c => elemOf s.t mt.toNat row.toNat c fa.width))))
        ∧ onlyWrites s t xs))

namespace Sys2Proof.Machine

/-- The access of a slice can be performed in its step (R133, R104, R165); q is its qualifier. -/
structure TileReaches (s : State) (k : Access) (a : Word) (len : Nat) (q : BitVec 2) (pa : Nat) : Prop where
  path : tokOf a ≠ some .regs
  located : ∃ s2 fl, locate s s.asker k a len 64 none q = .ok (s2, .mem pa fl)
  unwatched : dataMatch s.slot [(a, decide (k = .store))] = none
  room : outstandingCore s s.core + (splitParts 64 pa 0 len).length ≤ 64
  unowned : owned s pa len = false
  alone : s.held = []
  answered : s.replies = []
  no_records : s.inflight = []
  unarmed : k = .store → inArmed s pa len = false

end Sys2Proof.Machine

/-- R392, R95, R138, R143: TLD gives a slice the bytes at its address and changes no byte of memory; TST writes the bytes of a slice there and
no others; an index out of range takes SLICE. A qualified access leaves its granules empty or full. -/
def Obligations.TileLoadsAndStores : Prop :=
  ∀ (mt : BitVec 2) (o : Bool) (ra xi : Reg) (k : BitVec 5) (q : BitVec 2) (sw : Bool) (s : State),
    let w := (vfmt s.t.fmt.fd).width
    let i := plainRead s.t xi + k.zeroExtend 64
    let n := if o then 16 else 512 / w
    let len := if o then 2 * w else 64
    (Goes (.tld mt o ra xi k q sw) (tileUse mt ra xi) s →
      ((if o then 512 / w else 16) ≤ i.toNat → exec (.tld mt o ra xi k q sw) s = trapped s .slice i)
      ∧ (∀ pa, i.toNat < (if o then 512 / w else 16) → TileReaches s .load (plainRead s.t ra) len q pa → (q ≠ 0 → allFull s pa len) →
        ∃ t, exec (.tld mt o ra xi k q sw) s = .next t ∧ t.t.pc = s.t.pc + 4
          ∧ sliceNat t.t mt.toNat o i.toNat w = readNat s pa len % 2 ^ (w * n)
          ∧ (∀ m r c, m < 4 → r < 16 → c < 512 / w → placeInSlice ⟨mt, o⟩ i.toNat m r c = none → elemOf t.t m r c w = elemOf s.t m r c w)
          ∧ (q = 2 → allEmpty t pa len) ∧ (q ≠ 2 → t.empty = s.empty)
          ∧ sameCodes s t ∧ sameSpecial s t ∧ sameFlags s t ∧ sameMask s t ∧ sameFrames s t ∧ sameBytes s t))
    ∧ (Goes (.tst mt o ra xi k q sw) (tileUse mt ra xi) s →
      ((if o then 512 / w else 16) ≤ i.toNat → exec (.tst mt o ra xi k q sw) s = trapped s .slice i)
      ∧ (∀ pa, i.toNat < (if o then 512 / w else 16) → TileReaches s .store (plainRead s.t ra) len q pa → (q = 2 → allEmpty s pa len) →
        (q ≠ 0 → hasGranules pa = true) →
        ∃ t, exec (.tst mt o ra xi k q sw) s = .next t ∧ t.t.pc = s.t.pc + 4
          ∧ readNat t pa len = sliceNat s.t mt.toNat o i.toNat w ∧ sameOutside s t pa len
          ∧ (q ≠ 0 → allFull t pa len) ∧ (q = 0 → t.empty = s.empty)
          ∧ sameCodes s t ∧ sameSpecial s t ∧ sameTiles s t ∧ sameFlags s t ∧ sameMask s t ∧ sameFrames s t))

/-! ## Residual objects -/

namespace Sys2Proof.Machine

/-- What RSPOST names (R373, R375). -/
def postUse (rd ra rb : Reg) : Use := { a := some ra, b := some rb, d := [rd], pfx := true, fmtOk := fun p => residFmtOk p.fa }

/-- The block of six words that describes a population is whole, its population not yet started (R236, R237). -/
def freshBlock (s : State) (blk want : Nat) : Prop :=
  popPhase s blk = 0 ∧ blockOk s blk = true ∧ popN s blk ≤ want ∧ want < 33554432 ∧ (s.dieAt (dieOfHome blk)).pops.length < 16

end Sys2Proof.Machine

/-- R227, R229 to R231, R373 to R375: the residual instructions on an object of this device. RSNEW arms or frees the segments that its
header names and raises the counter; RSPOST gives the status of its post; RSREAD and RSTRY give the arrived mask and a status, and store
the elements at status 0; with nothing to give, RSREAD parks and RSTRY gives status 3; RSSTAT and RSSEAL give the segment's word. -/
def Obligations.ResidualInstructions : Prop :=
  (∀ (ra rb : Reg) (sw : Bool) (pa fl c fl2 : Nat) (ps : List (Nat × Nat)) (s s1 s2 s3 : State), Calm s → s.t.active = true →
    (∀ r ∈ [ra, rb], plainCode s.t r = true) → released s = true →
    let a := plainRead s.t ra
    let h := readWords s pa 4
    placeOf .residRead (a &&& ~~~1) a 32 1024 (advanced s s) = .ok (s1, .mem pa fl) →
    placeOf .counterAdd (plainRead s.t rb) (plainRead s.t rb) 8 8 s1 = .ok (s2, .mem c fl2) →
    dataMatch s.slot [(a, true), (plainRead s.t rb, true)] = none → inArmed s c 8 = false → requestBlocked s c 8 = false →
    requestBlocked s pa 32 = false → rsnewAt s.asker (a &&& ~~~1) h s2 = .ok (s3, ps) →
    (∀ q ∈ ps, blockedHere s q.1 1024 = false ∧ (c + 8 ≤ q.1 ∨ q.1 + 1024 ≤ c)) →
    ∃ t, exec (.rsnew ra rb sw) s = .next t ∧ t.t.pc = s.t.pc + 4
      ∧ readWord t c = readWord s c + (if headerOk h then 1 else 0x100000000)
      ∧ (∀ q ∈ ps, segArmed t q.1 = !a.getLsbD 0) ∧ sameCodes s t ∧ sameSpecial s t)
  ∧ (∀ (rd ra rb : Reg) (sw : Bool) (seg fl blk : Nat) (s s1 s2 : State), Goes (.rspost rd ra rb sw) (postUse rd ra rb) s →
    let a := plainRead s.t ra
    let f := residFmt s.t.fmt.fa
    placeOf .residWrite (a &&& ~~~0x3F) a 1024 1024 (advanced s s) = .ok (s1, .mem seg fl) →
    blockPlace (plainRead s.t rb) (8 * f.width) s1 = .ok (s2, blk) →
    dataMatch s.slot [(a, true), (plainRead s.t rb, false)] = none →
    requestBlocked s blk (8 * f.width) = false → requestBlocked s seg 1024 = false →
    let r := postAt s2 seg (bitsOf a 0 6) f (unpackElems f.width 64 (readNat s blk (8 * f.width)))
    ∃ t, exec (.rspost rd ra rb sw) s = .next t ∧ t.t.pc = s.t.pc + 4 ∧ (rd ≠ 0 → plainRead t.t rd = BitVec.ofNat 64 r.2)
      ∧ sameCodesBut s t rd ∧ sameSpecial s t ∧ sameBytes r.1 t)
  ∧ (∀ (rd ra rb : Reg) (sw parks : Bool) (seg fl blk : Nat) (s s1 s2 : State),
    let i := if parks then Instr.rsread rd ra rb sw else Instr.rstry rd ra rb sw
    let f := residFmt s.t.fmt.fd
    Goes i (readUse rd ra rb) s →
    placeOf .residRead (plainRead s.t ra) (plainRead s.t ra) 1024 1024 (advanced s s) = .ok (s1, .mem seg fl) →
    blockPlace (plainRead s.t rb) (8 * f.width) s1 = .ok (s2, blk) →
    dataMatch s.slot [(plainRead s.t ra, false), (plainRead s.t rb, true)] = none →
    requestBlocked s seg 1024 = false → requestBlocked s blk (8 * f.width) = false →
    let word (st : Nat) : Word := BitVec.ofNat 64 (readNat s (seg + 768) 8 % 281474976710656 + st * 281474976710656)
    (readStatus s2 seg (plainRead s.t rd) = some 0 →
      ∃ t, exec i s = .next t ∧ t.t.pc = s.t.pc + 4 ∧ (rd ≠ 0 → plainRead t.t rd = word 0) ∧ sameCodesBut s t rd
        ∧ readNat t blk (8 * f.width) = packElems f.width ((segElems s2 seg f).map Prod.fst) % 256 ^ (8 * f.width) ∧ sameOutside s t blk (8 * f.width)
        ∧ t.t.fflags = s.t.fflags ||| (flagsOf ((segElems s2 seg f).map Prod.snd)).zeroExtend 64)
    ∧ (∀ st, readStatus s2 seg (plainRead s.t rd) = some st → st ≠ 0 →
      ∃ t, exec i s = .next t ∧ t.t.pc = s.t.pc + 4 ∧ (rd ≠ 0 → plainRead t.t rd = word st) ∧ sameCodesBut s t rd ∧ sameFlags s t ∧ sameBytes s t)
    ∧ (readStatus s2 seg (plainRead s.t rd) = none →
      (parks = true → ∃ t, exec i s = .next t ∧ t.t.pc = s.t.pc ∧ t.t.status = s.t.status
        ∧ t.t.wait = some (.segment seg rd (plainRead s.t rb) (plainRead s.t rd) s.t.fmt.fd) ∧ sameCodes s t ∧ sameBytes s t)
      ∧ (parks = false → ∃ t, exec i s = .next t ∧ t.t.pc = s.t.pc + 4 ∧ (rd ≠ 0 → plainRead t.t rd = word 3) ∧ sameCodesBut s t rd ∧ sameBytes s t)))
  ∧ (∀ (rd ra : Reg) (sw : Bool) (seg fl : Nat) (s s1 : State), Calm s → s.t.active = true → (∀ r ∈ [ra, rd], plainCode s.t r = true) →
    requestBlocked s seg 1024 = false →
    (placeOf .residRead (plainRead s.t ra) (plainRead s.t ra) 1024 1024 (advanced s s) = .ok (s1, .mem seg fl) →
      dataMatch s.slot [(plainRead s.t ra, false)] = none →
      ∃ t, exec (.rsstat rd ra sw) s = .next t ∧ t.t.pc = s.t.pc + 4 ∧ (rd ≠ 0 → plainRead t.t rd = segStat s1 seg) ∧ sameCodesBut s t rd
        ∧ sameSpecial s t ∧ sameBytes s t)
    ∧ (placeOf .residWrite (plainRead s.t ra) (plainRead s.t ra) 1024 1024 (advanced s s) = .ok (s1, .mem seg fl) →
      dataMatch s.slot [(plainRead s.t ra, true)] = none → segArmed s seg = true →
      ∃ t, exec (.rsseal rd ra sw) s = .next t ∧ t.t.pc = s.t.pc + 4 ∧ (rd ≠ 0 → plainRead t.t rd = segStat (sealAt s1 seg) seg)
        ∧ readNat t (seg + 800) 8 % 2 = 1 ∧ sameOutside s t (seg + 800) 8 ∧ sameCodesBut s t rd ∧ sameSpecial s t))
  ∧ (∀ (slot seg block fd : Nat) (rd : Reg) (need : Word) (s : State), (s.slotAt slot).t.wait = some (.segment seg rd (BitVec.ofNat 64 block) need fd) →
    segClosed s seg = true →
    ∃ t, exec (.residualDeadline slot) s = .next t ∧ (t.slotAt slot).t.met = true ∧ (t.slotAt slot).t.pc = (s.slotAt slot).t.pc ∧ sameBytes s t)

/-- R229: a post to an armed, open segment by a contributor that has not posted sets its arrived bit, adds each finite term to its rod, and
poisons the element of a term that is not finite; late, repeated and foreign posts change no rod.
The sum does not depend on the order of the posts: two posts of different contributors leave the same memory in either order. -/
def Obligations.PostsAddEveryTermInAnyOrder : Prop :=
  (∀ (s : State) (seg c : Nat) (f : Fmt) (terms : List Nat),
    let t := (postAt s seg c f terms).1
    let st := (postAt s seg c f terms).2
    let shut := readNat s (seg + 800) 8 % 2 = 1 ∨ (readNat s (seg + 792) 8 ≠ 0 ∧ readNat s (seg + 792) 8 ≤ s.tstamp.toNat)
    ((segArmed s seg = false ∨ 48 ≤ c) → st = 3 ∧ sameBytes s t)
    ∧ (segArmed s seg = true → c < 48 → shut → st = 2 ∧ readWord t (seg + 824) = readWord s (seg + 824) + 1 ∧ sameOutside s t (seg + 824) 8)
    ∧ (segArmed s seg = true → c < 48 → ¬ shut → (readWord s (seg + 768)).getLsbD c = true →
        st = 1 ∧ readWord t (seg + 816) = readWord s (seg + 816) + 1 ∧ sameOutside s t (seg + 816) 8)
    ∧ (segArmed s seg = true → c < 48 → ¬ shut → (readWord s (seg + 768)).getLsbD c = false → terms.length = 64 → segValid s seg ≤ 64 →
        (st = 0 ∨ st = 4) ∧ readWord t (seg + 768) = readWord s (seg + 768) ||| (1 <<< c) ∧ sameOutside s t seg 792
        ∧ (∀ e, e < segValid s seg →
            match f.value (terms.getD e 0) with
            | .fin n m x => rodAt t seg e = (BitVec.ofInt 96 (rodAt s seg e + (termRod (.fin n m x) (segElsb s seg)).1)).toInt
            | _ => rodAt t seg e = rodAt s seg e ∧ (readWord t (seg + 776)).getLsbD e = true)
        ∧ (∀ e, segValid s seg ≤ e → e < 64 → rodAt t seg e = rodAt s seg e)))
  ∧ (∀ (s : State) (seg c d : Nat) (f g : Fmt) (xs ys : List Nat), Memory.wf s.mem = true → c ≠ d → xs.length ≤ 64 → ys.length ≤ 64 →
    (postAt (postAt s seg c f xs).1 seg d g ys).1.mem = (postAt (postAt s seg d g ys).1 seg c f xs).1.mem
    ∧ (postAt (postAt s seg c f xs).1 seg d g ys).2 = (postAt s seg d g ys).2)

/-! ## Populations -/

/-- R236 to R239, R365, R366: the population instructions on a block that they find (popPlace). A block without an entry at its lead drover is
one that POPJOIN refuses (log 36), and POPNEW refuses words whose M or generation has bits outside its field (log 22). -/
def Obligations.PopulationInstructions : Prop :=
  (∀ (rd ra rb : Reg) (sw : Bool) (blk : Nat) (s s1 : State), Calm s → s.t.active = true → (∀ r ∈ [ra, rb, rd], plainCode s.t r = true) →
    popPlace .popWrite (plainRead s.t ra) (advanced s s) = .ok (s1, blk) →
    let want := (plainRead s.t rb).toNat
    let idle := (domainSlots (popDomain s blk) s.core).filter (fun n => popIdle s1 n s.asker.ctx)
    (¬ freshBlock s1 blk want ∨ idle.length < want →
      ∃ t, exec (.popnew rd ra rb sw) s = .next t ∧ t.t.pc = s.t.pc + 4 ∧ (rd ≠ 0 → plainRead t.t rd = 0) ∧ sameCodesBut s t rd ∧ sameBytes s t)
    ∧ (freshBlock s1 blk want → want ≤ idle.length →
      ∃ t, exec (.popnew rd ra rb sw) s = .next t ∧ t.t.pc = s.t.pc + 4 ∧ (rd ≠ 0 → plainRead t.t rd = 1) ∧ sameCodesBut s t rd
        ∧ popPhase t blk = 1 ∧ popM t blk = 0 ∧ popGen t blk = 0 ∧ popN t blk = popN s blk
        ∧ (∀ n ∈ idle.take want, (t.slotAt n).reserve = some (.pop blk))))
  ∧ (∀ (rd ra : Reg) (sw : Bool) (blk : Nat) (s s1 : State), Calm s → s.t.active = true → (∀ r ∈ [ra, rd], plainCode s.t r = true) →
    popPlace .popWrite (plainRead s.t ra) (advanced s s) = .ok (s1, blk) →
    (s.t.popOf = none → s.t.nested = false → popPhase s blk = 1 → popM s blk < 16777216 → (popEntry s blk).isSome = true →
      ∃ t, exec (.popjoin rd ra sw) s = .next t ∧ t.t.pc = s.t.pc + 4 ∧ (rd ≠ 0 → plainRead t.t rd = BitVec.ofNat 64 (popM s blk))
        ∧ t.t.popOf = some (blk, popM s blk) ∧ popM t blk = popM s blk + 1 ∧ sameCodesBut s t rd ∧ sameOutside s t (blk + 8) 8)
    ∧ (s.t.popOf = none → s.t.nested = false → popPhase s blk = 2 → popM s blk < 16777216 → (popEntry s blk).isSome = true →
      ∃ t, exec (.popjoin rd ra sw) s = .next t ∧ t.t.pc = s.t.pc ∧ t.t.wait = some (.popjoin blk) ∧ sameCodes s t ∧ sameBytes s t)
    ∧ (s.t.popOf.isSome = true ∨ s.t.nested = true ∨ popPhase s blk = 0 ∨ popM s blk = 16777216 ∨ popEntry s blk = none →
        exec (.popjoin rd ra sw) s = trapped s .popmem 0)
    ∧ (isMember s.t blk = false → exec (.popleave ra sw) s = trapped s .popmem 0)
    ∧ (isMember s.t blk = true →
      ∃ t, exec (.popleave ra sw) s = .next t ∧ t.t.pc = s.t.pc + 4 ∧ t.t.popOf = none ∧ t.t.lineage = 0 ∧ sameCodes s t
        ∧ sameOutside s t (blk + 48) 208))
  ∧ (∀ (rd ra rb : Reg) (sw : Bool) (blk i : Nat) (s s1 : State), Calm s → s.t.active = true → (∀ r ∈ [ra, rb, rd], plainCode s.t r = true) →
    popPlace .popWrite (plainRead s.t ra) (advanced s s) = .ok (s1, blk) → s.t.popOf = some (blk, i) → s.t.nested = false →
    released s = true → readsPending s = false →
    ∃ t, exec (.resample rd ra rb sw) s = .next t ∧ t.t.pc = s.t.pc ∧ t.t.wait = some (.resample blk (plainRead s.t rb).toNat rd (dstOf s.t rd))
      ∧ sameCodes s t ∧ sameBytes s t)

/-- R240: POPINFO sets rd := generation << 32 | M. It changes nothing else; a slot that is not a member of the block takes POPMEM. -/
def Obligations.PopinfoGivesGenerationAndM : Prop :=
  ∀ (rd ra : Reg) (sw : Bool) (blk : Nat) (s s1 : State), Calm s → s.t.active = true → (∀ r ∈ [ra, rd], plainCode s.t r = true) →
    popPlace .popRead (plainRead s.t ra) (advanced s s) = .ok (s1, blk) →
    (isMember s.t blk = true →
      ∃ t, exec (.popinfo rd ra sw) s = .next t ∧ t.t.pc = s.t.pc + 4
        ∧ (rd ≠ 0 → plainRead t.t rd = BitVec.ofNat 64 (popGen s blk * 4294967296 + popM s blk)) ∧ sameCodesBut s t rd ∧ sameSpecial s t
        ∧ sameTiles s t ∧ sameFlags s t ∧ sameBytes s t)
    ∧ (isMember s.t blk = false → exec (.popinfo rd ra sw) s = trapped s .popmem 0)

namespace Sys2Proof.Machine

/-- A slot that waits in a RESAMPLE of a block, with a destination that is no queue; it is in no strand, and its instruction is not marked. -/
def resampling (s : State) (blk n : Nat) (rd : Reg) : Prop :=
  let t := (s.slotAt n).t
  (∃ w, t.wait = some (.resample blk w rd (dstOf t rd))) ∧ rd.toNat < 56 ∧ t.leader = none ∧ t.followers = [] ∧ t.waitWord.getLsbD 0 = false
    ∧ (s.slotAt n).phase = .running

/-- A member of the new generation: rd is its copy number, and LINEAGE names the generation, its parent and itself (R242, R243). -/
def reborn (t : State) (blk gen n parent own copy : Nat) (rd : Reg) : Prop :=
  let x := t.slotAt n
  x.t.wait = none ∧ x.t.popOf = some (blk, own) ∧ x.t.lineage = lineageOf (gen + 1) parent own ∧ (rd ≠ 0 → plainRead x.t rd = BitVec.ofNat 64 copy)

/-- The copies that a resample makes of the members that have arrived. -/
def copiesNow (s : State) (p : Population) : List (Nat × Nat × Nat × Nat) :=
  let ms := uniform (arrivals s p)
  copiesFrom (popN s p.block) (resampleU (popSeed s p.block) (popGen s p.block)) (ms.map (fun m => m.2.2)).sum 0 ms

/-- The counter that the run of a slot names for its end (R116). -/
def endCounter (s : State) (n : Nat) : Option Word :=
  let run := (s.slotAt n).t.runs.headD { record := [], given := false, ibRead := 0 }
  if run.given then counterAddr s.devid run.record else none

end Sys2Proof.Machine

/-- R241 to R243: the copies of a resample are N in all, whatever the weights. A resample that gives every member one copy opens the
block again with the next generation. A member with no copy ends as by RETIRE, its counter advanced; a survivor has copy number 0, a clone its
own, and LINEAGE with its new index and its parent's old one. A clone starts on a slot of its own with its parent's state. -/
def Obligations.ResampleMakesNCopies : Prop :=
  (∀ (n u w : Nat) (ms : List (Nat × Nat × Nat)), u < 18446744073709551616 → (ms.map (fun m => m.2.2)).sum = w → 0 < w →
    ((copiesFrom n u w 0 ms).map (fun c => c.2.2.2)).sum = n)
  ∧ (∀ (die idx : Nat) (p : Population) (s : State), (s.dieAt die).pops[idx]? = some p → allArrived p = true → popEntry s p.block = some p →
    (∀ c ∈ copiesFrom (popN s p.block) (resampleU (popSeed s p.block) (popGen s p.block)) ((uniform (arrivals s p)).map (fun m => m.2.2)).sum 0
        (uniform (arrivals s p)), c.2.2.2 = 1) →
    ∃ t, exec (.resamplePhase2 die idx) s = .next t ∧ popPhase t p.block = 1 ∧ popGen t p.block = (popGen s p.block + 1) % 4294967296
      ∧ readNat t (p.block + 8) 8 = popN s p.block)
  ∧ (∀ (die idx : Nat) (p : Population) (rd : Nat → Reg) (s : State), (s.dieAt die).pops[idx]? = some p → allArrived p = true →
    popEntry s p.block = some p → ((copiesNow s p).map (fun c => c.2.1)).Nodup → (∀ c ∈ copiesNow s p, c.2.2.2 ≤ 1) →
    (∀ c ∈ copiesNow s p, resampling s p.block c.2.1 (rd c.2.1)) → (∀ c ∈ copiesNow s p, c.2.2.2 = 0 → endCounter s c.2.1 = none) →
    ∃ t, exec (.resamplePhase2 die idx) s = .next t
      ∧ (∀ c ∈ copiesNow s p, c.2.2.2 = 0 → (t.slotAt c.2.1).phase = .idle)
      ∧ (∀ c ∈ copiesNow s p, c.2.2.2 = 1 → reborn t p.block (popGen s p.block) c.2.1 c.1 c.2.2.1 0 (rd c.2.1)))
  ∧ (∀ (n pa fl : Nat) (c : Word) (s s1 : State), endCounter s n = some c → locate (s.makeHot n) (s.makeHot n).asker .counterAdd c 8 8 none 0 = .ok (s1, .mem pa fl) →
    inArmed s1 pa 8 = false → owned s1 pa 8 = false → s.held = [] → s.replies = [] → s.inflight = [] →
    readWord (endMember s n) pa = readWord s pa + 1 ∧ ((endMember s n).slotAt n).phase = .idle)
  ∧ (∀ (die idx n : Nat) (p : Population) (c : Nat × Nat × Nat × Nat) (rd : Nat → Reg) (s : State),
    (s.dieAt die).pops[idx]? = some p → p.clones = [c] → popEntry s p.block = some p → cloneReady s p = some n →
    resampling s p.block c.1 (rd n) → (∀ m ∈ p.coming, resampling s p.block m.1 (rd m.1)) → (n :: p.coming.map (fun m => m.1)).Nodup →
    (let size := popStateSize s p.block
     let dst := tcmAddr (coreOf n) (popStateBase s p.block + n % 4 * size)
     dst + size ≤ p.block ∨ p.block + 256 ≤ dst) →
    ∃ t, exec (.clonePlacement die idx) s = .next t
      ∧ reborn t p.block (popGen s p.block) n c.2.1 c.2.2.2 c.2.2.1 (rd n)
      ∧ (∀ m ∈ p.coming, reborn t p.block (popGen s p.block) m.1 m.2.1 m.2.2.1 m.2.2.2 (rd m.1)))
  ∧ (∀ (die idx n : Nat) (p : Population) (c : Nat × Nat × Nat × Nat) (rest : List (Nat × Nat × Nat × Nat)) (s : State),
    (s.dieAt die).pops[idx]? = some p → p.clones = c :: rest → rest ≠ [] → popEntry s p.block = some p → cloneReady s p = some n →
    ∃ t, exec (.clonePlacement die idx) s = .next t ∧ (t.slotAt n).phase = .running ∧ (t.slotAt n).t.pc = (s.slotAt c.1).t.pc
      ∧ (t.slotAt n).t.globals = (s.slotAt c.1).t.globals ∧ (t.slotAt n).t.tiles = (s.slotAt c.1).t.tiles
      ∧ readBytes t (tcmAddr (coreOf n) (popStateBase s p.block + n % 4 * popStateSize s p.block)) (popStateSize s p.block)
          = readBytes s (tcmAddr (coreOf c.1) (popStateBase s p.block + c.1 % 4 * popStateSize s p.block)) (popStateSize s p.block))

/-! ## The loom -/

namespace Sys2Proof.Machine

/-- The four instructions that queue a loom command, and what each names. -/
def loomInstr (op : LoomOp) (ra rb : Reg) (acc : BitVec 2) (nf sw : Bool) : Instr :=
  match op with
  | .mmul => .mmul ra rb acc nf sw
  | .mrot => .mrot ra rb acc nf sw
  | .mdrain => .mdrain ra acc nf sw
  | .mzero => .mzero acc nf sw

def loomNames (op : LoomOp) (ra rb : Reg) : Use :=
  match op with
  | .mmul | .mrot => matUse ra rb
  | .mdrain => { a := some ra }
  | .mzero => {}

/-- The command that the slot in force queues: its registers are those of issue (R75). -/
def loomCmdOf (s : State) (op : LoomOp) (acc : BitVec 2) (v : Vals) : LoomCmd :=
  { cid := s.nextCid, who := issuerOf (loomPort s.cluster) s, prio := s.t.prio.toNat, op := op, acc := acc.toNat, ra := v.a, rb := v.b, fmt := s.t.fmt,
    regs := snapshotRegs s 1, serial := s.t.serialLoom + 1, done := 0, flags := 0, parked := false }

/-- An instruction that queues a command is over, or waits until other devices have recorded what the command owns (R165). -/
def queuedAt (s t : State) : Prop :=
  if claimsDue t s.nextCid = true then t.t.pc = s.t.pc ∧ t.t.wait = some .answer else t.t.pc = s.t.pc + 4

/-- The head of a cluster's loom, a command of an op on a valid accumulator that has no bit in error. -/
structure AtHead (s : State) (c : Nat) (op : LoomOp) (q : LoomCmd) : Prop where
  head : loomHead s c = some q
  kind : q.op = op
  valid : op ≠ .mzero → (accOf (s.clusterAt c) q.acc).valid = true
  plain : s.flaws.contains (.acc c q.acc) = false

/-- A command has left a cluster's queue as completed (R188). -/
def loomDone (t : State) (c : Nat) (q : LoomCmd) : Prop :=
  (∀ x ∈ (t.clusterAt c).loomq, x.cid ≠ q.cid) ∧ (loomUser (t.clusterAt c) q.who.slot).lastDone = q.serial

/-- A command has failed: its accumulator is not valid, and its slot's queue is halted (R199). -/
def loomFailed (t : State) (c : Nat) (q : LoomCmd) : Prop :=
  (∀ x ∈ (t.clusterAt c).loomq, x.cid ≠ q.cid) ∧ (accOf (t.clusterAt c) q.acc).valid = false
    ∧ (loomUser (t.clusterAt c) q.who.slot).halted = true

/-- The checks of a command's registers and paths pass at its first step, or have been made before (R198). -/
def checksPass (q : LoomCmd) (check : Option (Nat × Word)) : Prop := q.done = 0 → check = none

/-- The accumulator that a command names has no uncorrectable error (R290). -/
def soundAcc (s : State) (c : Nat) (q : LoomCmd) : Prop := (accOf (s.clusterAt c) q.acc).spoiled = false

/-- The accumulator's elements once a chunk of these operands has been applied to it (R193, R194). -/
def chunkApplied (s t : State) (c : Nat) (q : LoomCmd) (sa sb : List Byte) (av bv : List (List Nat)) : Prop :=
  ∀ i j, i < rowsOf q.regs → j < colsOf q.regs →
    let old := ((accOf (s.clusterAt c) q.acc).elems.get 0 (32 * i + j)).toNat
    let new := ((accOf (t.clusterAt c) q.acc).elems.get 0 (32 * i + j)).toNat
    ((fmtA q).isFloat = false → new = intElem q old (av.getD i []) (bv.getD j []) % 2 ^ 32)
    ∧ ((fmtA q).isFloat = true → av.length = rowsOf q.regs → bv.length = colsOf q.regs →
        new = (floatElem q old (scaledRow q (fmtA q) sa q.done i (av.getD i [])) (scaledRow q (fmtB q) sb q.done j (bv.getD j []))).1 % 2 ^ 32)

/-- Granule i of a chunk on its way to a cluster's scratchpad: its own offset there, bit 20 inverted (R195). -/
def granuleTo (q : LoomCmd) (target : Nat) (a : Word) (bs : List Byte) (i : Nat) : Delivery :=
  { cid := q.cid, ctx := q.who.ctx, addr := padAddr target (((bitsOf a 0 21 + 16 * i) % 2097152) ^^^ 1048576),
    bytes := BitVec.ofNat 128 (natOf ((bs.drop (16 * i)).take 16)) }

end Sys2Proof.Machine

/-- R181, R182, R185 to R188, R358 to R360: the loom instructions on an accumulator that is the slot's own or free. MMUL, MROT, MDRAIN
and MZERO queue a command with the task's next serial; an accumulator of another slot traps ACCOWN, one that is not valid ACCINV.
MLEASE claims the accumulators of its mask and parks until the lease is granted; a bad LEASELEN raises ENGERR. MREL gives up the lease
and the slot's accumulators. MSTAT pushes its word on the engine result queue. -/
def Obligations.LoomInstructions : Prop :=
  (∀ (op : LoomOp) (ra rb : Reg) (acc : BitVec 2) (nf sw : Bool) (s : State),
    let i := loomInstr op ra rb acc nf sw
    let u := loomNames op ra rb
    Goes i u s →
    (accForeign s acc.toNat = true → exec i s = trapped s .accown (BitVec.ofNat 64 acc.toNat))
    ∧ (accForeign s acc.toNat = false → op ≠ .mzero → (accOf (loomCluster s) acc.toNat).valid = false →
        exec i s = trapped s .accinv (BitVec.ofNat 64 acc.toNat))
    ∧ (accForeign s acc.toNat = false → (op = .mzero ∨ (accOf (loomCluster s) acc.toNat).valid = true) → (nf = true ∨ released s = true) →
        (loomCluster s).loomq.length < 32 →
        ∃ t, exec i s = .next t ∧ (op ≠ .mdrain → t.t.pc = s.t.pc + 4) ∧ (op = .mdrain → queuedAt s t) ∧ t.t.serialLoom = s.t.serialLoom + 1
          ∧ (loomCluster t).loomq = (loomCluster s).loomq ++ [loomCmdOf s op acc (plainVals s.t u)]
          ∧ (op = .mzero → (accOf (loomCluster t) acc.toNat).owner = some s.cur ∧ (accOf (loomCluster t) acc.toNat).valid = true)
          ∧ sameCodes s t ∧ sameSpecial s t ∧ sameTiles s t ∧ sameFlags s t ∧ sameBytes s t))
  ∧ (∀ (m : BitVec 4) (nf sw : Bool) (s : State), Goes (.mlease m nf sw) {} s → (nf = true ∨ released s = true) →
    (loomCluster s).loomq.length < 32 → (∀ i, i < 4 → m.getLsbD i = true → accForeign s i = false) →
    let len := leaseLen (snapshotRegs s 1)
    (1 ≤ len → len ≤ 64 →
      ∃ t, exec (.mlease m nf sw) s = .next t ∧ t.t.pc = s.t.pc ∧ t.t.wait = some .lease
        ∧ (s.cur, s.t.prio.toNat, len) ∈ (loomCluster t).asks
        ∧ (∀ i, i < 4 → m.getLsbD i = true → (accOf (loomCluster t) i).owner = some s.cur)
        ∧ sameCodes s t ∧ sameSpecial s t ∧ sameTiles s t ∧ sameFlags s t ∧ sameBytes s t)
    ∧ (len < 1 ∨ 64 < len → s.slot.phase = .running →
      ∃ t, exec (.mlease m nf sw) s = .next t ∧ t.t.pc = s.t.pc + 4 ∧ t.t.serialLoom = s.t.serialLoom + 1
        ∧ t.t.ipend = s.t.ipend ||| 4 ∧ sameCodes s t ∧ sameTiles s t ∧ sameFlags s t))
  ∧ (∀ (nf sw : Bool) (s : State), Goes (.mrel nf sw) {} s → (nf = true ∨ released s = true) → (loomCluster s).loomq.length < 32 →
    ∃ t, exec (.mrel nf sw) s = .next t ∧ t.t.pc = s.t.pc + 4 ∧ t.t.serialLoom = s.t.serialLoom + 1
      ∧ (∀ i, i < 4 → accMine s i = true →
          (accBusy (loomCluster s) i = true → (accOf (loomCluster t) i).freeing = true)
          ∧ (accBusy (loomCluster s) i = false → (accOf (loomCluster t) i).owner = none ∧ (accOf (loomCluster t) i).valid = false))
      ∧ (∀ l, (loomCluster t).lease = some l → l.slot ≠ s.cur)
      ∧ sameCodes s t ∧ sameSpecial s t ∧ sameTiles s t ∧ sameFlags s t ∧ sameBytes s t)
  ∧ (∀ (acc : BitVec 2) (clr nf sw : Bool) (s : State), Goes (.mstat acc clr nf sw) {} s →
    (accForeign s acc.toNat = true → exec (.mstat acc clr nf sw) s = trapped s .accown (BitVec.ofNat 64 acc.toNat))
    ∧ (accForeign s acc.toNat = false → s.t.eq.length < 16 →
      ∃ t, exec (.mstat acc clr nf sw) s = .next t ∧ t.t.pc = s.t.pc + 4 ∧ t.t.eq = s.t.eq ++ [mstatWord s acc.toNat]
        ∧ (clr = false → sameDevice s t)
        ∧ (clr = true → (loomUser (loomCluster t) s.cur).halted = false ∧ (let a := accOf (loomCluster t) acc.toNat; (a.nv || a.of || a.uf || a.nx) = false))
        ∧ sameCodes s t ∧ sameSpecial s t ∧ sameTiles s t ∧ sameFlags s t ∧ sameBytes s t))

/-- R182, R183, R193 to R200: the steps of a cluster's loom. A lease goes to the candidate of the lowest PRIO (the PRIO of its issue, log 101), then in
slot order after the last holder, and lapses when its holder queues nothing. MZERO clears the accumulator; MMUL and MROT apply one chunk a step
to the accumulator's elements, and MROT sends the chunk's granules on to both targets; MDRAIN stores one row a step, each with its checks first;
after the last one the command completes. A failing command, also one whose accumulator
has an uncorrectable error, halts its slot's queue. -/
def Obligations.LoomSteps : Prop :=
  (∀ (c : Nat) (g : Candidate) (s : State), (s.clusterAt c).lease = none → partDone s c = none →
    bestCandidate (s.clusterAt c).lastHolder (candidates s c) = some g →
    g ∈ candidates s c ∧ (∀ x ∈ candidates s c, before (s.clusterAt c).lastHolder x g = false)
    ∧ ∃ t, exec (.leaseGrant c) s = .next t ∧ (t.clusterAt c).lease = some { slot := g.slot, left := g.ask.getD 1, since := s.tstamp.toNat }
      ∧ (t.clusterAt c).lastHolder = g.slot ∧ sameBytes s t
      ∧ (g.ask.isSome = true → clusterOf g.slot = c → (s.slotAt g.slot).t.leader = none → (s.slotAt g.slot).t.waitWord.getLsbD 0 = false →
          (t.slotAt g.slot).t.wait = none ∧ (t.slotAt g.slot).t.pc = (s.slotAt g.slot).t.pc + 4
            ∧ (t.slotAt g.slot).t.serialLoom = (s.slotAt g.slot).t.serialLoom + 1))
  ∧ (∀ (c : Nat) (s : State), leaseLapses s c = true →
    ∃ t, exec (.leaseLapse c) s = .next t ∧ (t.clusterAt c).lease = none ∧ sameBytes s t)
  ∧ (∀ (c acc : Nat) (s : State), acc < 4 → (accOf (s.clusterAt c) acc).freeing = true → accBusy (s.clusterAt c) acc = false →
    ∃ t, exec (.accumulatorFree c acc) s = .next t ∧ (accOf (t.clusterAt c) acc).owner = none ∧ (accOf (t.clusterAt c) acc).valid = false
      ∧ (accOf (t.clusterAt c) acc).freeing = false ∧ sameBytes s t)
  ∧ (∀ (c : Nat) (q : LoomCmd) (s : State), AtHead s c .mzero q →
    ∃ t, exec (.mzeroExecute c) s = .next t ∧ loomDone t c q ∧ sameBytes s t
      ∧ (let a := accOf (t.clusterAt c) q.acc; a.elems = [] ∧ a.cls = .open ∧ (a.nv || a.of || a.uf || a.nx) = false ∧ a.spoiled = false))
  ∧ (∀ (c : Nat) (q : LoomCmd) (s : State), AtHead s c .mmul q →
    (¬ checksPass q (matCheck q) ∨ ¬ soundAcc s c q → ∃ t, exec (.mmulExecute c) s = .next t ∧ loomFailed t c q)
    ∧ (matCheck q = none → soundAcc s c q → kchOf q.regs ≤ q.done → reg q.regs 0x0C = 0 →
        ∃ t, exec (.mmulExecute c) s = .next t ∧ loomDone t c q ∧ sameBytes s t)
    ∧ (∀ s1 s2 s3 sa sb av bv, matCheck q = none → soundAcc s c q → q.done < kchOf q.regs →
        readScales q (askAhead c q s) = .ok (s1, (sa, sb)) →
        readOperand q (opA q q.done) q.done s1 = .ok (s2, av) → readOperand q (opB q q.done) q.done s2 = .ok (s3, bv) →
        ∃ t, exec (.mmulExecute c) s = .next t ∧ sameBytes s3 t ∧ chunkApplied s3 t c q sa sb av bv))
  ∧ (∀ (c : Nat) (q : LoomCmd) (s : State), AtHead s c .mrot q →
    (¬ checksPass q (matCheck q) ∨ ¬ soundAcc s c q → ∃ t, exec (.mrotChunk c) s = .next t ∧ loomFailed t c q)
    ∧ (matCheck q = none → soundAcc s c q → kchOf q.regs ≤ q.done → reg q.regs 0x0C = 0 → s.deliveries.any (fun d => d.cid = q.cid) = false →
        ∃ t, exec (.mrotChunk c) s = .next t ∧ loomDone t c q ∧ sameBytes s t)
    ∧ (∀ s1 s2 s3 sa sb ba bb, matCheck q = none → soundAcc s c q → q.done < kchOf q.regs → s.deliveries.any (fun d => d.cid = q.cid) = false →
        let x := opA q q.done
        let y := opB q q.done
        let a := x.chunkAt (chunkLen q) q.done
        let b := y.chunkAt (chunkLen q) q.done
        rotFault q = none → readScales q (rotAhead c q s) = .ok (s1, (sa, sb)) →
        rotGather q.cid x.tag q.who (rotPieces s1 a) s1 = .ok (s2, ()) → rotGather q.cid y.tag q.who (rotPieces s2 b) s2 = .ok (s3, ()) →
        rotBytes s3 q.cid x.tag a = some ba → rotBytes s3 q.cid y.tag b = some bb →
        ∃ t, exec (.mrotChunk c) s = .next t ∧ sameBytes s3 t
          ∧ chunkApplied s3 t c q sa sb (x.elems (chunkLen q) q.done ((planesOf (fmtA q).width ba).take (fmtA q).width))
              (y.elems (chunkLen q) q.done ((planesOf (fmtB q).width bb).take ((fmtB q).width - precCut q)))
          ∧ t.deliveries = s3.deliveries ++ (List.range 96).map (granuleTo q (rotTarget (reg q.regs 0x0A) (westCluster c)) a ba)
              ++ (List.range 96).map (granuleTo q (rotTarget (reg q.regs 0x0B) (northCluster c)) b bb)
          ∧ (q ∈ (s3.clusterAt c).loomq → ∃ x ∈ (t.clusterAt c).loomq, x.cid = q.cid ∧ x.done = q.done + 1)))
  ∧ (∀ (idx : Nat) (d : Delivery) (s : State), s.deliveries[idx]? = some d →
    (deliverable s d = true → kindOf d.addr = .pad → d.addr % 16 = 0 →
      ∃ t, exec (.mrotDelivery idx) s = .next t ∧ readNat t d.addr 16 = d.bytes.toNat ∧ isFull t d.addr = true ∧ sameOutside s t d.addr 16
        ∧ t.deliveries = s.deliveries.eraseIdx idx)
    ∧ (deliverable s d = false → exec (.mrotDelivery idx) s = .next s))
  ∧ (∀ (c : Nat) (q : LoomCmd) (s : State), AtHead s c .mdrain q →
    let a := accOf (s.clusterAt c) q.acc
    (¬ checksPass q (drainCheck a.cls q) ∨ ¬ soundAcc s c q → ∃ t, exec (.mdrainExecute c) s = .next t ∧ loomFailed t c q)
    ∧ (drainCheck a.cls q = none → soundAcc s c q → rowsOf q.regs ≤ q.done → reg q.regs 0x0C = 0 →
        ∃ t, exec (.mdrainExecute c) s = .next t ∧ loomDone t c q ∧ sameBytes s t)
    ∧ (∀ f pa fl, drainCheck a.cls q = none → soundAcc s c q → q.done < rowsOf q.regs → drainFmt a.cls q.regs = some f → f.width % 8 = 0 →
        let dst := drainRow q.ra q.regs q.done
        let n := colsOf q.regs * f.width / 8
        drainPath dst = true → engDst s q.who dst n = .ok (s, [(dst, n, .mem pa fl)]) → engBlocked s q.cid pa n = false →
        ∃ t, exec (.mdrainExecute c) s = .next t ∧ sameOutside s t pa n
          ∧ readNat t pa n = rowBytes f.width ((drainElems f a q.done (colsOf q.regs)).map Prod.fst)))

/-! ## The copy unit and the streams -/

namespace Sys2Proof.Machine

def copyInstr (op : CopyOp) (ra rb : Reg) (bar nf sw : Bool) : Instr :=
  match op with
  | .cpy => .cpy ra rb bar nf sw
  | .cpyr => .cpyr ra rb bar nf sw
  | .e2p => .cpytE2p ra rb bar nf sw
  | .p2e => .cpytP2e ra rb bar nf sw

/-- The command that the slot in force queues: its registers are those of issue (R75). -/
def copyCmdOf (s : State) (op : CopyOp) (bar : Bool) (v : Vals) : CopyCmd :=
  { cid := s.nextCid, who := issuerOf (copyPort s.cluster) s, op := op, bar := bar, ra := v.a, rb := v.b, regs := snapshotRegs s 0,
    serial := s.t.serialCopy + 1, done := 0, row := 0, off := 0, sent := false, signalled := false, begun := false, buf := none }

/-- A command has left a cluster's copy queue. -/
def copyGone (t : State) (c : Nat) (q : CopyCmd) : Prop := ∀ x ∈ (t.clusterAt c).copyq, x.cid ≠ q.cid

/-- A command of a cluster's copy unit that goes on with its next chunk: its checks pass, or have been made before it began. -/
structure Copies (s : State) (c idx : Nat) (q : CopyCmd) : Prop where
  runs : copyAt s c idx = some q
  checked : q.begun = false → copyCheck q = none
  more : q.finished = false
  back : q.sent = false

/-- The command once it has begun, and the state in which it has (R209). -/
def CopyCmd.started (q : CopyCmd) : CopyCmd := { q with begun := true }
def begunIn (s : State) (c : Nat) (q : CopyCmd) : State := putCopy s c q.started

/-- The chunk in hand writes these bytes: they have been read, or are read now (R203). -/
def sourceIs (q : CopyCmd) (bs : List Byte) (reads : Prop) : Prop := q.buf = some bs ∨ (q.buf = none ∧ reads)

/-- The state once the source of the chunk in hand has been read. -/
def sourced (s : State) (c : Nat) (q : CopyCmd) (bs : List Byte) : State :=
  if q.buf.isSome then begunIn s c q else putCopy (begunIn s c q) c { q.started with buf := some bs }

/-- The same device, but that replies and requests on their way may have lost their destination (R215). -/
def sameButReplies (s t : State) : Prop := sameDevice { s with remote := t.remote, replies := t.replies } t

/-- The chunk as CPYR's destination sees it: bytes reduced into memory, its key noted at the home (R205, R206). -/
def reducedInto (s t : State) (m : ChunkMsg) : Prop :=
  let out := reduceAll m.fmt (readBytes s m.lo m.bytes.length) m.bytes
  readBytes t m.lo out.length = out ∧ sameOutside s t m.lo out.length ∧ ((filterOf t m.home).head?).map FilterKey.key = some m.key

end Sys2Proof.Machine

/-- R202, R208, R209, R211 to R215, R333, R376, R377: CPY, CPYR and CPYT queue a command with the task's next serial. SCFG arms a stream
with its registers as they stand, from its first element on; SDONE ends it. An armed read stream reads its next element ahead. -/
def Obligations.CopyAndStreamInstructions : Prop :=
  (∀ (op : CopyOp) (ra rb : Reg) (bar nf sw : Bool) (s : State),
    let i := copyInstr op ra rb bar nf sw
    Goes i (copyUse ra rb) s → (nf = true ∨ released s = true) → (s.clusterAt s.cluster).copyq.length < 64 →
    ∃ t, exec i s = .next t ∧ queuedAt s t ∧ t.t.serialCopy = s.t.serialCopy + 1
      ∧ (t.clusterAt t.cluster).copyq = (s.clusterAt s.cluster).copyq ++ [copyCmdOf s op bar (plainVals s.t (copyUse ra rb))]
      ∧ sameCodes s t ∧ sameSpecial s t ∧ sameTiles s t ∧ sameFlags s t ∧ sameBytes s t)
  ∧ (∀ (st nf sw : Bool) (s : State), Goes (.scfg st nf sw) {} s → (nf = true ∨ released s = true) → (endStream st s).isSome = true →
    let cfg := streamRegs s.t st
    ∃ t, exec (.scfg st nf sw) s = .next t ∧ t.t.pc = s.t.pc + 4
      ∧ streamOf t.t (streamReg st) = { streamOf s.t (streamReg st) with armed := true, bad := streamBad cfg, write := (cfg.getD 8 0).getLsbD 0, cfg := cfg, next := 0, ahead := [] }
      ∧ sameButReplies s t ∧ ((∀ r ∈ s.remote, r.dst ≠ .ahead st) → (∀ r ∈ s.replies, r.dst ≠ .ahead st) → sameDevice s t)
      ∧ sameCodes s t ∧ sameSpecial s t ∧ sameTiles s t ∧ sameFlags s t)
  ∧ (∀ (st nf sw : Bool) (s : State), Goes (.sdone st nf sw) {} s → (endStream st s).isSome = true →
    ∃ t, exec (.sdone st nf sw) s = .next t ∧ t.t.pc = s.t.pc + 4 ∧ (streamOf t.t (streamReg st)).armed = false
      ∧ (streamOf t.t (streamReg st)).bad = false ∧ (streamOf t.t (streamReg st)).ahead = []
      ∧ sameButReplies s t ∧ ((∀ r ∈ s.remote, r.dst ≠ .ahead st) → (∀ r ∈ s.replies, r.dst ≠ .ahead st) → sameDevice s t)
      ∧ sameCodes s t ∧ sameSpecial s t ∧ sameTiles s t ∧ sameFlags s t)
  ∧ (∀ (n : Nat) (st : Bool) (a : Word) (pa fl : Nat) (s s1 : State),
    let h := s.makeHot n
    let x := streamOf h.t (streamReg st)
    let w := streamWidth x
    x.armed = true → x.write = false → x.bad = false → x.ahead.length < 16 → h.t.pend.contains (.ahead st) = false → h.t.handlers = 0 →
    streamAddr { x with next := x.next + x.ahead.length } = some a →
    locate h h.asker .load a w w none 0 = .ok (s1, .mem pa fl) → blockedHere s1 pa w = false → spoiledIn s1 pa w = false →
    ∃ t, exec (.streamReadahead n st) s = .next t ∧ sameBytes s t
      ∧ (streamOf (t.slotAt n).t (streamReg st)).ahead = x.ahead ++ [loadValue ((cfgAt x 1).getLsbD 4) w (readNat s pa w)]
      ∧ (streamOf (t.slotAt n).t (streamReg st)).next = x.next)

/-- R203 to R207, R210: the steps of a cluster's copy unit on memory of this device. A command whose checks fail leaves the queue. CPY
writes its next chunk with the bytes of its source; CPYR sends it to its home; CPYT writes the planes of the rows, or the rows of the
planes. The home reduces a chunk into its bytes once, however often it arrives, and keeps its key; a first sending is reduced even where its key stands in
the filter (log 40). The last step advances the counter. -/
def Obligations.CopySteps : Prop :=
  (∀ (c idx : Nat) (q : CopyCmd) (e : Nat × Word) (s : State), copyAt s c idx = some q → q.begun = false → copyCheck q = some e →
    ∃ t, exec (.copyChunk c idx) s = .next t ∧ copyGone t c q)
  ∧ (∀ (c idx pa fl : Nat) (q : CopyCmd) (bs : List Byte) (s : State), Copies s c idx q → q.op = .cpy →
    let x := nextChunk q
    let b := begunIn s c q
    engDst b q.who x.1 x.2.2 = .ok (b, [(x.1, x.2.2, .mem pa fl)]) → engBlocked b q.cid pa x.2.2 = false →
    sourceIs q bs (engRead b q.cid 0 q.who x.2.1 x.2.2 = .ok (b, bs)) → bs.length = x.2.2 →
    ∃ t, exec (.copyChunk c idx) s = .next t ∧ readBytes t pa x.2.2 = bs ∧ sameOutside s t pa x.2.2
      ∧ q.started.advance x.2.2 ∈ (t.clusterAt c).copyq)
  ∧ (∀ (c idx pa fl : Nat) (q : CopyCmd) (bs : List Byte) (s : State), Copies s c idx q → q.op = .cpyr →
    let x := nextChunk q
    let b := begunIn s c q
    engLocate b q.who .engineWrite x.1 1 = .ok (b, .mem pa fl) → inArmed b pa x.2.2 = false → spoiledIn b pa x.2.2 = false →
    sourceIs q bs (engRead b q.cid 0 q.who x.2.1 x.2.2 = .ok (b, bs)) →
    ∃ t, exec (.copyChunk c idx) s = .next t ∧ sameBytes s t
      ∧ t.chunks = s.chunks ++ [{ cid := q.cid, cluster := c, chunk := q.done, home := homeOf pa, lo := pa, fmt := rfmt q.regs, key := (s.devid.toNat, q.who.slot, q.serial.toNat, q.done), resent := false, bytes := bs, far := none, ctx := q.who.ctx }])
  ∧ (∀ (c idx : Nat) (q : CopyCmd) (ps : List (Word × Nat × Place)) (bss : List (List Byte)) (out : List Byte) (s s3 : State),
    Copies s c idx q → q.op.plane = true →
    let b := begunIn s c q
    let w := (planeFmt q.regs).width
    let rows (dst : Bool) := (List.range (planeVec q.regs)).map (fun r => (sideRow q dst r + BitVec.ofNat 64 (48 * q.done), 48))
    let e2p := decide (q.op = .e2p)
    let down := (sideStride q false).getLsbD 63
    engDsts q.who (if e2p then [(sideRow q true q.done, 1536)] else rows true) b = .ok (b, ps) → dstBlocked b q.cid ps = false →
    sourceIs q out
      (engReads q.cid 0 q.who (if e2p then (if down then (rows false).reverse else rows false) else [(sideRow q false q.done, 1536)]) b = .ok (b, bss)
        ∧ out = (if e2p then toPlanes w ((if down then bss.reverse else bss).map natOf)
            else ((List.range (planeVec q.regs)).map (fromPlanes w (planesOf w (bss.headD [])))).flatten)) →
    engPut q.cid 1 q.who ps out (sourced s c q out) = .ok (s3, ()) →
    ∃ t, exec (.copyChunk c idx) s = .next t ∧ sameBytes s3 t)
  ∧ (∀ (idx : Nat) (m : ChunkMsg) (s : State), s.chunks[idx]? = some m →
    let seen := m.resent && (filterOf s m.home).any (fun k => k.key = m.key)
    (seen = true → ∃ t, exec (.cpyrChunkApply idx) s = .next t ∧ t.chunks = s.chunks.eraseIdx idx ∧ sameBytes s t)
    ∧ (seen = false → chunkBlocked s m = false → filterRoom s m.home = true → inArmed s m.lo m.bytes.length = false → spoiledIn s m.lo m.bytes.length = false →
        ∃ t, exec (.cpyrChunkApply idx) s = .next t ∧ t.chunks = s.chunks.eraseIdx idx ∧ reducedInto s t m)
    ∧ (seen = false → chunkBlocked s m = true ∨ filterRoom s m.home = false →
        exec (.cpyrChunkApply idx) s = .next s))
  ∧ (∀ (home idx : Nat) (m : ChunkMsg) (s : State), (s.chunks.zipIdx).find? (fun p => p.1.home = home) = some (m, idx) →
    (filterOf s home).length = 256 → filterRoom s home = true → m.resent = false → chunkBlocked s m = false →
    inArmed s m.lo m.bytes.length = false → spoiledIn s m.lo m.bytes.length = false →
    ∃ t, exec (.keyFilterExpiry home) s = .next t ∧ reducedInto s t m ∧ (filterOf t home).length = 256)
  ∧ (∀ (c idx : Nat) (q : CopyCmd) (s : State), copyAt s c idx = some q → q.finished = true → q.sent = false → (q.begun = false → copyCheck q = none) →
    (q.bar = false → reg q.regs 5 = 0 → ∃ t, exec (.copySignal c idx) s = .next t ∧ copyGone t c q ∧ sameBytes s t)
    ∧ (∀ pa fl, q.bar = false → reg q.regs 5 ≠ 0 → engLocate s q.who .counterAdd (reg q.regs 5) 8 = .ok (s, .mem pa fl) → inArmed s pa 8 = false →
        engBlocked s q.cid pa 8 = false → spoiledIn s pa 8 = false →
        ∃ t, exec (.copySignal c idx) s = .next t ∧ copyGone t c q ∧ sameOutside s t pa 8
          ∧ readWord t pa = readWord s pa + (if reg q.regs 6 = 0 then 1 else reg q.regs 6))
    ∧ (∀ s1, q.bar = true → q.signalled = false → engBarrier s q.cid q.who (reg q.regs 7) (barBytes q) = .ok (s1, ()) → reg q.regs 5 = 0 →
        ∃ t, exec (.copySignal c idx) s = .next t ∧ copyGone t c q ∧ t.barriers = s1.barriers))

/-! ## The bit-axis engine -/

namespace Sys2Proof.Machine

def bxInstr (op : BxOp) (ra rb : Reg) (nf sw : Bool) : Instr :=
  match op with
  | .map => .bxmap nf sw
  | .apply => .bxapply ra rb nf sw
  | .swap => .bxswap ra rb nf sw
  | .resume => .bxresume ra nf sw

def bxNames (op : BxOp) (ra rb : Reg) : Use :=
  match op with
  | .map => {}
  | .apply | .swap => { a := some ra, b := some rb }
  | .resume => { a := some ra }

/-- The command that the slot in force queues: its registers are those of issue (R75). -/
def bxCmdOf (s : State) (op : BxOp) (raZ : Bool) (v : Vals) : BxCmd :=
  { cid := s.nextCid, who := issuerOf (bxPort s.die) s, op := op, ra := v.a, rb := v.b, raZ := raZ, regs := snapshotRegs s 2,
    serial := s.t.serialBx + 1, map := none, halted := false, committed := [], failed := [], matrix := [], pending := [] }

/-- The command stands halted in its queue (R220). -/
def bxStands (t : State) (die : Nat) (q : BxCmd) : Prop :=
  ∃ x ∈ (t.dieAt die).bxq, sameTask x q = true ∧ x.serial = q.serial ∧ x.halted = true

/-- The command has left its queue. -/
def bxGone (t : State) (die : Nat) (q : BxCmd) : Prop := ∀ x ∈ (t.dieAt die).bxq, ¬ (sameTask x q = true ∧ x.serial = q.serial)

/-- A command that takes its next step. -/
structure BxRuns (s : State) (die idx : Nat) (op : BxOp) (q : BxCmd) : Prop where
  here : bxAt s die idx = some q
  kind : q.op = op

/-- The elements of a group after M has been applied to them (R218). -/
def transformed (m : BxMap) (q : BxCmd) (xs : List (List Byte)) : List (List Byte) :=
  let pc := partCount m.efmt
  let n := xs.length
  (List.range n).map (fun r =>
    bytesOfParts m.efmt (rowProduct m.efmt ((List.range n).map (fun c => (q.matrix.drop ((r * n + c) * pc)).take pc)) (xs.map (partsOf m.efmt))))

/-- A participant's group is read and its results are vs, or they have been computed before (R218): the state in which they are written. -/
def groupReady (s : State) (die : Nat) (q : BxCmd) (p : Nat) (vs : List (List Byte)) (reads : Prop) (s0 : State) : Prop :=
  let ns := vs.map (fun v => v.map BitVec.toNat)
  (q.pending.get [] p = [] ∧ reads ∧ s0 = putBx (dropData s q.cid) die { q with pending := q.pending.set [] p ns })
    ∨ (q.pending.get [] p ≠ [] ∧ q.pending.get [] p = ns ∧ s0 = s)

/-- The command once a participant has committed one more unit of work. -/
def oneMore (q : BxCmd) (p : Nat) : BxCmd :=
  { q with committed := q.committed.set 0 p (q.committed.get 0 p + 1), pending := q.pending.set [] p [] }

/-- The index that a participant's next unit of work begins at. -/
def workIndex (m : BxMap) (q : BxCmd) (p : Part × Nat) : Nat := deposit ((groupBits m q p.1).getD []) (q.committed.get 0 p.2)

/-- The roles of two bits exchanged (R221). -/
def exchanged (m : BxMap) (j k : Nat) : BxMap :=
  { m with roles := (m.roles.set j (m.roles.getD k (0, 0))).set k (m.roles.getD j (0, 0)) }

end Sys2Proof.Machine

/-- R216 to R221, R325, R326: the bit-axis instructions queue a command with the task's next serial. BXMAP commits a legal map at its
participants and halts its queue on an illegal one (log 51). BXAPPLY and BXSWAP issue once the array is known that they own (log 43). BXAPPLY
replaces each group by M times the group; BXSWAP exchanges the pairs, and at its end the two roles, in the map and in the issuing slot's
registers. A participant that fails halts the command; BXRESUME with z drops the halted head, with its record restarts it. -/
def Obligations.BitAxisEngine : Prop :=
  (∀ (op : BxOp) (ra rb : Reg) (nf sw : Bool) (s : State),
    let i := bxInstr op ra rb nf sw
    Goes i (bxNames op ra rb) s → (nf = true ∨ released s = true) → (s.dieAt s.die).bxq.length < 32 →
    (op.works = true → ∃ m, comingMap (advanced s s) (issuerOf (bxPort s.die) s) = .ok m) →
    ∃ t, exec i s = .next t ∧ queuedAt s t ∧ (op.works = false → claimsDue s s.nextCid = false → t.t.pc = s.t.pc + 4)
      ∧ t.t.serialBx = s.t.serialBx + 1
      ∧ (t.dieAt t.die).bxq = (s.dieAt s.die).bxq ++ [bxCmdOf s op (decide (op = .resume ∧ ra = 0)) (plainVals s.t (bxNames op ra rb))]
      ∧ sameCodes s t ∧ sameSpecial s t ∧ sameTiles s t ∧ sameFlags s t ∧ sameBytes s t)
  ∧ (∀ (die idx : Nat) (q : BxCmd) (s : State), BxRuns s die idx .map q → q.map = none →
    (roleCheck q.regs ≠ 0 → ∃ t, exec (.bxMapInstall die idx) s = .next t ∧ bxStands t die q)
    ∧ (∀ m s2, bxMapOf q s = .ok (s, m) → askRoom q m (m.group.filter (· ≠ s.devid.toNat)) s = .ok (s2, ()) →
        (installMap (dropData s2 q.cid) q.who m).isSome = true →
        ∃ t, exec (.bxMapInstall die idx) s = .next t ∧ committedMap t q.who = some m ∧ { q with map := some m } ∈ (t.dieAt die).bxq
          ∧ sameBytes s2 t))
  ∧ (∀ (die idx : Nat) (q : BxCmd) (s : State), BxRuns s die idx .apply q →
    (q.map = none → bxOperands s q = none → ∃ t, exec (.bxGroup die idx) s = .next t ∧ bxStands t die q)
    ∧ (∀ m p bs vs s0 s1, q.map = some m → nextPart m q = some p →
        let is := groupIdx q (workIndex m q p)
        groupReady s die q p.2 vs (readElems m q is s = .ok (s, bs) ∧ bs.length = is.length ∧ vs = transformed m q bs) s0 →
        writeElems m q is vs s0 = .ok (s1, ()) →
        ∃ t, exec (.bxGroup die idx) s = .next t ∧ sameBytes s1 t ∧ oneMore q p.2 ∈ (t.dieAt die).bxq))
  ∧ (∀ (die idx : Nat) (q : BxCmd) (s : State), BxRuns s die idx .swap q →
    (q.map = none → bxOperands s q = none → ∃ t, exec (.bxSwapPair die idx) s = .next t ∧ bxStands t die q)
    ∧ (∀ m p x y s0 s1, q.map = some m → nextPart m q = some p →
        let i := workIndex m q p
        let is := [i, i + 2 ^ q.ra.toNat - 2 ^ q.rb.toNat]
        groupReady s die q p.2 [y, x] (readElems m q is s = .ok (s, [x, y])) s0 → writeElems m q is [y, x] s0 = .ok (s1, ()) →
        ∃ t, exec (.bxSwapPair die idx) s = .next t ∧ sameBytes s1 t ∧ oneMore q p.2 ∈ (t.dieAt die).bxq))
  ∧ (∀ (die idx : Nat) (q : BxCmd) (s : State), bxAt s die idx = some q → q.op ≠ .resume → bxFinished q = true →
    (q.failed ≠ [] → ∃ t, exec (.bxComplete die idx) s = .next t ∧ bxStands t die q)
    ∧ (q.failed = [] → q.op ≠ .swap → reg q.regs 0x35 = 0 → ∃ t, exec (.bxComplete die idx) s = .next t ∧ bxGone t die q ∧ sameBytes s t)
    ∧ (∀ m, q.failed = [] → q.op = .swap → reg q.regs 0x35 = 0 → committedMap s q.who = some m →
        ∃ t, exec (.bxComplete die idx) s = .next t ∧ bxGone t die q ∧ committedMap t q.who = some (exchanged m q.ra.toNat q.rb.toNat)
          ∧ ((s.slotAt q.who.slot).phase = .running → (s.slotAt q.who.slot).t.num = q.who.epoch →
              let roles := (exchanged m q.ra.toNat q.rb.toNat).roles
              (t.slotAt q.who.slot).t.eregs.get 0 (512 + q.ra.toNat) = roleWord (roles.getD q.ra.toNat (0, 0))
              ∧ (t.slotAt q.who.slot).t.eregs.get 0 (512 + q.rb.toNat) = roleWord (roles.getD q.rb.toNat (0, 0)))))
  ∧ (∀ (die idx : Nat) (q h : BxCmd) (s : State), (s.dieAt die).bxq[idx]? = some q → q.op = .resume → partRuns s q.who = true →
    ((s.dieAt die).bxq.find? (fun x => sameBx s q x && x.op = .resume)).map BxCmd.cid = some q.cid →
    bxFirst s die q = some h → h.cid ≠ q.cid → (sameTask h q = false ∨ h.serial ≠ q.serial) → h.halted = true →
    (q.raZ = true → ∃ t, exec (.bxComplete die idx) s = .next t ∧ bxGone t die q ∧ bxGone t die h ∧ sameBytes s t)
    ∧ (∀ pl bs, q.raZ = false → engLocate s q.who .engineRead q.ra 8 = .ok (s, pl) → engRead s q.cid 0 q.who q.ra 32 = .ok (s, bs) →
        natOf ((bs.drop 4).take 4) = h.serial.toNat →
        ∃ t, exec (.bxComplete die idx) s = .next t ∧ bxGone t die q ∧ sameBytes s t
          ∧ ∃ x ∈ (t.dieAt die).bxq, sameTask x h = true ∧ x.serial = h.serial ∧ x.halted = false ∧ x.committed = h.committed))

/-! ## The ferryman -/

namespace Sys2Proof.Machine

/-- A ferryman's program at a step of an op, none of its messages lost, its task not ended, and what the step owns recorded (R165). -/
structure FerryRuns (s : State) (die idx op : Nat) (f : FerryCtx) : Prop where
  here : ferryAt s die idx op = some f
  recorded : claimsDue (beginStep s die f).1 (beginStep s die f).2.cid = false
  heard : lostMessage s f = false
  kept : f.orphan = false

/-- The program of a context's task: its state and its place. -/
def ferryStands (t : State) (die : Nat) (f : FerryCtx) (state pc : Nat) : Prop :=
  ∃ g ∈ (t.dieAt die).ferry, g.isOf f.who.slot f.who.epoch = true ∧ g.state = state ∧ g.pc = pc

/-- The same with its fail code. -/
def ferryHalted (t : State) (die : Nat) (f : FerryCtx) (code : Nat) : Prop :=
  ∃ g ∈ (t.dieAt die).ferry, g.isOf f.who.slot f.who.epoch = true ∧ g.state = 4 ∧ g.code = code

/-- A chunk is on its way to a peer of this device. -/
def chunkSent (t : State) (f : FerryCtx) (rank : Nat) (bs : List Byte) : Prop :=
  ∀ dev die idx, f.ranks[rank]? = some (dev, die, idx) → dev = t.devid.toNat →
    ({ die := die, idx := idx, rank := f.rank, run := f.run, chunk := true, bytes := bs, ctx := f.who.ctx, peer := f.place t } : FerryMsg) ∈ t.ferryMsgs

/-- The step passes its chunk on (R281). -/
def stepForwards (p : BitVec 128) : Bool := if stepOp p = 3 then stepFlags p / 2 % 2 = 0 else stepFlags p / 4 % 2 = 1

end Sys2Proof.Machine

/-- R278 to R280, R285, R331: COLLOAD reads a program into the task's context; COLGO starts it as its next run, or halts it on a step that
R281 does not permit or on registers that R279 does not, all of which, the program and RANKTAB are read in the issuing step (log 65) and the
limit of 4 MiB taken for each program (log 63); COLSTAT pushes the status word. A command that is refused raises ENGERR. -/
def Obligations.FerryInstructions : Prop :=
  (∀ (ra rb : Reg) (nf sw : Bool) (s : State), Goes (.colload ra rb nf sw) { a := some ra, b := some rb } s → (nf = true ∨ released s = true) →
    let a := plainRead s.t ra
    let n := (plainRead s.t rb).toNat
    let fits := (ownFerry s).isSome = true ∨ (s.dieAt s.die).ferry.length < 8
    (∀ s1 bs, (ownFerry s).map FerryCtx.state ≠ some 2 → fits → 1 ≤ n → n ≤ 256 → a.toNat % 16 = 0 →
        cmdRead (issuerOf (ferryPort s.die) s) a (16 * n) (advanced s s) = .ok (s1, bs) →
        ∃ t f, exec (.colload ra rb nf sw) s = .next t ∧ t.t.pc = s.t.pc + 4 ∧ ownFerry t = some f ∧ f.state = 1 ∧ f.pc = 0
          ∧ f.regs = snapshotRegs s 3 ∧ f.steps = (itemsOf 16 n bs).map (BitVec.ofNat 128) ∧ sameCodes s t ∧ sameSpecial s t ∧ sameBytes s t)
    ∧ ((ownFerry s).map FerryCtx.state = some 2 ∨ ¬ fits ∨ n < 1 ∨ 256 < n ∨ a.toNat % 16 ≠ 0 → s.slot.phase = .running →
        ∃ t, exec (.colload ra rb nf sw) s = .next t ∧ t.t.pc = s.t.pc + 4 ∧ t.t.ipend = s.t.ipend ||| 4 ∧ sameCodes s t))
  ∧ (∀ (nf sw : Bool) (s : State), Goes (.colgo nf sw) {} s → (nf = true ∨ released s = true) →
    (ownFerry s = none → s.slot.phase = .running →
      ∃ t, exec (.colgo nf sw) s = .next t ∧ t.t.pc = s.t.pc + 4 ∧ t.t.ipend = s.t.ipend ||| 4 ∧ sameCodes s t)
    ∧ (∀ f, ownFerry s = some f → (f.state = 2 ∨ f.state = 4) → s.slot.phase = .running →
      ∃ t, exec (.colgo nf sw) s = .next t ∧ t.t.pc = s.t.pc + 4 ∧ t.t.ipend = s.t.ipend ||| 4 ∧ ownFerry t = some f ∧ sameCodes s t)
    ∧ (∀ f, ownFerry s = some f → f.state ≠ 2 → f.state ≠ 4 → ferryCheck s.devid.toNat f ≠ 0 →
      ∃ t g, exec (.colgo nf sw) s = .next t ∧ t.t.pc = s.t.pc + 4 ∧ ownFerry t = some g ∧ g.state = 4 ∧ g.code = ferryCheck s.devid.toNat f ∧ g.done = 0 ∧ sameCodes s t)
    ∧ (∀ f s1 bs, ownFerry s = some f → f.state ≠ 2 → f.state ≠ 4 → ferryCheck s.devid.toNat f = 0 →
      cmdRead f.who (reg f.regs 2) (4 * f.size) (advanced s s) = .ok (s1, bs) → (∀ e ∈ itemsOf 4 f.size bs, (rankEntry e).isSome = true) →
      (∀ i, f.steps.findIdx? (fun p => !stepOk f.steps.length p) = some i →
        ∃ t g, exec (.colgo nf sw) s = .next t ∧ t.t.pc = s.t.pc + 4 ∧ ownFerry t = some g ∧ g.state = 4 ∧ g.code = 8 ∧ g.pc = i ∧ g.done = 0 ∧ sameCodes s t)
      ∧ ((∀ p ∈ f.steps, stepOk f.steps.length p = true) → 2 * f.chunkBytes * (fromRanks f).length ≤ 4194304 →
        ∃ t g, exec (.colgo nf sw) s = .next t ∧ t.t.pc = s.t.pc + 4 ∧ ownFerry t = some g ∧ g.state = 2 ∧ g.pc = 0 ∧ g.run = f.nextRun
          ∧ g.nextRun = (f.nextRun + 1) % 4294967296 ∧ g.iter = [0, 0, 0, 0] ∧ g.steps = f.steps ∧ sameCodes s t ∧ sameSpecial s t ∧ sameBytes s t)))
  ∧ (∀ (nf sw : Bool) (s : State), Goes (.colstat nf sw) {} s → s.t.eq.length < 16 →
    ∃ t, exec (.colstat nf sw) s = .next t ∧ t.t.pc = s.t.pc + 4 ∧ t.t.eq = s.t.eq ++ [colstatWord s] ∧ sameDevice s t ∧ sameCodes s t
      ∧ sameSpecial s t ∧ sameTiles s t ∧ sameFlags s t)

/-- R280 to R285, R288: a ferryman runs its program. SEND takes a credit and sends its own chunk; RECV stores the chunk of a peer, RRS
reduces it into its own, and either may pass it on; COPY stores its chunk elsewhere; WAIT waits at a counter, LOOP repeats, SIGNAL and END
advance a counter. A program that runs past its last step, or waits past STEPTMO, halts. -/
def Obligations.FerrySteps : Prop :=
  (∀ (die idx : Nat) (f : FerryCtx) (s : State), FerryRuns s die idx 0 f →
    let b := beginStep s die f
    (reg f.regs 8 = 0 → ∃ t, exec (.ferryEnd die idx) s = .next t ∧ ferryStands t die f 3 f.pc ∧ sameBytes s t)
    ∧ (∀ pa fl, reg f.regs 8 ≠ 0 → engLocate b.1 f.who .counterAdd (reg f.regs 8) 8 = .ok (b.1, .mem pa fl) → inArmed s pa 8 = false →
        engBlocked b.1 b.2.cid pa 8 = false → spoiledIn b.1 pa 8 = false →
        ∃ t, exec (.ferryEnd die idx) s = .next t ∧ ferryStands t die f 3 f.pc ∧ readWord t pa = readWord s pa + 1 ∧ sameOutside s t pa 8))
  ∧ (∀ (die idx : Nat) (f : FerryCtx) (s : State), FerryRuns s die idx 1 f →
    let b := beginStep s die f
    (findCredit b.1 die b.2 (fromRank f f.step) = none →
        ∃ t, exec (.ferrySend die idx) s = .next t ∧ ferryStands t die f 2 f.pc ∧ sameBytes s t)
    ∧ (∀ credit bs, findCredit b.1 die b.2 (fromRank f f.step) = some credit → f.pc + 1 < f.steps.length →
        engRead b.1 b.2.cid 0 f.who (ownChunk f f.step) f.chunkBytes = .ok (b.1, bs) →
        ∃ t, exec (.ferrySend die idx) s = .next t ∧ ferryStands t die f 2 (f.pc + 1) ∧ chunkSent t f (fromRank f f.step) bs
          ∧ (t.dieAt die).credits = (s.dieAt die).credits.erase credit ∧ sameBytes s t))
  ∧ (∀ (die idx : Nat) (rrs : Bool) (f : FerryCtx) (s : State),
    let i := if rrs then Instr.ferryRrs die idx else Instr.ferryRecv die idx
    FerryRuns s die idx (if rrs then 3 else 2) f → f.forward = none →
    let b := beginStep s die f
    (takeStaged b.2 (fromRank f f.step) = none → ∃ t, exec i s = .next t ∧ ferryStands t die f 2 f.pc ∧ sameBytes s t)
    ∧ (∀ r g own ps s3, takeStaged b.2 (fromRank f f.step) = some (r, g) → f.pc + 1 < f.steps.length →
        engDst b.1 f.who (ownChunk f f.step) f.chunkBytes = .ok (b.1, ps) →
        (rrs = true → engRead b.1 b.2.cid 0 f.who (ownChunk f f.step) f.chunkBytes = .ok (b.1, own)) → dstBlocked b.1 b.2.cid ps = false →
        let out := if rrs then reduceAll f.fmt own r else r
        engPut b.2.cid 1 f.who ps out b.1 = .ok (s3, ()) →
        (stepForwards f.step = false → ∃ t, exec i s = .next t ∧ ferryStands t die f 2 (f.pc + 1) ∧ sameBytes s3 t)
        ∧ (stepForwards f.step = true → (findCredit b.1 die b.2 (toRank f f.step)).isSome = true →
            ∃ t, exec i s = .next t ∧ ferryStands t die f 2 (f.pc + 1) ∧ chunkSent t f (toRank f f.step) out ∧ sameBytes s3 t)
        ∧ (stepForwards f.step = true → findCredit b.1 die b.2 (toRank f f.step) = none →
            ∃ t, exec i s = .next t ∧ ferryStands t die f 2 f.pc ∧ sameBytes s3 t)))
  ∧ (∀ (die idx : Nat) (f : FerryCtx) (ps : List (Word × Nat × Place)) (bs : List Byte) (s s3 : State), FerryRuns s die idx 4 f →
    let b := beginStep s die f
    f.pc + 1 < f.steps.length → engDst b.1 f.who (stepWord f.step) f.chunkBytes = .ok (b.1, ps) →
    engRead b.1 b.2.cid 0 f.who (ownChunk f f.step) f.chunkBytes = .ok (b.1, bs) → dstBlocked b.1 b.2.cid ps = false →
    engPut b.2.cid 1 f.who ps bs b.1 = .ok (s3, ()) →
    ∃ t, exec (.ferryCopy die idx) s = .next t ∧ ferryStands t die f 2 (f.pc + 1) ∧ sameBytes s3 t)
  ∧ (∀ (die idx pa fl : Nat) (f : FerryCtx) (s : State), FerryRuns s die idx 5 f →
    let b := beginStep s die f
    f.pc + 1 < f.steps.length → engLocate b.1 f.who .counterRead (stepWord f.step) 8 = .ok (b.1, .mem pa fl) →
    engBlocked b.1 b.2.cid pa 8 = false → spoiledIn b.1 pa 8 = false →
    ∃ t, exec (.ferryWait die idx) s = .next t ∧ sameBytes s t
      ∧ ferryStands t die f 2 (if readWord s pa < BitVec.ofNat 64 (stepCount f f.step) then f.pc else f.pc + 1))
  ∧ (∀ (die idx : Nat) (f : FerryCtx) (s : State), FerryRuns s die idx 6 f →
    let again := decide (f.iter.getD (stepLc f.step) 0 + 1 < (stepWord f.step).toNat)
    let next := if again then stepBase f.step else f.pc + 1
    (next < f.steps.length →
      ∃ t, exec (.ferryLoop die idx) s = .next t ∧ sameBytes s t
        ∧ ∃ g ∈ (t.dieAt die).ferry, g.isOf f.who.slot f.who.epoch = true ∧ g.pc = next
          ∧ g.iter = f.iter.set (stepLc f.step) (if again then f.iter.getD (stepLc f.step) 0 + 1 else 0))
    ∧ (f.steps.length ≤ next → ∃ t, exec (.ferryLoop die idx) s = .next t ∧ ferryHalted t die f 8))
  ∧ (∀ (die idx pa fl : Nat) (f : FerryCtx) (s : State), FerryRuns s die idx 7 f →
    let b := beginStep s die f
    f.pc + 1 < f.steps.length → engLocate b.1 f.who .counterAdd (stepWord f.step) 8 = .ok (b.1, .mem pa fl) → inArmed s pa 8 = false →
    engBlocked b.1 b.2.cid pa 8 = false → spoiledIn b.1 pa 8 = false →
    ∃ t, exec (.ferrySignal die idx) s = .next t ∧ ferryStands t die f 2 (f.pc + 1) ∧ readWord t pa = readWord s pa + 1 ∧ sameOutside s t pa 8)
  ∧ (∀ (die idx rank run : Nat) (bs : List Byte) (s : State),
    (takeFerryMsg s die idx rank run true bs = none → exec (.ferryChunkArrival die idx rank run bs) s = .next s)
    ∧ (∀ s1 m, takeFerryMsg s die idx rank run true bs = some (s1, m) →
      m ∈ s.ferryMsgs ∧ m.bytes = bs ∧ ∃ t, exec (.ferryChunkArrival die idx rank run bs) s = .next t ∧ sameBytes s t
        ∧ t.ferryMsgs.length + 1 = s.ferryMsgs.length
        ∧ (∀ f, (s.dieAt die).ferry.find? (fun f => f.who.slot = die * 2048 + idx && f.takes (s.dieAt die) rank run m.ctx m.peer) = some f →
          ∃ g ∈ (t.dieAt die).ferry, g.isOf f.who.slot f.who.epoch = true ∧ g.staged = f.staged ++ [(rank, run, bs)])))
  ∧ (∀ (die idx rank run : Nat) (s : State),
    (takeFerryMsg s die idx rank run false [] = none → exec (.ferryCreditArrival die idx rank run) s = .next s)
    ∧ (∀ s1 m, takeFerryMsg s die idx rank run false [] = some (s1, m) →
      ∃ t, exec (.ferryCreditArrival die idx rank run) s = .next t ∧ sameBytes s t
        ∧ (t.dieAt die).credits = (s.dieAt die).credits ++ [{ idx := idx, ctx := m.ctx, peer := m.peer, rank := rank, run := run }]))
  ∧ (∀ (die idx : Nat) (f : FerryCtx) (s : State), (s.dieAt die).ferry[idx]? = some f → f.orphan = false →
    (stepExpired s f = true → ∃ t, exec (.ferryStepTimeout die idx) s = .next t ∧ ferryHalted t die f 9)
    ∧ (stepExpired s f = false → exec (.ferryStepTimeout die idx) s = .next s))

/-! ## The system group, the host and its work queues -/

/-- R391, R372, R393, R396, R289: TLBINV drops the translations of the slot's context, all of them or those of one page, after the slot's
stores are performed; ROINV empties the cluster's read-only cache; TMARK writes a trace record and nothing else; TSTAMP gives the time;
a scrub of a second-level slice corrects the words of its channel that have one bit in error, notes each, and changes no byte. -/
def Obligations.TranslationCacheTraceAndTime : Prop :=
  (∀ (ra : Reg) (sw : Bool) (s : State), Goes (.tlbinv ra sw) { a := some ra, priv := true } s → released s = true →
    let a := plainRead s.t ra
    let page := decide (bitsOf a 60 4 ≤ 1 ∧ bitsOf a 45 15 = 0)
    (ra ≠ 0 → page = false → exec (.tlbinv ra sw) s = trapped s .path a)
    ∧ (ra = 0 ∨ page = true →
      ∃ t, exec (.tlbinv ra sw) s = .next t ∧ t.t.pc = s.t.pc + 4
        ∧ t.tlb = s.tlb.filter (fun e => if ra = 0 then e.ctx ≠ s.asker.ctx else !(e.hits s.asker.ctx (bitsOf a 0 45)))
        ∧ t.clusters = s.clusters ∧ keepsData s t))
  ∧ (∀ (sw : Bool) (s : State), Goes (.roinv sw) {} s →
    (readsPending s = false → ∃ t, exec (.roinv sw) s = .next t ∧ t.t.pc = s.t.pc + 4 ∧ (t.clusterAt s.cluster).rolines = []
      ∧ (∀ c, c ≠ s.cluster → t.clusterAt c = s.clusterAt c) ∧ keepsData s t)
    ∧ (readsPending s = true → exec (.roinv sw) s = .next (stalled s)))
  ∧ (∀ (ra : Reg) (sw : Bool) (s : State), Goes (.tmark ra sw) { a := some ra } s →
    let k := s.coreAt s.core
    ∃ t, exec (.tmark ra sw) s = .next t ∧ t.t.pc = s.t.pc + 4 ∧ keepsData s t ∧ sameDeviceTraced s t
      ∧ (traceOn k (s.cur % 4) 7 = false → sameDevice s t)
      ∧ (traceOn k (s.cur % 4) 7 = true →
          (t.coreAt s.core).trace.get 0 (k.trcptr.toNat % 256)
            = (BitVec.ofNat 64 (7 * 2 ^ 60 + s.cur % 4 * 2 ^ 58 + bitsOf (plainRead s.t ra) 0 48) ++ s.tstamp)
          ∧ (t.coreAt s.core).trcptr = BitVec.ofNat 64 ((k.trcptr.toNat % 256 + 1) % 256)))
  ∧ (∀ (rd : Reg) (sw : Bool) (s : State), Goes (.tstamp rd sw) { d := [rd] } s →
    ∃ t, exec (.tstamp rd sw) s = .next t ∧ t.t.pc = s.t.pc + 4 ∧ (rd ≠ 0 → plainRead t.t rd = s.tstamp) ∧ sameCodesBut s t rd
      ∧ sameSpecial s t ∧ sameTiles s t ∧ sameFlags s t ∧ sameDevice s t)
  ∧ (∀ (slice : Nat) (s : State),
    ∃ t, exec (.l2Scrub slice) s = .next t ∧ t = errorsAside s t ∧ sameBytes s t ∧ t.spoiled = s.spoiled
      ∧ (∀ w, w ∈ t.faint ↔ w ∈ s.faint ∧ w ∉ scrubWords s slice s.faint)
      ∧ (∀ w ∈ scrubWords s slice s.faint, .corrected (8 * w) ∈ t.errors)
      ∧ (∀ w ∈ scrubWords s slice s.spoiled, .lost (8 * w) ∈ t.errors))

/-- R105, R128, R274 to R276: the port of a work queue. A kick sets prod. The port decides the record at cons in order: an invalid record is discarded, one
that no slot admits, that finds the backlog full or that is not permitted is refused, any other is accepted; the outcome byte is stored
and cons advances. The order of the outcomes is the model's choice (log 74), and so is that an error raises the host's interrupt only with ie
set (log 73). A producer that runs ahead of the ring, a place that faults, or a lap bit that does not come, halts the queue. -/
def Obligations.WorkQueuePort : Prop :=
  (∀ (die q : Nat) (prod : BitVec 32) (s : State),
    ∃ t, exec (.wqKick die q prod) s = .next t ∧ wqAt t die q = { wqAt s die q with prod := prod } ∧ sameBytes s t)
  ∧ (∀ (die q : Nat) (s : State),
    ∃ t, exec (.wqErrorClear die q) s = .next t ∧ wqAt t die q = { wqAt s die q with error := false, firstRead := none } ∧ sameBytes s t)
  ∧ (∀ (die q : Nat) (s : State), (wqAt s die q).error = false → (wqAt s die q).prod ≠ (wqAt s die q).cons →
    let x := wqAt s die q
    let n := 2 ^ wqLogN x
    (n < wqWaiting x ∨ wqRead s die x = none →
      ∃ t, exec (.wqDecide die q) s = .next t ∧ (wqAt t die q).error = true ∧ (wqAt t die q).code = (if n < wqWaiting x then 2 else 3)
        ∧ (wqAt t die q).cons = x.cons ∧ t.hostIrq = (if wqIe x then s.hostIrq ++ [wqVector x] else s.hostIrq) ∧ sameBytes s t)
    ∧ (∀ s1 ws busy, wqWaiting x ≤ n → wqRead s die x = some (s1, ws, busy) → (busy = true ∨ (wordAt ws 0).getLsbD 63 ≠ wqLap x) →
      ∃ t, exec (.wqDecide die q) s = .next t ∧ (wqAt t die q).cons = x.cons ∧ (wqAt t die q).error = false ∧ sameBytes s t)
    ∧ (∀ s1 ws, wqWaiting x ≤ n → wqRead s die x = some (s1, ws, false) → (wordAt ws 0).getLsbD 63 = wqLap x →
      let r := (wordAt ws 0 &&& 0x7FFFFFFFFFFFFFFF) :: ws.drop 1
      let out := wqOutcome s1 die q r
      (recordValid r = false → out = 5)
      ∧ (recordValid r = true → wqBinds s1 die q (recPrio r) = [] → out = 2)
      ∧ (x.outaddr = 0 →
          ∃ t, exec (.wqDecide die q) s = .next t ∧ (wqAt t die q).cons = x.cons + 1 ∧ sameBytes s t
            ∧ (wqAt t die q).accepted = x.accepted + (if out = 1 then 1 else 0)
            ∧ (wqAt t die q).backlog = x.backlog ++ (if out = 1 then [r] else [])
            ∧ (wqAt t die q).refused = x.refused + (if out = 1 ∨ out = 5 then 0 else 1)
            ∧ (t.dieAt die).discards = (s.dieAt die).discards + (if out = 5 then 1 else 0))
      ∧ (∀ s2 pa, x.outaddr ≠ 0 → wqPlace s1 die x .store (wqByte x) 1 1 = some (s2, pa) → owned s2 pa 1 = false →
          ∃ t, exec (.wqDecide die q) s = .next t ∧ (wqAt t die q).cons = x.cons + 1 ∧ (readByte t pa).toNat = out ∧ sameOutside s t pa 1)))
  ∧ (∀ (die q : Nat) (s s1 : State) (ws : List Word), (wqAt s die q).error = false → (wqAt s die q).prod ≠ (wqAt s die q).cons →
    wqLate s (wqAt s die q) = true → wqRead s die (wqAt s die q) = some (s1, ws, false) →
    ∃ t, exec (.wqLapTimeout die q) s = .next t ∧ sameBytes s t
      ∧ ((wqAt t die q).error = true ↔ (wordAt ws 0).getLsbD 63 ≠ wqLap (wqAt s die q))
      ∧ ((wordAt ws 0).getLsbD 63 ≠ wqLap (wqAt s die q) → (wqAt t die q).code = 1))

/-- R262, R263, R272, R273: the register window and what acts through it. A doorbell sets the mailbox and the host message interrupt; a
halt, a resume and a raised interrupt change the slot; CLFREEZE freezes and frees a cluster; a foreman's write of a bind record, a
context entry (its bits [0] and [40:14]) or a mailbox reads back; a write of DISCARDS, which is read-only, and one to an address that is no
8-byte word are ignored. A host access is performed at its home; a write to an armed segment has no effect (log 80). -/
def Obligations.RegisterWindowAndHost : Prop :=
  (∀ (core : Nat) (v : Word) (s : State),
    ∃ t, exec (.doorbellWrite core v) s = .next t ∧ (t.coreAt core).mailbox = v ∧ (t.coreAt core).ipend3 = true ∧ sameBytes s t)
  ∧ (∀ (n : Nat) (s : State),
    (∃ t, exec (.dbgHaltRequest n) s = .next t ∧ (t.slotAt n).halted = true ∧ (t.slotAt n).haltReq = false ∧ sameBytes s t)
    ∧ (∃ t, exec (.dbgResume n) s = .next t ∧ (t.slotAt n).halted = false ∧ (t.slotAt n).haltReq = false
        ∧ ((s.slotAt n).t.pulled = [] → (s.slotAt n).t.pulledFar = [] → sameBytes s t ∧ (t.slotAt n).t.pc = (s.slotAt n).t.pc))
    ∧ (∃ t, exec (.dbgRaiseInterrupt n) s = .next t ∧ (t.slotAt n).t.ipend = (s.slotAt n).t.ipend ||| 0x20 ∧ sameBytes s t))
  ∧ (∀ (cluster : Nat) (v : Word) (s : State),
    ∃ t, exec (.clfreezeWrite cluster v) s = .next t ∧ (t.clusterAt cluster).frozen = v.getLsbD 0)
  ∧ (∀ (die off : Nat) (v : Word) (s : State),
    (off % 8 ≠ 0 ∨ off = 8 ∨ s.boot ≠ .ready → exec (.registerWindowWrite die off v) s = .next s)
    ∧ (s.boot = .ready → off % 8 = 0 → (0x10000 ≤ off ∧ off < 0x11000) ∨ (0x100000 ≤ off ∧ off < 0x120000) →
      ∃ t, exec (.registerWindowWrite die off v) s = .next t ∧ regRead t die off = v ∧ sameBytes s t)
    ∧ (s.boot = .ready → off % 8 = 0 → 0x200000 ≤ off → off < 0x280000 →
      ∃ t, exec (.registerWindowWrite die off v) s = .next t ∧ regRead t die off = v &&& 0x1FFFFFFC001 ∧ sameBytes s t))
  ∧ (∀ (off size : Nat) (v : BitVec 512) (s : State), s.boot = .ready → s.fatal = none → populated off = true → owned s off size = false →
    s.held = [] →
    (inArmed s off size = false →
      ∃ t, exec (.hostAccess .hbm off true size v) s = .next t ∧ readNat t off size = v.toNat % 256 ^ size ∧ sameOutside s t off size)
    ∧ (inArmed s off size = true → exec (.hostAccess .hbm off true size v) s = .next s)
    ∧ (∃ t, exec (.hostAccess .hbm off false size v) s = .next t ∧ t.hostRead = BitVec.ofNat 512 (readNat s off size) ∧ sameBytes s t))
  ∧ (∀ (off : Nat) (v : BitVec 512) (s : State), s.boot = .ready → s.fatal = none → off % 8 = 0 → off < 2 ^ 35 →
    ∃ t, exec (.hostAccess .reg off false 8 v) s = .next t ∧ t.hostRead = (regRead s (off / 2 ^ 32) (off % 2 ^ 32)).zeroExtend 512
      ∧ sameBytes s t)

/-! ## Reset, boot, errors and gang switches -/

/-- R255 to R258, R267, R270, R291, R292, R294, R296, R297, R299, R300, R411: the foremen and the boot ROM. RESET loads the image of the flash into
die 0's SRAM, verifies it and starts it, or waits in recovery, every slot reset, and all other memory empty (log 77, DEDUCED); the host's load verifies the image in die 0's SRAM. An
attestation signs the measurement. A gang stop stops every slot of the partition; its save keeps the slots, their accumulators, commands, gates
and barriers; its resume lets the slots go on at their PCs with their registers, when the partition is not left stopped by a context error
and its slots are free (log 69). A context error stops the partition and leaves it stopped; its vector is the model's choice (log 21). A fatal
error stops every slot, and its dump, written in a step of its own (log 76) with the time of its detection (log 81), begins with the magic word
and the cause, and holds the slot tables. A link's
retry is counted, and the 17th within 600 s retires the link; a lasting fault retires it at once. -/
def Obligations.ResetBootErrorsAndGangs : Prop :=
  (∀ (devid : BitVec 12) (trained : Bool) (s : State),
    let l := loadFlash { freshUnits s with mem := [], devid := devid, tstamp := 0 }
    ∃ t, exec (.reset devid trained) s = .next t ∧ t.devid = devid ∧ (∀ n, t.slotAt n = .reset) ∧ (trained = false → t.boot = .recovery 5)
      ∧ (trained = true → (verifyImage l).1 = 0 → t.boot = .ready ∧ t.measure = (verifyImage l).2 ∧ t.mem = l.mem)
      ∧ (trained = true → (verifyImage l).1 ≠ 0 → t.boot = .recovery (verifyImage l).1))
  ∧ (∀ (s : State),
    (∀ f, s.boot = .recovery f →
      ∃ t, exec .bootLoad s = .next t ∧ sameBytes s t ∧ t.boot = (if (verifyImage s).1 = 0 then .ready else .recovery (verifyImage s).1)
        ∧ ∀ v : BitVec 512, v.getLsbD 0 = true → exec (.hostAccess .reg 0x10 true 8 v) s = .next t)
    ∧ ((∀ f, s.boot ≠ .recovery f) → exec .bootLoad s = .next s))
  ∧ (∀ (nonce : BitVec 256) (s : State), s.boot = .ready →
    ∃ t, exec (.attestationRequest nonce) s = .next t ∧ sameBytes s t
      ∧ t.attest = s.attest ++ [{ measure := s.measure, nonce := nonce, devid := s.devid, version := s.version, sign := Config.falconSign s.measure nonce s.devid s.version }])
  ∧ (∀ (cause die addr : Nat) (s : State), s.boot = .ready →
    (s.fatal = none → ∃ t, exec (.fatalError cause die addr) s = .next t ∧ t.fatal = some (cause, die, addr) ∧ t.fatalTime = s.tstamp
        ∧ t.boot = .ready ∧ (∀ n ∈ slotIds s, (t.slotAt n).stopped = true) ∧ sameBytes s t)
    ∧ (s.fatal = none → ∃ t, exec (.thermalTrip die) s = .next t ∧ t.fatal = some (2, die, 0) ∧ t.fatalTime = s.tstamp
        ∧ t.boot = .ready ∧ (∀ n ∈ slotIds s, (t.slotAt n).stopped = true) ∧ sameBytes s t)
    ∧ (s.fatal = some (cause, die, addr) →
      ∃ t, exec (.fatalError cause die addr) s = .next t ∧ t.fatal = none ∧ t.boot = .recovery 0 ∧ readWord t dumpBase = 0x144554D50
        ∧ readWord t (dumpBase + 8) = BitVec.ofNat 64 cause ∧ readWord t (dumpBase + 16) = s.fatalTime
        ∧ (∀ d i, d < 8 → i < 16384 → readWord t (dumpDie d + 0x1000000 + 8 * i) = (s.dieAt d).slotTab.get 0 i)))
  ∧ (∀ (ctx : Nat) (s : State),
    (s.stopped.contains ctx = true → exec (.gangStop ctx) s = .next s)
    ∧ (s.boot ≠ .ready → exec (.gangStop ctx) s = .next s ∧ exec (.partitionSave ctx) s = .next s ∧ exec (.gangResume ctx) s = .next s
        ∧ exec (.contextError ctx) s = .next s)
    ∧ (s.boot = .ready → s.stopped.contains ctx = false →
      ∃ t, exec (.gangStop ctx) s = .next t ∧ ctx ∈ t.stopped ∧ (s.engData = [] → sameBytes s t) ∧ ∀ n ∈ partitionSlots s ctx, (t.slotAt n).stopped = true))
  ∧ (∀ (ctx : Nat) (s : State), s.images.any (fun i => i.ctx = ctx) = false →
    (s.boot = .ready → partsStopped s ctx = true →
      ∃ t, exec (.partitionSave ctx) s = .next t
        ∧ t = { s with images := s.images ++ [imageOf s ctx] }
        ∧ (imageOf s ctx).slots = (partitionSlots s ctx).map (fun n => (n, s.slotAt n))
        ∧ (∀ c k, (c, k) ∈ s.clusters →
            (∀ q ∈ k.loomq, q.who.ctx = ctx → (c, q) ∈ (imageOf s ctx).loomq) ∧ (∀ q ∈ k.copyq, q.who.ctx = ctx → (c, q) ∈ (imageOf s ctx).copyq)
            ∧ (∀ g ∈ k.gates, g.ctx = ctx → (c, g) ∈ (imageOf s ctx).gates)
            ∧ (∀ i n, i < 4 → (accOf k i).owner = some n → n ∈ partitionSlots s ctx → (c, i, accOf k i) ∈ (imageOf s ctx).accs))
        ∧ (∀ h b, (h, some b) ∈ s.barriers → b.ctx = ctx → (h, b) ∈ (imageOf s ctx).barriers)
        ∧ (∀ m ∈ s.chunks, m.ctx = ctx → m ∈ (imageOf s ctx).chunks) ∧ (∀ d ∈ s.deliveries, d.ctx = ctx → d ∈ (imageOf s ctx).deliveries)
        ∧ (∀ m ∈ s.ferryMsgs, m.ctx = ctx → m ∈ (imageOf s ctx).ferryMsgs) ∧ (∀ m ∈ s.inflight, m.ctx = ctx → m ∈ (imageOf s ctx).records))
    ∧ (partsStopped s ctx = false → exec (.partitionSave ctx) s = .next s))
  ∧ (∀ (ctx : Nat) (im : Image) (s : State), s.images.find? (fun i => i.ctx = ctx) = some im →
    (s.failed.contains ctx = true ∨ (∃ p ∈ im.slots, slotReturns s ctx p.1 = false ∨ s.retiring.contains (clusterOf p.1) = true)
        ∨ (∃ a ∈ im.accs, accReturns s a = false) → exec (.gangResume ctx) s = .next s)
    ∧ (s.boot = .ready → s.failed.contains ctx = false → (∀ p ∈ im.slots, slotReturns s ctx p.1 = true ∧ s.retiring.contains (clusterOf p.1) = false) →
        (∀ a ∈ im.accs, accReturns s a = true) →
      ∃ t, exec (.gangResume ctx) s = .next t ∧ ctx ∉ t.stopped ∧ (∀ i ∈ t.images, i.ctx ≠ ctx)
        ∧ (∀ p ∈ im.slots, (t.slotAt p.1).stopped = false)
        ∧ ((im.slots.map Prod.fst).Nodup → ∀ p ∈ im.slots,
            let x := if (s.slotAt p.1).stopped then (s.slotAt p.1).t else p.2.t
            x.pulled = [] → x.pulledFar = [] → (t.slotAt p.1).t.pc = x.pc ∧ (t.slotAt p.1).t.globals = x.globals ∧ (t.slotAt p.1).t.win = x.win
              ∧ (t.slotAt p.1).t.tiles = x.tiles ∧ (t.slotAt p.1).t.status = x.status)))
  ∧ (∀ (n : Nat) (s : State), s.boot = .ready →
    ∃ t, exec (.contextError n) s = .next t ∧ ctxOfSlot s n ∈ t.stopped ∧ ctxOfSlot s n ∈ t.failed ∧ (s.engData = [] → sameBytes s t)
      ∧ t.hostIrq = s.hostIrq ++ [contextVector])
  ∧ (∀ (die link : Nat) (s : State),
    (∃ t, exec (.linkRetire die link) s = .next t ∧ link ∈ (t.dieAt die).deadLinks ∧ sameBytes s t)
    ∧ (let times := (s.dieAt die).eccTimes.get [] (3 * 65536 + link)
       ∃ t, exec (.flitCrcRetry die link) s = .next t ∧ sameBytes s t
         ∧ (t.dieAt die).eccTimes.get [] (3 * 65536 + link) = (s.tstamp.toNat :: times).take 16
         ∧ (∀ first, times[15]? = some first → s.tstamp.toNat ≤ first + 600000000000 → link ∈ (t.dieAt die).deadLinks)
         ∧ ((∀ first, times[15]? = some first → first + 600000000000 < s.tstamp.toNat) → (t.dieAt die).deadLinks = (s.dieAt die).deadLinks)))

/-! ## Homes and other devices -/

namespace Sys2Proof.Machine

/-- An access that waits at its home may be performed: it is ready, and behind no other (R144, R157, R165). -/
def mayGo (s : State) (idx : Nat) (h : Held) : Bool := heldReady s h && !behind s h (s.held.take idx)

end Sys2Proof.Machine

/-- R143, R144, R155, R165, R22, R225: an access of a slot here that waits at its home is performed once it is ready and behind no other: a store
writes its bytes, or none where they lie in an armed segment, a load answers with them and keeps them. Its reply reaches the register that
the access names, after those of the same home to the same core. -/
def Obligations.HomesPerformWaitingAccesses : Prop :=
  (∀ (idx : Nat) (h : Held) (s : State), s.held[idx]? = some h →
    (mayGo s idx h = false → exec (.accessAtHome idx) s = .next s)
    ∧ (∀ sign, mayGo s idx h = true → h.far = none → h.op = .load sign →
      ∃ t, exec (.accessAtHome idx) s = .next t ∧ t.held = s.held.eraseIdx idx ∧ sameBytes s t
        ∧ (h.q ≠ 2 → t.empty = s.empty) ∧ (h.q = 2 → allEmpty t h.addr h.size)
        ∧ (h.dst ≠ .none → t.replies = s.replies ++ [{ slot := h.slot, home := orderHome s h.addr, dst := h.dst, sign := sign, size := h.size, value := BitVec.ofNat 512 (readNat s h.addr h.size), seq := h.seq }]))
    ∧ (∀ v, mayGo s idx h = true → h.far = none → h.op = .store v → inArmed s h.addr h.size = true → h.checked = false →
      ∃ t, exec (.accessAtHome idx) s = .next t ∧ t.held = s.held.eraseIdx idx ∧ sameBytes s t)
    ∧ (∀ v, mayGo s idx h = true → h.far = none → h.op = .store v → inArmed s h.addr h.size = false →
      ∃ t, exec (.accessAtHome idx) s = .next t ∧ t.held = s.held.eraseIdx idx ∧ readNat t h.addr h.size = v.toNat % 256 ^ h.size
        ∧ sameOutside s t h.addr h.size ∧ (h.q ≠ 0 → hasGranules h.addr = true → allFull t h.addr h.size))
    ∧ (32 ≤ waitPlace s idx → exec (.feReissue idx) s = exec (.accessAtHome idx) s)
    ∧ (waitPlace s idx < 32 → exec (.feReissue idx) s = .next s))
  ∧ (∀ (idx code g : Nat) (value : BitVec 4096) (r : Reply) (s : State), s.replies[idx]? = some r → r.dst = .glob g → g < 7 →
    replyFirst s idx r = true →
    ∃ t, exec (.memoryReply (s.remote.length + idx) code value) s = .next t ∧ t.replies = s.replies.eraseIdx idx ∧ sameBytes s t
      ∧ (t.slotAt r.slot).t.globals[g]! = loadValue r.sign r.size r.value.toNat
      ∧ (t.slotAt r.slot).t.pend = (s.slotAt r.slot).t.pend.erase (.glob g))

/-- R151 to R154, R226: a request to another device ends with its reply: code 0 gives its value, a refusal gives 0 and sets PEERFAIL,
retry-later parks it for 1 µs; the interval doubles up to 64 µs, and after 100 µs the request is dropped. A request of another device is
performed at its home here and answered, or refused by the checks on its address. -/
def Obligations.RequestsBetweenDevices : Prop :=
  (∀ (idx g : Nat) (value : BitVec 4096) (r : Remote) (s : State), s.remote[idx]? = some r → mayReply s idx r = true → r.eng = none →
    r.hold = false → r.acc.op = .load → r.dst = .glob g → g < 7 → r.slot < noSlot → r.parked = none →
    (∃ t, exec (.memoryReply idx 0 value) s = .next t ∧ t.remote = s.remote.take idx ++ sendNext r (s.remote.drop (idx + 1)) ∧ sameBytes s t
      ∧ (t.slotAt r.slot).t.globals[g]! = loadValue r.sign r.acc.size value.toNat
      ∧ (t.slotAt r.slot).t.peerfail = (s.slotAt r.slot).t.peerfail)
    ∧ (∃ t, exec (.memoryReply idx 2 value) s = .next t ∧ t.remote = s.remote.take idx ++ sendNext r (s.remote.drop (idx + 1)) ∧ sameBytes s t
      ∧ (t.slotAt r.slot).t.globals[g]! = 0
      ∧ (t.slotAt r.slot).t.peerfail = (s.slotAt r.slot).t.peerfail ||| (1 <<< peerBit (s.coreAt (coreOf r.slot)) r.device))
    ∧ (r.withdrawn = none → ∃ t, exec (.memoryReply idx 1 value) s = .next t
      ∧ t = { s with remote := s.remote.take idx ++ { r with parked := some (s.tstamp.toNat, s.tstamp.toNat + 1000, 1000), queued := false }
                       :: queueBehind r (s.remote.drop (idx + 1)) }))
  ∧ (∀ (core i first next gap : Nat) (r : Remote) (s : State), firstDue (retryDue s core) s = some (i, r) → r.parked = some (first, next, gap) →
    ∃ t, exec (.replayRetry core) s = .next t
      ∧ t = { s with remote := s.remote.set i { r.resent with parked := some (first, next + min 64000 (2 * gap), min 64000 (2 * gap)) } })
  ∧ (∀ (core i g : Nat) (r : Remote) (s : State), firstDue (dropDue s core) s = some (i, r) →
    (s.remote.drop (i + 1)).filter (fun q => q.replays && sameQueue q r) = [] → r.eng = none → r.hold = false → r.acc.op = .load →
    r.dst = .glob g → g < 7 → r.slot < noSlot →
    ∃ t, exec (.replayDrop core) s = .next t ∧ t.remote = s.remote.eraseIdx i ∧ sameBytes s t
      ∧ (t.slotAt r.slot).t.globals[g]! = 0
      ∧ (t.slotAt r.slot).t.peerfail = (s.slotAt r.slot).t.peerfail ||| (1 <<< peerBit (s.coreAt (coreOf r.slot)) r.device))
  ∧ (∀ (acc : RemoteAcc) (s : State), acc.src ≠ hostSrc → acc.eng = none → s.held = [] → s.farWaits = [] →
    (∀ s1 pa fl, acc.op = .load → acc.q = 0 → locate s (farAsker acc) .load acc.addr acc.size 1 none acc.q = .ok (s1, .mem pa fl) →
      owned s1 pa acc.size = false →
      ∃ t, exec (.remoteReceive acc) s = .next t ∧ t.answered = s.answered ++ [(0, BitVec.ofNat 4096 (readNat s pa acc.size))] ∧ sameBytes s t)
    ∧ (∀ s1 pa fl, acc.op = .store → acc.q = 0 → locate s (farAsker acc) .store acc.addr acc.size 1 none acc.q = .ok (s1, .mem pa fl) →
      owned s1 pa acc.size = false → inArmed s1 pa acc.size = false → acc.size ≤ 64 →
      ∃ t, exec (.remoteReceive acc) s = .next t ∧ readNat t pa acc.size = acc.value.toNat % 256 ^ acc.size ∧ sameOutside s t pa acc.size)
    ∧ (∀ c, acc.op = .load ∨ acc.op = .store → locate s (farAsker acc) (farKind acc).1 acc.addr acc.size 1 none acc.q = .error c →
      ∃ t, exec (.remoteReceive acc) s = .next t
        ∧ t = { s with answered := s.answered ++ [(if acc.part then 16 + codeOfCause c else if c = .xlat then 1 else 2, 0)] })
    ∧ (∀ core, acc.op = .record core →
      ∃ t, exec (.remoteReceive acc) s = .next t ∧ t.inflight = s.inflight ++ [{ core := core % 4096, record := wordsOf acc.value.toNat 8, slot := none, ctx := acc.ctx }]
        ∧ sameBytes s t))

/-! ## Encodings and the machine as a whole -/

/-- R87 to R98, R101: words of the reference chapters decode to the instructions that they are printed for; the all-zero word, reserved
fields and codes outside the tables are no instruction. -/
def Obligations.PrintedWordsDecode : Prop :=
  decodeWord 0x04B30D1C = .ok (.sel 11 12 13 false)
  ∧ decodeWord 0x24B3007E = .ok (.shri 11 12 63 false)
  ∧ decodeWord 0x18B33FFE = .ok (.slti 11 12 (-1) false)
  ∧ decodeWord 0xA8000010 = .ok (.shrink 8 false)
  ∧ decodeWord 0xA002C002 = .ok (.jr 11 false)
  ∧ decodeWord 0xBCB00034 = .ok (.tstamp 11 false)
  ∧ decodeWord 0xE4028008 = .ok (.tlbinv 10 false)
  ∧ decodeWord 0xC9030A18 = .ok (.tld 1 false 12 10 3 0 false)
  ∧ decodeWord 0xD088A2C2 = .ok (.mmul 10 11 1 false false)
  ∧ decodeWord 0xDBFFE100 = .ok (.fmt 0x3F 0x3F 0x21 0 false 0)
  ∧ decodeWord 0 = .error .opcode
  ∧ decodeWord 0xA8000070 = .error .frameSize
  ∧ decodeWord 0xBCB04034 = .error .reservedField

/-- R82 to R98, R101: no bit of an encoding is dropped. Every well-formed instruction that has a word decodes from its word, whatever bytes
follow; and a word that decodes is the word of its instruction, which is well-formed. -/
def Obligations.DecodeAndEncodeAgree : Prop :=
  (∀ i : Instr, i.isWord = true → i.wellFormed = true →
    ∃ w, encode i = some w ∧ decodeWord w = .ok i ∧ i.word = w ∧ ∀ rest, decode (bytesOfWord w ++ rest) = .ok (i, rest))
  ∧ (∀ (w : IWord) (i : Instr), decodeWord w = .ok i → encode i = some w ∧ i.isWord = true ∧ i.wellFormed = true)

namespace Sys2Proof.Machine

/-- The slot in force issues in the next step: nothing is scheduled, the device runs, it is the slot's turn, and neither a halt, an
interrupt, a wait, the quantum nor an execute breakpoint comes first. The state is that after time has passed (log 4). -/
structure IssuesNext (s : State) : Prop where
  nothing_scheduled : s.agenda = []
  ready : s.boot = .ready
  no_fatal : s.fatal = none
  turn : s.turn = .issue
  running : s.slot.phase = .running
  not_held : slotHeld { s with turn := .background } s.cur = false
  no_halt : s.slot.haltReq = false
  no_interrupt : interruptCause { s with turn := .background } s.cur = none
  no_wait : s.t.wait = none
  in_quantum : quantumDue { s with turn := .background } s.cur = false
  no_breakpoint : execMatch s.slot = none
  no_flaw : s.flaws.contains (.slot s.cur) = false

end Sys2Proof.Machine

/-- R103, R142, R148: a step of a slot that issues fetches four bytes at its PC through the cluster's read-only cache, and is exec of the
instruction that they decode to; a word that is no instruction runs as illopEncoding, a fetch that fails is a trap with TVAL = PC; a
follower runs the oldest word forwarded to it (R121). Which slot issues when is the model's choice (log 5). -/
def Obligations.StepRunsTheDecodedInstruction : Prop :=
  ∀ (s : State), IssuesNext (tick s) →
    let s1 : State := { (tick s) with turn := .background }
    let pc := s1.t.pc
    ((s1.t.leader = none ∨ s1.t.handlers ≠ 0) →
      (∀ c, fetchPlace s1 s1.asker pc = .error c → step s = refusedAt s1 c (pc.zeroExtend 64))
      ∧ (∀ s2 pa, fetchPlace s1 s1.asker pc = .ok (s2, pa) → owned s2 pa 4 = false →
          let r := roRead s2 s2.cluster s2.asker.ctx pc.toNat pa 4
          (∀ i, decodeWord (BitVec.ofNat 32 r.2) = .ok i → step s = exec i r.1)
          ∧ (∀ e, decodeWord (BitVec.ofNat 32 r.2) = .error e → step s = exec (.illopEncoding (BitVec.ofNat 32 r.2)) r.1)
          ∧ (roHit s2 s2.cluster s2.asker.ctx pc.toNat = false → pc.toNat % 4 = 0 → pc.toNat % 128 = pa % 128 →
              r.2 = readNat s pa 4 ∧ ∀ i rest, decode (readBytes s pa 4) = .ok (i, rest) → step s = exec i r.1)))
    ∧ (∀ f rest i, s1.t.leader.isSome = true → s1.t.handlers = 0 → s1.t.fwd = f :: rest → decodeWord f.word = .ok i →
        step s = exec i (s1.setT { s1.t with pc := f.pc }))

/-- R11, R101, R248: no instruction and no event ends the machine. Every instruction, on every state, gives a next state, a trap included, and
so does every step: that nothing at all stops the machine is the model's reading (log 85). -/
def Obligations.EveryStepHasANextState : Prop :=
  (∀ (i : Instr) (s : State), ∃ t, exec i s = .next t) ∧ (∀ s : State, ∃ t, step s = .next t)

/-- The memory, the empty granules and the armed segments keep their canonical form in every step: equal contents are equal data. The form is
the model's own (logs 1 and 14); no rule of the spec gives it. -/
def Obligations.EveryStepKeepsTheCanonicalForm : Prop :=
  ∀ s t : State, State.canonical s = true → step s = .next t → State.canonical t = true

/-- R69, R71, R72, R75, R143, R181, R297: after reset every slot is idle in supervisor mode with interrupts off, TCMP all ones, its other
special registers and its engine registers zero, one frame of eight registers; every granule is full, no accumulator is owned or valid,
no table entry is valid, and the boot ROM is about to run. That registers, tiles and unwritten memory read zero is the model's choice
(logs 1, 2). -/
def Obligations.ResetState : Prop :=
  (∀ n, ((State.reset).slotAt n).phase = .idle ∧ ((State.reset).slotAt n).t = Task.reset)
  ∧ Task.reset.status = 1 ∧ Task.reset.tcmp = 0xFFFFFFFFFFFFFFFF
  ∧ (Task.reset.tvec, Task.reset.tepc, Task.reset.tcause, Task.reset.tval, Task.reset.tstatus, Task.reset.tprefix, Task.reset.tscratch) = (0, 0, 0, 0, 0, 0, 0)
  ∧ (Task.reset.iemask, Task.reset.fflags, Task.reset.member, Task.reset.lineage, Task.reset.ctxid, Task.reset.prio, Task.reset.stealdom, Task.reset.peerfail) = (0, 0, 0, 0, 0, 0, 0, 0)
  ∧ Task.reset.windepth = 1 ∧ Task.reset.frame.size = 8 ∧ (∀ k, Task.reset.eregs.get 0 k = 0) ∧ (∀ r, plainRead Task.reset r = 0)
  ∧ (∀ c, ((State.reset).coreAt c).peertab = Vector.replicate 16 0 ∧ ((State.reset).coreAt c).trcctl = 0)
  ∧ (∀ a, isFull State.reset a = true ∧ readByte State.reset a = 0)
  ∧ (∀ c i, (accOf ((State.reset).clusterAt c) i).owner = none ∧ (accOf ((State.reset).clusterAt c) i).valid = false)
  ∧ (∀ d i, ((State.reset).dieAt d).slotTab.get 0 i = 0 ∧ ((State.reset).dieAt d).ctxTab.get 0 i = 0)
  ∧ (State.reset).boot = .start ∧ State.canonical State.reset = true
end

