-- ==== Sys2Proof/Laws/Mem.lean ====
section
/-!
SUPPORT. Laws of sparse maps, of memory bytes and of the list of empty granules: a read after a write, what a write leaves alone, and
the canonical form that every memory operation keeps.
-/
namespace Sys2Proof

/-! ## Sparse maps -/

theorem SMap.get_erase (d : α) (m : SMap α) (k j : Nat) :
    SMap.get d (SMap.erase m k) j = if j = k then d else SMap.get d m j := by
  induction m with
  | nil => simp [SMap.erase, SMap.get]
  | cons e m ih =>
    obtain ⟨k', v⟩ := e
    by_cases h : k' = k
    · subst h
      rw [show SMap.erase ((k', v) :: m) k' = SMap.erase m k' by simp [SMap.erase], ih]
      by_cases hj : j = k'
      · simp [hj]
      · simp [SMap.get, hj, Ne.symm hj]
    · simp only [SMap.erase, if_neg h, SMap.get, ih]
      by_cases hj : k' = j
      · subst hj; simp [h]
      · simp [hj]

theorem SMap.get_insert (d : α) (m : SMap α) (k j : Nat) (v : α) :
    SMap.get d (SMap.insert (SMap.erase m k) k v) j = if j = k then v else SMap.get d m j := by
  induction m with
  | nil =>
    by_cases hj : j = k
    · simp [SMap.erase, SMap.insert, SMap.get, hj]
    · simp [SMap.erase, SMap.insert, SMap.get, hj, Ne.symm hj]
  | cons e m ih =>
    obtain ⟨k', w⟩ := e
    by_cases h : k' = k
    · subst h
      rw [show SMap.erase ((k', w) :: m) k' = SMap.erase m k' by simp [SMap.erase], ih]
      by_cases hj : j = k'
      · simp [hj]
      · simp [SMap.get, hj, Ne.symm hj]
    · simp only [SMap.erase, if_neg h, SMap.insert]
      by_cases hlt : k < k'
      · simp only [if_pos hlt, SMap.get, SMap.get_erase]
        by_cases hj : j = k
        · simp [hj]
        · simp [hj, Ne.symm hj]
      · simp only [if_neg hlt, SMap.get, ih]
        by_cases hj : k' = j
        · subst hj; simp [h]
        · simp [hj]

/-- A read of a map after a write. -/
theorem SMap.get_set [DecidableEq α] (d : α) (m : SMap α) (k j : Nat) (v : α) :
    SMap.get d (SMap.set d m k v) j = if j = k then v else SMap.get d m j := by
  unfold SMap.set
  split
  · next h => subst h; exact SMap.get_erase _ m k j
  · exact SMap.get_insert d m k j v

@[simp] theorem SMap.get_set_same [DecidableEq α] (d : α) (m : SMap α) (k : Nat) (v : α) :
    SMap.get d (SMap.set d m k v) k = v := by simp [SMap.get_set]

theorem SMap.get_set_other [DecidableEq α] (d : α) (m : SMap α) {k j : Nat} (v : α) (h : j ≠ k) :
    SMap.get d (SMap.set d m k v) j = SMap.get d m j := by simp [SMap.get_set, h]

theorem SMap.rising_weaken (m : SMap α) {lo : Nat} {lo' : Option Nat} (h : ∀ b, lo' = some b → b ≤ lo)
    (hm : SMap.rising (some lo) m = true) : SMap.rising lo' m = true := by
  cases m with
  | nil => rfl
  | cons e m =>
    obtain ⟨k, v⟩ := e
    simp only [SMap.rising, Bool.and_eq_true, decide_eq_true_eq] at hm ⊢
    refine ⟨?_, hm.2⟩
    cases lo' with
    | none => rfl
    | some b => simpa using lt_of_le_of_lt (h b rfl) hm.1

theorem SMap.rising_erase (m : SMap α) (lo : Option Nat) (k : Nat) (hm : SMap.rising lo m = true) :
    SMap.rising lo (SMap.erase m k) = true := by
  induction m generalizing lo with
  | nil => rfl
  | cons e m ih =>
    obtain ⟨k', v⟩ := e
    simp only [SMap.rising, Bool.and_eq_true] at hm
    by_cases h : k' = k
    · simp only [SMap.erase, if_pos h]
      refine ih lo (SMap.rising_weaken m ?_ hm.2)
      intro b hb
      subst hb
      exact le_of_lt (by simpa using hm.1)
    · simp only [SMap.erase, if_neg h, SMap.rising, Bool.and_eq_true]
      exact ⟨hm.1, ih _ hm.2⟩

theorem SMap.rising_insert (m : SMap α) (lo : Option Nat) (k : Nat) (v : α) (hm : SMap.rising lo m = true)
    (hk : ∀ e ∈ m, e.1 ≠ k) (hlo : ∀ b, lo = some b → b < k) : SMap.rising lo (SMap.insert m k v) = true := by
  induction m generalizing lo with
  | nil =>
    simp only [SMap.insert, SMap.rising, Bool.and_true]
    cases lo with
    | none => rfl
    | some b => simpa using hlo b rfl
  | cons e m ih =>
    obtain ⟨k', w⟩ := e
    simp only [SMap.rising, Bool.and_eq_true] at hm
    by_cases h : k < k'
    · simp only [SMap.insert, if_pos h, SMap.rising, Bool.and_eq_true, decide_eq_true_eq]
      refine ⟨?_, h, hm.2⟩
      cases lo with
      | none => rfl
      | some b => simpa using hlo b rfl
    · have hne : k' ≠ k := hk (k', w) (by simp)
      simp only [SMap.insert, if_neg h, SMap.rising, Bool.and_eq_true]
      refine ⟨hm.1, ih _ hm.2 (fun e he => hk e (by simp [he])) ?_⟩
      intro b hb
      cases hb
      omega

theorem SMap.erase_keys (m : SMap α) (k : Nat) : ∀ e ∈ SMap.erase m k, e.1 ≠ k := by
  induction m with
  | nil => simp [SMap.erase]
  | cons p m ih =>
    obtain ⟨k', v⟩ := p
    by_cases h : k' = k
    · simpa [SMap.erase, h] using ih
    · intro e he
      simp only [SMap.erase, if_neg h, List.mem_cons] at he
      rcases he with rfl | he
      · exact h
      · exact ih e he

theorem SMap.mem_erase (m : SMap α) (k : Nat) : ∀ e ∈ SMap.erase m k, e ∈ m := by
  induction m with
  | nil => simp [SMap.erase]
  | cons p m ih =>
    obtain ⟨k', v⟩ := p
    by_cases h : k' = k
    · intro e he
      simp only [SMap.erase, if_pos h] at he
      exact List.mem_cons_of_mem _ (ih e he)
    · intro e he
      simp only [SMap.erase, if_neg h, List.mem_cons] at he ⊢
      rcases he with rfl | he
      · exact Or.inl rfl
      · exact Or.inr (ih e he)

theorem SMap.mem_insert (m : SMap α) (k : Nat) (v : α) : ∀ e ∈ SMap.insert m k v, e = (k, v) ∨ e ∈ m := by
  induction m with
  | nil => simp [SMap.insert]
  | cons p m ih =>
    obtain ⟨k', w⟩ := p
    intro e he
    by_cases h : k < k'
    · simpa [SMap.insert, h] using he
    · simp only [SMap.insert, if_neg h, List.mem_cons] at he ⊢
      rcases he with rfl | he
      · exact Or.inr (Or.inl rfl)
      · rcases ih e he with h1 | h1
        · exact Or.inl h1
        · exact Or.inr (Or.inr h1)

/-- A write keeps the canonical form. -/
theorem SMap.wf_set [DecidableEq α] (d : α) (m : SMap α) (k : Nat) (v : α) (hm : SMap.wf d m = true) :
    SMap.wf d (SMap.set d m k v) = true := by
  simp only [SMap.wf, Bool.and_eq_true, List.all_eq_true, decide_eq_true_eq] at hm ⊢
  unfold SMap.set
  split
  · exact ⟨SMap.rising_erase _ _ _ hm.1, fun e he => hm.2 e (SMap.mem_erase _ _ e he)⟩
  · next hv =>
    refine ⟨SMap.rising_insert _ _ _ _ (SMap.rising_erase _ _ _ hm.1) (SMap.erase_keys m k) (by simp), ?_⟩
    intro e he
    rcases SMap.mem_insert _ _ _ e he with rfl | he
    · exact hv
    · exact hm.2 e (SMap.mem_erase _ _ e he)

namespace Machine

/-! ## Bytes of memory -/

theorem readByte_writeByte (s : State) (a b : Nat) (v : Byte) :
    readByte (writeByte s a v) b = if b = a then v else readByte s b := SMap.get_set _ _ _ _ _

@[simp] theorem readByte_writeByte_same (s : State) (a : Nat) (v : Byte) : readByte (writeByte s a v) a = v := by
  simp [readByte_writeByte]

/-- Writing bytes leaves every byte outside the range alone (R169). -/
theorem readByte_writeBytes_outside (s : State) (a b : Nat) (bs : List Byte) (h : b < a ∨ a + bs.length ≤ b) :
    readByte (writeBytes s a bs) b = readByte s b := by
  induction bs generalizing s a with
  | nil => rfl
  | cons x bs ih =>
    simp only [List.length_cons] at h
    simp only [writeBytes]
    rw [ih _ _ (by omega), readByte_writeByte, if_neg (by omega)]

/-- A byte inside the range of a write reads as the byte written. -/
theorem readByte_writeBytes_inside (s : State) (a i : Nat) (bs : List Byte) (h : i < bs.length) :
    readByte (writeBytes s a bs) (a + i) = bs[i] := by
  induction bs generalizing s a i with
  | nil => simp at h
  | cons x bs ih =>
    simp only [writeBytes]
    cases i with
    | zero => rw [readByte_writeBytes_outside _ _ _ _ (by omega)]; simp
    | succ i =>
      have := ih (writeByte s a x) (a + 1) i (by simpa using h)
      rw [show a + 1 + i = a + (i + 1) by omega] at this
      simpa using this

theorem readBytes_eq (s t : State) (a n : Nat) (h : ∀ b, a ≤ b → b < a + n → readByte s b = readByte t b) :
    readBytes s a n = readBytes t a n := by
  induction n generalizing a with
  | zero => rfl
  | succ n ih =>
    simp only [readBytes]
    rw [h a (le_refl a) (by omega), ih (a + 1) (fun b h1 h2 => h b (by omega) (by omega))]

/-- Reading back the bytes written. -/
theorem readBytes_writeBytes (s : State) (a : Nat) (bs : List Byte) : readBytes (writeBytes s a bs) a bs.length = bs := by
  induction bs generalizing s a with
  | nil => rfl
  | cons x bs ih =>
    simp only [List.length_cons, readBytes, writeBytes, ih]
    rw [readByte_writeBytes_outside _ _ _ _ (by omega)]
    simp

@[simp] theorem bytesOf_length (n v : Nat) : (bytesOf n v).length = n := by
  induction n generalizing v with
  | zero => rfl
  | succ n ih => simp [bytesOf, ih]

theorem natOf_bytesOf (n v : Nat) : natOf (bytesOf n v) = v % 256 ^ n := by
  induction n generalizing v with
  | zero => simp [bytesOf, natOf, Nat.mod_one]
  | succ n ih =>
    have h := Nat.mod_mul (x := v) (a := 256) (b := 256 ^ n)
    rw [← Nat.pow_succ'] at h
    simp only [bytesOf, natOf, ih, BitVec.toNat_ofNat]
    exact h.symm

/-! Correcting a word (R288) and noticing an error at a read (R292) change no byte. -/

@[simp] theorem healWords_mem (s : State) (a n : Nat) : (healWords s a n).mem = s.mem := rfl
@[simp] theorem readByte_healWords (s : State) (a n b : Nat) : readByte (healWords s a n) b = readByte s b := rfl
@[simp] theorem noteRead_mem (s : State) (f : Nat → EccEvent) (a n : Nat) : (noteRead s f a n).mem = s.mem := rfl
@[simp] theorem readByte_noteRead (s : State) (f : Nat → EccEvent) (a n b : Nat) : readByte (noteRead s f a n) b = readByte s b := rfl

/-- A number written little-endian reads back, modulo its width (R6). -/
theorem readNat_writeNat (s : State) (a n v : Nat) : readNat (writeNat s a n v) a n = v % 256 ^ n := by
  unfold readNat writeNat
  have := readBytes_writeBytes (healWords s a n) a (bytesOf n v)
  rw [bytesOf_length] at this
  rw [this, natOf_bytesOf]

theorem readByte_writeNat_outside (s : State) (a n v b : Nat) (h : b < a ∨ a + n ≤ b) :
    readByte (writeNat s a n v) b = readByte s b := by
  unfold writeNat
  rw [readByte_writeBytes_outside _ _ _ _ (by simpa using h), readByte_healWords]

/-- A word written reads back. -/
theorem readWord_writeWord (s : State) (a : Nat) (v : Word) : readWord (writeWord s a v) a = v := by
  unfold readWord writeWord
  rw [readNat_writeNat]
  apply BitVec.eq_of_toNat_eq
  have := v.isLt
  simp only [BitVec.toNat_ofNat]
  omega

theorem readByte_writeWord_outside (s : State) (a : Nat) (v : Word) (b : Nat) (h : b < a ∨ a + 8 ≤ b) :
    readByte (writeWord s a v) b = readByte s b := readByte_writeNat_outside _ _ _ _ _ h

/-! ## The canonical form -/

theorem wf_writeByte (s : State) (a : Nat) (v : Byte) (h : Memory.wf s.mem = true) : Memory.wf (writeByte s a v).mem = true :=
  SMap.wf_set _ _ _ _ h

theorem wf_writeBytes (s : State) (a : Nat) (bs : List Byte) (h : Memory.wf s.mem = true) :
    Memory.wf (writeBytes s a bs).mem = true := by
  induction bs generalizing s a with
  | nil => exact h
  | cons x bs ih => exact ih _ _ (wf_writeByte s a x h)

theorem wf_writeNat (s : State) (a n v : Nat) (h : Memory.wf s.mem = true) : Memory.wf (writeNat s a n v).mem = true :=
  wf_writeBytes _ _ _ h

theorem wf_writeWord (s : State) (a : Nat) (v : Word) (h : Memory.wf s.mem = true) : Memory.wf (writeWord s a v).mem = true :=
  wf_writeBytes _ _ _ h

theorem wf_writeWords (s : State) (a : Nat) (ws : List Word) (h : Memory.wf s.mem = true) :
    Memory.wf (writeWords s a ws).mem = true := wf_writeBytes _ _ _ h

theorem reset_memory_wf : Memory.wf State.reset.mem = true := rfl

/-! ## Empty granules -/

theorem risingList_tail {x : Nat} {xs : List Nat} (h : risingList (x :: xs) = true) : risingList xs = true := by
  cases xs with
  | nil => rfl
  | cons y ys => simp only [risingList, Bool.and_eq_true] at h; exact h.2

theorem risingList_head_lt {x : Nat} {xs : List Nat} (h : risingList (x :: xs) = true) : ∀ y ∈ xs, x < y := by
  induction xs generalizing x with
  | nil => simp
  | cons z zs ih =>
    simp only [risingList, Bool.and_eq_true, decide_eq_true_eq] at h
    intro y hy
    rcases List.mem_cons.mp hy with rfl | hy
    · exact h.1
    · exact lt_trans h.1 (ih h.2 y hy)

theorem risingList_cons {x : Nat} {xs : List Nat} (h : risingList xs = true) (hx : ∀ y ∈ xs, x < y) : risingList (x :: xs) = true := by
  cases xs with
  | nil => rfl
  | cons y ys => simp only [risingList, Bool.and_eq_true, decide_eq_true_eq]; exact ⟨hx y (by simp), h⟩

theorem mem_listInsert {xs : List Nat} {n y : Nat} : y ∈ listInsert xs n ↔ y = n ∨ y ∈ xs := by
  induction xs with
  | nil => simp [listInsert]
  | cons x xs ih =>
    simp only [listInsert]
    split
    · simp
    · split
      · next h => subst h; simp
      · simp only [List.mem_cons, ih]; tauto

theorem risingList_listInsert (xs : List Nat) (n : Nat) (h : risingList xs = true) : risingList (listInsert xs n) = true := by
  induction xs with
  | nil => rfl
  | cons x xs ih =>
    have hx := risingList_head_lt h
    simp only [listInsert]
    split
    · next hlt =>
      refine risingList_cons h ?_
      intro y hy
      rcases List.mem_cons.mp hy with rfl | hy
      · exact hlt
      · exact lt_trans hlt (hx y hy)
    · split
      · exact h
      · refine risingList_cons (ih (risingList_tail h)) ?_
        intro y hy
        rcases mem_listInsert.mp hy with rfl | hy
        · omega
        · exact hx y hy

theorem risingList_filter (p : Nat → Bool) (xs : List Nat) (h : risingList xs = true) : risingList (xs.filter p) = true := by
  induction xs with
  | nil => rfl
  | cons x xs ih =>
    have hx := risingList_head_lt h
    by_cases hp : p x
    · simp only [List.filter_cons, hp, if_true]
      exact risingList_cons (ih (risingList_tail h)) (fun y hy => hx y (List.mem_filter.mp hy).1)
    · simp only [List.filter_cons, hp]
      exact ih (risingList_tail h)

/-- Setting a granule full or empty keeps the list rising. -/
theorem rising_setFull (s : State) (a : Nat) (h : risingList s.empty = true) : risingList (setFull s a).empty = true :=
  risingList_filter _ _ h

theorem rising_setEmpty (s : State) (a : Nat) (h : risingList s.empty = true) : risingList (setEmpty s a).empty = true :=
  risingList_listInsert _ _ h

/-- A granule set empty is empty, one set full is full, and no other granule changes (R143). -/
theorem isFull_setEmpty (s : State) (a b : Nat) : isFull (setEmpty s a) b = (isFull s b && decide (b / 16 ≠ a / 16)) := by
  have e : (listInsert s.empty (a / 16)).contains (b / 16) = (decide (b / 16 = a / 16) || s.empty.contains (b / 16)) := by
    rw [Bool.eq_iff_iff]
    simp [mem_listInsert]
  simp only [isFull, setEmpty, e, Bool.not_or, decide_not, Bool.and_comm]

theorem isFull_setFull (s : State) (a b : Nat) : isFull (setFull s a) b = (isFull s b || decide (b / 16 = a / 16)) := by
  have e : (s.empty.filter (· ≠ a / 16)).contains (b / 16) = (s.empty.contains (b / 16) && decide (b / 16 ≠ a / 16)) := by
    rw [Bool.eq_iff_iff]
    simp
  simp only [isFull, setFull]
  rw [e]
  by_cases h : b / 16 = a / 16 <;> simp [h]

end Machine

end Sys2Proof
end

