-- ==== Sys2Proof/Laws/State.lean ====
section
/-!
SUPPORT. What each update of a part of the state leaves alone, field by field, and what a part reads as after an update of its own.
-/
namespace Sys2Proof.Machine

/-! ## State.setT -/

@[simp] theorem State.setT_cur (s : State) (t : Task) : (s.setT t).cur = s.cur := rfl
@[simp] theorem State.setT_others (s : State) (t : Task) : (s.setT t).others = s.others := rfl
@[simp] theorem State.setT_cores (s : State) (t : Task) : (s.setT t).cores = s.cores := rfl
@[simp] theorem State.setT_clusters (s : State) (t : Task) : (s.setT t).clusters = s.clusters := rfl
@[simp] theorem State.setT_dies (s : State) (t : Task) : (s.setT t).dies = s.dies := rfl
@[simp] theorem State.setT_mem (s : State) (t : Task) : (s.setT t).mem = s.mem := rfl
@[simp] theorem State.setT_empty (s : State) (t : Task) : (s.setT t).empty = s.empty := rfl
@[simp] theorem State.setT_armed (s : State) (t : Task) : (s.setT t).armed = s.armed := rfl
@[simp] theorem State.setT_own (s : State) (t : Task) : (s.setT t).own = s.own := rfl
@[simp] theorem State.setT_claims (s : State) (t : Task) : (s.setT t).claims = s.claims := rfl
@[simp] theorem State.setT_held (s : State) (t : Task) : (s.setT t).held = s.held := rfl
@[simp] theorem State.setT_replies (s : State) (t : Task) : (s.setT t).replies = s.replies := rfl
@[simp] theorem State.setT_remote (s : State) (t : Task) : (s.setT t).remote = s.remote := rfl
@[simp] theorem State.setT_engData (s : State) (t : Task) : (s.setT t).engData = s.engData := rfl
@[simp] theorem State.setT_answered (s : State) (t : Task) : (s.setT t).answered = s.answered := rfl
@[simp] theorem State.setT_farWaits (s : State) (t : Task) : (s.setT t).farWaits = s.farWaits := rfl
@[simp] theorem State.setT_farWatches (s : State) (t : Task) : (s.setT t).farWatches = s.farWatches := rfl
@[simp] theorem State.setT_farParked (s : State) (t : Task) : (s.setT t).farParked = s.farParked := rfl
@[simp] theorem State.setT_flaws (s : State) (t : Task) : (s.setT t).flaws = s.flaws := rfl
@[simp] theorem State.setT_watches (s : State) (t : Task) : (s.setT t).watches = s.watches := rfl
@[simp] theorem State.setT_barriers (s : State) (t : Task) : (s.setT t).barriers = s.barriers := rfl
@[simp] theorem State.setT_arrivals (s : State) (t : Task) : (s.setT t).arrivals = s.arrivals := rfl
@[simp] theorem State.setT_deliveries (s : State) (t : Task) : (s.setT t).deliveries = s.deliveries := rfl
@[simp] theorem State.setT_chunks (s : State) (t : Task) : (s.setT t).chunks = s.chunks := rfl
@[simp] theorem State.setT_filters (s : State) (t : Task) : (s.setT t).filters = s.filters := rfl
@[simp] theorem State.setT_tlb (s : State) (t : Task) : (s.setT t).tlb = s.tlb := rfl
@[simp] theorem State.setT_inflight (s : State) (t : Task) : (s.setT t).inflight = s.inflight := rfl
@[simp] theorem State.setT_ferryMsgs (s : State) (t : Task) : (s.setT t).ferryMsgs = s.ferryMsgs := rfl
@[simp] theorem State.setT_devid (s : State) (t : Task) : (s.setT t).devid = s.devid := rfl
@[simp] theorem State.setT_tstamp (s : State) (t : Task) : (s.setT t).tstamp = s.tstamp := rfl
@[simp] theorem State.setT_boot (s : State) (t : Task) : (s.setT t).boot = s.boot := rfl
@[simp] theorem State.setT_measure (s : State) (t : Task) : (s.setT t).measure = s.measure := rfl
@[simp] theorem State.setT_flash (s : State) (t : Task) : (s.setT t).flash = s.flash := rfl
@[simp] theorem State.setT_fuseKey (s : State) (t : Task) : (s.setT t).fuseKey = s.fuseKey := rfl
@[simp] theorem State.setT_fuseVersion (s : State) (t : Task) : (s.setT t).fuseVersion = s.fuseVersion := rfl
@[simp] theorem State.setT_stopped (s : State) (t : Task) : (s.setT t).stopped = s.stopped := rfl
@[simp] theorem State.setT_images (s : State) (t : Task) : (s.setT t).images = s.images := rfl
@[simp] theorem State.setT_failed (s : State) (t : Task) : (s.setT t).failed = s.failed := rfl
@[simp] theorem State.setT_retiring (s : State) (t : Task) : (s.setT t).retiring = s.retiring := rfl
@[simp] theorem State.setT_fatal (s : State) (t : Task) : (s.setT t).fatal = s.fatal := rfl
@[simp] theorem State.setT_fatalTime (s : State) (t : Task) : (s.setT t).fatalTime = s.fatalTime := rfl
@[simp] theorem State.setT_faint (s : State) (t : Task) : (s.setT t).faint = s.faint := rfl
@[simp] theorem State.setT_spoiled (s : State) (t : Task) : (s.setT t).spoiled = s.spoiled := rfl
@[simp] theorem State.setT_errors (s : State) (t : Task) : (s.setT t).errors = s.errors := rfl
@[simp] theorem State.setT_version (s : State) (t : Task) : (s.setT t).version = s.version := rfl
@[simp] theorem State.setT_hostIrq (s : State) (t : Task) : (s.setT t).hostIrq = s.hostIrq := rfl
@[simp] theorem State.setT_attest (s : State) (t : Task) : (s.setT t).attest = s.attest := rfl
@[simp] theorem State.setT_hostRead (s : State) (t : Task) : (s.setT t).hostRead = s.hostRead := rfl
@[simp] theorem State.setT_nextCid (s : State) (t : Task) : (s.setT t).nextCid = s.nextCid := rfl
@[simp] theorem State.setT_agenda (s : State) (t : Task) : (s.setT t).agenda = s.agenda := rfl
@[simp] theorem State.setT_turn (s : State) (t : Task) : (s.setT t).turn = s.turn := rfl
@[simp] theorem State.setT_rotor (s : State) (t : Task) : (s.setT t).rotor = s.rotor := rfl
@[simp] theorem State.setT_elapse (s : State) (t : Task) : (s.setT t).elapse = s.elapse := rfl
@[simp] theorem State.setT_freeCtr (s : State) (t : Task) : (s.setT t).freeCtr = s.freeCtr := rfl

/-! ## State.setCore -/

@[simp] theorem State.setCore_cur (s : State) (c : Nat) (x : Core) : (s.setCore c x).cur = s.cur := rfl
@[simp] theorem State.setCore_slot (s : State) (c : Nat) (x : Core) : (s.setCore c x).slot = s.slot := rfl
@[simp] theorem State.setCore_others (s : State) (c : Nat) (x : Core) : (s.setCore c x).others = s.others := rfl
@[simp] theorem State.setCore_clusters (s : State) (c : Nat) (x : Core) : (s.setCore c x).clusters = s.clusters := rfl
@[simp] theorem State.setCore_dies (s : State) (c : Nat) (x : Core) : (s.setCore c x).dies = s.dies := rfl
@[simp] theorem State.setCore_mem (s : State) (c : Nat) (x : Core) : (s.setCore c x).mem = s.mem := rfl
@[simp] theorem State.setCore_empty (s : State) (c : Nat) (x : Core) : (s.setCore c x).empty = s.empty := rfl
@[simp] theorem State.setCore_armed (s : State) (c : Nat) (x : Core) : (s.setCore c x).armed = s.armed := rfl
@[simp] theorem State.setCore_own (s : State) (c : Nat) (x : Core) : (s.setCore c x).own = s.own := rfl
@[simp] theorem State.setCore_claims (s : State) (c : Nat) (x : Core) : (s.setCore c x).claims = s.claims := rfl
@[simp] theorem State.setCore_held (s : State) (c : Nat) (x : Core) : (s.setCore c x).held = s.held := rfl
@[simp] theorem State.setCore_replies (s : State) (c : Nat) (x : Core) : (s.setCore c x).replies = s.replies := rfl
@[simp] theorem State.setCore_remote (s : State) (c : Nat) (x : Core) : (s.setCore c x).remote = s.remote := rfl
@[simp] theorem State.setCore_engData (s : State) (c : Nat) (x : Core) : (s.setCore c x).engData = s.engData := rfl
@[simp] theorem State.setCore_answered (s : State) (c : Nat) (x : Core) : (s.setCore c x).answered = s.answered := rfl
@[simp] theorem State.setCore_farWaits (s : State) (c : Nat) (x : Core) : (s.setCore c x).farWaits = s.farWaits := rfl
@[simp] theorem State.setCore_farWatches (s : State) (c : Nat) (x : Core) : (s.setCore c x).farWatches = s.farWatches := rfl
@[simp] theorem State.setCore_farParked (s : State) (c : Nat) (x : Core) : (s.setCore c x).farParked = s.farParked := rfl
@[simp] theorem State.setCore_flaws (s : State) (c : Nat) (x : Core) : (s.setCore c x).flaws = s.flaws := rfl
@[simp] theorem State.setCore_watches (s : State) (c : Nat) (x : Core) : (s.setCore c x).watches = s.watches := rfl
@[simp] theorem State.setCore_barriers (s : State) (c : Nat) (x : Core) : (s.setCore c x).barriers = s.barriers := rfl
@[simp] theorem State.setCore_arrivals (s : State) (c : Nat) (x : Core) : (s.setCore c x).arrivals = s.arrivals := rfl
@[simp] theorem State.setCore_deliveries (s : State) (c : Nat) (x : Core) : (s.setCore c x).deliveries = s.deliveries := rfl
@[simp] theorem State.setCore_chunks (s : State) (c : Nat) (x : Core) : (s.setCore c x).chunks = s.chunks := rfl
@[simp] theorem State.setCore_filters (s : State) (c : Nat) (x : Core) : (s.setCore c x).filters = s.filters := rfl
@[simp] theorem State.setCore_tlb (s : State) (c : Nat) (x : Core) : (s.setCore c x).tlb = s.tlb := rfl
@[simp] theorem State.setCore_inflight (s : State) (c : Nat) (x : Core) : (s.setCore c x).inflight = s.inflight := rfl
@[simp] theorem State.setCore_ferryMsgs (s : State) (c : Nat) (x : Core) : (s.setCore c x).ferryMsgs = s.ferryMsgs := rfl
@[simp] theorem State.setCore_devid (s : State) (c : Nat) (x : Core) : (s.setCore c x).devid = s.devid := rfl
@[simp] theorem State.setCore_tstamp (s : State) (c : Nat) (x : Core) : (s.setCore c x).tstamp = s.tstamp := rfl
@[simp] theorem State.setCore_boot (s : State) (c : Nat) (x : Core) : (s.setCore c x).boot = s.boot := rfl
@[simp] theorem State.setCore_measure (s : State) (c : Nat) (x : Core) : (s.setCore c x).measure = s.measure := rfl
@[simp] theorem State.setCore_flash (s : State) (c : Nat) (x : Core) : (s.setCore c x).flash = s.flash := rfl
@[simp] theorem State.setCore_fuseKey (s : State) (c : Nat) (x : Core) : (s.setCore c x).fuseKey = s.fuseKey := rfl
@[simp] theorem State.setCore_fuseVersion (s : State) (c : Nat) (x : Core) : (s.setCore c x).fuseVersion = s.fuseVersion := rfl
@[simp] theorem State.setCore_stopped (s : State) (c : Nat) (x : Core) : (s.setCore c x).stopped = s.stopped := rfl
@[simp] theorem State.setCore_images (s : State) (c : Nat) (x : Core) : (s.setCore c x).images = s.images := rfl
@[simp] theorem State.setCore_failed (s : State) (c : Nat) (x : Core) : (s.setCore c x).failed = s.failed := rfl
@[simp] theorem State.setCore_retiring (s : State) (c : Nat) (x : Core) : (s.setCore c x).retiring = s.retiring := rfl
@[simp] theorem State.setCore_fatal (s : State) (c : Nat) (x : Core) : (s.setCore c x).fatal = s.fatal := rfl
@[simp] theorem State.setCore_fatalTime (s : State) (c : Nat) (x : Core) : (s.setCore c x).fatalTime = s.fatalTime := rfl
@[simp] theorem State.setCore_faint (s : State) (c : Nat) (x : Core) : (s.setCore c x).faint = s.faint := rfl
@[simp] theorem State.setCore_spoiled (s : State) (c : Nat) (x : Core) : (s.setCore c x).spoiled = s.spoiled := rfl
@[simp] theorem State.setCore_errors (s : State) (c : Nat) (x : Core) : (s.setCore c x).errors = s.errors := rfl
@[simp] theorem State.setCore_version (s : State) (c : Nat) (x : Core) : (s.setCore c x).version = s.version := rfl
@[simp] theorem State.setCore_hostIrq (s : State) (c : Nat) (x : Core) : (s.setCore c x).hostIrq = s.hostIrq := rfl
@[simp] theorem State.setCore_attest (s : State) (c : Nat) (x : Core) : (s.setCore c x).attest = s.attest := rfl
@[simp] theorem State.setCore_hostRead (s : State) (c : Nat) (x : Core) : (s.setCore c x).hostRead = s.hostRead := rfl
@[simp] theorem State.setCore_nextCid (s : State) (c : Nat) (x : Core) : (s.setCore c x).nextCid = s.nextCid := rfl
@[simp] theorem State.setCore_agenda (s : State) (c : Nat) (x : Core) : (s.setCore c x).agenda = s.agenda := rfl
@[simp] theorem State.setCore_turn (s : State) (c : Nat) (x : Core) : (s.setCore c x).turn = s.turn := rfl
@[simp] theorem State.setCore_rotor (s : State) (c : Nat) (x : Core) : (s.setCore c x).rotor = s.rotor := rfl
@[simp] theorem State.setCore_elapse (s : State) (c : Nat) (x : Core) : (s.setCore c x).elapse = s.elapse := rfl
@[simp] theorem State.setCore_freeCtr (s : State) (c : Nat) (x : Core) : (s.setCore c x).freeCtr = s.freeCtr := rfl

/-! ## State.setCluster -/

@[simp] theorem State.setCluster_cur (s : State) (c : Nat) (x : Cluster) : (s.setCluster c x).cur = s.cur := rfl
@[simp] theorem State.setCluster_slot (s : State) (c : Nat) (x : Cluster) : (s.setCluster c x).slot = s.slot := rfl
@[simp] theorem State.setCluster_others (s : State) (c : Nat) (x : Cluster) : (s.setCluster c x).others = s.others := rfl
@[simp] theorem State.setCluster_cores (s : State) (c : Nat) (x : Cluster) : (s.setCluster c x).cores = s.cores := rfl
@[simp] theorem State.setCluster_dies (s : State) (c : Nat) (x : Cluster) : (s.setCluster c x).dies = s.dies := rfl
@[simp] theorem State.setCluster_mem (s : State) (c : Nat) (x : Cluster) : (s.setCluster c x).mem = s.mem := rfl
@[simp] theorem State.setCluster_empty (s : State) (c : Nat) (x : Cluster) : (s.setCluster c x).empty = s.empty := rfl
@[simp] theorem State.setCluster_armed (s : State) (c : Nat) (x : Cluster) : (s.setCluster c x).armed = s.armed := rfl
@[simp] theorem State.setCluster_own (s : State) (c : Nat) (x : Cluster) : (s.setCluster c x).own = s.own := rfl
@[simp] theorem State.setCluster_claims (s : State) (c : Nat) (x : Cluster) : (s.setCluster c x).claims = s.claims := rfl
@[simp] theorem State.setCluster_held (s : State) (c : Nat) (x : Cluster) : (s.setCluster c x).held = s.held := rfl
@[simp] theorem State.setCluster_replies (s : State) (c : Nat) (x : Cluster) : (s.setCluster c x).replies = s.replies := rfl
@[simp] theorem State.setCluster_remote (s : State) (c : Nat) (x : Cluster) : (s.setCluster c x).remote = s.remote := rfl
@[simp] theorem State.setCluster_engData (s : State) (c : Nat) (x : Cluster) : (s.setCluster c x).engData = s.engData := rfl
@[simp] theorem State.setCluster_answered (s : State) (c : Nat) (x : Cluster) : (s.setCluster c x).answered = s.answered := rfl
@[simp] theorem State.setCluster_farWaits (s : State) (c : Nat) (x : Cluster) : (s.setCluster c x).farWaits = s.farWaits := rfl
@[simp] theorem State.setCluster_farWatches (s : State) (c : Nat) (x : Cluster) : (s.setCluster c x).farWatches = s.farWatches := rfl
@[simp] theorem State.setCluster_farParked (s : State) (c : Nat) (x : Cluster) : (s.setCluster c x).farParked = s.farParked := rfl
@[simp] theorem State.setCluster_flaws (s : State) (c : Nat) (x : Cluster) : (s.setCluster c x).flaws = s.flaws := rfl
@[simp] theorem State.setCluster_watches (s : State) (c : Nat) (x : Cluster) : (s.setCluster c x).watches = s.watches := rfl
@[simp] theorem State.setCluster_barriers (s : State) (c : Nat) (x : Cluster) : (s.setCluster c x).barriers = s.barriers := rfl
@[simp] theorem State.setCluster_arrivals (s : State) (c : Nat) (x : Cluster) : (s.setCluster c x).arrivals = s.arrivals := rfl
@[simp] theorem State.setCluster_deliveries (s : State) (c : Nat) (x : Cluster) : (s.setCluster c x).deliveries = s.deliveries := rfl
@[simp] theorem State.setCluster_chunks (s : State) (c : Nat) (x : Cluster) : (s.setCluster c x).chunks = s.chunks := rfl
@[simp] theorem State.setCluster_filters (s : State) (c : Nat) (x : Cluster) : (s.setCluster c x).filters = s.filters := rfl
@[simp] theorem State.setCluster_tlb (s : State) (c : Nat) (x : Cluster) : (s.setCluster c x).tlb = s.tlb := rfl
@[simp] theorem State.setCluster_inflight (s : State) (c : Nat) (x : Cluster) : (s.setCluster c x).inflight = s.inflight := rfl
@[simp] theorem State.setCluster_ferryMsgs (s : State) (c : Nat) (x : Cluster) : (s.setCluster c x).ferryMsgs = s.ferryMsgs := rfl
@[simp] theorem State.setCluster_devid (s : State) (c : Nat) (x : Cluster) : (s.setCluster c x).devid = s.devid := rfl
@[simp] theorem State.setCluster_tstamp (s : State) (c : Nat) (x : Cluster) : (s.setCluster c x).tstamp = s.tstamp := rfl
@[simp] theorem State.setCluster_boot (s : State) (c : Nat) (x : Cluster) : (s.setCluster c x).boot = s.boot := rfl
@[simp] theorem State.setCluster_measure (s : State) (c : Nat) (x : Cluster) : (s.setCluster c x).measure = s.measure := rfl
@[simp] theorem State.setCluster_flash (s : State) (c : Nat) (x : Cluster) : (s.setCluster c x).flash = s.flash := rfl
@[simp] theorem State.setCluster_fuseKey (s : State) (c : Nat) (x : Cluster) : (s.setCluster c x).fuseKey = s.fuseKey := rfl
@[simp] theorem State.setCluster_fuseVersion (s : State) (c : Nat) (x : Cluster) : (s.setCluster c x).fuseVersion = s.fuseVersion := rfl
@[simp] theorem State.setCluster_stopped (s : State) (c : Nat) (x : Cluster) : (s.setCluster c x).stopped = s.stopped := rfl
@[simp] theorem State.setCluster_images (s : State) (c : Nat) (x : Cluster) : (s.setCluster c x).images = s.images := rfl
@[simp] theorem State.setCluster_failed (s : State) (c : Nat) (x : Cluster) : (s.setCluster c x).failed = s.failed := rfl
@[simp] theorem State.setCluster_retiring (s : State) (c : Nat) (x : Cluster) : (s.setCluster c x).retiring = s.retiring := rfl
@[simp] theorem State.setCluster_fatal (s : State) (c : Nat) (x : Cluster) : (s.setCluster c x).fatal = s.fatal := rfl
@[simp] theorem State.setCluster_fatalTime (s : State) (c : Nat) (x : Cluster) : (s.setCluster c x).fatalTime = s.fatalTime := rfl
@[simp] theorem State.setCluster_faint (s : State) (c : Nat) (x : Cluster) : (s.setCluster c x).faint = s.faint := rfl
@[simp] theorem State.setCluster_spoiled (s : State) (c : Nat) (x : Cluster) : (s.setCluster c x).spoiled = s.spoiled := rfl
@[simp] theorem State.setCluster_errors (s : State) (c : Nat) (x : Cluster) : (s.setCluster c x).errors = s.errors := rfl
@[simp] theorem State.setCluster_version (s : State) (c : Nat) (x : Cluster) : (s.setCluster c x).version = s.version := rfl
@[simp] theorem State.setCluster_hostIrq (s : State) (c : Nat) (x : Cluster) : (s.setCluster c x).hostIrq = s.hostIrq := rfl
@[simp] theorem State.setCluster_attest (s : State) (c : Nat) (x : Cluster) : (s.setCluster c x).attest = s.attest := rfl
@[simp] theorem State.setCluster_hostRead (s : State) (c : Nat) (x : Cluster) : (s.setCluster c x).hostRead = s.hostRead := rfl
@[simp] theorem State.setCluster_nextCid (s : State) (c : Nat) (x : Cluster) : (s.setCluster c x).nextCid = s.nextCid := rfl
@[simp] theorem State.setCluster_agenda (s : State) (c : Nat) (x : Cluster) : (s.setCluster c x).agenda = s.agenda := rfl
@[simp] theorem State.setCluster_turn (s : State) (c : Nat) (x : Cluster) : (s.setCluster c x).turn = s.turn := rfl
@[simp] theorem State.setCluster_rotor (s : State) (c : Nat) (x : Cluster) : (s.setCluster c x).rotor = s.rotor := rfl
@[simp] theorem State.setCluster_elapse (s : State) (c : Nat) (x : Cluster) : (s.setCluster c x).elapse = s.elapse := rfl
@[simp] theorem State.setCluster_freeCtr (s : State) (c : Nat) (x : Cluster) : (s.setCluster c x).freeCtr = s.freeCtr := rfl

/-! ## State.setDie -/

@[simp] theorem State.setDie_cur (s : State) (d : Nat) (x : Die) : (s.setDie d x).cur = s.cur := rfl
@[simp] theorem State.setDie_slot (s : State) (d : Nat) (x : Die) : (s.setDie d x).slot = s.slot := rfl
@[simp] theorem State.setDie_others (s : State) (d : Nat) (x : Die) : (s.setDie d x).others = s.others := rfl
@[simp] theorem State.setDie_cores (s : State) (d : Nat) (x : Die) : (s.setDie d x).cores = s.cores := rfl
@[simp] theorem State.setDie_clusters (s : State) (d : Nat) (x : Die) : (s.setDie d x).clusters = s.clusters := rfl
@[simp] theorem State.setDie_mem (s : State) (d : Nat) (x : Die) : (s.setDie d x).mem = s.mem := rfl
@[simp] theorem State.setDie_empty (s : State) (d : Nat) (x : Die) : (s.setDie d x).empty = s.empty := rfl
@[simp] theorem State.setDie_armed (s : State) (d : Nat) (x : Die) : (s.setDie d x).armed = s.armed := rfl
@[simp] theorem State.setDie_own (s : State) (d : Nat) (x : Die) : (s.setDie d x).own = s.own := rfl
@[simp] theorem State.setDie_claims (s : State) (d : Nat) (x : Die) : (s.setDie d x).claims = s.claims := rfl
@[simp] theorem State.setDie_held (s : State) (d : Nat) (x : Die) : (s.setDie d x).held = s.held := rfl
@[simp] theorem State.setDie_replies (s : State) (d : Nat) (x : Die) : (s.setDie d x).replies = s.replies := rfl
@[simp] theorem State.setDie_remote (s : State) (d : Nat) (x : Die) : (s.setDie d x).remote = s.remote := rfl
@[simp] theorem State.setDie_engData (s : State) (d : Nat) (x : Die) : (s.setDie d x).engData = s.engData := rfl
@[simp] theorem State.setDie_answered (s : State) (d : Nat) (x : Die) : (s.setDie d x).answered = s.answered := rfl
@[simp] theorem State.setDie_farWaits (s : State) (d : Nat) (x : Die) : (s.setDie d x).farWaits = s.farWaits := rfl
@[simp] theorem State.setDie_farWatches (s : State) (d : Nat) (x : Die) : (s.setDie d x).farWatches = s.farWatches := rfl
@[simp] theorem State.setDie_farParked (s : State) (d : Nat) (x : Die) : (s.setDie d x).farParked = s.farParked := rfl
@[simp] theorem State.setDie_flaws (s : State) (d : Nat) (x : Die) : (s.setDie d x).flaws = s.flaws := rfl
@[simp] theorem State.setDie_watches (s : State) (d : Nat) (x : Die) : (s.setDie d x).watches = s.watches := rfl
@[simp] theorem State.setDie_barriers (s : State) (d : Nat) (x : Die) : (s.setDie d x).barriers = s.barriers := rfl
@[simp] theorem State.setDie_arrivals (s : State) (d : Nat) (x : Die) : (s.setDie d x).arrivals = s.arrivals := rfl
@[simp] theorem State.setDie_deliveries (s : State) (d : Nat) (x : Die) : (s.setDie d x).deliveries = s.deliveries := rfl
@[simp] theorem State.setDie_chunks (s : State) (d : Nat) (x : Die) : (s.setDie d x).chunks = s.chunks := rfl
@[simp] theorem State.setDie_filters (s : State) (d : Nat) (x : Die) : (s.setDie d x).filters = s.filters := rfl
@[simp] theorem State.setDie_tlb (s : State) (d : Nat) (x : Die) : (s.setDie d x).tlb = s.tlb := rfl
@[simp] theorem State.setDie_inflight (s : State) (d : Nat) (x : Die) : (s.setDie d x).inflight = s.inflight := rfl
@[simp] theorem State.setDie_ferryMsgs (s : State) (d : Nat) (x : Die) : (s.setDie d x).ferryMsgs = s.ferryMsgs := rfl
@[simp] theorem State.setDie_devid (s : State) (d : Nat) (x : Die) : (s.setDie d x).devid = s.devid := rfl
@[simp] theorem State.setDie_tstamp (s : State) (d : Nat) (x : Die) : (s.setDie d x).tstamp = s.tstamp := rfl
@[simp] theorem State.setDie_boot (s : State) (d : Nat) (x : Die) : (s.setDie d x).boot = s.boot := rfl
@[simp] theorem State.setDie_measure (s : State) (d : Nat) (x : Die) : (s.setDie d x).measure = s.measure := rfl
@[simp] theorem State.setDie_flash (s : State) (d : Nat) (x : Die) : (s.setDie d x).flash = s.flash := rfl
@[simp] theorem State.setDie_fuseKey (s : State) (d : Nat) (x : Die) : (s.setDie d x).fuseKey = s.fuseKey := rfl
@[simp] theorem State.setDie_fuseVersion (s : State) (d : Nat) (x : Die) : (s.setDie d x).fuseVersion = s.fuseVersion := rfl
@[simp] theorem State.setDie_stopped (s : State) (d : Nat) (x : Die) : (s.setDie d x).stopped = s.stopped := rfl
@[simp] theorem State.setDie_images (s : State) (d : Nat) (x : Die) : (s.setDie d x).images = s.images := rfl
@[simp] theorem State.setDie_failed (s : State) (d : Nat) (x : Die) : (s.setDie d x).failed = s.failed := rfl
@[simp] theorem State.setDie_retiring (s : State) (d : Nat) (x : Die) : (s.setDie d x).retiring = s.retiring := rfl
@[simp] theorem State.setDie_fatal (s : State) (d : Nat) (x : Die) : (s.setDie d x).fatal = s.fatal := rfl
@[simp] theorem State.setDie_fatalTime (s : State) (d : Nat) (x : Die) : (s.setDie d x).fatalTime = s.fatalTime := rfl
@[simp] theorem State.setDie_faint (s : State) (d : Nat) (x : Die) : (s.setDie d x).faint = s.faint := rfl
@[simp] theorem State.setDie_spoiled (s : State) (d : Nat) (x : Die) : (s.setDie d x).spoiled = s.spoiled := rfl
@[simp] theorem State.setDie_errors (s : State) (d : Nat) (x : Die) : (s.setDie d x).errors = s.errors := rfl
@[simp] theorem State.setDie_version (s : State) (d : Nat) (x : Die) : (s.setDie d x).version = s.version := rfl
@[simp] theorem State.setDie_hostIrq (s : State) (d : Nat) (x : Die) : (s.setDie d x).hostIrq = s.hostIrq := rfl
@[simp] theorem State.setDie_attest (s : State) (d : Nat) (x : Die) : (s.setDie d x).attest = s.attest := rfl
@[simp] theorem State.setDie_hostRead (s : State) (d : Nat) (x : Die) : (s.setDie d x).hostRead = s.hostRead := rfl
@[simp] theorem State.setDie_nextCid (s : State) (d : Nat) (x : Die) : (s.setDie d x).nextCid = s.nextCid := rfl
@[simp] theorem State.setDie_agenda (s : State) (d : Nat) (x : Die) : (s.setDie d x).agenda = s.agenda := rfl
@[simp] theorem State.setDie_turn (s : State) (d : Nat) (x : Die) : (s.setDie d x).turn = s.turn := rfl
@[simp] theorem State.setDie_rotor (s : State) (d : Nat) (x : Die) : (s.setDie d x).rotor = s.rotor := rfl
@[simp] theorem State.setDie_elapse (s : State) (d : Nat) (x : Die) : (s.setDie d x).elapse = s.elapse := rfl
@[simp] theorem State.setDie_freeCtr (s : State) (d : Nat) (x : Die) : (s.setDie d x).freeCtr = s.freeCtr := rfl

/-! ## writeByte -/

@[simp] theorem writeByte_cur (s : State) (a : Nat) (v : Byte) : (writeByte s a v).cur = s.cur := rfl
@[simp] theorem writeByte_slot (s : State) (a : Nat) (v : Byte) : (writeByte s a v).slot = s.slot := rfl
@[simp] theorem writeByte_others (s : State) (a : Nat) (v : Byte) : (writeByte s a v).others = s.others := rfl
@[simp] theorem writeByte_cores (s : State) (a : Nat) (v : Byte) : (writeByte s a v).cores = s.cores := rfl
@[simp] theorem writeByte_clusters (s : State) (a : Nat) (v : Byte) : (writeByte s a v).clusters = s.clusters := rfl
@[simp] theorem writeByte_dies (s : State) (a : Nat) (v : Byte) : (writeByte s a v).dies = s.dies := rfl
@[simp] theorem writeByte_empty (s : State) (a : Nat) (v : Byte) : (writeByte s a v).empty = s.empty := rfl
@[simp] theorem writeByte_armed (s : State) (a : Nat) (v : Byte) : (writeByte s a v).armed = s.armed := rfl
@[simp] theorem writeByte_own (s : State) (a : Nat) (v : Byte) : (writeByte s a v).own = s.own := rfl
@[simp] theorem writeByte_claims (s : State) (a : Nat) (v : Byte) : (writeByte s a v).claims = s.claims := rfl
@[simp] theorem writeByte_held (s : State) (a : Nat) (v : Byte) : (writeByte s a v).held = s.held := rfl
@[simp] theorem writeByte_replies (s : State) (a : Nat) (v : Byte) : (writeByte s a v).replies = s.replies := rfl
@[simp] theorem writeByte_remote (s : State) (a : Nat) (v : Byte) : (writeByte s a v).remote = s.remote := rfl
@[simp] theorem writeByte_engData (s : State) (a : Nat) (v : Byte) : (writeByte s a v).engData = s.engData := rfl
@[simp] theorem writeByte_answered (s : State) (a : Nat) (v : Byte) : (writeByte s a v).answered = s.answered := rfl
@[simp] theorem writeByte_farWaits (s : State) (a : Nat) (v : Byte) : (writeByte s a v).farWaits = s.farWaits := rfl
@[simp] theorem writeByte_farWatches (s : State) (a : Nat) (v : Byte) : (writeByte s a v).farWatches = s.farWatches := rfl
@[simp] theorem writeByte_farParked (s : State) (a : Nat) (v : Byte) : (writeByte s a v).farParked = s.farParked := rfl
@[simp] theorem writeByte_flaws (s : State) (a : Nat) (v : Byte) : (writeByte s a v).flaws = s.flaws := rfl
@[simp] theorem writeByte_watches (s : State) (a : Nat) (v : Byte) : (writeByte s a v).watches = s.watches := rfl
@[simp] theorem writeByte_barriers (s : State) (a : Nat) (v : Byte) : (writeByte s a v).barriers = s.barriers := rfl
@[simp] theorem writeByte_arrivals (s : State) (a : Nat) (v : Byte) : (writeByte s a v).arrivals = s.arrivals := rfl
@[simp] theorem writeByte_deliveries (s : State) (a : Nat) (v : Byte) : (writeByte s a v).deliveries = s.deliveries := rfl
@[simp] theorem writeByte_chunks (s : State) (a : Nat) (v : Byte) : (writeByte s a v).chunks = s.chunks := rfl
@[simp] theorem writeByte_filters (s : State) (a : Nat) (v : Byte) : (writeByte s a v).filters = s.filters := rfl
@[simp] theorem writeByte_tlb (s : State) (a : Nat) (v : Byte) : (writeByte s a v).tlb = s.tlb := rfl
@[simp] theorem writeByte_inflight (s : State) (a : Nat) (v : Byte) : (writeByte s a v).inflight = s.inflight := rfl
@[simp] theorem writeByte_ferryMsgs (s : State) (a : Nat) (v : Byte) : (writeByte s a v).ferryMsgs = s.ferryMsgs := rfl
@[simp] theorem writeByte_devid (s : State) (a : Nat) (v : Byte) : (writeByte s a v).devid = s.devid := rfl
@[simp] theorem writeByte_tstamp (s : State) (a : Nat) (v : Byte) : (writeByte s a v).tstamp = s.tstamp := rfl
@[simp] theorem writeByte_boot (s : State) (a : Nat) (v : Byte) : (writeByte s a v).boot = s.boot := rfl
@[simp] theorem writeByte_measure (s : State) (a : Nat) (v : Byte) : (writeByte s a v).measure = s.measure := rfl
@[simp] theorem writeByte_flash (s : State) (a : Nat) (v : Byte) : (writeByte s a v).flash = s.flash := rfl
@[simp] theorem writeByte_fuseKey (s : State) (a : Nat) (v : Byte) : (writeByte s a v).fuseKey = s.fuseKey := rfl
@[simp] theorem writeByte_fuseVersion (s : State) (a : Nat) (v : Byte) : (writeByte s a v).fuseVersion = s.fuseVersion := rfl
@[simp] theorem writeByte_stopped (s : State) (a : Nat) (v : Byte) : (writeByte s a v).stopped = s.stopped := rfl
@[simp] theorem writeByte_images (s : State) (a : Nat) (v : Byte) : (writeByte s a v).images = s.images := rfl
@[simp] theorem writeByte_failed (s : State) (a : Nat) (v : Byte) : (writeByte s a v).failed = s.failed := rfl
@[simp] theorem writeByte_retiring (s : State) (a : Nat) (v : Byte) : (writeByte s a v).retiring = s.retiring := rfl
@[simp] theorem writeByte_fatal (s : State) (a : Nat) (v : Byte) : (writeByte s a v).fatal = s.fatal := rfl
@[simp] theorem writeByte_fatalTime (s : State) (a : Nat) (v : Byte) : (writeByte s a v).fatalTime = s.fatalTime := rfl
@[simp] theorem writeByte_faint (s : State) (a : Nat) (v : Byte) : (writeByte s a v).faint = s.faint := rfl
@[simp] theorem writeByte_spoiled (s : State) (a : Nat) (v : Byte) : (writeByte s a v).spoiled = s.spoiled := rfl
@[simp] theorem writeByte_errors (s : State) (a : Nat) (v : Byte) : (writeByte s a v).errors = s.errors := rfl
@[simp] theorem writeByte_version (s : State) (a : Nat) (v : Byte) : (writeByte s a v).version = s.version := rfl
@[simp] theorem writeByte_hostIrq (s : State) (a : Nat) (v : Byte) : (writeByte s a v).hostIrq = s.hostIrq := rfl
@[simp] theorem writeByte_attest (s : State) (a : Nat) (v : Byte) : (writeByte s a v).attest = s.attest := rfl
@[simp] theorem writeByte_hostRead (s : State) (a : Nat) (v : Byte) : (writeByte s a v).hostRead = s.hostRead := rfl
@[simp] theorem writeByte_nextCid (s : State) (a : Nat) (v : Byte) : (writeByte s a v).nextCid = s.nextCid := rfl
@[simp] theorem writeByte_agenda (s : State) (a : Nat) (v : Byte) : (writeByte s a v).agenda = s.agenda := rfl
@[simp] theorem writeByte_turn (s : State) (a : Nat) (v : Byte) : (writeByte s a v).turn = s.turn := rfl
@[simp] theorem writeByte_rotor (s : State) (a : Nat) (v : Byte) : (writeByte s a v).rotor = s.rotor := rfl
@[simp] theorem writeByte_elapse (s : State) (a : Nat) (v : Byte) : (writeByte s a v).elapse = s.elapse := rfl
@[simp] theorem writeByte_freeCtr (s : State) (a : Nat) (v : Byte) : (writeByte s a v).freeCtr = s.freeCtr := rfl

theorem writeBytes_other (s : State) (a : Nat) (bs : List Byte) : (writeBytes s a bs) = { s with mem := (writeBytes s a bs).mem } := by
  induction bs generalizing s a with
  | nil => rfl
  | cons x bs ih =>
    rw [writeBytes, ih]
    rfl

/-- Writing bytes changes memory and nothing else. -/
theorem writeBytes_frame (s : State) (a : Nat) (bs : List Byte) : ∃ m, writeBytes s a bs = { s with mem := m } :=
  ⟨_, writeBytes_other s a bs⟩

/-! ## Parts -/

@[simp] theorem State.t_setT (s : State) (t : Task) : (s.setT t).t = t := rfl
@[simp] theorem State.setT_setT (s : State) (t u : Task) : (s.setT t).setT u = s.setT u := rfl
@[simp] theorem State.setT_t (s : State) : s.setT s.t = s := rfl
@[simp] theorem State.coreAt_setCore (s : State) (c d : Nat) (x : Core) :
    (s.setCore c x).coreAt d = if d = c then x else s.coreAt d := SMap.get_set _ _ _ _ _
@[simp] theorem State.clusterAt_setCluster (s : State) (c d : Nat) (x : Cluster) :
    (s.setCluster c x).clusterAt d = if d = c then x else s.clusterAt d := SMap.get_set _ _ _ _ _
@[simp] theorem State.dieAt_setDie (s : State) (c d : Nat) (x : Die) :
    (s.setDie c x).dieAt d = if d = c then x else s.dieAt d := SMap.get_set _ _ _ _ _
@[simp] theorem State.coreAt_setT (s : State) (t : Task) (c : Nat) : (s.setT t).coreAt c = s.coreAt c := rfl
@[simp] theorem State.clusterAt_setT (s : State) (t : Task) (c : Nat) : (s.setT t).clusterAt c = s.clusterAt c := rfl
@[simp] theorem State.dieAt_setT (s : State) (t : Task) (c : Nat) : (s.setT t).dieAt c = s.dieAt c := rfl
@[simp] theorem State.clusterAt_setCore (s : State) (c d : Nat) (x : Core) : (s.setCore c x).clusterAt d = s.clusterAt d := rfl
@[simp] theorem State.dieAt_setCore (s : State) (c d : Nat) (x : Core) : (s.setCore c x).dieAt d = s.dieAt d := rfl
@[simp] theorem State.coreAt_setCluster (s : State) (c d : Nat) (x : Cluster) : (s.setCluster c x).coreAt d = s.coreAt d := rfl
@[simp] theorem State.dieAt_setCluster (s : State) (c d : Nat) (x : Cluster) : (s.setCluster c x).dieAt d = s.dieAt d := rfl
@[simp] theorem State.coreAt_setDie (s : State) (c d : Nat) (x : Die) : (s.setDie c x).coreAt d = s.coreAt d := rfl
@[simp] theorem State.clusterAt_setDie (s : State) (c d : Nat) (x : Die) : (s.setDie c x).clusterAt d = s.clusterAt d := rfl
@[simp] theorem State.t_setCore (s : State) (c : Nat) (x : Core) : (s.setCore c x).t = s.t := rfl
@[simp] theorem State.t_setCluster (s : State) (c : Nat) (x : Cluster) : (s.setCluster c x).t = s.t := rfl
@[simp] theorem State.t_setDie (s : State) (d : Nat) (x : Die) : (s.setDie d x).t = s.t := rfl
@[simp] theorem State.core_setT (s : State) (t : Task) : (s.setT t).core = s.core := rfl

/-- A slot read after a slot is written. -/
theorem State.slotAt_setSlot (s : State) (n m : Nat) (x : Slot) :
    (s.setSlot n x).slotAt m = if m = n then x else s.slotAt m := by
  unfold State.setSlot State.slotAt
  by_cases hn : n = s.cur
  · by_cases hm : m = n <;> simp_all
  · by_cases hm : m = s.cur
    · simp [hn, hm, Ne.symm hn]
    · simp [hn, hm, SMap.get_set]

@[simp] theorem readByte_setT (s : State) (t : Task) (a : Nat) : readByte (s.setT t) a = readByte s a := rfl
@[simp] theorem readByte_setCore (s : State) (c : Nat) (x : Core) (a : Nat) : readByte (s.setCore c x) a = readByte s a := rfl
@[simp] theorem readByte_setCluster (s : State) (c : Nat) (x : Cluster) (a : Nat) : readByte (s.setCluster c x) a = readByte s a := rfl
@[simp] theorem readByte_setDie (s : State) (d : Nat) (x : Die) (a : Nat) : readByte (s.setDie d x) a = readByte s a := rfl

/-! ## Plain registers -/

theorem getWin_setWin (t : Task) (e f : Nat) (v : Word) : getWin (setWin t e v) f = if f % 128 = e % 128 then v else getWin t f := by
  have hf : f % 128 < 128 := Nat.mod_lt _ (by omega)
  unfold getWin setWin
  simp only [getElem!_pos, hf, Vector.getElem_setIfInBounds]
  by_cases h : f % 128 = e % 128
  · simp [h]
  · simp [h, Ne.symm h]

/-- The four places that a code may be written to. -/
theorem plainWrite_cases (t : Task) (r : Reg) (v : Word) :
    (r.toNat = 0 ∧ plainWrite t r v = t)
      ∨ (0 < r.toNat ∧ r.toNat < 8 ∧ plainWrite t r v = { t with globals := t.globals.setIfInBounds (r.toNat - 1) v })
      ∨ (8 ≤ r.toNat ∧ r.toNat < 56 ∧ plainWrite t r v = setWin t (t.entry (r.toNat - 8)) v)
      ∨ (r = 61 ∧ plainWrite t r v = { t with sa := { t.sa with value := v } })
      ∨ (r = 62 ∧ plainWrite t r v = { t with sb := { t.sb with value := v } })
      ∨ (56 ≤ r.toNat ∧ isStream r = false ∧ plainWrite t r v = t) := by
  by_cases h0 : r.toNat = 0
  · left; exact ⟨h0, by simp [plainWrite, h0]⟩
  by_cases h8 : r.toNat < 8
  · right; left; exact ⟨by omega, h8, by simp [plainWrite, h0, h8]⟩
  by_cases h56 : r.toNat < 56
  · right; right; left; exact ⟨by omega, h56, by simp [plainWrite, h0, h8, h56]⟩
  by_cases h1 : r = 61
  · subst h1; right; right; right; left; exact ⟨rfl, rfl⟩
  by_cases h2 : r = 62
  · subst h2; right; right; right; right; left; exact ⟨rfl, rfl⟩
  · right; right; right; right; right
    have hs : isStream r = false := by simp only [isStream, h1, h2, decide_false, Bool.or_self]
    exact ⟨by omega, hs, by simp [plainWrite, h0, h8, h56, hs]⟩

@[simp] theorem plainWrite_frames (t : Task) (r : Reg) (v : Word) : (plainWrite t r v).frames = t.frames := by
  rcases plainWrite_cases t r v with ⟨_, h⟩ | ⟨_, _, h⟩ | ⟨_, _, h⟩ | ⟨_, h⟩ | ⟨_, h⟩ | ⟨_, _, h⟩ <;> simp [h, setWin]

@[simp] theorem plainWrite_entry (t : Task) (r : Reg) (v : Word) (i : Nat) : (plainWrite t r v).entry i = t.entry i := by
  unfold Task.entry Task.frame
  rw [plainWrite_frames]

/-- A write of a code changes nothing of a task but its globals, its window and the values of its streams. -/
theorem plainWrite_frame (t : Task) (r : Reg) (v : Word) :
    ∃ g w a b, plainWrite t r v = { t with globals := g, win := w, sa := { t.sa with value := a }, sb := { t.sb with value := b } } := by
  rcases plainWrite_cases t r v with ⟨_, h⟩ | ⟨_, _, h⟩ | ⟨_, _, h⟩ | ⟨_, h⟩ | ⟨_, h⟩ | ⟨_, _, h⟩ <;> exact ⟨_, _, _, _, h⟩

/-- What a code reads as depends on the globals, the window, the frames and the streams' values only. -/
theorem plainRead_congr {t u : Task} (r : Reg) (hg : t.globals = u.globals) (hw : t.win = u.win) (hf : t.frames = u.frames)
    (ha : t.sa.value = u.sa.value) (hb : t.sb.value = u.sb.value) : plainRead t r = plainRead u r := by
  unfold plainRead getWin Task.entry Task.frame streamOf
  rw [hg, hw, hf]
  by_cases h : r = 62
  · simp only [h, if_true, hb]
  · simp only [h, if_false, ha]

/-- What a code reads as, by its number. -/
theorem plainRead_zero (t : Task) (r : Reg) (h : r.toNat = 0) : plainRead t r = 0 := by simp [plainRead, h]
theorem plainRead_glob (t : Task) (r : Reg) (h : 0 < r.toNat) (h8 : r.toNat < 8) : plainRead t r = t.globals[r.toNat - 1]! := by
  simp [plainRead, show r.toNat ≠ 0 by omega, h8]
theorem plainRead_win (t : Task) (r : Reg) (h : 8 ≤ r.toNat) (h56 : r.toNat < 56) : plainRead t r = getWin t (t.entry (r.toNat - 8)) := by
  simp [plainRead, show r.toNat ≠ 0 by omega, show ¬ r.toNat < 8 by omega, h56]
theorem plainRead_high (t : Task) (r : Reg) (h : 56 ≤ r.toNat) : plainRead t r = if isStream r then (streamOf t r).value else 0 := by
  simp [plainRead, show r.toNat ≠ 0 by omega, show ¬ r.toNat < 8 by omega, show ¬ r.toNat < 56 by omega]

/-- A plain register reads as the value written. -/
theorem plainRead_plainWrite_same (t : Task) (r : Reg) (v : Word) (h0 : r ≠ 0) (hr : r.toNat < 56 ∨ isStream r = true) :
    plainRead (plainWrite t r v) r = v := by
  have hz : r.toNat ≠ 0 := fun h => h0 (BitVec.eq_of_toNat_eq (by simpa using h))
  rcases plainWrite_cases t r v with ⟨h, e⟩ | ⟨h, h8, e⟩ | ⟨h, h56, e⟩ | ⟨h, e⟩ | ⟨h, e⟩ | ⟨h, hs, e⟩
  · exact absurd h hz
  · rw [e, plainRead_glob _ _ h h8]
    have : r.toNat - 1 < 7 := by omega
    simp [getElem!_pos, this]
  · rw [e, plainRead_win _ _ h h56]
    show getWin (setWin t (t.entry (r.toNat - 8)) v) (t.entry (r.toNat - 8)) = v
    simp [getWin_setWin]
  · subst h; rw [e]; rfl
  · subst h; rw [e]; rfl
  · rcases hr with hr | hr
    · omega
    · rw [hs] at hr; cases hr

theorem entry_inj (t : Task) (i j : Nat) (hi : i < 48) (hj : j < 48) (h : t.entry i % 128 = t.entry j % 128) : i = j := by
  unfold Task.entry at h
  omega

/-- A write of a code leaves every other code as it was. -/
theorem plainRead_plainWrite_other (t : Task) (r q : Reg) (v : Word) (h : q ≠ r) :
    plainRead (plainWrite t r v) q = plainRead t q := by
  have hn : q.toNat ≠ r.toNat := fun e => h (BitVec.eq_of_toNat_eq e)
  have hq : q.toNat < 64 := q.isLt
  rcases plainWrite_cases t r v with ⟨_, e⟩ | ⟨a, b, e⟩ | ⟨a, b, e⟩ | ⟨a, e⟩ | ⟨a, e⟩ | ⟨_, _, e⟩
  · rw [e]
  · rw [e]
    by_cases q0 : q.toNat = 0
    · rw [plainRead_zero _ _ q0, plainRead_zero _ _ q0]
    by_cases q8 : q.toNat < 8
    · rw [plainRead_glob _ _ (by omega) q8, plainRead_glob _ _ (by omega) q8]
      have h1 : q.toNat - 1 < 7 := by omega
      have h2 : r.toNat - 1 ≠ q.toNat - 1 := by omega
      simp [getElem!_pos, h1, h2]
    by_cases q56 : q.toNat < 56
    · rw [plainRead_win _ _ (by omega) q56, plainRead_win _ _ (by omega) q56]; rfl
    · rw [plainRead_high _ _ (by omega), plainRead_high _ _ (by omega)]; rfl
  · rw [e]
    by_cases q0 : q.toNat = 0
    · rw [plainRead_zero _ _ q0, plainRead_zero _ _ q0]
    by_cases q8 : q.toNat < 8
    · rw [plainRead_glob _ _ (by omega) q8, plainRead_glob _ _ (by omega) q8]; rfl
    by_cases q56 : q.toNat < 56
    · rw [plainRead_win _ _ (by omega) q56, plainRead_win _ _ (by omega) q56]
      show getWin (setWin t (t.entry (r.toNat - 8)) v) (t.entry (q.toNat - 8)) = _
      rw [getWin_setWin, if_neg]
      intro he
      have := entry_inj t _ _ (by omega) (by omega) he
      omega
    · rw [plainRead_high _ _ (by omega), plainRead_high _ _ (by omega)]; rfl
  · subst a; rw [e]
    by_cases q0 : q.toNat = 0
    · rw [plainRead_zero _ _ q0, plainRead_zero _ _ q0]
    by_cases q8 : q.toNat < 8
    · rw [plainRead_glob _ _ (by omega) q8, plainRead_glob _ _ (by omega) q8]
    by_cases q56 : q.toNat < 56
    · rw [plainRead_win _ _ (by omega) q56, plainRead_win _ _ (by omega) q56]; rfl
    · rw [plainRead_high _ _ (by omega), plainRead_high _ _ (by omega)]
      by_cases q62 : q = 62
      · subst q62; rfl
      · simp only [isStream, h, q62, decide_false, Bool.or_self, Bool.false_eq_true, if_false]
  · subst a; rw [e]
    by_cases q0 : q.toNat = 0
    · rw [plainRead_zero _ _ q0, plainRead_zero _ _ q0]
    by_cases q8 : q.toNat < 8
    · rw [plainRead_glob _ _ (by omega) q8, plainRead_glob _ _ (by omega) q8]
    by_cases q56 : q.toNat < 56
    · rw [plainRead_win _ _ (by omega) q56, plainRead_win _ _ (by omega) q56]; rfl
    · rw [plainRead_high _ _ (by omega), plainRead_high _ _ (by omega)]
      by_cases q61 : q = 61
      · subst q61; rfl
      · simp only [isStream, h, q61, decide_false, Bool.or_self, Bool.false_eq_true, if_false]
  · rw [e]

end Sys2Proof.Machine
end

