-- ==== Sys2Proof/Laws/Ops.lean ====
section
/-!
SUPPORT. What the shared operations do: issuing an instruction, completing it, taking a trap, reading and writing operand codes.
-/
namespace Sys2Proof.Machine

/-! ## Issue -/

/-- An instruction that issues always has a next state. -/
theorem issue_next (i : Instr) (sw : Bool) (u : Use) (body : Vals → State → Eff) (s : State) : ∃ t, issue i sw u body s = .next t := by
  unfold issue
  dsimp only
  split
  · exact ⟨_, rfl⟩
  split
  · exact ⟨_, rfl⟩
  split
  · exact ⟨_, rfl⟩
  split
  · exact ⟨_, rfl⟩
  split
  · exact ⟨_, rfl⟩
  split <;> exact ⟨_, rfl⟩

/-- An instruction that issues runs its own effect on the state whose PC stands at the next instruction. -/
theorem issue_of_issues {i : Instr} {u : Use} {s s1 : State} {v : Vals} (h : Issues i u s s1 v) (sw : Bool) (body : Vals → State → Eff) :
    issue i sw u body s = match body v (advanced s s1) with
      | .ok s2 => .next (conclude i.word sw u s s2)
      | .error e => .next (stopped i.word sw u s s1 e) := by
  have h1 : (!s.t.active && !u.control) = false := by
    have := h.runs
    cases ha : s.t.active <;> cases hc : u.control <;> simp_all
  have h2 : (!readyToIssue s u) = false := by simp [h.ready]
  unfold issue
  simp only [h1, h2, Bool.false_eq_true, if_false, h.legal, h.near, h.reads]
  rfl

/-- The effect succeeds: the instruction completes, or waits for its answers. -/
theorem issue_ok {i : Instr} {u : Use} {s s1 s2 : State} {v : Vals} (h : Issues i u s s1 v) (sw : Bool) {body : Vals → State → Eff}
    (hb : body v (advanced s s1) = .ok s2) : issue i sw u body s = .next (conclude i.word sw u s s2) := by
  rw [issue_of_issues h sw body, hb]

/-- Only a refused address may have met errors in a page table (R289). -/
theorem noteTrap_other (u : Use) (s : State) {c : Cause} (v : Word) (h1 : c ≠ .xlat) (h2 : c ≠ .prot) : noteTrap u s c v = s := by
  simp [noteTrap, h1, h2]

/-- The effect ends in a precise trap. -/
theorem issue_trap {i : Instr} {u : Use} {s s1 : State} {v : Vals} (h : Issues i u s s1 v) (sw : Bool) {body : Vals → State → Eff}
    {c : Cause} {w : Word} (ho : u.own = false) (hb : body v (advanced s s1) = .error (.trap c w)) : issue i sw u body s = .next (takeTrap (noteTrap u s1 c w) c w) := by
  rw [issue_of_issues h sw body, hb]
  simp [stopped, ho]

/-- A check of R102 that fails at issue: the trap is taken in the state at issue. -/
theorem issue_static {i : Instr} {u : Use} {s : State} (sw : Bool) (body : Vals → State → Eff) {c : Cause} {w : Word}
    (ha : (s.t.active || u.control) = true) (hr : readyToIssue s u = true) (hc : staticCheck i u s.t = some (c, w)) :
    issue i sw u body s = .next (takeTrap s c w) := by
  have h1 : (!s.t.active && !u.control) = false := by cases h : s.t.active <;> cases h' : u.control <;> simp_all
  have h2 : (!readyToIssue s u) = false := by simp [hr]
  unfold issue
  simp only [h1, h2, Bool.false_eq_true, if_false, hc]

/-- An instruction that its queues or registers hold up stalls. -/
theorem issue_stalls {i : Instr} {u : Use} {s : State} (sw : Bool) (body : Vals → State → Eff)
    (ha : (s.t.active || u.control) = true) (hr : readyToIssue s u = false) : issue i sw u body s = .next (stalled s) := by
  have h1 : (!s.t.active && !u.control) = false := by cases h : s.t.active <;> cases h' : u.control <;> simp_all
  have h2 : (!readyToIssue s u) = true := by simp [hr]
  unfold issue
  simp only [h1, h2, Bool.false_eq_true, if_false, if_true]

/-! ## Plain operands -/

theorem plainCode_cases {t : Task} {r : Reg} (h : plainCode t r = true) :
    (r.toNat < 56 ∧ outOfFrame t r = false) ∨ (r = 61 ∧ t.sa.armed = false) ∨ (r = 62 ∧ t.sb.armed = false) := by
  simp only [plainCode, Bool.or_eq_true, Bool.and_eq_true, decide_eq_true_eq, Bool.not_eq_true'] at h
  rcases h with h | ⟨h, ha⟩
  · exact Or.inl h
  · simp only [isStream, Bool.or_eq_true, decide_eq_true_eq] at h
    rcases h with rfl | rfl
    · exact Or.inr (Or.inl ⟨rfl, ha⟩)
    · exact Or.inr (Or.inr ⟨rfl, ha⟩)

theorem low_facts {r : Reg} (h : r.toNat < 56) : linkOf r = none ∧ isIb r = false ∧ isEq r = false ∧ isStream r = false := by
  refine ⟨?_, ?_, ?_, ?_⟩
  · unfold linkOf
    split <;> first | omega | rfl
  · simp only [isIb, decide_eq_false_iff_not]; rintro rfl; exact absurd h (by decide)
  · simp only [isEq, decide_eq_false_iff_not]; rintro rfl; exact absurd h (by decide)
  · simp only [isStream, Bool.or_eq_false_iff, decide_eq_false_iff_not]
    constructor <;> (rintro rfl; exact absurd h (by decide))

/-- No queue stands behind a plain code. -/
theorem plain_facts {t : Task} {r : Reg} (h : plainCode t r = true) :
    linkOf r = none ∧ isIb r = false ∧ isEq r = false ∧ (isStream r && (streamOf t r).armed) = false ∧ outOfFrame t r = false := by
  rcases plainCode_cases h with ⟨hl, ho⟩ | ⟨rfl, ha⟩ | ⟨rfl, ha⟩
  · obtain ⟨h1, h2, h3, h4⟩ := low_facts hl
    exact ⟨h1, h2, h3, by simp [h4], ho⟩
  · exact ⟨rfl, rfl, rfl, by show (true && t.sa.armed) = false; simp [ha], rfl⟩
  · exact ⟨rfl, rfl, rfl, by show (true && t.sb.armed) = false; simp [ha], rfl⟩

theorem pops_plain {t : Task} {r : Reg} (h : plainCode t r = true) : pops t r = false := by
  obtain ⟨h1, h2, h3, h4, -⟩ := plain_facts h
  simp [pops, h1, h2, h3, h4]

theorem badWrite_plain {t : Task} {r : Reg} (h : plainCode t r = true) : badWrite t r = false := by
  obtain ⟨-, h2, h3, h4, -⟩ := plain_facts h
  simp [badWrite, h2, h3, h4]

theorem badRead_plain {t : Task} {r : Reg} (h : plainCode t r = true) : badRead t r = false := by
  obtain ⟨-, -, -, h4, -⟩ := plain_facts h
  simp [badRead, h4]

theorem refuses_plain (u : Use) {t : Task} {r : Reg} (h : plainCode t r = true) : u.refuses t r = false := by
  obtain ⟨-, -, h3, -, -⟩ := plain_facts h
  simp [Use.refuses, badRead_plain h, h3]

/-- Reading a plain code changes nothing. -/
theorem readReg_plain (s : State) {r : Reg} (h : plainCode s.t r = true) : readReg s r = .ok (s, plainRead s.t r) := by
  obtain ⟨h1, h2, h3, h4, -⟩ := plain_facts h
  unfold readReg
  simp only [h1, h2, h3, h4, Bool.false_eq_true, if_false]

/-- Writing a plain code is a plain write. -/
theorem putReg_plain (s : State) {r : Reg} (v : Word) (h : plainCode s.t r = true) : putReg s r v = .ok (s.setT (plainWrite s.t r v)) := by
  obtain ⟨h1, -, -, h4, -⟩ := plain_facts h
  unfold putReg
  simp only [h1, badWrite_plain h, h4, Bool.false_eq_true, if_false]

theorem readField_plain (s : State) (r : Option Reg) (held : Option Word) (keep : Task → Word → Task)
    (h : ∀ x ∈ r, plainCode s.t x = true) : readField s r held keep = .ok (s, fieldValue s.t r) := by
  cases r with
  | none => rfl
  | some x =>
    have hx : plainCode s.t x = true := h x rfl
    unfold readField
    simp only [pops_plain hx, Bool.false_eq_true, if_false]
    rfl

theorem gather_plain (s : State) (u : Use) (h : ∀ r ∈ u.reads, plainCode s.t r = true) :
    gather s u = (s, .ok (plainVals s.t u)) := by
  have ha : ∀ x ∈ u.a, plainCode s.t x = true := fun x hx => h x (by simp [Use.reads]; left; simpa using hx)
  have hb : ∀ x ∈ u.b, plainCode s.t x = true := fun x hx => h x (by simp [Use.reads]; right; left; simpa using hx)
  have hc : ∀ x ∈ u.c, plainCode s.t x = true := fun x hx => h x (by simp [Use.reads]; right; right; simpa using hx)
  unfold gather
  simp only [readField_plain s u.a _ _ ha, readField_plain s u.b _ _ hb, readField_plain s u.c _ _ hc]
  rfl

theorem filter_link_plain (t : Task) (l : List Reg) (d : Dir) (h : ∀ r ∈ l, plainCode t r = true) :
    l.filter (fun r => linkOf r = some d) = [] := by
  rw [List.filter_eq_nil_iff]
  intro r hr
  simp [(plain_facts (h r hr)).1]

theorem popped_mem_reads (u : Use) (t : Task) {r : Reg} (h : r ∈ u.popped t) : r ∈ u.reads := by
  unfold Use.popped at h
  unfold Use.reads
  split at h
  · simp at h
  simp only [List.mem_append] at h ⊢
  rcases h with (h | h) | h
  · left; left; split at h <;> simp_all
  · left; right; split at h <;> simp_all
  · right; split at h <;> simp_all

/-- No plain code is a stream of another device. -/
theorem farElement_plain (s : State) (u : Use) (h : ∀ r ∈ u.reads, plainCode s.t r = true) : farElement s u = none := by
  unfold farElement
  rw [List.findSome?_eq_none_iff]
  intro r hr
  obtain ⟨-, -, -, h4, -⟩ := plain_facts (h r (popped_mem_reads u s.t hr))
  simp [h4]

/-- With plain codes only, and nothing in its way, an instruction issues. -/
theorem issues_plain {i : Instr} {u : Use} {s : State} (hs : Calm s) (ha : (s.t.active || u.control) = true)
    (hr : ∀ r ∈ u.reads ++ u.d, plainCode s.t r = true)
    (hw : i.wellFormed = true) (hm : u.mixed .dflt = false) (hf : u.fmtOk .dflt = true)
    (hp : u.priv = true → s.t.status.getLsbD 0 = true) :
    Issues i u s s (plainVals s.t u) := by
  have hreads : ∀ r ∈ u.reads, plainCode s.t r = true := fun r h => hr r (List.mem_append_left _ h)
  have hds : ∀ r ∈ u.d, plainCode s.t r = true := fun r h => hr r (List.mem_append_right _ h)
  refine ⟨hs.awake, ha, ?_, ?_, farElement_plain s u hreads, gather_plain s u hreads⟩
  · have h1 : linksReady s u = true := by
      unfold linksReady
      rw [List.all_eq_true]
      intro d _
      rw [filter_link_plain s.t _ d (fun r h => hreads r (popped_mem_reads u s.t h)), filter_link_plain s.t _ d hds]
      simp
    have h2 : scoreboardClear s.t u = true := by simp [scoreboardClear, hs.none_pending]
    have h3 : forwardRoom s = true := by simp [forwardRoom, forwardTo, hs.no_followers]
    simp [readyToIssue, h1, h2, h3]
  · have hfmt : s.t.fmt = FmtWord.dflt := by simp [Task.fmt, hs.no_prefix]
    have e1 : (u.reads ++ u.d).find? (outOfFrame s.t) = none := by
      rw [List.find?_eq_none]; intro r h; simp [(plain_facts (hr r h)).2.2.2.2]
    have e2 : u.d.find? (badWrite s.t) = none := by
      rw [List.find?_eq_none]; intro r h; simp [badWrite_plain (hds r h)]
    have e3 : u.reads.find? (u.refuses s.t) = none := by
      rw [List.find?_eq_none]; intro r h; simp [refuses_plain u (hreads r h)]
    have hpr : (u.priv && !s.t.status.getLsbD 0) = false := by
      cases h : u.priv
      · rfl
      · simp [hp h]
    unfold staticCheck
    simp only [Task.badPrefix, hs.no_prefix, hw, hfmt, hm, hf, hpr, e1, e2, e3, Bool.false_and, Bool.false_eq_true, if_false, Bool.not_true,
      Bool.or_false, Option.map_none]

/-! ## Completion -/

/-- An instruction that does not wait for answers completes when its effect has come about. -/
theorem conclude_completes {word : IWord} {sw : Bool} {u : Use} {s s2 : State} (ha : s2.t.wait ≠ some .answer)
    (ht : s2.t.wait ≠ some .tile) : conclude word sw u s s2 = issued sw (complete word sw u s s2) := by
  simp [conclude, ha, ht]

/-- Issuing moves nothing but the issue port of the core. -/
theorem issued_frame (sw : Bool) (s : State) :
    ∃ cs, issued sw s = { s with cores := cs } ∧ ∀ c, portless (cs.get .reset c) = portless (s.coreAt c) := by
  refine ⟨_, rfl, fun c => ?_⟩
  simp only [State.coreAt, State.core, SMap.get_set]
  split
  · next h => rw [h]; rfl
  · rfl

/-- A stall moves nothing but the issue port of the core. -/
theorem stalled_frame (s : State) :
    ∃ cs, stalled s = { s with cores := cs } ∧ ∀ c, portless (cs.get .reset c) = portless (s.coreAt c) := by
  refine ⟨_, rfl, fun c => ?_⟩
  simp only [State.coreAt, State.core, SMap.get_set]
  split
  · next h => rw [h]; rfl
  · rfl

/-- What a completed instruction of a calm slot leaves beyond its own effect: the held words are gone, the prefix is used up, and a
marked one may park on its outstanding results. -/
theorem complete_calm {s : State} (hs : Calm s) (word : IWord) (sw : Bool) (u : Use) (s2 : State) (hr : u.ret = false)
    (hk : u.keepPfx = false) :
    ∃ (wt : Option Wait) (hq : Bool),
      complete word sw u s s2 =
        { s2 with
          slot := { s2.slot with
            haltReq := hq,
            t := { s2.t with
              heldA := none, heldB := none, heldC := none, fetched := [], pass := none, met := false,
              seq := s2.t.seq + 1, status := s2.t.status &&& 3, wait := wt } } }
      ∧ (sw = false → wt = s2.t.wait) := by
  have hf : forwardTo s.t = [] := by simp [forwardTo, hs.no_followers]
  have hl : s.t.follows = false := by simp [Task.follows, hs.no_leader]
  unfold complete
  simp only [hf, hl, hr, hk, List.filter_nil, forward, List.foldl_nil, Bool.false_and, Bool.or_false, Bool.false_eq_true, if_false]
  cases sw with
  | false => exact ⟨_, _, rfl, fun _ => rfl⟩
  | true =>
    simp only [Bool.true_and]
    split
    · exact ⟨some .marker, _, rfl, by simp⟩
    · exact ⟨_, _, rfl, by simp⟩

/-- The same of the whole conclusion: besides, only the issue port moves. -/
theorem conclude_calm {s : State} (hs : Calm s) (word : IWord) (sw : Bool) (u : Use) (s2 : State) (hr : u.ret = false)
    (hk : u.keepPfx = false) (ha : s2.t.wait ≠ some .answer) (ht : s2.t.wait ≠ some .tile) :
    ∃ (wt : Option Wait) (hq : Bool) (cs : SMap Core),
      conclude word sw u s s2 =
        { s2 with
          cores := cs,
          slot := { s2.slot with
            haltReq := hq,
            t := { s2.t with
              heldA := none, heldB := none, heldC := none, fetched := [], pass := none, met := false,
              seq := s2.t.seq + 1, status := s2.t.status &&& 3, wait := wt } } }
      ∧ (∀ c, portless (cs.get .reset c) = portless (s2.coreAt c))
      ∧ (sw = false → wt = s2.t.wait) := by
  obtain ⟨wt, hq, h, hw⟩ := complete_calm hs word sw u s2 hr hk
  obtain ⟨cs, h1, h2⟩ := issued_frame sw (complete word sw u s s2)
  refine ⟨wt, hq, cs, ?_, ?_, hw⟩
  · rw [conclude_completes ha ht, h1, h]
  · intro c; rw [h2 c, h]; rfl

end Sys2Proof.Machine
end

