-- ==== Sys2Proof/Tests/Slice0.lean ====
section
/-!
SUPPORT. Tests: words written out from the encoding tables of spec/04_encoding.md; well-formedness, with a term that each check refuses;
one step on small states, with results from the chapters or by hand; and, for every statement that has hypotheses, states and operands
that meet them (the theorems whose names begin with wit).
-/
open Sys2Proof Sys2Proof.Machine
namespace Sys2Proof.Tests
set_option Elab.async false

/-! ## A small state -/

/-- The machine after boot, slot 0 running a task in supervisor mode. -/
def base : State := { State.reset with boot := .ready, slot := { Slot.reset with phase := .running } }

/-- A state with its slot's task changed. -/
def baseWith (f : Task → Task) : State := base.setT (f base.t)

/-- Values written to codes. -/
def regs (l : List (Reg × Word)) : State := baseWith (fun t => l.foldl (fun t p => plainWrite t p.1 p.2) t)

/-- The state after an instruction. -/
def run1 (i : Instr) (s : State) : State := after (exec i s) s

theorem calm_of {s : State}
    (h : s.t.wait = none ∧ s.t.pend = [] ∧ s.t.hasPrefix = false ∧ s.t.followers = [] ∧ s.t.leader = none) : Calm s :=
  ⟨h.1, h.2.1, h.2.2.1, h.2.2.2.1, h.2.2.2.2⟩

theorem goes_of {i : Instr} {u : Use} {s : State}
    (h : s.t.wait = none ∧ s.t.pend = [] ∧ s.t.followers = [] ∧ s.t.leader = none ∧ (s.t.active || u.control) = true
      ∧ staticCheck i u s.t = none ∧ ∀ r ∈ u.reads ++ u.d, plainCode s.t r = true) : Goes i u s :=
  ⟨h.1, h.2.1, h.2.2.1, h.2.2.2.1, h.2.2.2.2.1, h.2.2.2.2.2.1, h.2.2.2.2.2.2⟩

/-- The state and the value of an outcome that is no stop. -/
def stOf {ε α : Type} (r : Except ε (State × α)) : State :=
  match r with
  | .ok p => p.1
  | .error _ => State.reset

def gives {ε α : Type} [DecidableEq α] (r : Except ε (State × α)) (x : α) : Bool :=
  match r with
  | .ok p => decide (p.2 = x)
  | .error _ => false

theorem ok_of {ε α : Type} [DecidableEq α] {r : Except ε (State × α)} {x : α} (h : gives r x = true) : r = .ok (stOf r, x) := by
  cases r with
  | error e => simp [gives] at h
  | ok p => obtain ⟨p1, p2⟩ := p; simp only [gives, decide_eq_true_eq] at h; subst h; rfl

def effSt (r : Eff) : State :=
  match r with
  | .ok s => s
  | .error _ => State.reset

def isOk {ε α : Type} (r : Except ε α) : Bool :=
  match r with
  | .ok _ => true
  | .error _ => false

theorem eff_of {r : Eff} (h : isOk r = true) : r = .ok (effSt r) := by
  cases r with
  | error e => simp [isOk] at h
  | ok p => rfl

/-- An address check that gives physical memory at pa. -/
def locatesAt (r : Except Cause (State × Place)) (pa : Nat) : Bool :=
  match r with
  | .ok (_, .mem p _) => decide (p = pa)
  | _ => false

theorem located_of {r : Except Cause (State × Place)} {pa : Nat} (h : locatesAt r pa = true) : ∃ s2 fl, r = .ok (s2, .mem pa fl) := by
  match r, h with
  | .ok (s2, .mem p fl), h => simp only [locatesAt, decide_eq_true_eq] at h; subst h; exact ⟨s2, fl, rfl⟩
  | .ok (_, .ro _ _), h => simp [locatesAt] at h
  | .ok (_, .reg _ _), h => simp [locatesAt] at h
  | .ok (_, .remote _), h => simp [locatesAt] at h
  | .error _, h => simp [locatesAt] at h

theorem reaches_of {s : State} {k : Access} {a : Word} {size align : Nat} {sc : Option (BitVec 2)} {q : BitVec 2} {writes : Bool} {pa : Nat}
    (h : locatesAt (locate s s.asker k a size align sc q) pa = true ∧ dataMatch s.slot [(a, writes)] = none
      ∧ outstandingCore s s.core < 64 ∧ owned s pa size = false ∧ s.held = [] ∧ s.replies = [] ∧ s.inflight = []
      ∧ (writes = true → inArmed s pa size = false)) :
    Reaches s k a size align sc q writes pa :=
  ⟨located_of h.1, h.2.1, h.2.2.1, h.2.2.2.1, h.2.2.2.2.1, h.2.2.2.2.2.1, h.2.2.2.2.2.2.1, h.2.2.2.2.2.2.2⟩

/-- The operand fields give three words. -/
def gathers (r : State × Except Stop Vals) (a b c : Word) : Bool :=
  match r.2 with
  | .ok v => decide (v.a = a ∧ v.b = b ∧ v.c = c)
  | .error _ => false

theorem issues_of {i : Instr} {u : Use} {s : State} {a b c : Word}
    (h : s.t.wait = none ∧ (s.t.active || u.control) = true ∧ readyToIssue s u = true ∧ staticCheck i u s.t = none
      ∧ (farElement s u).isNone = true ∧ gathers (gather s u) a b c = true) :
    Issues i u s (gather s u).1 ⟨a, b, c⟩ := by
  refine ⟨h.1, h.2.1, h.2.2.1, h.2.2.2.1, Option.isNone_iff_eq_none.mp h.2.2.2.2.1, ?_⟩
  have hg := h.2.2.2.2.2
  generalize gather s u = g at hg ⊢
  obtain ⟨s1, r⟩ := g
  cases r with
  | error e => simp [gathers] at hg
  | ok v => obtain ⟨x, y, z⟩ := v; simp [gathers] at hg; obtain ⟨rfl, rfl, rfl⟩ := hg; rfl

/-- Bytes put into memory. -/
def poke (s : State) (a n v : Nat) : State := writeNat s a n v


/-- R82, R89: the integer group, fn by fn. -/
theorem test_decode_integer :
    decodeWord 0b000001_001011_001100_010101_0000000_0 = .ok (.add 11 12 21 false)
  ∧ decodeWord 0b000001_001011_001100_010101_0000001_1 = .ok (.sub 11 12 21 true)
  ∧ decodeWord 0b000001_001011_001100_010101_0000010_0 = .ok (.and 11 12 21 false)
  ∧ decodeWord 0b000001_001011_001100_010101_0000011_1 = .ok (.or 11 12 21 true)
  ∧ decodeWord 0b000001_001011_001100_010101_0000100_0 = .ok (.xor 11 12 21 false)
  ∧ decodeWord 0b000001_001011_001100_010101_0000101_1 = .ok (.shl 11 12 21 true)
  ∧ decodeWord 0b000001_001011_001100_010101_0000110_0 = .ok (.shr 11 12 21 false)
  ∧ decodeWord 0b000001_001011_001100_010101_0000111_1 = .ok (.sra 11 12 21 true)
  ∧ decodeWord 0b000001_001011_001100_010101_0001000_0 = .ok (.slt 11 12 21 false)
  ∧ decodeWord 0b000001_001011_001100_010101_0001001_1 = .ok (.sltu 11 12 21 true)
  ∧ decodeWord 0b000001_001011_001100_010101_0001010_0 = .ok (.min 11 12 21 false)
  ∧ decodeWord 0b000001_001011_001100_010101_0001011_1 = .ok (.max 11 12 21 true)
  ∧ decodeWord 0b000001_001011_001100_010101_0001100_0 = .ok (.minu 11 12 21 false)
  ∧ decodeWord 0b000001_001011_001100_010101_0001101_1 = .ok (.maxu 11 12 21 true)
  ∧ decodeWord 0b000001_001011_001100_010101_0001110_0 = .ok (.sel 11 12 21 false)
  ∧ decodeWord 0b000001_001011_001100_010101_0001111_1 = .ok (.mix 11 12 21 true)
  ∧ decodeWord 0b000001_001011_001100_000000_0010000_0 = .ok (.clz 11 12 false)
  ∧ decodeWord 0b000001_001011_001100_000000_0010001_0 = .ok (.ctz 11 12 false)
  ∧ decodeWord 0b000001_001011_001100_000000_0010010_0 = .ok (.popc 11 12 false)
  ∧ decodeWord 0b000001_001011_001100_010101_0100000_0 = .ok (.mul 11 12 21 false)
  ∧ decodeWord 0b000001_001011_001100_010101_0100001_0 = .ok (.mulh 11 12 21 false)
  ∧ decodeWord 0b000001_001011_001100_010101_0100010_0 = .ok (.mulhu 11 12 21 false)
  ∧ decodeWord 0b000001_001011_001100_010101_0100100_0 = .ok (.div 11 12 21 false)
  ∧ decodeWord 0b000001_001011_001100_010101_0100101_0 = .ok (.divu 11 12 21 false)
  ∧ decodeWord 0b000001_001011_001100_010101_0100110_0 = .ok (.rem 11 12 21 false)
  ∧ decodeWord 0b000001_001011_001100_010101_0100111_0 = .ok (.remu 11 12 21 false) := by decide +kernel

/-- R82, R83, R87: the immediate instructions. -/
theorem test_decode_immediate :
    decodeWord 0b000010_001011_001100_1111111111101_1 = .ok (.addi 11 12 0x1FFD true)
  ∧ decodeWord 0b000011_001011_001100_1111111111101_1 = .ok (.andi 11 12 0x1FFD true)
  ∧ decodeWord 0b000100_001011_001100_1111111111101_1 = .ok (.ori 11 12 0x1FFD true)
  ∧ decodeWord 0b000101_001011_001100_1111111111101_1 = .ok (.xori 11 12 0x1FFD true)
  ∧ decodeWord 0b000110_001011_001100_1111111111101_1 = .ok (.slti 11 12 0x1FFD true)
  ∧ decodeWord 0b000111_001011_001100_1111111111101_1 = .ok (.sltiu 11 12 0x1FFD true)
  ∧ decodeWord 0b001000_001011_001100_0000000101011_0 = .ok (.shli 11 12 0x2B false)
  ∧ decodeWord 0b001001_001011_001100_0000000101011_0 = .ok (.shri 11 12 0x2B false)
  ∧ decodeWord 0b001010_001011_001100_0000000101011_0 = .ok (.srai 11 12 0x2B false)
  ∧ decodeWord 0b001011_001011_1000000000000000001_0 = .ok (.lui 11 0x40001 false)
  ∧ decodeWord 0b001100_001011_1000000000000000001_0 = .ok (.addpc 11 0x40001 false)
  ∧ decodeWord 0b001101_001011_001100_0001000010000_0 = .ok (.bfx 11 12 16 8 false)
  ∧ decodeWord 0b001110_001011_001100_0001000010000_0 = .ok (.bfi 11 12 16 8 false)
  ∧ decodeWord 0b101001_000000_000000_0000000010000_0 = .ok (.enter 16 false)
  ∧ decodeWord 0b101010_000000_000000_0000000110000_0 = .ok (.shrink 48 false) := by decide +kernel

/-- R82, R83, R85, R87: the loads and stores. -/
theorem test_decode_memory :
    decodeWord 0b010000_001011_001100_11111111110_00_0 = .ok (.ldb 11 12 0x7FE 0 false)
  ∧ decodeWord 0b010001_001011_001100_11111111110_01_0 = .ok (.ldbu 11 12 0x7FE 1 false)
  ∧ decodeWord 0b010010_001011_001100_11111111110_10_0 = .ok (.ldh 11 12 0x7FE 2 false)
  ∧ decodeWord 0b010011_001011_001100_11111111110_00_0 = .ok (.ldhu 11 12 0x7FE 0 false)
  ∧ decodeWord 0b010100_001011_001100_11111111110_01_0 = .ok (.ldw 11 12 0x7FE 1 false)
  ∧ decodeWord 0b010101_001011_001100_11111111110_10_0 = .ok (.ldwu 11 12 0x7FE 2 false)
  ∧ decodeWord 0b010110_001011_001100_11111111110_00_0 = .ok (.ldd 11 12 0x7FE 0 false)
  ∧ decodeWord 0b010111_001011_001100_11111111110_01_0 = .ok (.stb 11 12 0x7FE 1 false)
  ∧ decodeWord 0b011000_001011_001100_11111111110_10_0 = .ok (.sth 11 12 0x7FE 2 false)
  ∧ decodeWord 0b011001_001011_001100_11111111110_00_0 = .ok (.stw 11 12 0x7FE 0 false)
  ∧ decodeWord 0b011010_001011_001100_11111111110_01_0 = .ok (.std 11 12 0x7FE 1 false) := by decide +kernel

/-- R90: the atomics and the full/empty group. -/
theorem test_decode_atomic :
    decodeWord 0b011101_001011_001100_010101_0000000_0 = .ok (.amoAdd 11 12 21 0 false false)
  ∧ decodeWord 0b011101_001011_001100_010101_0001011_0 = .ok (.amoAnd 11 12 21 1 true false)
  ∧ decodeWord 0b011101_001011_001100_010101_0010100_0 = .ok (.amoOr 11 12 21 2 false false)
  ∧ decodeWord 0b011101_001011_001100_010101_0011111_0 = .ok (.amoXor 11 12 21 3 true false)
  ∧ decodeWord 0b011101_001011_001100_010101_0100000_0 = .ok (.amoMin 11 12 21 0 false false)
  ∧ decodeWord 0b011101_001011_001100_010101_0101011_0 = .ok (.amoMax 11 12 21 1 true false)
  ∧ decodeWord 0b011101_001011_001100_010101_0110100_0 = .ok (.amoMinu 11 12 21 2 false false)
  ∧ decodeWord 0b011101_001011_001100_010101_0111111_0 = .ok (.amoMaxu 11 12 21 3 true false)
  ∧ decodeWord 0b011101_001011_001100_010101_1000000_0 = .ok (.amoSwap 11 12 21 0 false false)
  ∧ decodeWord 0b011101_001011_001100_010101_1001110_0 = .ok (.amoFadd32 11 12 21 3 false)
  ∧ decodeWord 0b011101_001011_001100_010101_1010100_0 = .ok (.amoNib 11 12 21 2 false)
  ∧ decodeWord 0b011110_001011_001100_010101_0000011_0 = .ok (.cas 11 12 21 1 true false)
  ∧ decodeWord 0b011111_001011_001100_000000_0000000_0 = .ok (.feget 11 12 false)
  ∧ decodeWord 0b011111_000000_001100_000000_0000001_0 = .ok (.feset 12 false)
  ∧ decodeWord 0b011111_000000_001100_000000_0000010_0 = .ok (.feclr 12 false) := by decide +kernel

/-- R82, R83, R87, R91: branches, calls, masks. -/
theorem test_decode_control :
    decodeWord 0b100000_001011_001100_1111111111111_0 = .ok (.beq 11 12 0x1FFF false)
  ∧ decodeWord 0b100001_001011_001100_1111111111111_0 = .ok (.bne 11 12 0x1FFF false)
  ∧ decodeWord 0b100010_001011_001100_1111111111111_0 = .ok (.blt 11 12 0x1FFF false)
  ∧ decodeWord 0b100011_001011_001100_1111111111111_0 = .ok (.bge 11 12 0x1FFF false)
  ∧ decodeWord 0b100100_001011_001100_1111111111111_0 = .ok (.bltu 11 12 0x1FFF false)
  ∧ decodeWord 0b100101_001011_001100_1111111111111_0 = .ok (.bgeu 11 12 0x1FFF false)
  ∧ decodeWord 0b100110_1111111111111111111111110_0 = .ok (.j 0x1FFFFFE false)
  ∧ decodeWord 0b100111_0000000000000000000000011_1 = .ok (.call 3 true)
  ∧ decodeWord 0b101000_000000_001100_000000_0000000_0 = .ok (.callr 12 false)
  ∧ decodeWord 0b101000_000000_001100_000000_0000001_0 = .ok (.jr 12 false)
  ∧ decodeWord 0b101000_000000_000000_000000_0000010_0 = .ok (.ret false)
  ∧ decodeWord 0b101011_000000_001100_000000_0000000_0 = .ok (.mif 12 false)
  ∧ decodeWord 0b101011_000000_000000_000000_0000001_0 = .ok (.melse false)
  ∧ decodeWord 0b101011_000000_000000_000000_0000010_0 = .ok (.mend false) := by decide +kernel

/-- R91: the task, population and residual groups. -/
theorem test_decode_tasks :
    decodeWord 0b101100_000000_001100_000000_0000000_0 = .ok (.fork 12 false)
  ∧ decodeWord 0b101100_000000_001100_010101_0000001_0 = .ok (.join 12 21 false)
  ∧ decodeWord 0b101100_000000_001100_010101_0000010_0 = .ok (.spawn 12 21 false)
  ∧ decodeWord 0b101100_000000_000000_000000_0000011_0 = .ok (.retire false)
  ∧ decodeWord 0b101100_000000_000000_000000_0000100_0 = .ok (.yield false)
  ∧ decodeWord 0b101100_001011_001100_010101_0000101_0 = .ok (.tgate 11 12 21 false)
  ∧ decodeWord 0b101100_001011_001100_010101_0000110_0 = .ok (.tspawn 11 12 21 false)
  ∧ decodeWord 0b101100_000000_001100_000000_0000111_0 = .ok (.strand 12 false)
  ∧ decodeWord 0b101100_000000_000000_000000_0001000_0 = .ok (.unstrand false)
  ∧ decodeWord 0b101101_001011_001100_010101_0000000_0 = .ok (.popnew 11 12 21 false)
  ∧ decodeWord 0b101101_001011_001100_000000_0000001_0 = .ok (.popjoin 11 12 false)
  ∧ decodeWord 0b101101_001011_001100_010101_0000010_0 = .ok (.resample 11 12 21 false)
  ∧ decodeWord 0b101101_000000_001100_000000_0000011_0 = .ok (.popleave 12 false)
  ∧ decodeWord 0b101101_001011_001100_000000_0000100_0 = .ok (.popinfo 11 12 false)
  ∧ decodeWord 0b101110_000000_001100_010101_0000000_0 = .ok (.rsnew 12 21 false)
  ∧ decodeWord 0b101110_001011_001100_010101_0000001_0 = .ok (.rspost 11 12 21 false)
  ∧ decodeWord 0b101110_001011_001100_010101_0000010_0 = .ok (.rsread 11 12 21 false)
  ∧ decodeWord 0b101110_001011_001100_010101_0000011_0 = .ok (.rstry 11 12 21 false)
  ∧ decodeWord 0b101110_001011_001100_000000_0000100_0 = .ok (.rsstat 11 12 false)
  ∧ decodeWord 0b101110_001011_001100_000000_0000101_0 = .ok (.rsseal 11 12 false) := by decide +kernel

/-- R92: the sync group; `fence.dev.rel w4` is 0xBCC00012. -/
theorem test_decode_sync :
    decodeWord 0b101111_001100_000000_000000_0001001_0 = .ok (.fenceRel 12 2 false)
  ∧ decodeWord 0b101111_001100_000000_000000_0000110_0 = .ok (.fenceAcq 12 1 false)
  ∧ decodeWord 0b101111_001100_000000_000000_0001111_0 = .ok (.fenceAr 12 3 false)
  ∧ decodeWord 0b101111_000000_001100_010101_0010000_0 = .ok (.cwait 12 21 false)
  ∧ decodeWord 0b101111_000000_001100_010101_0010001_0 = .ok (.cadd 12 21 false)
  ∧ decodeWord 0b101111_001011_001100_010101_0010010_0 = .ok (.barnew 11 12 21 false)
  ∧ decodeWord 0b101111_000000_001100_010101_0010011_0 = .ok (.barlink 12 21 false)
  ∧ decodeWord 0b101111_001011_001100_000000_0010100_0 = .ok (.bararr 11 12 false)
  ∧ decodeWord 0b101111_000000_001100_010101_0010101_0 = .ok (.barwait 12 21 false)
  ∧ decodeWord 0b101111_000000_001100_000000_0010110_0 = .ok (.barfree 12 false)
  ∧ decodeWord 0b101111_000000_001100_000000_0010111_0 = .ok (.barref 12 false)
  ∧ decodeWord 0b101111_001011_001100_010101_0011000_0 = .ok (.enq 11 12 21 false)
  ∧ decodeWord 0b101111_001011_001100_010101_0011001_0 = .ok (.deq 11 12 21 false)
  ∧ decodeWord 0b101111_001011_000000_000000_0011010_0 = .ok (.tstamp 11 false) := by decide +kernel

/-- R82, R83, R93: the vector instructions of three slices; the column bits of d, a and b are 14, 13 and 12. -/
theorem test_decode_vector3 :
    decodeWord 0b110000_00000_01_10_11_100_010101_01001_0 = .ok (.vadd 1 2 3 true false false 21 9 false)
  ∧ decodeWord 0b110000_00001_01_10_11_010_010101_01001_0 = .ok (.vsub 1 2 3 false true false 21 9 false)
  ∧ decodeWord 0b110000_00010_01_10_11_001_010101_01001_0 = .ok (.vmul 1 2 3 false false true 21 9 false)
  ∧ decodeWord 0b110000_00011_01_10_11_100_010101_01001_0 = .ok (.vfma 1 2 3 true false false 21 9 false)
  ∧ decodeWord 0b110000_00100_01_10_11_010_010101_01001_0 = .ok (.vfms 1 2 3 false true false 21 9 false)
  ∧ decodeWord 0b110000_00101_01_10_11_001_010101_01001_0 = .ok (.vfnma 1 2 3 false false true 21 9 false)
  ∧ decodeWord 0b110000_00110_01_10_11_100_010101_01001_0 = .ok (.vmin 1 2 3 true false false 21 9 false)
  ∧ decodeWord 0b110000_00111_01_10_11_010_010101_01001_0 = .ok (.vmax 1 2 3 false true false 21 9 false)
  ∧ decodeWord 0b110000_01110_01_10_11_001_010101_01001_0 = .ok (.vscale 1 2 3 false false true 21 9 false)
  ∧ decodeWord 0b110000_10000_01_10_11_010_010101_01001_0 = .ok (.vcmpeq 1 2 3 false true false 21 9 false)
  ∧ decodeWord 0b110000_10001_01_10_11_001_010101_01001_0 = .ok (.vcmplt 1 2 3 false false true 21 9 false)
  ∧ decodeWord 0b110000_10010_01_10_11_100_010101_01001_0 = .ok (.vcmple 1 2 3 true false false 21 9 false)
  ∧ decodeWord 0b110000_10011_01_10_11_010_010101_01001_0 = .ok (.vsel 1 2 3 false true false 21 9 false)
  ∧ decodeWord 0b110000_10100_01_10_11_001_010101_01001_0 = .ok (.vand 1 2 3 false false true 21 9 false)
  ∧ decodeWord 0b110000_10101_01_10_11_100_010101_01001_0 = .ok (.vor 1 2 3 true false false 21 9 false)
  ∧ decodeWord 0b110000_10110_01_10_11_010_010101_01001_0 = .ok (.vxor 1 2 3 false true false 21 9 false)
  ∧ decodeWord 0b110000_10111_01_10_11_001_010101_01001_0 = .ok (.vshl 1 2 3 false false true 21 9 false)
  ∧ decodeWord 0b110000_11000_01_10_11_100_010101_01001_0 = .ok (.vshr 1 2 3 true false false 21 9 false)
  ∧ decodeWord 0b110000_11001_01_10_11_010_010101_01001_0 = .ok (.vsra 1 2 3 false true false 21 9 false) := by decide +kernel

/-- R93, R94, R95: the vector instructions of two slices, whole tiles, elements, TLD and TST. -/
theorem test_decode_vector2 :
    decodeWord 0b110000_01000_01_10_00_010_010101_01001_0 = .ok (.vabs 1 2 false true 21 9 false)
  ∧ decodeWord 0b110000_01001_01_10_00_010_010101_01001_0 = .ok (.vneg 1 2 false true 21 9 false)
  ∧ decodeWord 0b110000_01010_01_10_00_010_010101_01001_0 = .ok (.vcvt 1 2 false true 21 9 false)
  ∧ decodeWord 0b110000_01011_01_10_00_010_010101_01001_0 = .ok (.vrsqs 1 2 false true 21 9 false)
  ∧ decodeWord 0b110000_01100_01_10_00_010_010101_01001_0 = .ok (.vrcps 1 2 false true 21 9 false)
  ∧ decodeWord 0b110000_01101_01_10_00_010_010101_01001_0 = .ok (.vxexp 1 2 false true 21 9 false)
  ∧ decodeWord 0b110000_01111_01_10_00_010_010101_01001_0 = .ok (.vmov 1 2 false true 21 9 false)
  ∧ decodeWord 0b110000_11010_10_00_00_000_000000_00000_0 = .ok (.tzero 2 false)
  ∧ decodeWord 0b110000_11011_10_01_00_000_000000_00000_0 = .ok (.ttr 2 1 false)
  ∧ decodeWord 0b110001_00000_10_001011_010101_100001_0 = .ok (.vget 2 11 21 33 false)
  ∧ decodeWord 0b110001_00001_10_001011_010101_100001_0 = .ok (.vput 2 11 21 33 false)
  ∧ decodeWord 0b110001_00010_10_001011_010101_000000_0 = .ok (.vbcast 2 11 21 false)
  ∧ decodeWord 0b110001_00011_10_001011_010101_000000_0 = .ok (.vreds 2 11 21 false)
  ∧ decodeWord 0b110001_00100_10_001011_010101_000000_0 = .ok (.vredm 2 11 21 false)
  ∧ decodeWord 0b110010_10_1_000_001100_010101_01001_10_0 = .ok (.tld 2 true 12 21 9 2 false)
  ∧ decodeWord 0b110011_10_0_000_001100_010101_01001_01_0 = .ok (.tst 2 false 12 21 9 1 false) := by decide +kernel

/-- R96, R97: the engine commands and registers. -/
theorem test_decode_engines :
    decodeWord 0b110100_000_00000_001011_001100_00001_0 = .ok (.cpy 11 12 true false false)
  ∧ decodeWord 0b110100_000_00001_001011_001100_10000_0 = .ok (.cpyr 11 12 false true false)
  ∧ decodeWord 0b110100_000_00010_001011_001100_00001_0 = .ok (.cpytE2p 11 12 true false false)
  ∧ decodeWord 0b110100_000_00010_001011_001100_00010_0 = .ok (.cpytP2e 11 12 false false false)
  ∧ decodeWord 0b110100_001_00000_000000_000000_01010_0 = .ok (.mlease 10 false false)
  ∧ decodeWord 0b110100_001_00001_000000_000000_10000_0 = .ok (.mrel true false)
  ∧ decodeWord 0b110100_001_00010_001011_001100_00001_0 = .ok (.mmul 11 12 1 false false)
  ∧ decodeWord 0b110100_001_00011_001011_001100_00010_0 = .ok (.mrot 11 12 2 false false)
  ∧ decodeWord 0b110100_001_00100_001011_000000_00011_0 = .ok (.mdrain 11 3 false false)
  ∧ decodeWord 0b110100_001_00101_000000_000000_00001_0 = .ok (.mzero 1 false false)
  ∧ decodeWord 0b110100_001_00110_000000_000000_00110_0 = .ok (.mstat 2 true false false)
  ∧ decodeWord 0b110100_010_00000_000000_000000_00000_0 = .ok (.bxmap false false)
  ∧ decodeWord 0b110100_010_00001_001011_001100_00000_0 = .ok (.bxapply 11 12 false false)
  ∧ decodeWord 0b110100_010_00010_001011_001100_00000_0 = .ok (.bxswap 11 12 false false)
  ∧ decodeWord 0b110100_010_00011_001011_000000_00000_0 = .ok (.bxresume 11 false false)
  ∧ decodeWord 0b110100_011_00000_001011_001100_00000_0 = .ok (.colload 11 12 false false)
  ∧ decodeWord 0b110100_011_00001_000000_000000_00000_0 = .ok (.colgo false false)
  ∧ decodeWord 0b110100_011_00010_000000_000000_10000_1 = .ok (.colstat true true)
  ∧ decodeWord 0b110100_100_00000_000000_000000_00001_0 = .ok (.scfg true false false)
  ∧ decodeWord 0b110100_100_00001_000000_000000_00000_0 = .ok (.sdone false false false)
  ∧ decodeWord 0b110101_001011_010_00110101_0_0000000_0 = .ok (.erd 11 2 0x35 false)
  ∧ decodeWord 0b110101_001110_001_00000000_1_0000000_0 = .ok (.erw 14 1 0 false) := by decide +kernel

/-- R86, R98: FMT, the CSR and system groups; `csrr w2, fflags` is 0xDCA00040. -/
theorem test_decode_system :
    decodeWord 0b110110_111111_000001_000010_011_1_10_0_0 = .ok (.fmt 0x3F 1 2 3 true 2)
  ∧ decodeWord 0b110111_001010_000000_000000010000_0_0 = .ok (.csrr 10 0x010 false)
  ∧ decodeWord 0b110111_001010_001100_000010100001_1_0 = .ok (.csrw 10 12 0x0A1 false)
  ∧ decodeWord 0b111000_001010_001100_000010100001_0_0 = .ok (.csrs 10 12 0x0A1 false)
  ∧ decodeWord 0b111000_001010_001100_000010100001_1_0 = .ok (.csrc 10 12 0x0A1 false)
  ∧ decodeWord 0b111001_000000_000000_000000_0000000_0 = .ok (.trap false)
  ∧ decodeWord 0b111001_000000_000000_000000_0000001_0 = .ok (.eret false)
  ∧ decodeWord 0b111001_000000_000000_000000_0000010_0 = .ok (.wfi false)
  ∧ decodeWord 0b111001_000000_000000_000000_0000011_0 = .ok (.bkpt false)
  ∧ decodeWord 0b111001_000000_001100_000000_0000100_0 = .ok (.tlbinv 12 false)
  ∧ decodeWord 0b111001_000000_000000_000000_0000101_0 = .ok (.roinv false)
  ∧ decodeWord 0b111001_000000_001100_000000_0000110_0 = .ok (.tmark 12 false) := by decide +kernel


/-- Words that the chapters print (R85, R92, R97, R98, R83, R87): `ldd.fc! w5, [w1+0]`, `fence.dev.rel w4`, `erw mx.rowsa, w6`, `csrr w2, fflags`,
NOP, `bfi w3, w4, 8, 8`, `enter 16`, `tld.f m0.col[w1+5], [w3]`. -/
theorem test_decode_printed :
    decodeWord 0x58D24005 = .ok (.ldd 13 9 0 2 true) ∧ decodeWord 0xBCC00012 = .ok (.fenceRel 12 2 false) ∧ decodeWord 0xD4E20100 = .ok (.erw 14 1 0 false)
    ∧ decodeWord 0xDCA00040 = .ok (.csrr 10 0x010 false) ∧ decodeWord 0x08000000 = .ok (.addi 0 0 0 false) ∧ decodeWord 0x38B30410 = .ok (.bfi 11 12 8 8 false)
    ∧ decodeWord 0xA4000020 = .ok (.enter 16 false) ∧ decodeWord 0xC882C92A = .ok (.tld 0 true 11 9 5 1 false) := by decide +kernel

/-- R101: words that are no instruction, each kind once. -/
theorem test_decode_refuses :
    decodeWord 0x00000001 = .error .opcode ∧ decodeWord 0x3C000000 = .error .opcode ∧ decodeWord 0x6C000000 = .error .opcode ∧ decodeWord 0xE8000000 = .error .opcode
    ∧ decodeWord 0x04000026 = .error .function ∧ decodeWord 0x740000B0 = .error .function ∧ decodeWord 0xC3800000 = .error .function ∧ decodeWord 0xD2800000 = .error .function
    ∧ decodeWord 0x04000120 = .error .reservedField ∧ decodeWord 0xC8100000 = .error .reservedField ∧ decodeWord 0xD8000002 = .error .reservedField
    ∧ decodeWord 0xD0000004 = .error .reservedField ∧ decodeWord 0x20000080 = .error .immediate ∧ decodeWord 0x34002000 = .error .immediate
    ∧ decodeWord 0xA400000E = .error .frameSize ∧ decodeWord 0x40000006 = .error .qualifier := by decide +kernel


/-! ## Well-formedness: for each check a term that it refuses, and one at the boundary that it admits -/

/-- R83, R85, R92, R97, R101: bit fields, frame sizes, the status register of DEQ, engine registers, qualifiers. -/
theorem test_wf_words :
    Instr.wellFormed (.bfx 11 12 60 5 false) = false ∧ Instr.wellFormed (.bfx 11 12 59 5 false) = true ∧ Instr.wellFormed (.bfi 11 12 1 0 false) = false
    ∧ Instr.wellFormed (.bfi 11 12 0 0 false) = true ∧ Instr.wellFormed (.enter 7 false) = false ∧ Instr.wellFormed (.enter 8 false) = true
    ∧ Instr.wellFormed (.shrink 49 false) = false ∧ Instr.wellFormed (.shrink 48 false) = true ∧ Instr.wellFormed (.deq 11 12 0 false) = false
    ∧ Instr.wellFormed (.deq 11 12 56 false) = false ∧ Instr.wellFormed (.deq 11 12 55 false) = true ∧ Instr.wellFormed (.erd 11 0 0x0B false) = false
    ∧ Instr.wellFormed (.erd 11 0 0x0A false) = true ∧ Instr.wellFormed (.erw 11 4 0x19 false) = false ∧ Instr.wellFormed (.erw 11 5 0 false) = false
    ∧ Instr.wellFormed (.erw 11 4 0x18 false) = true := by decide +kernel

/-- R85: a qualifier of 11. -/
theorem test_wf_qualifiers :
    Instr.wellFormed (.ldb 11 12 0 3 false) = false ∧ Instr.wellFormed (.ldb 11 12 0 2 false) = true
    ∧ Instr.wellFormed (.ldbu 11 12 0 3 false) = false ∧ Instr.wellFormed (.ldbu 11 12 0 2 false) = true
    ∧ Instr.wellFormed (.ldh 11 12 0 3 false) = false ∧ Instr.wellFormed (.ldh 11 12 0 2 false) = true
    ∧ Instr.wellFormed (.ldhu 11 12 0 3 false) = false ∧ Instr.wellFormed (.ldhu 11 12 0 2 false) = true
    ∧ Instr.wellFormed (.ldw 11 12 0 3 false) = false ∧ Instr.wellFormed (.ldw 11 12 0 2 false) = true
    ∧ Instr.wellFormed (.ldwu 11 12 0 3 false) = false ∧ Instr.wellFormed (.ldwu 11 12 0 2 false) = true
    ∧ Instr.wellFormed (.ldd 11 12 0 3 false) = false ∧ Instr.wellFormed (.ldd 11 12 0 2 false) = true
    ∧ Instr.wellFormed (.stb 11 12 0 3 false) = false ∧ Instr.wellFormed (.stb 11 12 0 2 false) = true
    ∧ Instr.wellFormed (.sth 11 12 0 3 false) = false ∧ Instr.wellFormed (.sth 11 12 0 2 false) = true
    ∧ Instr.wellFormed (.stw 11 12 0 3 false) = false ∧ Instr.wellFormed (.stw 11 12 0 2 false) = true
    ∧ Instr.wellFormed (.std 11 12 0 3 false) = false ∧ Instr.wellFormed (.std 11 12 0 2 false) = true
    ∧ Instr.wellFormed (.tld 1 false 12 13 0 3 false) = false ∧ Instr.wellFormed (.tld 1 false 12 13 0 2 false) = true
    ∧ Instr.wellFormed (.tst 1 false 12 13 0 3 false) = false ∧ Instr.wellFormed (.tst 1 false 12 13 0 2 false) = true := by decide +kernel

/-- R17: units that exist, 1. -/
theorem test_wf_units1 :
    Instr.wellFormed (.interruptEntry 16384) = false ∧ Instr.wellFormed (.interruptEntry 16383) = true
    ∧ Instr.wellFormed (.timerCompare 16384) = false ∧ Instr.wellFormed (.timerCompare 16383) = true
    ∧ Instr.wellFormed (.takeRecord 16384) = false ∧ Instr.wellFormed (.takeRecord 16383) = true
    ∧ Instr.wellFormed (.idleSearchRetry 16384) = false ∧ Instr.wellFormed (.idleSearchRetry 16383) = true
    ∧ Instr.wellFormed (.dequeTheft 16384 0) = false ∧ Instr.wellFormed (.dequeTheft 16383 0) = true
    ∧ Instr.wellFormed (.dequeTheft 0 4096) = false ∧ Instr.wellFormed (.dequeTheft 0 4095) = true
    ∧ Instr.wellFormed (.inboxDelivery 4096) = false ∧ Instr.wellFormed (.inboxDelivery 4095) = true
    ∧ Instr.wellFormed (.backstopWrite 4096) = false ∧ Instr.wellFormed (.backstopWrite 4095) = true
    ∧ Instr.wellFormed (.backstopRefill 4096) = false ∧ Instr.wellFormed (.backstopRefill 4095) = true
    ∧ Instr.wellFormed (.spawnQueueDispatch 8) = false ∧ Instr.wellFormed (.spawnQueueDispatch 7) = true
    ∧ Instr.wellFormed (.quantumExpiry 16384) = false ∧ Instr.wellFormed (.quantumExpiry 16383) = true
    ∧ Instr.wellFormed (.quantumSaveDone 16384) = false ∧ Instr.wellFormed (.quantumSaveDone 16383) = true
    ∧ Instr.wellFormed (.strandForm 16384) = false ∧ Instr.wellFormed (.strandForm 16383) = true
    ∧ Instr.wellFormed (.watchWake 16384) = false ∧ Instr.wellFormed (.watchWake 16383) = true
    ∧ Instr.wellFormed (.watchRepoll 16384) = false ∧ Instr.wellFormed (.watchRepoll 16383) = true
    ∧ Instr.wellFormed (.memoryReply 0 4 0) = false ∧ Instr.wellFormed (.memoryReply 0 3 0) = true
    ∧ Instr.wellFormed (.replayRetry 4096) = false ∧ Instr.wellFormed (.replayRetry 4095) = true
    ∧ Instr.wellFormed (.replayDrop 4096) = false ∧ Instr.wellFormed (.replayDrop 4095) = true
    ∧ Instr.wellFormed (.leaseGrant 256) = false ∧ Instr.wellFormed (.leaseGrant 255) = true
    ∧ Instr.wellFormed (.leaseLapse 256) = false ∧ Instr.wellFormed (.leaseLapse 255) = true := by decide +kernel

/-- R17: units that exist, 2. -/
theorem test_wf_units2 :
    Instr.wellFormed (.mmulExecute 256) = false ∧ Instr.wellFormed (.mmulExecute 255) = true
    ∧ Instr.wellFormed (.mrotChunk 256) = false ∧ Instr.wellFormed (.mrotChunk 255) = true
    ∧ Instr.wellFormed (.mdrainExecute 256) = false ∧ Instr.wellFormed (.mdrainExecute 255) = true
    ∧ Instr.wellFormed (.mzeroExecute 256) = false ∧ Instr.wellFormed (.mzeroExecute 255) = true
    ∧ Instr.wellFormed (.accumulatorFree 256 0) = false ∧ Instr.wellFormed (.accumulatorFree 255 0) = true
    ∧ Instr.wellFormed (.accumulatorFree 0 4) = false ∧ Instr.wellFormed (.accumulatorFree 0 3) = true
    ∧ Instr.wellFormed (.copyChunk 256 0) = false ∧ Instr.wellFormed (.copyChunk 255 0) = true
    ∧ Instr.wellFormed (.copySignal 256 0) = false ∧ Instr.wellFormed (.copySignal 255 0) = true
    ∧ Instr.wellFormed (.streamReadahead 16384 false) = false ∧ Instr.wellFormed (.streamReadahead 16383 false) = true
    ∧ Instr.wellFormed (.bxMapInstall 8 0) = false ∧ Instr.wellFormed (.bxMapInstall 7 0) = true
    ∧ Instr.wellFormed (.bxGroup 8 0) = false ∧ Instr.wellFormed (.bxGroup 7 0) = true
    ∧ Instr.wellFormed (.bxSwapPair 8 0) = false ∧ Instr.wellFormed (.bxSwapPair 7 0) = true
    ∧ Instr.wellFormed (.bxComplete 8 0) = false ∧ Instr.wellFormed (.bxComplete 7 0) = true
    ∧ Instr.wellFormed (.ferryEnd 8 0) = false ∧ Instr.wellFormed (.ferryEnd 7 0) = true
    ∧ Instr.wellFormed (.ferrySend 8 0) = false ∧ Instr.wellFormed (.ferrySend 7 0) = true
    ∧ Instr.wellFormed (.ferryRecv 8 0) = false ∧ Instr.wellFormed (.ferryRecv 7 0) = true
    ∧ Instr.wellFormed (.ferryRrs 8 0) = false ∧ Instr.wellFormed (.ferryRrs 7 0) = true
    ∧ Instr.wellFormed (.ferryCopy 8 0) = false ∧ Instr.wellFormed (.ferryCopy 7 0) = true
    ∧ Instr.wellFormed (.ferryWait 8 0) = false ∧ Instr.wellFormed (.ferryWait 7 0) = true
    ∧ Instr.wellFormed (.ferryLoop 8 0) = false ∧ Instr.wellFormed (.ferryLoop 7 0) = true := by decide +kernel

/-- R17: units that exist, 3. -/
theorem test_wf_units3 :
    Instr.wellFormed (.ferrySignal 8 0) = false ∧ Instr.wellFormed (.ferrySignal 7 0) = true
    ∧ Instr.wellFormed (.ferryChunkArrival 8 0 0 0 []) = false ∧ Instr.wellFormed (.ferryChunkArrival 7 0 0 0 []) = true
    ∧ Instr.wellFormed (.ferryStepTimeout 8 0) = false ∧ Instr.wellFormed (.ferryStepTimeout 7 0) = true
    ∧ Instr.wellFormed (.resamplePhase2 8 0) = false ∧ Instr.wellFormed (.resamplePhase2 7 0) = true
    ∧ Instr.wellFormed (.clonePlacement 8 0) = false ∧ Instr.wellFormed (.clonePlacement 7 0) = true
    ∧ Instr.wellFormed (.residualDeadline 16384) = false ∧ Instr.wellFormed (.residualDeadline 16383) = true
    ∧ Instr.wellFormed (.wqKick 8 0 0) = false ∧ Instr.wellFormed (.wqKick 7 0 0) = true
    ∧ Instr.wellFormed (.wqKick 0 16384 0) = false ∧ Instr.wellFormed (.wqKick 0 16383 0) = true
    ∧ Instr.wellFormed (.wqDecide 8 0) = false ∧ Instr.wellFormed (.wqDecide 7 0) = true
    ∧ Instr.wellFormed (.wqDecide 0 16384) = false ∧ Instr.wellFormed (.wqDecide 0 16383) = true
    ∧ Instr.wellFormed (.wqLapTimeout 8 0) = false ∧ Instr.wellFormed (.wqLapTimeout 7 0) = true
    ∧ Instr.wellFormed (.wqLapTimeout 0 16384) = false ∧ Instr.wellFormed (.wqLapTimeout 0 16383) = true
    ∧ Instr.wellFormed (.wqErrorClear 8 0) = false ∧ Instr.wellFormed (.wqErrorClear 7 0) = true
    ∧ Instr.wellFormed (.wqErrorClear 0 16384) = false ∧ Instr.wellFormed (.wqErrorClear 0 16383) = true
    ∧ Instr.wellFormed (.doorbellWrite 4096 0) = false ∧ Instr.wellFormed (.doorbellWrite 4095 0) = true
    ∧ Instr.wellFormed (.dbgHaltRequest 16384) = false ∧ Instr.wellFormed (.dbgHaltRequest 16383) = true
    ∧ Instr.wellFormed (.dbgResume 16384) = false ∧ Instr.wellFormed (.dbgResume 16383) = true
    ∧ Instr.wellFormed (.dbgRaiseInterrupt 16384) = false ∧ Instr.wellFormed (.dbgRaiseInterrupt 16383) = true
    ∧ Instr.wellFormed (.clfreezeWrite 256 0) = false ∧ Instr.wellFormed (.clfreezeWrite 255 0) = true
    ∧ Instr.wellFormed (.registerWindowWrite 8 0 0) = false ∧ Instr.wellFormed (.registerWindowWrite 7 0 0) = true := by decide +kernel

/-- R17: units that exist, 4. -/
theorem test_wf_units4 :
    Instr.wellFormed (.gangStop 65536) = false ∧ Instr.wellFormed (.gangStop 65535) = true
    ∧ Instr.wellFormed (.partitionSave 65536) = false ∧ Instr.wellFormed (.partitionSave 65535) = true
    ∧ Instr.wellFormed (.gangResume 65536) = false ∧ Instr.wellFormed (.gangResume 65535) = true
    ∧ Instr.wellFormed (.flitCrcRetry 8 0) = false ∧ Instr.wellFormed (.flitCrcRetry 7 0) = true
    ∧ Instr.wellFormed (.linkRetire 8 0) = false ∧ Instr.wellFormed (.linkRetire 7 0) = true
    ∧ Instr.wellFormed (.contextError 16384) = false ∧ Instr.wellFormed (.contextError 16383) = true
    ∧ Instr.wellFormed (.l2Scrub 512) = false ∧ Instr.wellFormed (.l2Scrub 511) = true
    ∧ Instr.wellFormed (.thermalTrip 8) = false ∧ Instr.wellFormed (.thermalTrip 7) = true
    ∧ Instr.wellFormed (.fatalError 0 8 0) = false ∧ Instr.wellFormed (.fatalError 0 7 0) = true
    ∧ Instr.wellFormed (.divisionResult 4096) = false ∧ Instr.wellFormed (.divisionResult 4095) = true
    ∧ Instr.wellFormed (.ferryCreditArrival 8 0 0 0) = false ∧ Instr.wellFormed (.ferryCreditArrival 7 0 0 0) = true := by decide +kernel


/-! ## Witnesses: integer, control -/

theorem wit_computes : ∃ (i : Instr) (c : Computes) (s : State), computes i = some c ∧ i.wellFormed = true ∧ Calm s ∧ s.t.active = true
    ∧ (∀ r ∈ c.use.reads ++ c.use.d, plainCode s.t r = true) ∧ c.rd ≠ 0 :=
  ⟨.add 15 12 61 false, _, regs [(12, 5), (61, 6)], rfl, by decide, calm_of (by decide +kernel), by decide +kernel, by decide +kernel, by decide⟩

/-- A word waits on the north link. -/
def linked : State := base.setCore 0 { Core.reset with qn := [7], qs := [8] }

theorem wit_computes_queue : ∃ (i : Instr) (c : Computes) (s s1 s2 : State) (v : Vals), computes i = some c ∧ Issues i c.use s s1 v
    ∧ putReg (advanced s s1) c.rd (c.value s.t.pc v) = .ok s2 :=
  ⟨.add 59 56 57 false, _, linked, _, _, _, rfl, issues_of (a := 7) (b := 8) (c := 0) (by decide +kernel), eff_of (by decide +kernel)⟩

theorem wit_sel : ∃ (rd ra rb : Reg) (s : State), Calm s ∧ s.t.active = true ∧ (∀ r ∈ [ra, rb, rd], plainCode s.t r = true)
    ∧ rd ≠ 0 ∧ plainRead s.t ra ≠ 0 :=
  ⟨11, 12, 13, regs [(12, 1)], calm_of (by decide +kernel), by decide +kernel, by decide +kernel, by decide, by decide +kernel⟩

theorem wit_sel_queue : ∃ (rd ra rb : Reg) (sw : Bool) (s s1 s2 : State) (v : Vals), Issues (.sel rd ra rb sw) (selUse rd ra rb) s s1 v
    ∧ (if v.a = 0 then s2 = advanced s s1 else putReg (advanced s s1) rd v.b = .ok s2) ∧ v.a = 0 :=
  ⟨11, 0, 56, false, linked, _, _, _, issues_of (a := 0) (b := 7) (c := 0) (by decide +kernel), rfl, rfl⟩

/-- The divider of core 0 holds a result. -/
def dividing (d : Dst) : State := base.setCore 0 { Core.reset with divider := some { slot := 0, dst := d, value := 9 } }

theorem wit_divide : ∃ (i : Instr) (sw : Bool) (rd ra rb : Reg) (f : Word → Word → Word) (s : State), divides i = some (sw, rd, ra, rb, f)
    ∧ Calm s ∧ s.t.active = true ∧ (∀ r ∈ [ra, rb, rd], plainCode s.t r = true) ∧ (s.coreAt s.core).divider = none :=
  ⟨.div 11 12 13 false, _, _, _, _, _, base, rfl, calm_of (by decide +kernel), by decide +kernel, by decide +kernel, by decide +kernel⟩

theorem wit_divide_busy : Calm (dividing .none) ∧ (dividing .none).t.active = true ∧ (∀ r ∈ [12, 13, 11], plainCode (dividing .none).t r = true)
    ∧ ((dividing .none).coreAt (dividing .none).core).divider.isSome = true :=
  ⟨calm_of (by decide +kernel), by decide +kernel⟩

theorem wit_division_result : ((dividing (.glob 6)).coreAt 0).divider = some { slot := 0, dst := .glob 6, value := 9 }
    ∧ ((dividing (.win 127)).coreAt 0).divider = some { slot := 0, dst := .win 127, value := 9 }
    ∧ ((dividing (.link .east)).coreAt 0).divider = some { slot := 0, dst := .link .east, value := 9 }
    ∧ ((dividing (.stream false)).coreAt 0).divider = some { slot := 0, dst := .stream false, value := 9 }
    ∧ ((dividing (.stream false)).slotAt 0).t.sa.armed = false ∧ ((dividing (.stream true)).slotAt 0).t.sb.armed = false := by decide +kernel

theorem wit_branch : ∃ (i : Instr) (sw : Bool) (ra rb : Reg) (disp : BitVec 13) (f : Word → Word → Bool) (s : State),
    branches i = some (sw, ra, rb, disp, f) ∧ Calm s ∧ (∀ r ∈ [ra, rb], plainCode s.t r = true) ∧ f (plainRead s.t ra) (plainRead s.t rb) = true :=
  ⟨.beq 11 12 0x1000 false, _, _, _, _, _, base, rfl, calm_of (by decide +kernel), by decide +kernel, by decide +kernel⟩

theorem wit_branch_queue : ∃ (i : Instr) (sw : Bool) (ra rb : Reg) (disp : BitVec 13) (f : Word → Word → Bool) (s s1 : State) (v : Vals),
    branches i = some (sw, ra, rb, disp, f) ∧ Issues i { a := some ra, b := some rb, control := true } s s1 v ∧ s.t.leader = none ∧ s.t.followers = [] :=
  ⟨.blt 56 57 4 false, _, _, _, _, _, linked, _, _, rfl, issues_of (a := 7) (b := 8) (c := 0) (by decide +kernel), by decide +kernel, by decide +kernel⟩

theorem wit_jump : Calm (regs [(11, 0x1004), (12, 0x1002)]) ∧ (∀ r ∈ ([11, 12] : List Reg), plainCode (regs [(11, 0x1004), (12, 0x1002)]).t r = true)
    ∧ (plainRead (regs [(11, 0x1004)]).t 11).toNat % 4 = 0 ∧ (plainRead (regs [(11, 0x1004), (12, 0x1002)]).t 12).toNat % 4 ≠ 0 :=
  ⟨calm_of (by decide +kernel), by decide +kernel⟩

theorem wit_call : ∃ (i : Instr) (rs : List Reg) (target : Pc) (s : State), calls s i = some (rs, target) ∧ Calm s ∧ (∀ r ∈ rs, plainCode s.t r = true)
    ∧ s.t.frames ≠ [] ∧ 8 ≤ s.t.frame.size ∧ s.t.frame.size ≤ 48 ∧ s.t.resident ≤ 128 ∧ s.t.frames.length < 64 ∧ s.t.depth < 65535 :=
  ⟨.callr 11 false, [11], 0x1004, regs [(11, 0x1004)], by decide +kernel, calm_of (by decide +kernel), by decide +kernel, by decide +kernel,
    by decide +kernel, by decide +kernel, by decide +kernel, by decide +kernel, by decide +kernel⟩

/-- A call frame above the bottom frame. -/
def called : State := run1 (.call 4 false) base

theorem wit_return : ∃ (f g : Frame) (rest : List Frame), Calm called ∧ called.t.frames = f :: g :: rest ∧ f.kind = .call :=
  ⟨_, _, _, calm_of (by decide +kernel), (by decide +kernel : called.t.frames =
    [{ base := 0, size := 8, ret := 4, kind := .call }, { base := 0, size := 8, ret := 0, kind := .bottom }]), rfl⟩

theorem wit_return_bottom : Calm base ∧ base.t.frame.kind ≠ .call := ⟨calm_of (by decide +kernel), by decide +kernel⟩

theorem wit_enter : ∃ (k : BitVec 6) (f : Frame) (rest : List Frame) (s : State), Calm s ∧ 8 ≤ k.toNat ∧ k.toNat ≤ 48 ∧ s.t.frames = f :: rest
    ∧ f.size ≤ 48 ∧ rest.length < 64 ∧ s.t.resident ≤ 128 ∧ spanBelow s.t.frames + k.toNat ≤ 128 :=
  ⟨48, _, _, base, calm_of (by decide +kernel), by decide, by decide,
    (by decide +kernel : base.t.frames = [{ base := 0, size := 8, ret := 0, kind := .bottom }]), by decide, by decide, by decide +kernel, by decide +kernel⟩

/-- Frames of eight entries: n calls above the bottom frame, and a spill buffer of so many bytes. -/
def deep (n room : Nat) : State := baseWith (fun t => { t with
  frames := List.replicate n { base := 8, size := 8, ret := 4, kind := .call } ++ [{ base := 0, size := 8, ret := 0, kind := .bottom }],
  spillb := BitVec.ofNat 64 (0x100 + (0x100 + room) * 2 ^ 32), spillp := 0x100 })

theorem wit_call_spills (room : Nat) (h : room = 0 ∨ room = 72) : calls (deep 63 room) (.call 4 false) = some ([], 16) ∧ Calm (deep 63 room)
    ∧ (∃ (f g : Frame) (rest : List Frame), (deep 63 room).t.frames.reverse = f :: g :: rest ∧ f.size ≤ 48
        ∧ (room = 72 → (deep 63 room).t.spillPtr + 8 * (entriesUp f.base g.base + 1) ≤ (deep 63 room).t.spillLimit)
        ∧ (room = 0 → (deep 63 room).t.spillLimit < (deep 63 room).t.spillPtr + 8 * (entriesUp f.base g.base + 1)))
    ∧ (deep 63 room).t.frames.length = 64 ∧ spanBelow (deep 63 room).t.frames.dropLast + (deep 63 room).t.frame.size ≤ 128
    ∧ (deep 63 room).t.depth < 65535 ∧ spillBlocked (deep 63 room) = false := by
  rcases h with rfl | rfl <;> exact ⟨by decide +kernel, calm_of (by decide +kernel), ⟨_, _, _, rfl, by decide +kernel, by decide +kernel, by decide +kernel⟩,
    by decide +kernel, by decide +kernel, by decide +kernel, by decide +kernel⟩

/-- A full window: the frame in force has so many entries above 120 others. -/
def wide (room : Nat) : State := baseWith (fun t => { t with
  frames := [{ base := 88, size := 8, ret := 4, kind := .call }, { base := 44, size := 48, ret := 4, kind := .call }, { base := 0, size := 48, ret := 0, kind := .bottom }],
  spillb := BitVec.ofNat 64 (0x100 + (0x100 + room) * 2 ^ 32), spillp := 0x100 })

theorem wit_enter_spills (room : Nat) (h : room = 352 ∨ room = 360) : Calm (wide room) ∧ 8 ≤ (48 : BitVec 6).toNat ∧ (48 : BitVec 6).toNat ≤ 48
    ∧ (∃ (f g : Frame) (rest : List Frame), (wide room).t.frames.reverse = f :: g :: rest ∧ f.size ≤ 48
        ∧ (room = 360 → (wide room).t.spillPtr + 8 * (entriesUp f.base g.base + 1) ≤ (wide room).t.spillLimit)
        ∧ (room = 352 → (wide room).t.spillLimit < (wide room).t.spillPtr + 8 * (entriesUp f.base g.base + 1)))
    ∧ (wide room).t.frames.length ≤ 64 ∧ (wide room).t.frame.size ≤ 48 ∧ 128 < spanBelow (wide room).t.frames + (48 : BitVec 6).toNat
    ∧ spanBelow (wide room).t.frames.dropLast + (48 : BitVec 6).toNat ≤ 128 ∧ (wide room).t.frame.size ≤ (48 : BitVec 6).toNat
    ∧ spillBlocked (wide room) = false := by
  rcases h with rfl | rfl <;> exact ⟨calm_of (by decide +kernel), by decide, by decide, ⟨_, _, _, rfl, by decide +kernel, by decide +kernel, by decide +kernel⟩,
    by decide +kernel, by decide +kernel, by decide +kernel, by decide +kernel, by decide +kernel, by decide +kernel⟩

/-- One call frame is resident, and a frame descriptor with a size of `size` stands above one saved entry of the spill buffer. -/
def spilledFrame (size : Nat) : State :=
  let s := baseWith (fun t => { t with frames := [{ base := 8, size := 8, ret := 4, kind := .call }], spilled := 1, spillb := 0x20000000100, spillp := 0x110 })
  writeNat s (tcmAddr 0 0x108) 8 (size * 2 ^ 48)

theorem wit_return_fills (size : Nat) (h : size = 9 ∨ size = 7 ∨ size = 10) : ∃ f, Calm (spilledFrame size) ∧ (spilledFrame size).t.frames = [f] ∧ f.kind = .call
    ∧ spillBlocked (spilledFrame size) = false ∧ (spilledFrame size).t.strandDepth < (spilledFrame size).t.depth
    ∧ (let d := readWord (spilledFrame size) (tcmAddr (spilledFrame size).core ((spilledFrame size).t.spillPtr - 8))
      (size = 9 → (spilledFrame size).t.spillBase + 8 * (bitsOf d 48 6 - 8 + 1) ≤ (spilledFrame size).t.spillPtr ∧ bitsOf d 0 2 ≠ 3 ∧ 8 ≤ bitsOf d 48 6 ∧ bitsOf d 48 6 ≤ 48)
      ∧ (size = 7 → bitsOf d 48 6 < 8) ∧ (size = 10 → (spilledFrame size).t.spillPtr < (spilledFrame size).t.spillBase + 8 * (bitsOf d 48 6 - 8 + 1))) := by
  rcases h with rfl | rfl | rfl <;> exact ⟨_, calm_of (by decide +kernel), (by decide +kernel : (spilledFrame _).t.frames = [{ base := 8, size := 8, ret := 4, kind := .call }]), rfl,
    by decide +kernel, by decide +kernel, by decide +kernel⟩

/-- Eight entries on the mask stack, or one, with the slot not active. -/
def masked (n : Nat) : State := baseWith (fun t => { t with mask := List.replicate n { parent := true, cond := false }, active := false })

theorem wit_mask : Calm (masked 7) ∧ plainCode (masked 7).t 11 = true ∧ (masked 7).t.mask.length < 8 ∧ 8 ≤ (masked 8).t.mask.length
    ∧ (masked 1).t.mask = [{ parent := true, cond := false }] ∧ base.t.mask = [] :=
  ⟨calm_of (by decide +kernel), by decide +kernel⟩

theorem wit_inactive : (masked 1).t.active = false ∧ Calm (masked 1) := ⟨by decide +kernel, calm_of (by decide +kernel)⟩


/-! ## Witnesses: memory, operand codes, traps -/

/-- The last doubleword of slot 0's TCM (path 2), with a value, and whether its granule is full; w3 addresses it, w4 holds 9. -/
def tcmEnd (v : Nat) (full : Bool) : State :=
  let s := writeNat (regs [(11, 0x200000000001FFF8), (12, 9)]) (tcmAddr 0 0x1FFF8) 8 v
  if full then s else { s with empty := [(tcmAddr 0 0x1FFF8) / 16] }

theorem wit_load : ∃ (i : Instr) (sw : Bool) (rt ra : Reg) (off : BitVec 11) (q : BitVec 2) (size : Nat) (sign : Bool) (pa : Nat) (s : State),
    loads i = some (sw, rt, ra, off, q, size, sign) ∧ q ≠ 3 ∧ Calm s ∧ s.t.active = true ∧ (∀ r ∈ [ra, rt], plainCode s.t r = true)
    ∧ Reaches s .load (dataAddress (plainRead s.t ra) off size) size size none q false pa ∧ (q ≠ 0 → allFull s pa size) ∧ q = 2 :=
  ⟨.ldd 13 11 0 2 false, _, _, _, _, _, _, _, tcmAddr 0 0x1FFF8, tcmEnd 5 true, rfl, by decide, calm_of (by decide +kernel), by decide +kernel,
    by decide +kernel, reaches_of (by decide +kernel), fun _ => by unfold allFull; decide +kernel, rfl⟩

/-- A translation of virtual page 1 with the leaf bits W, X, U and R given, in supervisor or user mode; w3 holds 0x4000. -/
def mapped (flags : Nat) (user : Bool) : State :=
  let s := regs [(11, 0x4000)]
  { s.setT { s.t with status := if user then 0 else 1 } with tlb := fillTlbs [] 0 { unit := .core 0, ctx := 0, level := 3, vpage := 1, base := 0x100000, flags := flags } }

/-- A mapped page with every right, read through path 1, the cluster's cache holding its first line or not; w3 addresses it. -/
def roMapped (held : Bool) : State :=
  let s := mapped 0xD false
  let s := s.setT (plainWrite s.t 11 0x1000000000004000)
  s.setCluster 0 { Cluster.reset with rolines := if held then [(0, 128, 7)] else [] }

theorem wit_load_ro : ∃ (s2 t2 : State), loads (.ldd 13 11 15 0 false) = some (false, 13, 11, 15, 0, 8, false) ∧ Calm (roMapped true) ∧ Calm (roMapped false)
    ∧ (roMapped true).t.active = true ∧ (∀ r ∈ [11, 13], plainCode (roMapped true).t r = true)
    ∧ locate (roMapped true) (roMapped true).asker .load (dataAddress (plainRead (roMapped true).t 11) 15 8) 8 8 none 0 = .ok (s2, .ro 0x4078 0x100078)
    ∧ locate (roMapped false) (roMapped false).asker .load (dataAddress (plainRead (roMapped false).t 11) 15 8) 8 8 none 0 = .ok (t2, .ro 0x4078 0x100078)
    ∧ 0x100078 % 128 = 0x4078 % 128 ∧ dataMatch (roMapped true).slot [(dataAddress (plainRead (roMapped true).t 11) 15 8, false)] = none
    ∧ ((roMapped true).clusterAt (roMapped true).cluster).rolines.find? (fun l => l.1 = (roMapped true).asker.ctx && l.2.1 = 0x4078 / 128) = some (0, 128, 7)
    ∧ roHit (roMapped false) (roMapped false).cluster (roMapped false).asker.ctx 0x4078 = false ∧ owned (roMapped false) 0x100078 8 = false
    ∧ outstandingCore (roMapped false) (roMapped false).core < 64 :=
  ⟨_, _, rfl, calm_of (by decide +kernel), calm_of (by decide +kernel), by decide +kernel, by decide +kernel, ok_of (by decide +kernel), ok_of (by decide +kernel),
    by decide, by decide +kernel, by decide +kernel, by decide +kernel, by decide +kernel, by decide +kernel⟩

/-- A register of die 0 through path 6, in supervisor mode. -/
def atRegister : State := let s := regs [(11, 0x6000000000000000)]; s.setT { s.t with status := 1 }

theorem wit_load_register : ∃ s2, Calm atRegister ∧ atRegister.t.active = true ∧ (∀ r ∈ [11, 13], plainCode atRegister.t r = true)
    ∧ locate atRegister atRegister.asker .load (dataAddress (plainRead atRegister.t 11) 1 8) 8 8 none 0 = .ok (s2, .reg 0 8)
    ∧ dataMatch atRegister.slot [(dataAddress (plainRead atRegister.t 11) 1 8, false)] = none ∧ outstandingCore atRegister atRegister.core < 64 :=
  ⟨_, calm_of (by decide +kernel), by decide +kernel, by decide +kernel, ok_of (by decide +kernel), by decide +kernel, by decide +kernel⟩

theorem wit_store : ∃ (i : Instr) (sw : Bool) (rt ra : Reg) (off : BitVec 11) (q : BitVec 2) (size : Nat) (pa : Nat) (s : State),
    stores i = some (sw, rt, ra, off, q, size) ∧ q ≠ 3 ∧ Calm s ∧ s.t.active = true ∧ (∀ r ∈ [ra, rt], plainCode s.t r = true)
    ∧ Reaches s .store (dataAddress (plainRead s.t ra) off size) size size none q true pa ∧ (q = 2 → allEmpty s pa size)
    ∧ (q ≠ 0 → hasGranules pa = true) ∧ q = 2 :=
  ⟨.stb 12 11 7 2 false, _, _, _, _, _, _, tcmAddr 0 0x1FFFF, tcmEnd 5 false, rfl, by decide, calm_of (by decide +kernel), by decide +kernel,
    by decide +kernel, reaches_of (by decide +kernel), fun _ => by unfold allEmpty; decide +kernel, fun _ => by decide +kernel, rfl⟩

theorem wit_atomic : ∃ (i : Instr) (sw : Bool) (rd ra rb : Reg) (sc : BitVec 2) (w : Nat) (f : Nat → Nat → Nat) (pa : Nat) (s : State),
    atomics i = some (sw, rd, ra, rb, sc, w, f) ∧ Calm s ∧ s.t.active = true ∧ (∀ r ∈ [ra, rb, rd], plainCode s.t r = true)
    ∧ Reaches s .atomic (plainRead s.t ra) w w (some sc) 0 true pa :=
  ⟨.amoAdd 13 11 12 0 true false, _, _, _, _, _, _, _, tcmAddr 0 0x1FFF8, tcmEnd 5 true, rfl, calm_of (by decide +kernel), by decide +kernel,
    by decide +kernel, reaches_of (by decide +kernel)⟩

theorem wit_nibble_cas : Calm (tcmEnd 5 true) ∧ Reaches (tcmEnd 5 true) .atomic 0x200000000001FFF8 1 1 (some 0) 0 true (tcmAddr 0 0x1FFF8)
    ∧ plainRead (tcmEnd 5 true).t 11 = 0x200000000001FFF8 ∧ Reaches (tcmEnd 9 true) .atomic 0x200000000001FFF8 8 8 (some 0) 0 true (tcmAddr 0 0x1FFF8)
    ∧ readNat (tcmEnd 9 true) (tcmAddr 0 0x1FFF8) 8 = (plainRead (tcmEnd 9 true).t 12).toNat % 2 ^ 64
    ∧ readNat (tcmEnd 5 true) (tcmAddr 0 0x1FFF8) 8 ≠ (plainRead (tcmEnd 5 true).t 12).toNat % 2 ^ 64 :=
  ⟨calm_of (by decide +kernel), reaches_of (by decide +kernel), by decide +kernel, reaches_of (by decide +kernel), by decide +kernel, by decide +kernel⟩

theorem wit_full_empty : Calm (tcmEnd 5 false) ∧ plainCode (tcmEnd 5 false).t 11 = true
    ∧ Reaches (tcmEnd 5 false) .fe (plainRead (tcmEnd 5 false).t 11) 1 1 none 0 false (tcmAddr 0 0x1FFF8)
    ∧ Reaches (tcmEnd 5 false) .fe (plainRead (tcmEnd 5 false).t 11) 1 1 none 0 true (tcmAddr 0 0x1FFF8) :=
  ⟨calm_of (by decide +kernel), by decide +kernel, reaches_of (by decide +kernel), reaches_of (by decide +kernel)⟩

theorem wit_address_checks :
    locate base base.asker .load 0x8000000000000000 8 8 none 0 = .error .path
    ∧ locate (mapped 0 true) (mapped 0 true).asker .load 0x6000000000000000 8 8 none 0 = .error .priv
    ∧ locate base base.asker .load 0x2000000000000001 8 8 none 0 = .error .align
    ∧ locate base base.asker .load 0x4000 8 8 none 0 = .error .xlat
    ∧ locate (mapped 4 true) (mapped 4 true).asker .store 0x4000 8 8 none 0 = .error .prot
    ∧ locate (mapped 1 true) (mapped 1 true).asker .load 0x4000 8 8 none 0 = .error .prot
    ∧ locatesAt (locate (mapped 5 true) (mapped 5 true).asker .store 0x4000 8 8 none 0) 0x100000 = true
    ∧ pathOk 0 .load 0x6000000000000000 8 none 0 = some (.regs, false) ∧ pathOk 0 .store 0x4000 8 none 0 = some (.generic, false) := by decide +kernel

theorem wit_failed_check : ∃ (c : Cause), loads (.ldd 12 11 1 0 false) = some (false, 12, 11, 1, 0, 8, false) ∧ Calm (mapped 1 true)
    ∧ (mapped 1 true).t.active = true ∧ (∀ r ∈ [11, 12], plainCode (mapped 1 true).t r = true)
    ∧ locate (mapped 1 true) (mapped 1 true).asker .load (dataAddress (plainRead (mapped 1 true).t 11) 1 8) 8 8 none 0 = .error c :=
  ⟨.prot, rfl, calm_of (by decide +kernel), by decide +kernel, by decide +kernel, by decide +kernel⟩

/-- A segment armed over the last bytes of slot 0's TCM. -/
def armedEnd : State := { tcmEnd 5 true with armed := [tcmAddr 0 0x1FC00] }

theorem wit_armed_store : (∃ s2, locate armedEnd armedEnd.asker .store (dataAddress (plainRead armedEnd.t 11) 0 8) 8 8 none 0 = .ok (s2, .mem (tcmAddr 0 0x1FFF8) 0))
    ∧ (∃ s2, locate armedEnd armedEnd.asker .atomic (plainRead armedEnd.t 11) 8 8 (some 0) 0 = .ok (s2, .mem (tcmAddr 0 0x1FFF8) 0))
    ∧ inArmed armedEnd (tcmAddr 0 0x1FFF8) 8 = true ∧ Calm armedEnd ∧ armedEnd.t.active = true ∧ (∀ r ∈ [11, 12], plainCode armedEnd.t r = true) :=
  ⟨⟨_, ok_of (by decide +kernel)⟩, ⟨_, ok_of (by decide +kernel)⟩, by decide +kernel, calm_of (by decide +kernel), by decide +kernel, by decide +kernel⟩

theorem wit_path_places : pathOk 0 .load 0x1000000000004000 8 none 0 = some (.ro, false) ∧ pathOk 0 .load 0x4000600000004000 8 none 0 = some (.gen4, false)
    ∧ isOk (locate (roMapped false) (roMapped false).asker .load 0x1000000000004000 8 8 none 0) = true
    ∧ locate (mapped 1 true) (mapped 1 true).asker .load 0x1000000000004000 8 8 none 0 = .error .prot := by decide +kernel

/-- A task with its third payload word to read, one word of eq, sa armed for writing and sb for reading; sb is plain in base. -/
def queued (n : Nat) : State := baseWith (fun t => { t with
  runs := [{ record := [0, 1, 2, 3, 4, 5, 6, 7], given := true, ibRead := n }], eq := [8], sa := { t.sa with armed := true, write := true },
  sb := { t.sb with armed := true } })

theorem wit_operand_codes : plainCode base.t 55 = false ∧ plainCode base.t 15 = true ∧ plainCode base.t 62 = true
    ∧ linkOf 56 = some .north ∧ linkQueue (linked.coreAt linked.core) .north = [7]
    ∧ (queued 5).t.runs = [{ record := [0, 1, 2, 3, 4, 5, 6, 7], given := true, ibRead := 5 }] ∧ (queued 6).t.runs.map Run.ibRead = [6]
    ∧ (queued 5).t.eq = [8] ∧ base.t.eq = [] ∧ (queued 5).t.sa.armed = true ∧ (queued 5).t.sa.write = true
    ∧ (queued 5).t.sb.armed = true ∧ (queued 5).t.sb.write = false := by decide +kernel

theorem wit_links_hold : ∃ (c : Computes), computes (.add 11 56 12 false) = some c ∧ base.t.active = true ∧ linksReady base c.use = false :=
  ⟨_, rfl, by decide +kernel, by decide +kernel⟩

/-- A slot with a pending prefix: an FMT word, or one that is none. -/
def prefixed (w : IWord) : State := baseWith (fun t => { t with status := 5, pending := w })

theorem wit_trap_entry : (prefixed 0xDBFFE100).t.hasPrefix = true ∧ base.t.hasPrefix = false ∧ base.t.tvec = 0
    ∧ (baseWith (fun t => { t with tvec := 4 })).t.tvec ≠ 0 := by decide +kernel

theorem wit_trap_instructions : Calm base ∧ base.t.active = true ∧ base.slot.bkptctl.getLsbD 17 = false
    ∧ Calm { base with slot := { base.slot with bkptctl := 0x20000 } } ∧ (0x20000 : Word).getLsbD 17 = true :=
  ⟨calm_of (by decide +kernel), by decide +kernel, by decide +kernel, calm_of (by decide +kernel), by decide⟩

theorem wit_issue_checks : ∃ (c : Computes), computes (.add 11 12 16 false) = some c ∧ readyToIssue base c.use = true
    ∧ readyToIssue (prefixed 0) c.use = true ∧ (prefixed 0).t.badPrefix = true ∧ (prefixed 0xDBFFE100).t.badPrefix = false
    ∧ readyToIssue (prefixed 0xDBFFE100) c.use = true ∧ (prefixed 0xDBFFE100).t.hasPrefix = true
    ∧ (c.use.reads ++ c.use.d).find? (outOfFrame base.t) = some 16 :=
  ⟨_, rfl, by decide +kernel, by decide +kernel, by decide +kernel, by decide +kernel, by decide +kernel, by decide +kernel, by decide +kernel⟩

theorem wit_user_mode : Calm (mapped 0 true) ∧ (mapped 0 true).t.active = true ∧ (mapped 0 true).t.status.getLsbD 0 = false :=
  ⟨calm_of (by decide +kernel), by decide +kernel⟩

/-- A handler that returns under a prefix, with a held operand. -/
def handling : State := baseWith (fun t => { t with tstatus := 6, tprefix := 0xDBFFE100, tepc := 0x1003, keptA := some 5 })

theorem wit_eret : Calm handling ∧ handling.t.active = true ∧ handling.t.status.getLsbD 0 = true ∧ handling.t.pulled = [] ∧ handling.t.pulledFar = []
    ∧ handling.t.tstatus.getLsbD 2 = true := ⟨calm_of (by decide +kernel), by decide +kernel⟩

/-- An interrupt of each cause enabled and pending, and only the last two. -/
def interrupted (ipend : Word) (core : Bool) : State :=
  let s := (baseWith (fun t => { t with status := 2, iemask := 0x3E, ipend := ipend, tcmp := 0, tvec := 0x100 })).setCore 0 { Core.reset with ipend3 := core, ipend4 := core }
  s

theorem wit_interrupts : interruptCause (interrupted 0x24 true) 0 = some 5 ∧ (∀ h ∈ (interrupted 0x24 true).held, h.slot = 0 → h.q = 0)
    ∧ ((interrupted 0x24 true).slotAt 0).t.wait ≠ some .tile ∧ ((interrupted 0x24 true).slotAt 0).t.tvec ≠ 0
    ∧ (let s := (interrupted 0 true).setT { (interrupted 0 true).t with tvec := 0 }; interruptCause s 0 = some 4 ∧ (s.slotAt 0).t.tvec = 0
        ∧ (∀ h ∈ s.held, h.slot = 0 → h.q = 0) ∧ (s.slotAt 0).t.wait ≠ some .tile)
    ∧ (let s := (interrupted 0 true).setCore 0 { Core.reset with ipend3 := true }; causeEnabled s 0 4 = false ∧ causeEnabled s 0 3 = true
        ∧ firstTaker s 0 3 = true ∧ interruptCause s 0 = some 3)
    ∧ causeEnabled (interrupted 0 true) 0 2 = false ∧ causeEnabled (interrupted 0 true) 0 4 = true ∧ firstTaker (interrupted 0 true) 0 4 = true
    ∧ causeEnabled (interrupted 0x24 true) 0 5 = true ∧ causeEnabled (interrupted 4 true) 0 5 = false ∧ causeEnabled (interrupted 4 true) 0 2 = true
    ∧ interruptCause (interrupted 0 true) 0 = some 4 ∧ causeEnabled (interrupted 0 false) 0 4 = false ∧ causeEnabled (interrupted 0 false) 0 3 = false
    ∧ causeEnabled (interrupted 0 false) 0 2 = false ∧ causeEnabled (interrupted 0 false) 0 1 = true := by decide +kernel

/-- WFI parked on its timer. -/
def waiting : State := baseWith (fun t => { t with iemask := 2, tcmp := 0, wait := some .interrupt })

/-- The same slot, not parked yet. -/
def timely : State := baseWith (fun t => { t with iemask := 2, tcmp := 0 })

theorem wit_wfi : Calm timely ∧ timely.t.status.getLsbD 0 = true ∧ pendingOf timely timely.cur &&& timely.t.iemask &&& 0x3E ≠ 0
    ∧ Calm base ∧ pendingOf base base.cur &&& base.t.iemask &&& 0x3E = 0
    ∧ (waiting.slotAt 0).t.wait = some .interrupt ∧ pendingOf waiting 0 &&& (waiting.slotAt 0).t.iemask &&& 0x3E ≠ 0 ∧ slotHeld waiting 0 = false
    ∧ (waiting.slotAt 0).t.leader = none ∧ (waiting.slotAt 0).t.followers = [] :=
  ⟨calm_of (by decide +kernel), by decide +kernel, by decide +kernel, calm_of (by decide +kernel), by decide +kernel⟩

theorem wit_csr_write : ∃ (i : Instr) (sw : Bool) (rd ra : Reg) (csr : BitVec 12) (f : Word → Word → Word) (m : Word) (s : State),
    csrNew i = some (sw, rd, ra, csr, f) ∧ csrMask csr.toNat = some m ∧ Calm s ∧ s.t.active = true ∧ s.t.status.getLsbD 0 = true
    ∧ (∀ r ∈ [ra, rd], plainCode s.t r = true) ∧ (ra ≠ 0 ∨ i = .csrw rd ra csr sw) :=
  ⟨.csrs 12 11 0x001 false, _, _, _, _, _, _, regs [(11, 0xFFFFFFFFFFFFFFFF)], rfl, rfl, calm_of (by decide +kernel), by decide +kernel,
    by decide +kernel, by decide +kernel, .inl (by decide)⟩

theorem wit_csr_fields : (regs [(11, 0xFFFFFFFFFFFFFFFF)]).t.status.getLsbD 0 = true ∧ (baseWith (fun t => { t with status := 0 })).t.status.getLsbD 0 = false
    ∧ csrNew (.csrw 12 11 0x031 false) = some (false, 12, 11, 0x031, fun _ v => v) ∧ (csrTakes 0x031 4 0xB = some 4) ∧ csrTakes 0x031 4 10 = some 10
    ∧ csrTakes 0x034 0 0xFFFFFFFFFFFFFFFF = some 0x1FFC0 ∧ csrTakes 0x037 0 5 = some 0 ∧ csrClears 0x009 0x3E 0x3E = some 2 ∧ csrClears 0x060 6 2 = some 4
    ∧ csrReadOnly 0x020 = true ∧ csrListed 0x021 = true ∧ csrListed 0xFFF = false ∧ Calm (baseWith (fun t => { t with status := 0 }))
    ∧ (0x021 : BitVec 12) ≠ 0x010 ∧ (0x021 : BitVec 12) ≠ 0x060 ∧ (∀ r ∈ [11, 12], plainCode base.t r = true) ∧ Calm (regs [(11, 0xFFFFFFFFFFFFFFFF)]) :=
  ⟨by decide +kernel, by decide +kernel, rfl, by decide, by decide, by decide, by decide, by decide, by decide, by decide +kernel, by decide +kernel, by decide +kernel,
    calm_of (by decide +kernel), by decide, by decide, by decide +kernel, calm_of (by decide +kernel)⟩

theorem wit_csr_read : Calm (mapped 0 true) ∧ csrListed 0x020 = true ∧ (base.t.status.getLsbD 0 || csrUserRead 0x020) = true ∧ csrListed 0xFFF = false
    ∧ csrListed 0x001 = true ∧ (mapped 0 true).t.status.getLsbD 0 = false ∧ csrUserRead 0x001 = false :=
  ⟨calm_of (by decide +kernel), by decide +kernel⟩

theorem wit_engine_registers : Calm base ∧ base.t.active = true ∧ plainCode base.t 15 = true ∧ engineRegOk 4 0x18 = true ∧ engineRegOk 0 0x0A = true :=
  ⟨calm_of (by decide +kernel), by decide +kernel⟩

theorem wit_fmt : base.t.active = true ∧ base.t.pend = [] ∧ base.t.followers = [] ∧ base.t.leader = none ∧ base.t.hasPrefix = false
    ∧ (prefixed 0xDBFFE100).t.hasPrefix = true ∧ (prefixed 0xDBFFE100).t.badPrefix = false ∧ (prefixed 0xDBFFE100).t.pend = [] := by decide +kernel


/-! ## Witnesses: order, tasks -/

/-- An access of slot 0 that waits at its home. -/
def waitsAt (addr : Nat) (q : BitVec 2) (op : HomeOp) (dst : Dst) : Held :=
  { slot := 0, seq := 0, pc := 0, addr := addr, size := 8, q := q, op := op, dst := dst, popA := none, popB := none, popC := none, pfx := none, parts := 1 }

/-- A store of the slot waits at its home for a full/empty bit; a load likewise. -/
def storing : State := { base with held := [waitsAt (padAddr 0 0) 2 (.store 5) .none] }
def loading : State := { base with held := [waitsAt (padAddr 0 0) 1 (.load false) (.glob 3)] }

theorem wit_fence : fences (.fenceAr 11 3 false) = some (false, 11, 3, true, true) ∧ Calm storing ∧ storing.t.active = true ∧ plainCode storing.t 11 = true
    ∧ storesPending storing 3 = true ∧ readsPending loading = true ∧ Calm base ∧ storesPending base 3 = false ∧ readsPending base = false :=
  ⟨rfl, calm_of (by decide +kernel), by decide +kernel, by decide +kernel, by decide +kernel, by decide +kernel, calm_of (by decide +kernel), by decide +kernel⟩

theorem wit_cadd : ∃ (ra rb : Reg) (pa : Nat) (s : State), Calm s ∧ s.t.active = true ∧ (∀ r ∈ [ra, rb], plainCode s.t r = true)
    ∧ Reaches s .counterAdd (plainRead s.t ra) 8 8 none 0 true pa :=
  ⟨11, 12, tcmAddr 0 0x1FFF8, tcmEnd 5 true, calm_of (by decide +kernel), by decide +kernel, by decide +kernel, reaches_of (by decide +kernel)⟩

theorem wit_cwait (v : Nat) (hv : v = 9 ∨ v = 8) : ∃ (ra rb : Reg) (pa fl : Nat) (s s2 : State), Calm s ∧ s.t.active = true
    ∧ (∀ r ∈ [ra, rb], plainCode s.t r = true) ∧ locate s s.asker .counterRead (plainRead s.t ra) 8 8 none 0 = .ok (s2, .mem pa fl)
    ∧ dataMatch s.slot [(plainRead s.t ra, false)] = none ∧ requestBlocked s pa 8 = false
    ∧ (v = 9 → (plainRead s.t rb).toNat ≤ readNat s pa 8) ∧ (v = 8 → readNat s pa 8 < (plainRead s.t rb).toNat)
    ∧ (plainRead s.t ra).toNat % 8 = 0 ∧ dqNewest s s.core = none := by
  rcases hv with rfl | rfl
  · exact ⟨11, 12, tcmAddr 0 0x1FFF8, 0, tcmEnd 9 true, _, calm_of (by decide +kernel), by decide +kernel, by decide +kernel,
      ok_of (by decide +kernel), by decide +kernel, by decide +kernel, by decide +kernel, by decide +kernel, by decide +kernel, by decide +kernel⟩
  · exact ⟨11, 12, tcmAddr 0 0x1FFF8, 0, tcmEnd 8 true, _, calm_of (by decide +kernel), by decide +kernel, by decide +kernel,
      ok_of (by decide +kernel), by decide +kernel, by decide +kernel, by decide +kernel, by decide +kernel, by decide +kernel, by decide +kernel⟩

/-- Slot 0 waits at a counter that has reached its target, with a watch that asks again. -/
def atCounter : State := { (baseWith (fun t => { t with wait := some (.counter (tcmAddr 0 0x1FFF8) 9) })) with
  mem := (tcmEnd 9 true).mem, watches := [{ slot := 0, home := 0, entry := false }] }

theorem wit_counter_wake : (atCounter.slotAt 0).t.wait = some (.counter (tcmAddr 0 0x1FFF8) 9) ∧ (9 : Word).toNat ≤ readNat atCounter (tcmAddr 0 0x1FFF8) 8
    ∧ slotHeld atCounter 0 = false ∧ (atCounter.slotAt 0).t.leader = none ∧ (atCounter.slotAt 0).t.followers = []
    ∧ replyWaits atCounter (coreOf 0) (homeOf (tcmAddr 0 0x1FFF8)) = false ∧ (∃ w ∈ atCounter.watches, w.slot = 0 ∧ w.entry = false) := by decide +kernel

/-- A barrier of level 0, one of level 3, and the operands that name them. -/
def barred (b p : Barrier) : State :=
  { (regs [(11, 1), (12, 0xC0000001), (13, 0x8000000000000001)]) with barriers := [(1, some b), (0xC0000001, some p)] }

theorem wit_barnew : Calm (regs [(11, 0x300000002)]) ∧ bitsOf (plainRead (regs [(11, 0x300000002)]).t 11) 34 30 = 0
    ∧ bitsOf (plainRead (regs [(11, 0x300000002)]).t 11) 0 32 ≠ 0
    ∧ (List.range (poolOf base 3).2).find? (fun x => barReturned base ((poolOf base 3).1 + x + 1)) = some 0
    ∧ (∀ x, x < (poolOf base 3).2 → barReturned { base with barriers := (List.range 8).map (fun i => (0xC0000001 + i, some (newBarrier 0 1 0))) } ((poolOf base 3).1 + x + 1) = false) :=
  ⟨calm_of (by decide +kernel), by decide +kernel, by decide +kernel, by decide +kernel, by decide +kernel⟩

theorem wit_bararr : Calm (barred (newBarrier 0 1 0) (newBarrier 0 2 0)) ∧ namesBarrier (barred (newBarrier 0 1 0) (newBarrier 0 2 0)) 1 1 (newBarrier 0 1 0)
    ∧ namesBarrier (barred (newBarrier 0 1 0) (newBarrier 0 2 0)) 0xC0000001 0xC0000001 (newBarrier 0 2 0)
    ∧ plainRead (barred (newBarrier 0 1 0) (newBarrier 0 2 0)).t 12 = 0xC0000001
    ∧ storesPending (barred (newBarrier 0 1 0) (newBarrier 0 2 0)) 3 = false ∧ (newBarrier 0 1 0).arr = 1 ∧ (newBarrier 0 1 0).bytes ≤ 0
    ∧ (newBarrier 0 1 0).far = [] ∧ 0 < (newBarrier 0 1 0).a ∧ 1 < (newBarrier 0 2 0).arr
    ∧ (∀ e ∈ (barred (newBarrier 0 1 0) (newBarrier 0 2 0)).barriers, ∀ c, e.2 = some c → c.parent ≠ some 1) ∧ barLevel 1 < barLevel 0xC0000001 := by
  refine ⟨calm_of (by decide +kernel), by unfold namesBarrier; decide +kernel, by unfold namesBarrier; decide +kernel, by decide +kernel, by decide +kernel,
    by decide, by decide, by decide, by decide, by decide, ?_, by decide⟩
  intro e he c hc
  have hb : (barred (newBarrier 0 1 0) (newBarrier 0 2 0)).barriers = [(1, some (newBarrier 0 1 0)), (0xC0000001, some (newBarrier 0 2 0))] := rfl
  rw [hb] at he
  simp only [List.mem_cons, List.not_mem_nil, or_false] at he
  rcases he with rfl | rfl <;> (simp only [Option.some.injEq] at hc; subst hc; decide)

theorem wit_barref : namesBarrier (barred { newBarrier 0 1 0 with refs := 2 } (newBarrier 0 2 0)) 1 1 { newBarrier 0 1 0 with refs := 2 } ∧ 1 < 2 ∧ 2 < 65535
    ∧ barName base (0x8000000000000001) = none ∧ barName base 1 = some (.here 1) ∧ barOwn base base.asker.ctx 1 = none
    ∧ (newBarrier 0 1 0).phase = bitsOf (0 : Word) 0 32 ∧ (newBarrier 0 1 0).phase ≠ bitsOf (1 : Word) 0 32 := by
  refine ⟨by unfold namesBarrier; decide +kernel, by decide, by decide, by decide +kernel, by decide +kernel, by decide +kernel, by decide, by decide⟩

theorem wit_arrival : ({ barred (newBarrier 0 1 0) (newBarrier 0 2 0) with arrivals := [0xC0000001] } : State).arrivals[0]? = some 0xC0000001
    ∧ 0xC0000001 < 4294967296 ∧ barAt { barred (newBarrier 0 1 0) (newBarrier 0 2 0) with arrivals := [0xC0000001] } 0xC0000001 = some (newBarrier 0 2 0) := by
  decide +kernel

/-- A ring of one entry in slot 0's TCM, its head and tail given, its last words given. -/
def ring (h t x : Nat) : State :=
  writeWords (regs [(11, 0x2000000000000040), (12, 9)]) (tcmAddr 0 0x40) [0x2000000000000100, 0, BitVec.ofNat 64 h, BitVec.ofNat 64 t, BitVec.ofNat 64 x, 0, 0, 0]

def ringAfter (h t x : Nat) : State := stOf (ringBlock 0x2000000000000040 (advanced (ring h t x) (ring h t x)))

/-- The place of an entry that the checks find. -/
def placed (r : Option (State × Nat)) (e : Nat) : Bool :=
  match r with
  | some p => decide (p.2 = e)
  | none => false

theorem placed_of {r : Option (State × Nat)} {e : Nat} (h : placed r e = true) : ∃ s2, r = some (s2, e) := by
  cases r with
  | none => simp [placed] at h
  | some p => obtain ⟨p1, p2⟩ := p; simp only [placed, decide_eq_true_eq] at h; subst h; exact ⟨p1, rfl⟩

theorem wit_ring_block (h t x : Nat) (hx : (h, t, x) = (0, 0, 0) ∨ (h, t, x) = (0, 1, 0) ∨ (h, t, x) = (0, 0, 1)) :
    Calm (ring h t x) ∧ (ring h t x).t.active = true ∧ (∀ r ∈ [11, 12, 13], plainCode (ring h t x).t r = true) ∧ statusReg 13 = true
    ∧ ∃ s1, ringBlock (plainRead (ring h t x).t 11) (advanced (ring h t x) (ring h t x)) = .ok (s1, tcmAddr 0 0x40) := by
  rcases hx with hx | hx | hx <;> (obtain ⟨rfl, rfl, rfl⟩ := hx; exact ⟨calm_of (by decide +kernel), by decide +kernel, by decide +kernel, by decide, _, ok_of (by decide +kernel)⟩)

theorem wit_ring_entry : (∃ s2, ringPlace (ringAfter 0 0 0) .ring (readWords (ringAfter 0 0 0) (tcmAddr 0 0x40) 8) 0 = some (s2, tcmAddr 0 0x100))
    ∧ (∃ s2, ringPlace (ringAfter 0 1 0) .ringRead (readWords (ringAfter 0 1 0) (tcmAddr 0 0x40) 8) 1 = some (s2, tcmAddr 0 0x100))
    ∧ ringPlace (ringAfter 0 0 1) .ring (readWords (ringAfter 0 0 1) (tcmAddr 0 0x40) 8) 0 = none
    ∧ ringPlace (ringAfter 0 0 1) .ringRead (readWords (ringAfter 0 0 1) (tcmAddr 0 0x40) 8) 0 = none
    ∧ (∃ s2, ringPlace (ringAfter 0 1 0) .ring (readWords (ringAfter 0 1 0) (tcmAddr 0 0x40) 8) 1 = some (s2, tcmAddr 0 0x100))
    ∧ (∃ s2, ringPlace (ringAfter 0 0 0) .ringRead (readWords (ringAfter 0 0 0) (tcmAddr 0 0x40) 8) 0 = some (s2, tcmAddr 0 0x100))
    ∧ ringFill (readWords (ring 0 0 0) (tcmAddr 0 0x40) 8) = 0 ∧ ringFill (readWords (ring 0 1 0) (tcmAddr 0 0x40) 8) = 2 ^ ringLog (readWords (ring 0 1 0) (tcmAddr 0 0x40) 8)
    ∧ owned (ring 0 0 0) (tcmAddr 0 0x100) 8 = false ∧ owned (ring 0 1 0) (tcmAddr 0 0x100) 8 = false
    ∧ ringFill (readWords (ring 0 0 0) (tcmAddr 0 0x40) 8) ≠ 2 ^ ringLog (readWords (ring 0 0 0) (tcmAddr 0 0x40) 8) ∧ tcmAddr 0 0x40 + 32 ≤ tcmAddr 0 0x100
    ∧ ringFill (readWords (ring 0 1 0) (tcmAddr 0 0x40) 8) ≠ 0 :=
  ⟨placed_of (by decide +kernel), placed_of (by decide +kernel), by decide +kernel, by decide +kernel, placed_of (by decide +kernel),
    placed_of (by decide +kernel), by decide +kernel, by decide +kernel, by decide +kernel, by decide +kernel, by decide +kernel, by decide +kernel, by decide +kernel⟩

/-- A record of level 4 at PC 0x1000, with a completion counter at 0x10000 of core 0's TCM or without one. -/
def rec (counted : Bool) : List Word := [0x1000, if counted then 0x2000000100000004 else 4, 1, 2, 3, 4, 5, 6]
def recNat (counted : Bool) : Nat := natOfWords (rec counted)

/-- The record in slot 0's TCM at the address that w3 holds, and n records in core 0's deque. -/
def recorded (n : Word) : State :=
  let s := writeWords (regs [(11, 0x2000000000000040), (12, 1)]) (tcmAddr 0 0x40) (rec false)
  writeWords (s.setCore 0 { Core.reset with dqbot := n }) (tcmAddr 0 0) (rec false)

theorem wit_record (n : Word) (hn : n = 0 ∨ n = 1) : Calm (recorded n) ∧ (recorded n).t.active = true ∧ (∀ r ∈ [11, 12, 0], plainCode (recorded n).t r = true)
    ∧ released (recorded n) = true ∧ (plainRead (recorded n).t 11).toNat % 64 = 0 ∧ ownTcm (recorded n) (plainRead (recorded n).t 11) = true
    ∧ (∃ s1, readAtIssue (advanced (recorded n) (recorded n)) .record (plainRead (recorded n).t 11) 64 64 = .ok (s1, recNat false))
    ∧ (plainRead (recorded n).t 0).getLsbD 31 = false := by
  rcases hn with rfl | rfl <;> exact ⟨calm_of (by decide +kernel), by decide +kernel, by decide +kernel, by decide +kernel, by decide +kernel, by decide +kernel,
    ⟨_, ok_of (by decide +kernel)⟩, by decide +kernel⟩

/-- The state in which FORK runs its record. -/
def forkAt (n : Word) : State := stOf (readAtIssue (advanced (recorded n) (recorded n)) .record 0x2000000000000040 64 64)

theorem some_of {α : Type} {r : Option α} (h : r.isSome = true) : ∃ x, r = some x := Option.isSome_iff_exists.mp h

theorem wit_fork : dqCount ((recorded 0).coreAt 0) < dqMask ((recorded 0).coreAt 0) ∧ dqMask ((recorded 1).coreAt 0) ≤ dqCount ((recorded 1).coreAt 0)
    ∧ recordValid (wordsOf (recNat false) 8) = true ∧ nestBlocked (forkAt 1) = false
    ∧ outstandingCore (forkAt 1) 0 < 64 ∧ ∃ s2, startNested (forkAt 1) ((recorded 1).t.pc + 4) (wordsOf (recNat false) 8) = some s2 :=
  ⟨by decide +kernel, by decide +kernel, by decide +kernel, by decide +kernel, by decide +kernel, some_of (by decide +kernel)⟩

/-- A full deque, and at the address that w3 holds a record that is none: its PC is no multiple of 4. -/
def misformed : State := writeWords (recorded 1) (tcmAddr 0 0x40) [1, 4, 0, 0, 0, 0, 0, 0]

theorem wit_fork_invalid : ∃ s1, Calm misformed ∧ misformed.t.active = true ∧ released misformed = true
    ∧ readAtIssue (advanced misformed misformed) .record (plainRead misformed.t 11) 64 64 = .ok (s1, natOfWords [1, 4, 0, 0, 0, 0, 0, 0])
    ∧ dqMask (misformed.coreAt 0) ≤ dqCount (misformed.coreAt 0) ∧ recordValid (wordsOf (natOfWords [1, 4, 0, 0, 0, 0, 0, 0]) 8) = false :=
  ⟨_, calm_of (by decide +kernel), by decide +kernel, by decide +kernel, ok_of (by decide +kernel), by decide +kernel, by decide +kernel⟩

/-- A counter below its target, with one record in the core's deque. -/
def joining (r : List Word) : State := writeWords ((tcmEnd 8 true).setCore 0 { Core.reset with dqbot := 1 }) (tcmAddr 0 0) r

theorem wit_join_record (r : List Word) (h : r = rec false ∨ r = [1, 4, 0, 0, 0, 0, 0, 0]) : ∃ s2, Calm (joining r) ∧ (joining r).t.active = true
    ∧ (plainRead (joining r).t 11).toNat % 8 = 0
    ∧ locate (joining r) (joining r).asker .counterRead (plainRead (joining r).t 11) 8 8 none 0 = .ok (s2, .mem (tcmAddr 0 0x1FFF8) 0)
    ∧ dataMatch (joining r).slot [(plainRead (joining r).t 11, false)] = none ∧ requestBlocked (joining r) (tcmAddr 0 0x1FFF8) 8 = false
    ∧ readNat (joining r) (tcmAddr 0 0x1FFF8) 8 < (plainRead (joining r).t 12).toNat ∧ dqNewest (joining r) (joining r).core = some r
    ∧ (joining r).t.resident ≤ 120 ∧ (joining r).t.frames.length < 64 ∧ (joining r).t.depth < 65535
    ∧ (r = rec false → recordValid r = true) ∧ (r = [1, 4, 0, 0, 0, 0, 0, 0] → recordValid r = false) := by
  rcases h with rfl | rfl <;> exact ⟨_, calm_of (by decide +kernel), by decide +kernel, by decide +kernel, ok_of (by decide +kernel), by decide +kernel,
    by decide +kernel, by decide +kernel, by decide +kernel, by decide +kernel, by decide +kernel, by decide +kernel, by decide +kernel, by decide +kernel⟩

/-- A task that a record has started. -/
def running (counted : Bool) : State := baseWith (fun t => { t with runs := [{ record := rec counted, given := true, ibRead := 0 }] })

theorem wit_retire : Calm (running true) ∧ (running true).t.runs = [{ record := rec true, given := true, ibRead := 0 }] ∧ (running true).t.popOf = none
    ∧ (running true).t.pulled = [] ∧ (running true).t.pulledFar = [] ∧ requestBlocked (running true) (tcmAddr 0 0x10000) 8 = false
    ∧ released (running true) = true ∧ counterAddr 0 (rec true) = some 0x4000000000010000 ∧ counterAddr 0 (rec false) = none
    ∧ (∃ s2, locate (running true) (running true).asker .counterAdd 0x4000000000010000 8 8 none 0 = .ok (s2, .mem (tcmAddr 0 0x10000) 0))
    ∧ inArmed (running true) (tcmAddr 0 0x10000) 8 = false ∧ owned (running true) (tcmAddr 0 0x10000) 8 = false :=
  ⟨calm_of (by decide +kernel), by decide +kernel, by decide +kernel, by decide +kernel, by decide +kernel, by decide +kernel, by decide +kernel, by decide +kernel, by decide +kernel,
    ⟨_, ok_of (by decide +kernel)⟩, by decide +kernel, by decide +kernel⟩

theorem wit_strand : Calm (recorded 0) ∧ (recorded 0).t.popOf = none ∧ released (recorded 0) = true ∧ (recorded 0).t.handlers = 0
    ∧ (plainRead (recorded 0).t 12).toNat ≤ 1 ∧ 1 < (plainRead (recorded 0).t 11).toNat ∧ (baseWith (fun t => { t with handlers := 1 })).t.handlers ≠ 0
    ∧ (recorded 0).t.strandDepth = 0 ∧ (baseWith (fun t => { t with strandDepth := 1 })).t.strandDepth ≠ 0
    ∧ (baseWith (fun t => { t with strandDepth := 1 })).t.handlers = 0 :=
  ⟨calm_of (by decide +kernel), by decide +kernel⟩

/-- A nested run on top of the task's own. -/
def nestedRun : State := baseWith (fun t => { t with
  runs := [{ record := rec false, given := true, ibRead := 0 }, { record := rec true, given := true, ibRead := 0 }],
  frames := [{ base := 8, size := 8, ret := 0x2000, kind := .nested }, { base := 0, size := 8, ret := 0, kind := .bottom }] })

theorem wit_retire_nested : Calm nestedRun ∧ nestedRun.t.pulled = [] ∧ nestedRun.t.pulledFar = [] ∧ released nestedRun = true ∧ nestedRun.t.strandDepth = 0
    ∧ spillBlocked nestedRun = false ∧ nestedRun.t.runs = [{ record := rec false, given := true, ibRead := 0 }, { record := rec true, given := true, ibRead := 0 }]
    ∧ nestedRun.t.frames = [{ base := 8, size := 8, ret := 0x2000, kind := .nested }, { base := 0, size := 8, ret := 0, kind := .bottom }]
    ∧ counterAddr nestedRun.devid (rec false) = none := ⟨calm_of (by decide +kernel), by decide +kernel⟩

/-- The leader of a strand of two, whose follower is done or has an instruction left. -/
def leading (left : Bool) : State :=
  ((running false).setT { (running false).t with followers := [4], strandDepth := 1 }).updSlot 4 (fun x => { x with
    phase := .running, t := { x.t with leader := some 0, fwd := if left then [{ pc := 0, word := 0x04000000, next := 4 }] else [] } })

theorem wit_strand_release (left : Bool) : Issues (.unstrand false) { control := true } (leading left) (gather (leading left) { control := true }).1 ⟨0, 0, 0⟩
    ∧ Issues (.retire false) { control := true } (leading left) (gather (leading left) { control := true }).1 ⟨0, 0, 0⟩
    ∧ (leading left).t.handlers = 0 ∧ (leading left).t.leader = none ∧ (leading left).t.strandDepth ≠ 0 ∧ (leading left).cur ∉ (leading left).t.followers
    ∧ (∀ n ∈ (leading left).t.followers, ((leading left).slotAt n).t.popOf = none) ∧ (leading left).t.popOf = none ∧ (leading left).t.pulled = []
    ∧ (leading left).t.pulledFar = [] ∧ released (leading left) = true ∧ (leading left).t.runs = [{ record := rec false, given := true, ibRead := 0 }]
    ∧ counterAddr (leading left).devid (rec false) = none ∧ (leading left).t.followers = [4] ∧ ((leading left).slotAt 4).t.leader.isSome = true
    ∧ followerDone (leading left) 4 = !left := by
  cases left <;> exact ⟨issues_of (by decide +kernel), issues_of (by decide +kernel), by decide +kernel⟩

/-- The record, a counter at the address that w4 holds, a target in w5, and n gates. -/
def gated (n : Nat) (target : Word) : State :=
  let s := writeWords (regs [(11, 0x2000000000000040), (12, 0x2000000000010000), (13, target)]) (tcmAddr 0 0x40) (rec false)
  s.setCluster 0 { Cluster.reset with gates := List.replicate n { record := rec false, addr := 0, target := 1, core := 0, ctx := 0 } }

theorem wit_tgate (n : Nat) (target : Word) (h : (n, target) = (64, 0) ∨ (n, target) = (63, 0) ∨ (n, target) = (63, 1)) :
    ∃ (p : Place) (s0 s1 s2 : State), Calm (gated n target) ∧ (gated n target).t.active = true ∧ (∀ r ∈ [11, 12, 13], plainCode (gated n target).t r = true)
    ∧ released (gated n target) = true
    ∧ locate (advanced (gated n target) (gated n target)) (gated n target).asker .record (plainRead (gated n target).t 11) 64 64 none 0 = .ok (s0, p)
    ∧ locate s0 (gated n target).asker .ringRead (plainRead (gated n target).t 12) 8 8 none 0 = .ok (s1, .mem (tcmAddr 0 0x10000) 0)
    ∧ dataMatch (gated n target).slot [(plainRead (gated n target).t 11, false), (plainRead (gated n target).t 12, false)] = none
    ∧ readAtIssue s1 .record (plainRead (gated n target).t 11) 64 64 = .ok (s2, recNat false) ∧ requestBlocked (gated n target) (tcmAddr 0 0x10000) 8 = false
    ∧ ((gated n target).clusterAt (gated n target).cluster).gates.length = n := by
  rcases h with h | h | h <;> (obtain ⟨rfl, rfl⟩ := h; exact ⟨.mem (tcmAddr 0 0x40) 0, _, _, _, calm_of (by decide +kernel), by decide +kernel, by decide +kernel, by decide +kernel,
    ok_of (by decide +kernel), ok_of (by decide +kernel), by decide +kernel, ok_of (by decide +kernel), by decide +kernel, by decide +kernel⟩)

theorem wit_tspawn : ∃ (s1 s2 : State), Calm (recorded 0) ∧ released (recorded 0) = true
    ∧ checkTiles (advanced (recorded 0) (recorded 0)) (plainRead (recorded 0).t 11) (min (plainRead (recorded 0).t 12).toNat 1024) = .ok s1
    ∧ readTiles s1 (plainRead (recorded 0).t 11) (min (plainRead (recorded 0).t 12).toNat 1024) = .ok (s2, [rec false])
    ∧ (s2.dieAt 0).spawnq.length + [rec false].countP (fun r => decide (1 ≤ rowCount r) && decide (rowCount r ≤ 32)) ≤ 1024 :=
  ⟨effSt (checkTiles (advanced (recorded 0) (recorded 0)) (plainRead (recorded 0).t 11) (min (plainRead (recorded 0).t 12).toNat 1024)), _,
    calm_of (by decide +kernel), by decide +kernel, eff_of (by decide +kernel), ok_of (by decide +kernel), by decide +kernel⟩

/-- Slots bound for levels 4 to 11 of context 0, with a steal domain of the package. -/
def bound (s : State) (ns : List Nat) : State := s.setDie 0 { s.dieAt 0 with slotTab := ns.map (fun n => (8 * n, 0x104B40000)) }

/-- What an idle slot is offered. -/
def offered (r : Option (List Word × State)) : Bool :=
  match r with
  | some p => decide (p.1 = rec false)
  | none => false

theorem offered_of {r : Option (List Word × State)} (h : offered r = true) : ∃ s1, r = some (rec false, s1) := by
  cases r with
  | none => simp [offered] at h
  | some p => obtain ⟨p1, p2⟩ := p; simp only [offered, decide_eq_true_eq] at h; subst h; exact ⟨p2, rfl⟩

theorem wit_take_record : maySearch (bound (recorded 1) [1]) 1 = true ∧ (∃ s1, firstOffer (bound (recorded 1) [1]) 1 = some (rec false, s1))
    ∧ recordValid (rec false) = true := ⟨by decide +kernel, offered_of (by decide +kernel), by decide +kernel⟩

/-- The same slot, to search again. -/
def retrying : State := (bound (recorded 1) [1]).updSlot 1 (fun x => { x with searched := true })

theorem wit_search_retry : (retrying.slotAt 1).searched = true ∧ maySearch (retrying.updSlot 1 (fun x => { x with searched := false })) 1 = true
    ∧ (∃ s1, firstOffer (retrying.updSlot 1 (fun x => { x with searched := false })) 1 = some (rec false, s1)) :=
  ⟨by decide +kernel, by decide +kernel, offered_of (by decide +kernel)⟩

/-- The same, and slot 4, an idle one of core 1, may steal inside the package. -/
def stealing : State := (bound (recorded 1) [1, 4]).updSlot 4 (fun x => { x with t := { x.t with stealdom := 4 } })

theorem wit_theft : maySteal stealing 4 = true ∧ victimOf stealing 4 = some 0 ∧ dqOldest stealing 0 = some (rec false) := by decide +kernel

/-- A record on its way to a core. -/
def onWay (core : Nat) (r : List Word) : RecordMsg := { core := core, record := r, slot := none, ctx := 0 }

/-- A record on its way to core 0, whose inbox holds n records. -/
def sent (n : Word) : State := { (bound base [1]).setCore 0 { Core.reset with ibtail := n } with inflight := [onWay 1 (rec true), onWay 0 (rec false)] }

theorem wit_inbox : takeInflight (recordMoves (sent 0) 0) (sent 0).inflight = some (onWay 0 (rec false), [onWay 1 (rec true)]) ∧ (rec false).length = 8 ∧ coreAdmits (sent 0) 0 (rec false) = true
    ∧ ((sent 0).coreAt 0).port = [] ∧ ((sent 0).coreAt 0).backstop = [] ∧ ibFull ((sent 0).coreAt 0) = false ∧ ibFull ((sent 1).coreAt 0) = true
    ∧ coreAdmits (sent 1) 0 (rec false) = true ∧ takeInflight (recordMoves (sent 1) 0) (sent 1).inflight = some (onWay 0 (rec false), [onWay 1 (rec true)]) := by decide +kernel

/-- A record that has waited 1 µs at the port of a full inbox; one in the backstop of an inbox with room. -/
def portFull : State := { base.setCore 0 { Core.reset with ibtail := 1, port := [(0, onWay 0 (rec false))], backstop := List.replicate 63 (rec true) } with tstamp := 1000 }
def backstopped : State := base.setCore 0 { Core.reset with backstop := [rec false] }

theorem wit_backstop : (portFull.coreAt 0).port = [(0, onWay 0 (rec false))] ∧ ibFull (portFull.coreAt 0) = true ∧ 0 + 1000 ≤ portFull.tstamp.toNat
    ∧ (portFull.coreAt 0).backstop.length < 64 ∧ (backstopped.coreAt 0).backstop = [rec false] ∧ ibFull (backstopped.coreAt 0) = false := by decide +kernel

theorem wit_dispatch : dispatchChoice (let s := bound base [1]; s.setDie 0 { s.dieAt 0 with spawnq := [(rec false, 0, 0, 0)] }) 0 = some (0, 1, rec false, 0) := by
  decide +kernel

/-- A task of level 4 that yields, with n records of its level in its core's deque. -/
def yielding (n : Word) : State := let s := bound (recorded n) [0]; s.setT { s.t with prio := 4, yielded := true, bind := [0x104B40000] }

theorem wit_quantum : quantumDue (yielding 0) 0 = true ∧ waitingRecord ((yielding 0).makeHot 0) 0 = none ∧ quantumDue (yielding 1) 0 = true
    ∧ (∃ s1, waitingRecord ((yielding 1).makeHot 0) 0 = some (rec false, s1)) ∧ ((yielding 1).makeHot 0).t.nested = false
    ∧ ((yielding 1).makeHot 0).t.inStrand = false ∧ ((yielding 1).makeHot 0).slot.saved = none ∧ ((yielding 1).makeHot 0).held = []
    ∧ ((yielding 1).makeHot 0).t.wait = none ∧ outstandingReads ((yielding 1).makeHot 0) 0 = false :=
  ⟨by decide +kernel, by decide +kernel, by decide +kernel, offered_of (by decide +kernel), by decide +kernel⟩

/-- A slot whose task is being saved for a record. -/
def savingFor : State := base.updSlot 1 (fun x => { x with saving := true, saved := some .reset, chosen := some (rec false) })

theorem wit_quantum_save : (savingFor.slotAt 1).saving = true ∧ (savingFor.slotAt 1).saved = some Task.reset
    ∧ (savingFor.slotAt 1).chosen = some (rec false) ∧ recordValid (rec false) = true ∧ slotHeld savingFor 1 = false := by decide +kernel

/-- A request for a strand of two, whose turn it is. -/
def forming : State := let s := bound (baseWith (fun t => { t with wait := some (.strand 2) })) [4]; { s with watches := [{ slot := 0, home := strandHome 0, entry := true }] }

theorem wit_strand_form : (forming.slotAt 0).t.wait = some (.strand 2) ∧ slotHeld forming 0 = false ∧ (forming.slotAt 0).phase = .running
    ∧ (forming.slotAt 0).t.leader = none ∧ (forming.slotAt 0).t.followers = [] ∧ strandTurn forming 0 = true ∧ strandSlots 0 2 = [4]
    ∧ (∀ n ∈ strandSlots 0 2, strandIdle (forming.makeHot 0) 0 n = true) := by decide +kernel


/-! ## Witnesses: vectors, tiles, residual objects, populations -/

theorem wit_vector : ∃ (ins : Instr) (v : VecWord) (s : State), vectors ins = some v ∧ Goes ins v.use s ∧ v.inRange s.t.fmt (plainRead s.t v.xi + v.k.zeroExtend 64)
    ∧ v.d.col = true ∧ v.a.col = false :=
  ⟨.vadd 0 1 2 true false false 0 15 false, _, base, rfl, goes_of (by decide +kernel), by unfold VecWord.inRange; decide +kernel, rfl, rfl⟩

theorem wit_vector_range : ∃ (ins : Instr) (v : VecWord) (s : State), vectors ins = some v ∧ Goes ins v.use s
    ∧ ¬ v.inRange s.t.fmt (plainRead s.t v.xi + v.k.zeroExtend 64) :=
  ⟨.vneg 0 1 false false 0 16 false, _, base, rfl, goes_of (by decide +kernel), by unfold VecWord.inRange; decide +kernel⟩

theorem wit_int_elements : fmtInt 0x24 8 true ∈ intFmts ∧ fmtInt 0x25 8 false ∈ intFmts ∧ (fmtInt 0x24 8 true).width = (fmtInt 0x25 8 false).width
    ∧ 0xFF < 2 ^ (fmtInt 0x24 8 true).width ∧ fmtINT32 ∈ intFmts ∧ 0x80000000 < 2 ^ fmtINT32.width ∧ fmtINT32.width ∈ [8, 16, 32] := by decide

theorem wit_float_formats : floatFmt fmtFP32 ∧ floatFmt fmtBF16 ∧ floatFmt fmtB4p2 :=
  ⟨⟨by decide, 0x23, by decide⟩, ⟨by decide, 0x21, by decide⟩, ⟨by decide, 0x20, by decide⟩⟩

/-- NaN, the infinities, the zeros and a number among the codes of FP32. -/
theorem wit_float_values : fmtFP32.value 0x7FC00000 = .nan ∧ fmtFP32.value 0x7F800000 = .inf false ∧ fmtFP32.value 0xFF800000 = .inf true
    ∧ (fmtFP32.value 0).isZero = true ∧ (fmtFP32.value 0x80000000).isZero = true ∧ (fmtFP32.value 0x80000000).isNeg = true
    ∧ (fmtFP32.value 0xBF800000).finite = true ∧ (fmtFP32.value 0xBF800000).isZero = false ∧ (fmtFP32.value 0xBF800000).isNeg = true
    ∧ (fmtFP32.value 0x3F800000).finite = true ∧ (fmtFP32.value 0x3F800000).isZero = false ∧ 0xFF800000 < 2 ^ fmtFP32.width := by decide

theorem wit_float_one : (fmtFP32.value 0x3F800000).real = 1 := by
  rw [show fmtFP32.value 0x3F800000 = .fin false 0x800000 (-23) by decide]; norm_num [Machine.Num.real]

theorem wit_float_order : numBelow (fmtFP32.value 0xFF800000) (fmtFP32.value 0) ∧ numBelow (fmtFP32.value 0x80000000) (fmtFP32.value 0)
    ∧ numSame (fmtFP32.value 0x7F800000) (fmtFP32.value 0x7F800000) ∧ ¬ numBelow (fmtFP32.value 0x7F800000) (fmtFP32.value 0x7F800000) := by
  rw [show fmtFP32.value 0xFF800000 = .inf true by decide, show fmtFP32.value 0 = .fin false 0 (-149) by decide,
    show fmtFP32.value 0x80000000 = .fin true 0 (-149) by decide, show fmtFP32.value 0x7F800000 = .inf false by decide]
  exact ⟨.inl rfl, .inr ⟨rfl, rfl, rfl, rfl⟩, ⟨nofun, nofun, by simp [numLess], by simp [numLess]⟩, by simp [numBelow, numLess, Machine.Num.isZero]⟩

/-- A row with a NaN, with both infinities, and of finite numbers alone. -/
theorem wit_row_sums : Machine.Num.nan ∈ [0x7FC00000, 0].map fmtFP32.value ∧ Machine.Num.inf true ∉ [0x7FC00000, 0].map fmtFP32.value
    ∧ Machine.Num.nan ∉ [0x7F800000, 0xFF800000].map fmtFP32.value ∧ Machine.Num.inf true ∈ [0x7F800000, 0xFF800000].map fmtFP32.value
    ∧ Machine.Num.inf false ∈ [0x7F800000, 0xFF800000].map fmtFP32.value ∧ Machine.Num.nan ∉ [0x7F800000, 0].map fmtFP32.value
    ∧ Machine.Num.inf false ∈ [0x7F800000, 0].map fmtFP32.value ∧ Machine.Num.inf true ∉ [0x7F800000, 0].map fmtFP32.value
    ∧ (∀ u ∈ [0x3F800000, 0].map fmtFP32.value, u.finite = true) := by decide

/-- Products of a chunk: a bad one, an infinite one, and finite ones; a list whose window has the step 2^-63. -/
theorem wit_loom_sums : badProduct (.inf false) (.fin false 0 0) = true ∧ badProduct (.inf false) (.fin false 1 0) = false
    ∧ ((Machine.Num.inf false).mul (.fin false 1 0)).1 = .inf false ∧ (Machine.Num.fin false 1 0).finite = true
    ∧ windowStep ((fmtFP32.value 0x3F800000).real :: []) (-63) := by
  refine ⟨by decide, by decide, by decide, by decide, ?_⟩
  rw [wit_float_one]
  exact ⟨by norm_num, 1, by simp, by norm_num⟩

theorem wit_tiles : Goes (.tzero 3 false) { tiles := [3] } base ∧ Goes (.ttr 3 0 false) { tiles := [3, 0] } base
    ∧ Goes (.vget 1 11 12 15 false) (elemUse 11 12 true elemWidthOk 1) (regs [(12, 15)]) ∧ (plainRead (regs [(12, 15)]).t 12).toNat < 16
    ∧ (15 : BitVec 6).toNat < 512 / (vfmt base.t.fmt.fd).width ∧ Goes (.vget 1 11 12 16 false) (elemUse 11 12 true elemWidthOk 1) (regs [(12, 16)])
    ∧ 16 ≤ (plainRead (regs [(12, 16)]).t 12).toNat ∧ 512 / (vfmt base.t.fmt.fd).width ≤ (16 : BitVec 6).toNat
    ∧ Goes (.vput 1 11 12 15 false) (elemUse 11 12 false elemWidthOk 1) (regs [(12, 15)])
    ∧ Goes (.vbcast 1 11 12 false) (elemUse 11 12 false elemWidthOk 1) (regs [(12, 15)])
    ∧ Goes (.vreds 1 11 12 false) (elemUse 11 12 true redsFmtOk 1) (regs [(12, 15)])
    ∧ Goes (.vredm 1 11 12 false) (elemUse 11 12 true (fun p => vfmtOk p.fa) 1) (regs [(12, 15)]) :=
  ⟨goes_of (by decide +kernel), goes_of (by decide +kernel), goes_of (by decide +kernel), by decide +kernel, by decide +kernel, goes_of (by decide +kernel),
    by decide +kernel, by decide +kernel, goes_of (by decide +kernel), goes_of (by decide +kernel), goes_of (by decide +kernel), goes_of (by decide +kernel)⟩

theorem tileReaches_of {s : State} {k : Access} {a : Word} {len : Nat} {q : BitVec 2} {pa : Nat}
    (h : tokOf a ≠ some .regs ∧ locatesAt (locate s s.asker k a len 64 none q) pa = true ∧ dataMatch s.slot [(a, decide (k = .store))] = none
      ∧ outstandingCore s s.core + (splitParts 64 pa 0 len).length ≤ 64 ∧ owned s pa len = false ∧ s.held = [] ∧ s.replies = [] ∧ s.inflight = []
      ∧ (k = .store → inArmed s pa len = false)) :
    TileReaches s k a len q pa :=
  ⟨h.1, located_of h.2.1, h.2.2.1, h.2.2.2.1, h.2.2.2.2.1, h.2.2.2.2.2.1, h.2.2.2.2.2.2.1, h.2.2.2.2.2.2.2.1, h.2.2.2.2.2.2.2.2⟩

/-- The last 64 bytes of slot 0's TCM, whose granules are full or empty; w3 addresses them. -/
def tileAt (full : Bool) : State :=
  { regs [(11, 0x200000000001FFC0), (12, 15)] with empty := if full then [] else granulesOf (tcmAddr 0 0x1FFC0) 64 |>.map (· / 16) }

theorem wit_tile_load : Goes (.tld 3 true 11 12 0 2 false) (tileUse 3 11 12) (tileAt true) ∧ (plainRead (tileAt true).t 12 + (0 : BitVec 5).zeroExtend 64).toNat < 512 / 32
    ∧ (vfmt (tileAt true).t.fmt.fd).width = 32 ∧ TileReaches (tileAt true) .load (plainRead (tileAt true).t 11) 64 2 (tcmAddr 0 0x1FFC0)
    ∧ allFull (tileAt true) (tcmAddr 0 0x1FFC0) 64
    ∧ Goes (.tld 3 true 11 12 1 2 false) (tileUse 3 11 12) (tileAt true) ∧ 512 / 32 ≤ (plainRead (tileAt true).t 12 + (1 : BitVec 5).zeroExtend 64).toNat :=
  ⟨goes_of (by decide +kernel), by decide +kernel, by decide +kernel, tileReaches_of (by decide +kernel), by unfold allFull; decide +kernel,
    goes_of (by decide +kernel), by decide +kernel⟩

theorem wit_tile_store : Goes (.tst 3 false 11 12 0 2 false) (tileUse 3 11 12) (tileAt false) ∧ (plainRead (tileAt false).t 12 + (0 : BitVec 5).zeroExtend 64).toNat < 16
    ∧ TileReaches (tileAt false) .store (plainRead (tileAt false).t 11) 64 2 (tcmAddr 0 0x1FFC0) ∧ allEmpty (tileAt false) (tcmAddr 0 0x1FFC0) 64
    ∧ hasGranules (tcmAddr 0 0x1FFC0) = true
    ∧ Goes (.tst 3 false 11 12 1 2 false) (tileUse 3 11 12) (tileAt false) ∧ 16 ≤ (plainRead (tileAt false).t 12 + (1 : BitVec 5).zeroExtend 64).toNat :=
  ⟨goes_of (by decide +kernel), by decide +kernel, tileReaches_of (by decide +kernel), by unfold allEmpty; decide +kernel, by decide +kernel,
    goes_of (by decide +kernel), by decide +kernel⟩

/-- A header of one segment at the start of die 0's SRAM; w3 names it, w4 a counter, w5 the segment with a contributor, w6 a block of the TCM. -/
def header (free : Nat) : State :=
  writeWords (regs [(11, BitVec.ofNat 64 (0x5000000000000000 + free)), (12, 0x2000000000010000), (13, 0x5000000000000407), (14, 0x2000000000000040), (15, 0x5000000000000400)])
    (sramAddr 0 0) [64, 0, 0, 1]

/-- The object, armed. -/
def object : State := run1 (.rsnew 11 12 false) (header 0)

def hd1 (free : Nat) : State := stOf (placeOf .residRead (plainRead (header free).t 11 &&& ~~~1) (plainRead (header free).t 11) 32 1024 (advanced (header free) (header free)))
def hd2 (free : Nat) : State := stOf (placeOf .counterAdd (plainRead (header free).t 12) (plainRead (header free).t 12) 8 8 (hd1 free))

theorem wit_rsnew (free : Nat) (h : free = 0 ∨ free = 1) : ∃ s3, Calm (header free) ∧ (header free).t.active = true ∧ released (header free) = true
    ∧ placeOf .residRead (plainRead (header free).t 11 &&& ~~~1) (plainRead (header free).t 11) 32 1024 (advanced (header free) (header free)) = .ok (hd1 free, .mem (sramAddr 0 0) 0)
    ∧ placeOf .counterAdd (plainRead (header free).t 12) (plainRead (header free).t 12) 8 8 (hd1 free) = .ok (hd2 free, .mem (tcmAddr 0 0x10000) 0)
    ∧ dataMatch (header free).slot [(plainRead (header free).t 11, true), (plainRead (header free).t 12, true)] = none
    ∧ inArmed (header free) (tcmAddr 0 0x10000) 8 = false ∧ requestBlocked (header free) (tcmAddr 0 0x10000) 8 = false
    ∧ requestBlocked (header free) (sramAddr 0 0) 32 = false
    ∧ rsnewAt (header free).asker (plainRead (header free).t 11 &&& ~~~1) (readWords (header free) (sramAddr 0 0) 4) (hd2 free) = .ok (s3, [(sramAddr 0 0x400, 0)])
    ∧ (∀ q ∈ [(sramAddr 0 0x400, 0)], blockedHere (header free) q.1 1024 = false ∧ (tcmAddr 0 0x10000 + 8 ≤ q.1 ∨ q.1 + 1024 ≤ tcmAddr 0 0x10000)) := by
  rcases h with rfl | rfl <;> exact ⟨_, calm_of (by decide +kernel), by decide +kernel, by decide +kernel, ok_of (by decide +kernel), ok_of (by decide +kernel), by decide +kernel,
    by decide +kernel, by decide +kernel, by decide +kernel, ok_of (by decide +kernel), by decide +kernel⟩

def ob1 : State := stOf (placeOf .residWrite (plainRead object.t 13 &&& ~~~0x3F) (plainRead object.t 13) 1024 1024 (advanced object object))

theorem wit_rspost : ∃ s2, Goes (.rspost 10 13 14 false) (postUse 10 13 14) object
    ∧ placeOf .residWrite (plainRead object.t 13 &&& ~~~0x3F) (plainRead object.t 13) 1024 1024 (advanced object object) = .ok (ob1, .mem (sramAddr 0 0x400) 0)
    ∧ blockPlace (plainRead object.t 14) (8 * (residFmt object.t.fmt.fa).width) ob1 = .ok (s2, tcmAddr 0 0x40)
    ∧ dataMatch object.slot [(plainRead object.t 13, true), (plainRead object.t 14, false)] = none
    ∧ requestBlocked object (tcmAddr 0 0x40) (8 * (residFmt object.t.fmt.fa).width) = false ∧ requestBlocked object (sramAddr 0 0x400) 1024 = false :=
  ⟨_, goes_of (by decide +kernel), ok_of (by decide +kernel), ok_of (by decide +kernel), by decide +kernel, by decide +kernel, by decide +kernel⟩

/-- The object, posted to by contributor 7, sealed, or as it is: a read that needs contributor 7 finds status 0, 1, or none. -/
def toRead (k : Nat) : State :=
  let s := if k = 0 then run1 (.rspost 10 13 14 false) object else if k = 1 then run1 (.rsseal 10 15 false) object else object
  s.setT (plainWrite s.t 10 0x80)

def rd1 (k : Nat) : State := stOf (placeOf .residRead (plainRead (toRead k).t 15) (plainRead (toRead k).t 15) 1024 1024 (advanced (toRead k) (toRead k)))
def rd2 (k : Nat) : State := stOf (blockPlace (plainRead (toRead k).t 14) (8 * (residFmt (toRead k).t.fmt.fd).width) (rd1 k))

theorem wit_rsread (k : Nat) (h : k = 0 ∨ k = 1 ∨ k = 2) : Goes (.rsread 10 15 14 false) (readUse 10 15 14) (toRead k) ∧ Goes (.rstry 10 15 14 false) (readUse 10 15 14) (toRead k)
    ∧ placeOf .residRead (plainRead (toRead k).t 15) (plainRead (toRead k).t 15) 1024 1024 (advanced (toRead k) (toRead k)) = .ok (rd1 k, .mem (sramAddr 0 0x400) 0)
    ∧ blockPlace (plainRead (toRead k).t 14) (8 * (residFmt (toRead k).t.fmt.fd).width) (rd1 k) = .ok (rd2 k, tcmAddr 0 0x40)
    ∧ dataMatch (toRead k).slot [(plainRead (toRead k).t 15, false), (plainRead (toRead k).t 14, true)] = none
    ∧ requestBlocked (toRead k) (sramAddr 0 0x400) 1024 = false ∧ requestBlocked (toRead k) (tcmAddr 0 0x40) (8 * (residFmt (toRead k).t.fmt.fd).width) = false
    ∧ readStatus (rd2 k) (sramAddr 0 0x400) (plainRead (toRead k).t 10) = (if k = 0 then some 0 else if k = 1 then some 1 else none) := by
  rcases h with rfl | rfl | rfl <;> exact ⟨goes_of (by decide +kernel), goes_of (by decide +kernel), ok_of (by decide +kernel), ok_of (by decide +kernel), by decide +kernel,
    by decide +kernel, by decide +kernel, by decide +kernel⟩

theorem wit_rsstat : ∃ s1, Calm object ∧ object.t.active = true ∧ (∀ r ∈ [15, 10], plainCode object.t r = true) ∧ requestBlocked object (sramAddr 0 0x400) 1024 = false
    ∧ placeOf .residRead (plainRead object.t 15) (plainRead object.t 15) 1024 1024 (advanced object object) = .ok (s1, .mem (sramAddr 0 0x400) 0)
    ∧ placeOf .residWrite (plainRead object.t 15) (plainRead object.t 15) 1024 1024 (advanced object object)
        = .ok (stOf (placeOf .residWrite (plainRead object.t 15) (plainRead object.t 15) 1024 1024 (advanced object object)), .mem (sramAddr 0 0x400) 0)
    ∧ dataMatch object.slot [(plainRead object.t 15, false)] = none ∧ dataMatch object.slot [(plainRead object.t 15, true)] = none
    ∧ segArmed object (sramAddr 0 0x400) = true :=
  ⟨_, calm_of (by decide +kernel), by decide +kernel, by decide +kernel, by decide +kernel, ok_of (by decide +kernel), ok_of (by decide +kernel), by decide +kernel,
    by decide +kernel, by decide +kernel⟩

/-- RSREAD parked on a segment that has been sealed. -/
def parkedRead : State := let s := toRead 1; s.setT { s.t with wait := some (.segment (sramAddr 0 0x400) 10 (BitVec.ofNat 64 0x40) 0x80 0x3F) }

theorem wit_deadline : (parkedRead.slotAt 0).t.wait = some (.segment (sramAddr 0 0x400) 10 (BitVec.ofNat 64 0x40) 0x80 0x3F)
    ∧ segClosed parkedRead (sramAddr 0 0x400) = true := by decide +kernel

theorem wit_post : segArmed base (sramAddr 0 0x400) = false ∧ segArmed object (sramAddr 0 0x400) = true ∧ 7 < 48
    ∧ ¬ (readNat object (sramAddr 0 0x400 + 800) 8 % 2 = 1
        ∨ (readNat object (sramAddr 0 0x400 + 792) 8 ≠ 0 ∧ readNat object (sramAddr 0 0x400 + 792) 8 ≤ object.tstamp.toNat))
    ∧ readNat (toRead 1) (sramAddr 0 0x400 + 800) 8 % 2 = 1 ∧ (readWord (toRead 0) (sramAddr 0 0x400 + 768)).getLsbD 7 = true
    ∧ ¬ (readNat (toRead 0) (sramAddr 0 0x400 + 800) 8 % 2 = 1)
    ∧ (readWord object (sramAddr 0 0x400 + 768)).getLsbD 7 = false ∧ segValid object (sramAddr 0 0x400) ≤ 64 ∧ Memory.wf object.mem = true := by decide +kernel

/-- A block for one member at die 0's SRAM, which w3 names; slot 1 is idle and bound; w4 holds n. -/
def block (n : Word) : State :=
  bound (writeWords (regs [(11, 0x5000000000000000), (12, n)]) (sramAddr 0 0) [1, 0, 0, 7, 0x4000000000, 0, 0, 0]) [1]

/-- The population, and the population with slot 0 as its first member. -/
def peopled : State := run1 (.popnew 10 11 12 false) (block 1)
def joined : State := run1 (.popjoin 10 11 false) peopled

theorem wit_popnew (n : Word) (h : n = 1 ∨ n = 5) : ∃ s1, Calm (block n) ∧ (block n).t.active = true ∧ (∀ r ∈ [11, 12, 10], plainCode (block n).t r = true)
    ∧ popPlace .popWrite (plainRead (block n).t 11) (advanced (block n) (block n)) = .ok (s1, sramAddr 0 0) ∧ freshBlock s1 (sramAddr 0 0) (plainRead (block n).t 12).toNat
    ∧ (n = 1 → (plainRead (block n).t 12).toNat ≤ ((domainSlots (popDomain (block n) (sramAddr 0 0)) 0).filter (fun m => popIdle s1 m 0)).length)
    ∧ (n = 5 → ((domainSlots (popDomain (block n) (sramAddr 0 0)) 0).filter (fun m => popIdle s1 m 0)).length < (plainRead (block n).t 12).toNat) := by
  rcases h with rfl | rfl <;> exact ⟨_, calm_of (by decide +kernel), by decide +kernel, by decide +kernel, ok_of (by decide +kernel),
    by unfold freshBlock; decide +kernel, by decide +kernel, by decide +kernel⟩

theorem wit_popjoin : ∃ s1, Calm peopled ∧ peopled.t.active = true ∧ (∀ r ∈ [11, 10], plainCode peopled.t r = true)
    ∧ popPlace .popWrite (plainRead peopled.t 11) (advanced peopled peopled) = .ok (s1, sramAddr 0 0) ∧ peopled.t.popOf = none ∧ peopled.t.nested = false
    ∧ popPhase peopled (sramAddr 0 0) = 1 ∧ popM peopled (sramAddr 0 0) < 16777216 ∧ (popEntry peopled (sramAddr 0 0)).isSome = true
    ∧ isMember peopled.t (sramAddr 0 0) = false ∧ popPhase (block 1) (sramAddr 0 0) = 0
    ∧ (block 1).t.popOf = none ∧ (∃ s2, popPlace .popWrite (plainRead (block 1).t 11) (advanced (block 1) (block 1)) = .ok (s2, sramAddr 0 0)) :=
  ⟨_, calm_of (by decide +kernel), by decide +kernel, by decide +kernel, ok_of (by decide +kernel), by decide +kernel, by decide +kernel, by decide +kernel,
    by decide +kernel, by decide +kernel, by decide +kernel, by decide +kernel, by decide +kernel, _, ok_of (by decide +kernel)⟩

/-- The population in phase 2. -/
def choosing : State := writeWord peopled (sramAddr 0 0 + 48) 2

theorem wit_popjoin_waits : ∃ s1, Calm choosing ∧ choosing.t.active = true ∧ (∀ r ∈ [11, 10], plainCode choosing.t r = true)
    ∧ popPlace .popWrite (plainRead choosing.t 11) (advanced choosing choosing) = .ok (s1, sramAddr 0 0) ∧ choosing.t.popOf = none ∧ choosing.t.nested = false
    ∧ popPhase choosing (sramAddr 0 0) = 2 ∧ popM choosing (sramAddr 0 0) < 16777216 ∧ (popEntry choosing (sramAddr 0 0)).isSome = true :=
  ⟨_, calm_of (by decide +kernel), by decide +kernel, by decide +kernel, ok_of (by decide +kernel), by decide +kernel⟩

theorem wit_member : ∃ s1 s2, Calm joined ∧ joined.t.active = true ∧ (∀ r ∈ [11, 12, 10], plainCode joined.t r = true)
    ∧ popPlace .popWrite (plainRead joined.t 11) (advanced joined joined) = .ok (s1, sramAddr 0 0)
    ∧ popPlace .popRead (plainRead joined.t 11) (advanced joined joined) = .ok (s2, sramAddr 0 0) ∧ isMember joined.t (sramAddr 0 0) = true
    ∧ joined.t.popOf = some (sramAddr 0 0, 0) ∧ joined.t.nested = false ∧ released joined = true ∧ readsPending joined = false :=
  ⟨_, _, calm_of (by decide +kernel), by decide +kernel, by decide +kernel, ok_of (by decide +kernel), ok_of (by decide +kernel), by decide +kernel⟩

/-- Every member has arrived. -/
def arrived : State := run1 (.resample 10 11 12 false) joined

/-- The population of the block. -/
def thePop (s : State) : Population := ((s.dieAt 0).pops.head?).getD { block := 0, ctx := 0, core := 0, members := [], arrived := [], clones := [], coming := [] }

theorem wit_resample : (arrived.dieAt 0).pops[0]? = some (thePop arrived) ∧ allArrived (thePop arrived) = true
    ∧ popEntry arrived (thePop arrived).block = some (thePop arrived)
    ∧ (∀ c ∈ copiesFrom (popN arrived (thePop arrived).block) (resampleU (popSeed arrived (thePop arrived).block) (popGen arrived (thePop arrived).block))
          ((uniform (arrivals arrived (thePop arrived))).map (fun m => m.2.2)).sum 0 (uniform (arrivals arrived (thePop arrived))), c.2.2.2 = 1)
    ∧ 7 < 18446744073709551616 ∧ (([(0, 0, 3), (1, 1, 0)] : List (Nat × Nat × Nat)).map (fun m => m.2.2)).sum = 3 := by decide +kernel

/-- Two clones of slot 0 wait for slots; slot 1 is ready. -/
def cloning : State :=
  let s := (block 1).setT { (block 1).t with prio := 4 }
  let p : Population := { block := sramAddr 0 0, ctx := 0, core := 0, members := [(0, 0)], arrived := [], clones := [(0, 0, 1, 1), (0, 0, 2, 2)], coming := [] }
  s.setDie 0 { s.dieAt 0 with pops := [p] }

theorem wit_clone : (cloning.dieAt 0).pops[0]? = some (thePop cloning) ∧ (thePop cloning).clones = [(0, 0, 1, 1), (0, 0, 2, 2)]
    ∧ popEntry cloning (thePop cloning).block = some (thePop cloning) ∧ cloneReady cloning (thePop cloning) = some 1 := by decide +kernel

theorem resampling_of {s : State} {blk n w : Nat} {rd : Reg}
    (h : (s.slotAt n).t.wait = some (.resample blk w rd (dstOf (s.slotAt n).t rd)) ∧ rd.toNat < 56 ∧ (s.slotAt n).t.leader = none
      ∧ (s.slotAt n).t.followers = [] ∧ (s.slotAt n).t.waitWord.getLsbD 0 = false ∧ (s.slotAt n).phase = .running) : resampling s blk n rd :=
  ⟨⟨w, h.1⟩, h.2⟩

/-- A member that has come to its RESAMPLE into w2. -/
def inResample (t : Task) (i : Nat) : Task := { t with wait := some (.resample (sramAddr 0 0) 1 10 (dstOf t 10)), popOf := some (sramAddr 0 0, i) }

/-- Two members of a population of one have arrived; one of them gets no copy. -/
def twoMembers : State :=
  let s := ((block 1).setT (inResample (block 1).t 0)).updSlot 1 (fun x => { x with phase := .running, t := inResample x.t 1 })
  s.setDie 0 { s.dieAt 0 with pops := [{ block := sramAddr 0 0, ctx := 0, core := 0, members := [(0, 0), (1, 1)], arrived := [(0, 0), (1, 1)], clones := [], coming := [] }] }

theorem wit_resample_copies : (twoMembers.dieAt 0).pops[0]? = some (thePop twoMembers) ∧ allArrived (thePop twoMembers) = true
    ∧ popEntry twoMembers (thePop twoMembers).block = some (thePop twoMembers) ∧ ((copiesNow twoMembers (thePop twoMembers)).map (fun c => c.2.1)).Nodup
    ∧ (∀ c ∈ copiesNow twoMembers (thePop twoMembers), c.2.2.2 ≤ 1) ∧ (∃ c ∈ copiesNow twoMembers (thePop twoMembers), c.2.2.2 = 0)
    ∧ (∃ c ∈ copiesNow twoMembers (thePop twoMembers), c.2.2.2 = 1)
    ∧ (∀ c ∈ copiesNow twoMembers (thePop twoMembers), resampling twoMembers (thePop twoMembers).block c.2.1 10)
    ∧ (∀ c ∈ copiesNow twoMembers (thePop twoMembers), c.2.2.2 = 0 → endCounter twoMembers c.2.1 = none) := by
  have h : ∀ c ∈ copiesNow twoMembers (thePop twoMembers), c.2.1 = 0 ∨ c.2.1 = 1 := by decide +kernel
  refine ⟨by decide +kernel, by decide +kernel, by decide +kernel, by decide +kernel, by decide +kernel, by decide +kernel, by decide +kernel, fun c hc => ?_, by decide +kernel⟩
  rcases h c hc with e | e <;> rw [e] <;> exact resampling_of (w := 1) (by decide +kernel)

theorem wit_member_counter : ∃ s1, endCounter (running true) 0 = some 0x4000000000010000
    ∧ locate ((running true).makeHot 0) ((running true).makeHot 0).asker .counterAdd 0x4000000000010000 8 8 none 0 = .ok (s1, .mem (tcmAddr 0 0x10000) 0)
    ∧ inArmed s1 (tcmAddr 0 0x10000) 8 = false ∧ owned s1 (tcmAddr 0 0x10000) 8 = false ∧ (running true).held = [] ∧ (running true).replies = []
    ∧ (running true).inflight = [] :=
  ⟨_, by decide +kernel, ok_of (by decide +kernel), by decide +kernel, by decide +kernel, by decide +kernel⟩

/-- Slot 0, the one survivor, and its last clone, for which slot 1 is ready. -/
def lastClone : State :=
  let s := (block 1).setT { inResample (block 1).t 0 with prio := 4 }
  s.setDie 0 { s.dieAt 0 with pops := [{ block := sramAddr 0 0, ctx := 0, core := 0, members := [(0, 0)], arrived := [(0, 0)], clones := [(0, 0, 1, 1)], coming := [(0, 0, 0, 0)] }] }

theorem wit_last_clone : (lastClone.dieAt 0).pops[0]? = some (thePop lastClone) ∧ (thePop lastClone).clones = [(0, 0, 1, 1)]
    ∧ popEntry lastClone (thePop lastClone).block = some (thePop lastClone) ∧ cloneReady lastClone (thePop lastClone) = some 1
    ∧ resampling lastClone (thePop lastClone).block 0 10 ∧ (thePop lastClone).coming = [(0, 0, 0, 0)] ∧ ([1, 0] : List Nat).Nodup
    ∧ tcmAddr 0 (popStateBase lastClone (sramAddr 0 0) + 1 % 4 * popStateSize lastClone (sramAddr 0 0)) + popStateSize lastClone (sramAddr 0 0) ≤ (thePop lastClone).block :=
  ⟨by decide +kernel, by decide +kernel, by decide +kernel, by decide +kernel, resampling_of (w := 1) (by decide +kernel), by decide +kernel⟩


/-! ## Witnesses: engines -/

/-- The issuer of every command here: slot 0 in supervisor mode of context 0. -/
def me : Issuer := { slot := 0, epoch := 0, user := false, ctx := 0 }

/-- An accumulator: its owner and whether it is valid. -/
def accum (owner : Option Nat) (valid : Bool) : Acc := { Acc.reset with owner := owner, valid := valid }

/-- The cluster's accumulators all alike, LEASELEN given. -/
def loomBase (a : Acc) (len : Word) : State :=
  (baseWith (fun t => { t with eregs := [(256 + 14, len)] })).setCluster 0 { Cluster.reset with acc0 := a, acc1 := a, acc2 := a, acc3 := a }

theorem wit_loom_queue (op : LoomOp) : Goes (loomInstr op 11 12 3 false false) (loomNames op 11 12) (loomBase (accum (some 0) true) 1)
    ∧ accForeign (loomBase (accum (some 0) true) 1) 3 = false ∧ (accOf (loomCluster (loomBase (accum (some 0) true) 1)) 3).valid = true
    ∧ released (loomBase (accum (some 0) true) 1) = true ∧ (loomCluster (loomBase (accum (some 0) true) 1)).loomq.length < 32
    ∧ Goes (loomInstr op 11 12 3 false false) (loomNames op 11 12) (loomBase (accum (some 1) true) 1) ∧ accForeign (loomBase (accum (some 1) true) 1) 3 = true
    ∧ Goes (loomInstr op 11 12 3 false false) (loomNames op 11 12) (loomBase (accum (some 0) false) 1) ∧ accForeign (loomBase (accum (some 0) false) 1) 3 = false
    ∧ (accOf (loomCluster (loomBase (accum (some 0) false) 1)) 3).valid = false := by
  cases op <;> exact ⟨goes_of (by decide +kernel), by decide +kernel, by decide +kernel, by decide +kernel, by decide +kernel, goes_of (by decide +kernel), by decide +kernel,
    goes_of (by decide +kernel), by decide +kernel, by decide +kernel⟩

/-- The same with a command of the slot on accumulator 3 queued. -/
def loomBusy : State := run1 (.mzero 3 false false) (loomBase (accum (some 0) true) 1)

theorem wit_lease : Goes (.mlease 0xF false false) {} (loomBase (accum none false) 64) ∧ released (loomBase (accum none false) 64) = true
    ∧ (∀ i, i < 4 → (0xF : BitVec 4).getLsbD i = true → accForeign (loomBase (accum none false) 64) i = false)
    ∧ leaseLen (snapshotRegs (loomBase (accum none false) 64) 1) = 64 ∧ leaseLen (snapshotRegs (loomBase (accum none false) 65) 1) = 65
    ∧ leaseLen (snapshotRegs (loomBase (accum none false) 0) 1) = 0 ∧ (loomBase (accum none false) 0).slot.phase = .running
    ∧ Goes (.mlease 0xF false false) {} (loomBase (accum none false) 65) ∧ Goes (.mrel false false) {} (loomBase (accum (some 0) true) 1)
    ∧ accMine (loomBase (accum (some 0) true) 1) 3 = true ∧ accBusy (loomCluster (loomBase (accum (some 0) true) 1)) 3 = false
    ∧ accMine loomBusy 3 = true ∧ accBusy (loomCluster loomBusy) 3 = true ∧ (loomCluster loomBusy).loomq.length < 32
    ∧ Goes (.mrel false false) {} loomBusy ∧ released loomBusy = true
    ∧ Goes (.mstat 3 true false false) {} (loomBase (accum (some 0) true) 1) ∧ (loomBase (accum (some 0) true) 1).t.eq.length < 16 :=
  ⟨goes_of (by decide +kernel), by decide +kernel, by decide +kernel, by decide +kernel, by decide +kernel, by decide +kernel, by decide +kernel, goes_of (by decide +kernel),
    goes_of (by decide +kernel), by decide +kernel, by decide +kernel, by decide +kernel, by decide +kernel, by decide +kernel, goes_of (by decide +kernel),
    by decide +kernel, goes_of (by decide +kernel), by decide +kernel⟩

/-- A loom command of one row, one column and n chunks on the scratchpad, at a progress. -/
def loomCmd (op : LoomOp) (ra : Word) (n done : Nat) : LoomCmd :=
  { cid := 5, who := me, prio := 0, op := op, acc := 0, ra := ra, rb := 0x3000000000000600, fmt := FmtWord.dflt,
    regs := [(0, 1), (1, 1), (2, BitVec.ofNat 64 n), (3, 0x600), (4, 0x600), (7, 0x3F), (8, 0x40)], serial := 1, done := done, flags := 0, parked := false }

/-- The command at the head of cluster 0's loom. -/
def looming (q : LoomCmd) : State :=
  base.setCluster 0 { Cluster.reset with acc0 := accum (some 0) true, loomq := [q], lease := some { slot := 0, left := 1, since := 0 } }

theorem wit_int_products : (fmtA { loomCmd .mmul 0 1 0 with fmt := { FmtWord.dflt with fa := 0x24, fb := 0x24 } }).isInt = true
    ∧ 0xFF < 2 ^ (fmtA { loomCmd .mmul 0 1 0 with fmt := { FmtWord.dflt with fa := 0x24, fb := 0x24 } }).width := by decide

/-- The same with an uncorrectable error in the accumulator. -/
def spoilAcc (s : State) : State :=
  let c := s.clusterAt 0
  s.setCluster 0 { c with acc0 := { c.acc0 with spoiled := true } }

theorem atHead_of {s : State} {c : Nat} {op : LoomOp} {q : LoomCmd}
    (h : loomHead s c = some q ∧ q.op = op ∧ (op ≠ .mzero → (accOf (s.clusterAt c) q.acc).valid = true)
      ∧ s.flaws.contains (.acc c q.acc) = false) : AtHead s c op q := ⟨h.1, h.2.1, h.2.2.1, h.2.2.2⟩

theorem wit_loom_head : AtHead (looming (loomCmd .mzero 0 1 0)) 0 .mzero (loomCmd .mzero 0 1 0) ∧ AtHead (looming (loomCmd .mmul 0 1 0)) 0 .mmul (loomCmd .mmul 0 1 0)
    ∧ ¬ checksPass (loomCmd .mmul 0x3000000000000001 1 0) (matCheck (loomCmd .mmul 0x3000000000000001 1 0))
    ∧ ¬ soundAcc (spoilAcc (looming (loomCmd .mmul 0 1 0))) 0 (loomCmd .mmul 0 1 0)
    ∧ soundAcc (looming (loomCmd .mmul 0 1 0)) 0 (loomCmd .mmul 0 1 0)
    ∧ AtHead (spoilAcc (looming (loomCmd .mmul 0 1 0))) 0 .mmul (loomCmd .mmul 0 1 0) ∧ AtHead (looming (loomCmd .mmul 0x3000000000000000 1 1)) 0 .mmul (loomCmd .mmul 0x3000000000000000 1 1)
    ∧ matCheck (loomCmd .mmul 0x3000000000000000 1 1) = none ∧ kchOf (loomCmd .mmul 0x3000000000000000 1 1).regs ≤ 1
    ∧ reg (loomCmd .mmul 0x3000000000000000 1 1).regs 0x0C = 0 ∧ AtHead (looming (loomCmd .mrot 0x3000000000000000 1 1)) 0 .mrot (loomCmd .mrot 0x3000000000000000 1 1)
    ∧ matCheck (loomCmd .mrot 0x3000000000000000 1 1) = none ∧ (looming (loomCmd .mrot 0x3000000000000000 1 1)).deliveries.any (fun d => d.cid = 5) = false :=
  ⟨atHead_of (by decide +kernel), atHead_of (by decide +kernel), by unfold checksPass; decide +kernel, by unfold soundAcc; decide +kernel,
    by unfold soundAcc; decide +kernel, atHead_of (by decide +kernel), atHead_of (by decide +kernel), by decide +kernel, by decide +kernel, by decide +kernel,
    atHead_of (by decide +kernel), by decide +kernel, by decide +kernel⟩

theorem wit_mmul : ∃ s1 s2 s3, matCheck (loomCmd .mmul 0x3000000000000000 1 0) = none ∧ (loomCmd .mmul 0x3000000000000000 1 0).done < kchOf (loomCmd .mmul 0x3000000000000000 1 0).regs
    ∧ readScales (loomCmd .mmul 0x3000000000000000 1 0) (askAhead 0 (loomCmd .mmul 0x3000000000000000 1 0) (looming (loomCmd .mmul 0x3000000000000000 1 0)))
        = .ok (s1, ([], []))
    ∧ readOperand (loomCmd .mmul 0x3000000000000000 1 0) (opA (loomCmd .mmul 0x3000000000000000 1 0) 0) 0 s1 = .ok (s2, [List.replicate 24 0])
    ∧ readOperand (loomCmd .mmul 0x3000000000000000 1 0) (opB (loomCmd .mmul 0x3000000000000000 1 0) 0) 0 s2 = .ok (s3, [List.replicate 24 0])
    ∧ (fmtA (loomCmd .mmul 0x3000000000000000 1 0)).isFloat = true ∧ rowsOf (loomCmd .mmul 0x3000000000000000 1 0).regs = 1 :=
  ⟨_, _, _, by decide +kernel, by decide +kernel, ok_of (by decide +kernel), ok_of (by decide +kernel), ok_of (by decide +kernel), by decide +kernel, by decide +kernel⟩

def rotCmd : LoomCmd := loomCmd .mrot 0x3000000000000000 1 0

theorem wit_mrot : ∃ s1 s2 s3 ba bb, AtHead (looming rotCmd) 0 .mrot rotCmd ∧ matCheck rotCmd = none ∧ soundAcc (looming rotCmd) 0 rotCmd
    ∧ rotCmd.done < kchOf rotCmd.regs ∧ (looming rotCmd).deliveries.any (fun d => d.cid = rotCmd.cid) = false ∧ rotFault rotCmd = none
    ∧ readScales rotCmd (rotAhead 0 rotCmd (looming rotCmd)) = .ok (s1, ([], []))
    ∧ rotGather 5 (opA rotCmd 0).tag me (rotPieces s1 ((opA rotCmd 0).chunkAt (chunkLen rotCmd) 0)) s1 = .ok (s2, ())
    ∧ rotGather 5 (opB rotCmd 0).tag me (rotPieces s2 ((opB rotCmd 0).chunkAt (chunkLen rotCmd) 0)) s2 = .ok (s3, ())
    ∧ rotBytes s3 5 (opA rotCmd 0).tag ((opA rotCmd 0).chunkAt (chunkLen rotCmd) 0) = some ba
    ∧ rotBytes s3 5 (opB rotCmd 0).tag ((opB rotCmd 0).chunkAt (chunkLen rotCmd) 0) = some bb ∧ rotCmd ∈ (s3.clusterAt 0).loomq
    ∧ kchOf (loomCmd .mrot 0x3000000000000000 1 1).regs ≤ (loomCmd .mrot 0x3000000000000000 1 1).done ∧ reg (loomCmd .mrot 0x3000000000000000 1 1).regs 0x0C = 0
    ∧ AtHead (looming (loomCmd .mrot 0x3000000000000000 1 1)) 0 .mrot (loomCmd .mrot 0x3000000000000000 1 1)
    ∧ matCheck (loomCmd .mrot 0x3000000000000000 1 1) = none :=
  ⟨_, _, _, List.replicate 1536 0, List.replicate 1536 0, atHead_of (by decide +kernel), by decide +kernel, by unfold soundAcc; decide +kernel, by decide +kernel,
    by decide +kernel, by decide +kernel, ok_of (by decide +kernel), ok_of (by decide +kernel), ok_of (by decide +kernel), by decide +kernel, by decide +kernel,
    by decide +kernel, by decide +kernel, by decide +kernel, atHead_of (by decide +kernel), by decide +kernel⟩

/-- A granule on its way to the scratchpad, its place empty or full. -/
def delivering (isEmpty : Bool) : State :=
  { base with deliveries := [{ cid := 5, ctx := 0, addr := padAddr 0 0x100000, bytes := 7 }], empty := if isEmpty then [padAddr 0 0x100000 / 16] else [] }

theorem wit_delivery : deliverable (delivering true) { cid := 5, ctx := 0, addr := padAddr 0 0x100000, bytes := 7 } = true ∧ kindOf (padAddr 0 0x100000) = .pad
    ∧ padAddr 0 0x100000 % 16 = 0 ∧ (delivering true).deliveries[0]? = some { cid := 5, ctx := 0, addr := padAddr 0 0x100000, bytes := 7 }
    ∧ deliverable (delivering false) { cid := 5, ctx := 0, addr := padAddr 0 0x100000, bytes := 7 } = false := by decide +kernel

theorem wit_mdrain : AtHead (looming (loomCmd .mdrain 0x2000000000000040 1 0)) 0 .mdrain (loomCmd .mdrain 0x2000000000000040 1 0)
    ∧ drainCheck .open (loomCmd .mdrain 0x2000000000000040 1 0) = none ∧ (loomCmd .mdrain 0x2000000000000040 1 0).done < rowsOf (loomCmd .mdrain 0x2000000000000040 1 0).regs
    ∧ drainFmt .open (loomCmd .mdrain 0x2000000000000040 1 0).regs = some fmtFP32
    ∧ engDst (looming (loomCmd .mdrain 0x2000000000000040 1 0)) me (drainRow 0x2000000000000040 (loomCmd .mdrain 0x2000000000000040 1 0).regs 0) 4
        = .ok (looming (loomCmd .mdrain 0x2000000000000040 1 0), [(drainRow 0x2000000000000040 (loomCmd .mdrain 0x2000000000000040 1 0).regs 0, 4, .mem (tcmAddr 0 0x40) 0)])
    ∧ engBlocked (looming (loomCmd .mdrain 0x2000000000000040 1 0)) 5 (tcmAddr 0 0x40) 4 = false
    ∧ ¬ checksPass (loomCmd .mdrain 0x2000000000000041 1 0) (drainCheck .open (loomCmd .mdrain 0x2000000000000041 1 0))
    ∧ drainPath (drainRow 0x2000000000000040 (loomCmd .mdrain 0x2000000000000040 1 0).regs 0) = true
    ∧ soundAcc (looming (loomCmd .mdrain 0x2000000000000040 1 0)) 0 (loomCmd .mdrain 0x2000000000000040 1 0) ∧ rowsOf (loomCmd .mdrain 0x2000000000000040 1 1).regs ≤ 1 :=
  ⟨atHead_of (by decide +kernel), by decide +kernel, by decide +kernel, by decide +kernel, by decide +kernel, by decide +kernel,
    by unfold checksPass; decide +kernel, by decide +kernel, by unfold soundAcc; decide +kernel, by decide +kernel⟩

theorem wit_lease_grant : ((looming (loomCmd .mzero 0 1 0)).setCluster 0 { (looming (loomCmd .mzero 0 1 0)).clusterAt 0 with lease := none, asks := [(4, 0, 64)] }).clusters.length = 1
    ∧ (({ Cluster.reset with asks := [(4, 0, 64)], loomq := [loomCmd .mzero 0 1 0] } : Cluster).lease) = none
    ∧ bestCandidate 16383 (candidates (base.setCluster 0 { Cluster.reset with asks := [(4, 0, 64)] }) 0) = some { slot := 4, prio := 0, ask := some 64 }
    ∧ partDone (base.setCluster 0 { Cluster.reset with asks := [(4, 0, 64)] }) 0 = none
    ∧ ((base.setCluster 0 { Cluster.reset with asks := [(4, 0, 64)] }).slotAt 4).t.leader = none ∧ clusterOf 4 = 0
    ∧ ((base.setCluster 0 { Cluster.reset with asks := [(4, 0, 64)] }).slotAt 4).t.waitWord.getLsbD 0 = false
    ∧ leaseLapses { base.setCluster 0 { Cluster.reset with lease := some { slot := 0, left := 1, since := 0 } } with tstamp := 621 } 0 = true
    ∧ accBusy ({ Cluster.reset with acc3 := { accum (some 0) true with freeing := true } } : Cluster) 3 = false := by decide +kernel

/-- A copy command of one row of n bytes between TCM addresses, with its progress. -/
def copyCmd (op : CopyOp) (n done : Nat) (sent : Bool) : CopyCmd :=
  { cid := 5, who := me, op := op, bar := false, ra := 0x3000000000000000, rb := 0x3000000000010000,
    regs := [(0, BitVec.ofNat 64 n), (1, 1), (2, 0x600), (3, 0x600), (4, 0x1013F), (8, 0x23)], serial := 1, done := done, row := done, off := 0, sent := sent, signalled := false, begun := false, buf := none }

def copying (q : CopyCmd) : State := base.setCluster 0 { Cluster.reset with copyq := [q] }

theorem copies_of {s : State} {c idx : Nat} {q : CopyCmd} (h : copyAt s c idx = some q ∧ (q.begun = false → copyCheck q = none) ∧ q.finished = false ∧ q.sent = false) : Copies s c idx q :=
  ⟨h.1, h.2.1, h.2.2.1, h.2.2.2⟩

theorem wit_copy_queue (op : CopyOp) : Goes (copyInstr op 11 12 false false false) (copyUse 11 12) base ∧ released base = true ∧ (base.clusterAt base.cluster).copyq.length < 64 := by
  cases op <;> exact ⟨goes_of (by decide +kernel), by decide +kernel, by decide +kernel⟩

theorem wit_streams : Goes (.scfg true false false) {} base ∧ (endStream true base).isSome = true ∧ Goes (.sdone true false false) {} (queued 0) ∧ (endStream true (queued 0)).isSome = true :=
  ⟨goes_of (by decide +kernel), by decide +kernel, goes_of (by decide +kernel), by decide +kernel⟩

/-- A stream of eight doublewords of the TCM, of which seven have been read ahead. -/
def streaming : State := baseWith (fun t => { t with sa := { t.sa with armed := true, cfg := [0x2000000000000000, 8, 8, 1, 1, 8, 0, 0, 0], ahead := List.replicate 7 0 } })

theorem wit_stream_ahead : ∃ s1, let h := streaming.makeHot 0
    let x := streamOf h.t (streamReg false)
    x.armed = true ∧ x.write = false ∧ x.bad = false ∧ x.ahead.length < 16 ∧ h.t.pend.contains (.ahead false) = false
    ∧ h.t.handlers = 0 ∧ streamAddr { x with next := x.next + x.ahead.length } = some 0x2000000000000038
    ∧ locate h h.asker .load 0x2000000000000038 (streamWidth x) (streamWidth x) none 0 = .ok (s1, .mem (tcmAddr 0 0x38) 0) ∧ blockedHere s1 (tcmAddr 0 0x38) 8 = false
    ∧ spoiledIn s1 (tcmAddr 0 0x38) 8 = false :=
  ⟨_, by decide +kernel, by decide +kernel, by decide +kernel, by decide +kernel, by decide +kernel, by decide +kernel, by decide +kernel, ok_of (by decide +kernel), by decide +kernel, by decide +kernel⟩

/-- The command's state once it has begun, and with its source read. -/
def begunCopy (q : CopyCmd) : State := begunIn (copying q) 0 q
def readAlready (q : CopyCmd) (bs : List Byte) : CopyCmd := { q with begun := true, buf := some bs }

theorem wit_cpy : Copies (copying (copyCmd .cpy 8 0 false)) 0 0 (copyCmd .cpy 8 0 false) ∧ nextChunk (copyCmd .cpy 8 0 false) = (0x3000000000000000, 0x3000000000010000, 8)
    ∧ engDst (begunCopy (copyCmd .cpy 8 0 false)) me 0x3000000000000000 8 = .ok (begunCopy (copyCmd .cpy 8 0 false), [(0x3000000000000000, 8, .mem (padAddr 0 0) 0)])
    ∧ sourceIs (copyCmd .cpy 8 0 false) (List.replicate 8 0)
        (engRead (begunCopy (copyCmd .cpy 8 0 false)) 5 0 me 0x3000000000010000 8 = .ok (begunCopy (copyCmd .cpy 8 0 false), List.replicate 8 0))
    ∧ engBlocked (begunCopy (copyCmd .cpy 8 0 false)) 5 (padAddr 0 0) 8 = false
    ∧ (let q := readAlready (copyCmd .cpy 8 0 false) (List.replicate 8 1)
       Copies (copying q) 0 0 q ∧ sourceIs q (List.replicate 8 1) False
       ∧ engDst (begunCopy q) me 0x3000000000000000 8 = .ok (begunCopy q, [(0x3000000000000000, 8, .mem (padAddr 0 0) 0)]) ∧ engBlocked (begunCopy q) 5 (padAddr 0 0) 8 = false)
    ∧ (copyCmd .cpyr 3 0 false).begun = false
    ∧ (∃ e, copyCheck (copyCmd .cpyr 3 0 false) = some e) ∧ copyAt (copying (copyCmd .cpyr 3 0 false)) 0 0 = some (copyCmd .cpyr 3 0 false) :=
  ⟨copies_of (by decide +kernel), by decide +kernel, by decide +kernel, .inr ⟨rfl, by decide +kernel⟩, by decide +kernel,
    ⟨copies_of (by decide +kernel), .inl rfl, by decide +kernel, by decide +kernel⟩, by decide +kernel, some_of (by decide +kernel), by decide +kernel⟩

theorem wit_cpyr : Copies (copying (copyCmd .cpyr 8 0 false)) 0 0 (copyCmd .cpyr 8 0 false)
    ∧ engLocate (begunCopy (copyCmd .cpyr 8 0 false)) me .engineWrite 0x3000000000000000 1 = .ok (begunCopy (copyCmd .cpyr 8 0 false), .mem (padAddr 0 0) 0)
    ∧ inArmed (begunCopy (copyCmd .cpyr 8 0 false)) (padAddr 0 0) 8 = false ∧ spoiledIn (begunCopy (copyCmd .cpyr 8 0 false)) (padAddr 0 0) 8 = false
    ∧ sourceIs (copyCmd .cpyr 8 0 false) (List.replicate 8 0)
        (engRead (begunCopy (copyCmd .cpyr 8 0 false)) 5 0 me 0x3000000000010000 8 = .ok (begunCopy (copyCmd .cpyr 8 0 false), List.replicate 8 0)) :=
  ⟨copies_of (by decide +kernel), by decide +kernel, by decide +kernel, by decide +kernel, .inr ⟨rfl, by decide +kernel⟩⟩

theorem wit_cpyt : (∃ s3, Copies (copying (copyCmd .e2p 8 0 false)) 0 0 (copyCmd .e2p 8 0 false) ∧ CopyOp.plane .e2p = true
      ∧ engDsts me [(0x3000000000000000, 1536)] (begunCopy (copyCmd .e2p 8 0 false))
        = .ok (begunCopy (copyCmd .e2p 8 0 false), [(0x3000000000000000, 1024, .mem (padAddr 0 0) 0), (0x3000000000000400, 512, .mem (padAddr 0 0x400) 0)])
      ∧ dstBlocked (begunCopy (copyCmd .e2p 8 0 false)) 5 [(0x3000000000000000, 1024, .mem (padAddr 0 0) 0), (0x3000000000000400, 512, .mem (padAddr 0 0x400) 0)] = false
      ∧ engReads 5 0 me [(0x3000000000010000, 48)] (begunCopy (copyCmd .e2p 8 0 false)) = .ok (begunCopy (copyCmd .e2p 8 0 false), [List.replicate 48 0])
      ∧ engPut 5 1 me [(0x3000000000000000, 1024, .mem (padAddr 0 0) 0), (0x3000000000000400, 512, .mem (padAddr 0 0x400) 0)] (toPlanes 16 [0])
          (sourced (copying (copyCmd .e2p 8 0 false)) 0 (copyCmd .e2p 8 0 false) (toPlanes 16 [0])) = .ok (s3, ()))
    ∧ (∃ s3, Copies (copying (copyCmd .p2e 8 0 false)) 0 0 (copyCmd .p2e 8 0 false)
      ∧ engDsts me [(0x3000000000000000, 48)] (begunCopy (copyCmd .p2e 8 0 false)) = .ok (begunCopy (copyCmd .p2e 8 0 false), [(0x3000000000000000, 48, .mem (padAddr 0 0) 0)])
      ∧ engReads 5 0 me [(0x3000000000010000, 1536)] (begunCopy (copyCmd .p2e 8 0 false)) = .ok (begunCopy (copyCmd .p2e 8 0 false), [List.replicate 1536 0])
      ∧ engPut 5 1 me [(0x3000000000000000, 48, .mem (padAddr 0 0) 0)] (List.replicate 48 0)
          (sourced (copying (copyCmd .p2e 8 0 false)) 0 (copyCmd .p2e 8 0 false) (List.replicate 48 0)) = .ok (s3, ())) :=
  ⟨⟨_, copies_of (by decide +kernel), by decide, by decide +kernel, by decide +kernel, by decide +kernel, ok_of (by decide +kernel)⟩,
    ⟨_, copies_of (by decide +kernel), by decide +kernel, by decide +kernel, ok_of (by decide +kernel)⟩⟩

/-- A CPYR chunk at its home, sent again or not, with the home's filter holding n keys. -/
def chunkOf (resent : Bool) : ChunkMsg :=
  { cid := 5, ctx := 0, cluster := 0, chunk := 0, home := homeOf (padAddr 0 0), lo := padAddr 0 0, fmt := 0x23, key := (0, 0, 1, 0), resent := resent, bytes := List.replicate 8 1, far := none }
def filtered (resent : Bool) (n : Nat) (now : Word) : State :=
  { base with chunks := [chunkOf resent], filters := if n = 0 then [] else [(homeOf (padAddr 0 0), List.replicate n { key := (0, 0, 1, 0), time := 0 })], tstamp := now }

theorem wit_chunk : (filtered true 1 0).chunks[0]? = some (chunkOf true)
    ∧ ((chunkOf true).resent && (filterOf (filtered true 1 0) (chunkOf true).home).any (fun k => k.key = (chunkOf true).key)) = true
    ∧ ((chunkOf false).resent && (filterOf (filtered false 0 0) (chunkOf false).home).any (fun k => k.key = (chunkOf false).key)) = false
    ∧ chunkBlocked (filtered false 0 0) (chunkOf false) = false ∧ chunkBlocked (filtered false 256 150001) (chunkOf false) = false
    ∧ filterRoom (filtered false 0 0) (chunkOf false).home = true ∧ inArmed (filtered false 0 0) (padAddr 0 0) 8 = false
    ∧ spoiledIn (filtered false 0 0) (padAddr 0 0) 8 = false ∧ inArmed (filtered false 256 150001) (padAddr 0 0) 8 = false
    ∧ spoiledIn (filtered false 256 150001) (padAddr 0 0) 8 = false ∧ (chunkOf false).bytes.length = 8
    ∧ filterRoom (filtered false 256 150000) (chunkOf false).home = false
    ∧ ((filtered false 256 150001).chunks.zipIdx).find? (fun p => p.1.home = homeOf (padAddr 0 0)) = some (chunkOf false, 0)
    ∧ (filterOf (filtered false 256 150001) (homeOf (padAddr 0 0))).length = 256 ∧ filterRoom (filtered false 256 150001) (homeOf (padAddr 0 0)) = true := by decide +kernel

theorem wit_copy_signal : copyAt (copying (copyCmd .cpy 8 1 false)) 0 0 = some (copyCmd .cpy 8 1 false) ∧ (copyCmd .cpy 8 1 false).finished = true
    ∧ reg (copyCmd .cpy 8 1 false).regs 5 = 0
    ∧ (let q := { copyCmd .cpy 8 1 false with regs := (copyCmd .cpy 8 1 false).regs.set 0 5 0x2000000000010000 }
       engLocate (copying q) me .counterAdd (reg q.regs 5) 8 = .ok (copying q, .mem (tcmAddr 0 0x10000) 0) ∧ inArmed (copying q) (tcmAddr 0 0x10000) 8 = false
       ∧ engBlocked (copying q) 5 (tcmAddr 0 0x10000) 8 = false ∧ spoiledIn (copying q) (tcmAddr 0 0x10000) 8 = false ∧ q.finished = true
       ∧ copyAt (copying q) 0 0 = some q ∧ (q.begun = false → copyCheck q = none))
    ∧ (let q := { copyCmd .cpy 8 1 false with bar := true, regs := (copyCmd .cpy 8 1 false).regs.set 0 7 1 }
       q.bar = true ∧ q.signalled = false ∧ copyAt { copying q with barriers := [(1, some (newBarrier 0 1 8))] } 0 0 = some q ∧ (q.begun = false → copyCheck q = none)
       ∧ gives (engBarrier { copying q with barriers := [(1, some (newBarrier 0 1 8))] } 5 me (reg q.regs 7) (barBytes q)) () = true ∧ q.finished = true ∧ reg q.regs 5 = 0) := by decide +kernel

/-- A map of one bit: two elements of BF16 in die 0's SRAM. -/
def bxRegs : SMap Word := [(0, 0), (0x30, 1), (0x31, 2), (0x37, 0x5000000000000000)]
def theMap : BxMap := { nbits := 1, roles := [(0, 0)], efmt := 2, group := [0], base := 0x5000000000000000 }
def bxCmd (op : BxOp) (ra rb : Word) (map : Option BxMap) : BxCmd :=
  { cid := 5, who := me, op := op, ra := ra, rb := rb, raZ := false, regs := bxRegs, serial := 1, map := map, halted := false, committed := [], failed := [],
    matrix := [0, 1, 1, 0], pending := [] }
def bxState (qs : List BxCmd) (maps : List BxMap) : State :=
  base.setDie 0 { Die.reset with bxq := qs, bxmaps := maps.map (fun m => { slot := 0, epoch := 0, map := m }) }

theorem bxRuns_of {s : State} {die idx : Nat} {op : BxOp} {q : BxCmd} (h : bxAt s die idx = some q ∧ q.op = op) : BxRuns s die idx op q := ⟨h.1, h.2⟩

theorem wit_bx_queue (op : BxOp) : Goes (bxInstr op 11 12 false false) (bxNames op 11 12) base ∧ released base = true ∧ (base.dieAt base.die).bxq.length < 32
    ∧ (∃ m, comingMap (advanced base base) (issuerOf (bxPort base.die) base) = .ok m) ∧ claimsDue base base.nextCid = false := by
  cases op <;> exact ⟨goes_of (by decide +kernel), by decide +kernel, by decide +kernel, ⟨none, by decide +kernel⟩, by decide +kernel⟩

theorem wit_bxmap : BxRuns (bxState [bxCmd .map 0 0 none] []) 0 0 .map (bxCmd .map 0 0 none) ∧ (bxCmd .map 0 0 none).map = none
    ∧ bxMapOf (bxCmd .map 0 0 none) (bxState [bxCmd .map 0 0 none] []) = .ok (bxState [bxCmd .map 0 0 none] [], theMap)
    ∧ isOk (askRoom (bxCmd .map 0 0 none) theMap [] (bxState [bxCmd .map 0 0 none] [])) = true ∧ theMap.group.filter (· ≠ base.devid.toNat) = []
    ∧ (installMap (dropData (bxState [bxCmd .map 0 0 none] []) 5) me theMap).isSome = true ∧ roleCheck ((0x30, 49) :: bxRegs) ≠ 0
    ∧ roleCheck [(0, 0), (0x30, 49), (0x31, 2), (0x37, 0x5000000000000000)] ≠ 0 :=
  ⟨bxRuns_of (by decide +kernel), rfl, by decide +kernel, by decide +kernel, by decide +kernel, by decide +kernel, by decide +kernel, by decide +kernel⟩

/-- A transform of bit 0, and an exchange of bits 0 and 1. -/
def applyCmd : BxCmd := bxCmd .apply 0x2000000000000000 0x40000 (some theMap)
def twoMap : BxMap := { theMap with nbits := 2, roles := [(0, 0), (0, 1)] }
def swapCmd : BxCmd := bxCmd .swap 0 1 (some twoMap)

/-- The same commands with their results computed and not yet written. -/
def applyHalf : BxCmd := { applyCmd with pending := [(0, [[1, 0], [0, 0]])] }
def swapHalf : BxCmd := { swapCmd with pending := [(0, [[1, 0], [0, 0]])] }

/-- The state in which the first results are written. -/
def readyState (m : BxMap) (q : BxCmd) (ns : List (List Nat)) : State :=
  putBx (dropData (bxState [q] [m]) q.cid) 0 { q with pending := q.pending.set [] 0 ns }

theorem wit_group_ready (m : BxMap) (q : BxCmd) (reads : Prop) (vs : List (List Byte)) (h : q.pending.get [] 0 = []) (hr : reads) :
    groupReady (bxState [q] [m]) 0 q 0 vs reads (readyState m q (vs.map (fun v => v.map BitVec.toNat))) := .inl ⟨h, hr, rfl⟩

theorem wit_group_pending : groupReady (bxState [applyHalf] [theMap]) 0 applyHalf 0 [[1, 0], [0, 0]] False (bxState [applyHalf] [theMap])
    ∧ groupReady (bxState [swapHalf] [twoMap]) 0 swapHalf 0 [[1, 0], [0, 0]] False (bxState [swapHalf] [twoMap])
    ∧ BxRuns (bxState [applyHalf] [theMap]) 0 0 .apply applyHalf ∧ BxRuns (bxState [swapHalf] [twoMap]) 0 0 .swap swapHalf
    ∧ nextPart theMap applyHalf = some ({ x := 0, dev := 0, die := 0 }, 0) ∧ nextPart twoMap swapHalf = some ({ x := 0, dev := 0, die := 0 }, 0)
    ∧ isOk (writeElems theMap applyHalf (groupIdx applyHalf (workIndex theMap applyHalf ({ x := 0, dev := 0, die := 0 }, 0))) [[1, 0], [0, 0]]
        (bxState [applyHalf] [theMap])) = true
    ∧ isOk (writeElems twoMap swapHalf [2, 2 + 2 ^ swapHalf.ra.toNat - 2 ^ swapHalf.rb.toNat] [[1, 0], [0, 0]] (bxState [swapHalf] [twoMap])) = true :=
  ⟨.inr ⟨by decide +kernel, by decide +kernel, rfl⟩, .inr ⟨by decide +kernel, by decide +kernel, rfl⟩, bxRuns_of (by decide +kernel),
    bxRuns_of (by decide +kernel), by decide +kernel, by decide +kernel, by decide +kernel, by decide +kernel⟩

theorem wit_bxapply : ∃ s1, BxRuns (bxState [applyCmd] [theMap]) 0 0 .apply applyCmd ∧ nextPart theMap applyCmd = some ({ x := 0, dev := 0, die := 0 }, 0)
    ∧ readElems theMap applyCmd (groupIdx applyCmd (workIndex theMap applyCmd ({ x := 0, dev := 0, die := 0 }, 0))) (bxState [applyCmd] [theMap])
        = .ok (bxState [applyCmd] [theMap], [[0, 0], [0, 0]])
    ∧ (groupIdx applyCmd (workIndex theMap applyCmd ({ x := 0, dev := 0, die := 0 }, 0))).length = 2
    ∧ writeElems theMap applyCmd (groupIdx applyCmd (workIndex theMap applyCmd ({ x := 0, dev := 0, die := 0 }, 0))) (transformed theMap applyCmd [[0, 0], [0, 0]])
        (readyState theMap applyCmd ((transformed theMap applyCmd [[0, 0], [0, 0]]).map (fun v => v.map BitVec.toNat))) = .ok (s1, ())
    ∧ bxOperands (bxState [{ applyCmd with map := none }] []) { applyCmd with map := none } = none
    ∧ BxRuns (bxState [{ applyCmd with map := none }] []) 0 0 .apply { applyCmd with map := none } :=
  ⟨_, bxRuns_of (by decide +kernel), by decide +kernel, by decide +kernel, by decide +kernel, ok_of (by decide +kernel), by decide +kernel, bxRuns_of (by decide +kernel)⟩

theorem wit_bxswap : ∃ s1, BxRuns (bxState [swapCmd] [twoMap]) 0 0 .swap swapCmd ∧ nextPart twoMap swapCmd = some ({ x := 0, dev := 0, die := 0 }, 0)
    ∧ workIndex twoMap swapCmd ({ x := 0, dev := 0, die := 0 }, 0) = 2
    ∧ readElems twoMap swapCmd [2, 2 + 2 ^ swapCmd.ra.toNat - 2 ^ swapCmd.rb.toNat] (bxState [swapCmd] [twoMap]) = .ok (bxState [swapCmd] [twoMap], [[0, 0], [0, 0]])
    ∧ writeElems twoMap swapCmd [2, 2 + 2 ^ swapCmd.ra.toNat - 2 ^ swapCmd.rb.toNat] [[0, 0], [0, 0]] (readyState twoMap swapCmd [[0, 0], [0, 0]]) = .ok (s1, ())
    ∧ bxOperands (bxState [{ swapCmd with map := none }] []) { swapCmd with map := none } = none :=
  ⟨_, bxRuns_of (by decide +kernel), by decide +kernel, by decide +kernel, by decide +kernel, ok_of (by decide +kernel), by decide +kernel⟩

/-- The exchange done, and a transform that has failed. -/
def swapDone : BxCmd := { swapCmd with committed := [(0, 1)] }
def applyFailed : BxCmd := { applyCmd with failed := [(0, 3, 8)] }
def mapDone : BxCmd := bxCmd .map 0 0 (some theMap)

theorem wit_bx_complete : bxAt (bxState [swapDone] [twoMap]) 0 0 = some swapDone ∧ bxFinished swapDone = true ∧ swapDone.failed = [] ∧ reg swapDone.regs 0x35 = 0
    ∧ committedMap (bxState [swapDone] [twoMap]) me = some twoMap ∧ ((bxState [swapDone] [twoMap]).slotAt 0).phase = .running
    ∧ ((bxState [swapDone] [twoMap]).slotAt 0).t.num = 0 ∧ bxAt (bxState [applyFailed] [theMap]) 0 0 = some applyFailed ∧ bxFinished applyFailed = true
    ∧ applyFailed.failed ≠ [] ∧ bxAt (bxState [mapDone] [theMap]) 0 0 = some mapDone ∧ bxFinished mapDone = true ∧ mapDone.op ≠ .swap := by decide +kernel

/-- A halted transform, and BXRESUME behind it, with z or with a record at die 0's SRAM that names its serial. -/
def haltedCmd : BxCmd := { applyFailed with halted := true }
def resumeCmd (z : Bool) : BxCmd := { bxCmd .resume 0x5000000000000100 0 none with serial := 2, cid := 6, raZ := z }
def resuming (z : Bool) : State := writeNat (bxState [haltedCmd, resumeCmd z] [theMap]) (sramAddr 0 0x104) 4 1

theorem wit_bxresume (z : Bool) : ((resuming z).dieAt 0).bxq[1]? = some (resumeCmd z) ∧ partRuns (resuming z) me = true ∧ bxFirst (resuming z) 0 (resumeCmd z) = some haltedCmd
    ∧ haltedCmd.serial ≠ (resumeCmd z).serial ∧ haltedCmd.halted = true ∧ (resumeCmd z).raZ = z ∧ haltedCmd.cid ≠ (resumeCmd z).cid
    ∧ (((resuming z).dieAt 0).bxq.find? (fun x => sameBx (resuming z) (resumeCmd z) x && x.op = .resume)).map BxCmd.cid = some (resumeCmd z).cid
    ∧ engLocate (resuming z) me .engineRead 0x5000000000000100 8 = .ok (resuming z, .mem (sramAddr 0 0x100) 0)
    ∧ engRead (resuming z) 6 0 me 0x5000000000000100 32 = .ok (resuming z, [0, 0, 0, 0, 1] ++ List.replicate 27 0)
    ∧ natOf ((([0, 0, 0, 0, 1] ++ List.replicate 27 0 : List Byte).drop 4).take 4) = haltedCmd.serial.toNat := by
  cases z <;> decide +kernel

/-- Registers of a program: two ranks, chunks of 64 bytes at die 0's SRAM, RANKTAB behind them, no step timeout. -/
def ferryRegs : SMap Word := [(1, 2), (2, 0x5000000000001000), (3, 0x5000000000000000), (4, 64), (10, 0x23)]

/-- A program of a step and END, in a state. -/
def program (state : Nat) (p : BitVec 128) : FerryCtx :=
  { cid := 5, who := me, regs := ferryRegs, steps := [p, 0], state := state, pc := 0, done := 0, code := 0, iter := [0, 0, 0, 0], run := 7, nextRun := 8,
    ranks := [(0, 0, 0), (0, 0, 1)], forward := none, began := false, staged := [], since := 0, orphan := false }
def sailing (f : FerryCtx) (credits : List Credit) : State := base.setDie 0 { Die.reset with ferry := [f], credits := credits }

/-- The program of a step that gives its operand word, in RANKTAB's memory. -/
def ported (f : FerryCtx) : State :=
  let s := (sailing f []).setT (plainWrite (plainWrite (sailing f []).t 11 0x5000000000002000) 12 1)
  writeNat s (sramAddr 0 0x1000) 8 0x1800000008000

theorem wit_colload : ∃ s1, Goes (.colload 11 12 false false) { a := some 11, b := some 12 } (regs [(11, 0x5000000000002000), (12, 256)]) ∧ released (regs [(12, 256)]) = true
    ∧ ownFerry (regs [(11, 0x5000000000002000), (12, 256)]) = none ∧ ((regs [(11, 0x5000000000002000), (12, 256)]).dieAt 0).ferry.length < 8
    ∧ (plainRead (ported (program 1 0)).t 12).toNat = 1 ∧ (plainRead (ported (program 1 0)).t 11).toNat % 16 = 0
    ∧ cmdRead (issuerOf (ferryPort 0) (ported (program 1 0))) (plainRead (ported (program 1 0)).t 11) (16 * 1) (advanced (ported (program 1 0)) (ported (program 1 0))) = .ok (s1, List.replicate 16 0)
    ∧ (ownFerry (ported (program 1 0))).map FerryCtx.state ≠ some 2 ∧ (ownFerry (ported (program 2 0))).map FerryCtx.state = some 2
    ∧ (ported (program 2 0)).slot.phase = .running :=
  ⟨_, goes_of (by decide +kernel), by decide +kernel, by decide +kernel, by decide +kernel, by decide +kernel, by decide +kernel, ok_of (by decide +kernel), by decide +kernel,
    by decide +kernel, by decide +kernel⟩

theorem wit_colgo : ∃ s1, Goes (.colgo false false) {} (ported (program 1 0)) ∧ released (ported (program 1 0)) = true ∧ ownFerry (ported (program 1 0)) = some (program 1 0)
    ∧ ferryCheck 0 (program 1 0) = 0
    ∧ cmdRead (program 1 0).who (reg (program 1 0).regs 2) (4 * (program 1 0).size) (advanced (ported (program 1 0)) (ported (program 1 0))) = .ok (s1, [0, 0x80, 0, 0, 0, 0x80, 1, 0])
    ∧ (∀ e ∈ itemsOf 4 (program 1 0).size [0, 0x80, 0, 0, 0, 0x80, 1, 0], (rankEntry e).isSome = true)
    ∧ (∀ p ∈ (program 1 0).steps, stepOk (program 1 0).steps.length p = true) ∧ 2 * (program 1 0).chunkBytes * (fromRanks (program 1 0)).length ≤ 4194304
    ∧ (program 1 9).steps.findIdx? (fun p => !stepOk (program 1 9).steps.length p) = some 0
    ∧ ownFerry (ported (program 4 0)) = some (program 4 0)
    ∧ ferryCheck 0 { program 1 0 with regs := [] } ≠ 0 ∧ ownFerry base = none ∧ Goes (.colstat false false) {} base :=
  ⟨_, goes_of (by decide +kernel), by decide +kernel, by decide +kernel, by decide +kernel, ok_of (by decide +kernel), by decide +kernel,
    List.all_eq_true.mp (by decide +kernel : (program 1 0).steps.all (fun p => stepOk (program 1 0).steps.length p) = true), by decide +kernel,
    by decide +kernel, by decide +kernel, by decide +kernel, by decide +kernel, goes_of (by decide +kernel)⟩

theorem ferryRuns_of {s : State} {die idx op : Nat} {f : FerryCtx} (h : ferryAt s die idx op = some f ∧ claimsDue (beginStep s die f).1 (beginStep s die f).2.cid = false
      ∧ lostMessage s f = false ∧ f.orphan = false) : FerryRuns s die idx op f :=
  ⟨h.1, h.2.1, h.2.2.1, h.2.2.2⟩

/-- A step of an op with a word. -/
def stepOf (op : Nat) (w : Word) : BitVec 128 := BitVec.ofNat 128 (op + w.toNat * 18446744073709551616)

/-- The program after the step has begun. -/
def begun (f : FerryCtx) : State × FerryCtx := beginStep (sailing f []) 0 f

theorem wit_ferry_end : FerryRuns (sailing (program 2 0) []) 0 0 0 (program 2 0) ∧ reg (program 2 0).regs 8 = 0
    ∧ (let f := { program 2 0 with regs := ferryRegs.set 0 8 0x2000000000010000 }
       FerryRuns (sailing f []) 0 0 0 f ∧ engLocate (begun f).1 me .counterAdd (reg f.regs 8) 8 = .ok ((begun f).1, .mem (tcmAddr 0 0x10000) 0)
       ∧ inArmed (sailing f []) (tcmAddr 0 0x10000) 8 = false ∧ engBlocked (begun f).1 (begun f).2.cid (tcmAddr 0 0x10000) 8 = false
       ∧ spoiledIn (begun f).1 (tcmAddr 0 0x10000) 8 = false) :=
  ⟨ferryRuns_of (by decide +kernel), by decide +kernel, ferryRuns_of (by decide +kernel), by decide +kernel, by decide +kernel, by decide +kernel⟩

/-- A credit of rank 0, granted by the program itself. -/
def credit : Credit := { idx := 0, ctx := 0, peer := (0, 0, 0), rank := 0, run := 7 }

theorem wit_ferry_send : FerryRuns (sailing (program 2 1) [credit]) 0 0 1 (program 2 1) ∧ (program 2 1).pc + 1 < (program 2 1).steps.length
    ∧ (let b := beginStep (sailing (program 2 1) [credit]) 0 (program 2 1)
       findCredit b.1 0 b.2 (fromRank (program 2 1) (program 2 1).step) = some credit
       ∧ engRead b.1 b.2.cid 0 me (ownChunk (program 2 1) (program 2 1).step) (program 2 1).chunkBytes = .ok (b.1, List.replicate 64 0))
    ∧ FerryRuns (sailing (program 2 1) []) 0 0 1 (program 2 1)
    ∧ (let b := beginStep (sailing (program 2 1) []) 0 (program 2 1); findCredit b.1 0 b.2 (fromRank (program 2 1) (program 2 1).step) = none) :=
  ⟨ferryRuns_of (by decide +kernel), by decide +kernel, by decide +kernel, ferryRuns_of (by decide +kernel), by decide +kernel⟩

/-- A program at RECV or RRS with a chunk staged. -/
def receiving (rrs : Bool) : FerryCtx := { program 2 (if rrs then 3 else 2) with staged := [(0, 7, List.replicate 64 1)] }

theorem wit_ferry_receive (rrs : Bool) : ∃ g s3, FerryRuns (sailing (receiving rrs) []) 0 0 (if rrs then 3 else 2) (receiving rrs) ∧ (receiving rrs).forward = none
    ∧ takeStaged (begun (receiving rrs)).2 (fromRank (receiving rrs) (receiving rrs).step) = some (List.replicate 64 1, g) ∧ (receiving rrs).pc + 1 < (receiving rrs).steps.length
    ∧ engDst (begun (receiving rrs)).1 me (ownChunk (receiving rrs) (receiving rrs).step) 64 = .ok ((begun (receiving rrs)).1, [(0x5000000000000000, 64, .mem (sramAddr 0 0) 0)])
    ∧ engRead (begun (receiving rrs)).1 (begun (receiving rrs)).2.cid 0 me (ownChunk (receiving rrs) (receiving rrs).step) 64 = .ok ((begun (receiving rrs)).1, List.replicate 64 0)
    ∧ dstBlocked (begun (receiving rrs)).1 (begun (receiving rrs)).2.cid [(0x5000000000000000, 64, .mem (sramAddr 0 0) 0)] = false
    ∧ engPut (begun (receiving rrs)).2.cid 1 me [(0x5000000000000000, 64, .mem (sramAddr 0 0) 0)]
        (if rrs then reduceAll (receiving rrs).fmt (List.replicate 64 0) (List.replicate 64 1) else List.replicate 64 1) (begun (receiving rrs)).1 = .ok (s3, ())
    ∧ findCredit (begun (receiving rrs)).1 0 (begun (receiving rrs)).2 (toRank (receiving rrs) (receiving rrs).step) = none
    ∧ (stepForwards (receiving rrs).step = rrs) ∧ takeStaged (begun (program 2 2)).2 0 = none := by
  cases rrs
  · exact ⟨{ (begun (receiving false)).2 with staged := [] }, _, ferryRuns_of (by decide +kernel), rfl, by decide +kernel, by decide +kernel, by decide +kernel,
    by decide +kernel, by decide +kernel, ok_of (by decide +kernel), by decide +kernel, by decide +kernel, by decide +kernel⟩
  · exact ⟨{ (begun (receiving true)).2 with staged := [] }, _, ferryRuns_of (by decide +kernel), rfl, by decide +kernel, by decide +kernel, by decide +kernel,
    by decide +kernel, by decide +kernel, ok_of (by decide +kernel), by decide +kernel, by decide +kernel, by decide +kernel⟩

/-- The same at RRS, which passes the chunk on, with a credit for it. -/
theorem wit_ferry_passes : ∃ g s3, let f := receiving true
    let b := beginStep (sailing f [credit]) 0 f
    FerryRuns (sailing f [credit]) 0 0 3 f ∧ takeStaged b.2 (fromRank f f.step) = some (List.replicate 64 1, g)
    ∧ engDst b.1 me (ownChunk f f.step) 64 = .ok (b.1, [(0x5000000000000000, 64, .mem (sramAddr 0 0) 0)])
    ∧ engRead b.1 b.2.cid 0 me (ownChunk f f.step) 64 = .ok (b.1, List.replicate 64 0)
    ∧ dstBlocked b.1 b.2.cid [(0x5000000000000000, 64, .mem (sramAddr 0 0) 0)] = false
    ∧ engPut b.2.cid 1 me [(0x5000000000000000, 64, .mem (sramAddr 0 0) 0)] (reduceAll f.fmt (List.replicate 64 0) (List.replicate 64 1)) b.1 = .ok (s3, ())
    ∧ stepForwards f.step = true ∧ (findCredit b.1 0 b.2 (toRank f f.step)).isSome = true :=
  ⟨{ (beginStep (sailing (receiving true) [credit]) 0 (receiving true)).2 with staged := [] }, _, ferryRuns_of (by decide +kernel), by decide +kernel, by decide +kernel,
    by decide +kernel, by decide +kernel, ok_of (by decide +kernel), by decide +kernel, by decide +kernel⟩

def copyStepOf : FerryCtx := program 2 (stepOf 4 0x5000000000000400)
def waitStepOf (bound : Nat) : FerryCtx := program 2 (stepOf (5 + bound * 65536) 0x2000000000010000)
def loopStepOf (n : Word) : FerryCtx := program 2 (stepOf 6 n)
def signalStepOf : FerryCtx := program 2 (stepOf 7 0x2000000000010000)

theorem wit_ferry_steps : (∃ s3, FerryRuns (sailing copyStepOf []) 0 0 4 copyStepOf
      ∧ engDst (begun copyStepOf).1 me (stepWord copyStepOf.step) 64 = .ok ((begun copyStepOf).1, [(0x5000000000000400, 64, .mem (sramAddr 0 0x400) 0)])
      ∧ engRead (begun copyStepOf).1 (begun copyStepOf).2.cid 0 me (ownChunk copyStepOf copyStepOf.step) 64 = .ok ((begun copyStepOf).1, List.replicate 64 0)
      ∧ dstBlocked (begun copyStepOf).1 (begun copyStepOf).2.cid [(0x5000000000000400, 64, .mem (sramAddr 0 0x400) 0)] = false
      ∧ engPut (begun copyStepOf).2.cid 1 me [(0x5000000000000400, 64, .mem (sramAddr 0 0x400) 0)] (List.replicate 64 0) (begun copyStepOf).1 = .ok (s3, ()))
    ∧ (FerryRuns (sailing (waitStepOf 1) []) 0 0 5 (waitStepOf 1) ∧ stepCount (waitStepOf 1) (waitStepOf 1).step = 1 ∧ stepCount (waitStepOf 0) (waitStepOf 0).step = 0
      ∧ engLocate (begun (waitStepOf 1)).1 me .counterRead (stepWord (waitStepOf 1).step) 8 = .ok ((begun (waitStepOf 1)).1, .mem (tcmAddr 0 0x10000) 0)
      ∧ engBlocked (begun (waitStepOf 1)).1 (begun (waitStepOf 1)).2.cid (tcmAddr 0 0x10000) 8 = false)
    ∧ FerryRuns (sailing (loopStepOf 1) []) 0 0 6 (loopStepOf 1) ∧ FerryRuns (sailing (loopStepOf 2) []) 0 0 6 (loopStepOf 2)
    ∧ (FerryRuns (sailing signalStepOf []) 0 0 7 signalStepOf
      ∧ engLocate (begun signalStepOf).1 me .counterAdd (stepWord signalStepOf.step) 8 = .ok ((begun signalStepOf).1, .mem (tcmAddr 0 0x10000) 0)
      ∧ inArmed (sailing signalStepOf []) (tcmAddr 0 0x10000) 8 = false ∧ engBlocked (begun signalStepOf).1 (begun signalStepOf).2.cid (tcmAddr 0 0x10000) 8 = false
      ∧ spoiledIn (begun signalStepOf).1 (tcmAddr 0 0x10000) 8 = false ∧ spoiledIn (begun (waitStepOf 1)).1 (tcmAddr 0 0x10000) 8 = false) :=
  ⟨⟨_, ferryRuns_of (by decide +kernel), by decide +kernel, by decide +kernel, by decide +kernel, ok_of (by decide +kernel)⟩,
    ⟨ferryRuns_of (by decide +kernel), by decide +kernel, by decide +kernel, by decide +kernel, by decide +kernel⟩, ferryRuns_of (by decide +kernel), ferryRuns_of (by decide +kernel),
    ferryRuns_of (by decide +kernel), by decide +kernel, by decide +kernel⟩

/-- A chunk, or a credit, of the run on its way from rank 0. -/
def ferryMsg (chunk : Bool) (bs : List Byte) : FerryMsg := { die := 0, idx := 0, rank := 0, run := 7, chunk := chunk, bytes := bs, ctx := 0, peer := (0, 0, 0) }
def arriving (m : FerryMsg) : State := { sailing (program 2 2) [] with ferryMsgs := [m] }

theorem wit_ferry_arrival : ((arriving (ferryMsg true [1])).dieAt 0).ferry.find? (fun f => f.who.slot = 0 * 2048 + 0
      && f.takes ((arriving (ferryMsg true [1])).dieAt 0) 0 7 (ferryMsg true [1]).ctx (ferryMsg true [1]).peer) = some (program 2 2)
    ∧ takeFerryMsg (arriving (ferryMsg true [1])) 0 0 0 7 true [1] = some (sailing (program 2 2) [], ferryMsg true [1])
    ∧ takeFerryMsg (arriving (ferryMsg false [])) 0 0 0 7 false [] = some (sailing (program 2 2) [], ferryMsg false [])
    ∧ takeFerryMsg (arriving (ferryMsg true [1])) 0 0 0 7 true [2] = none ∧ takeFerryMsg base 0 0 0 7 false [] = none
    ∧ (let f := { program 2 1 with began := true, regs := ferryRegs.set 0 7 1 }
       stepExpired { sailing f [] with tstamp := 1001 } f = true ∧ stepExpired { sailing f [] with tstamp := 1000 } f = false
       ∧ ((sailing f []).dieAt 0).ferry[0]? = some f) := by decide +kernel


/-! ## Witnesses: system, host, boot, devices, the step -/

theorem wit_translation : Goes (.tlbinv 11 false) { a := some 11, priv := true } (regs [(11, 0x4000)]) ∧ released (regs [(11, 0x4000)]) = true
    ∧ bitsOf (plainRead (regs [(11, 0x4000)]).t 11) 60 4 ≤ 1 ∧ bitsOf (plainRead (regs [(11, 0x4000)]).t 11) 45 15 = 0
    ∧ Goes (.tlbinv 11 false) { a := some 11, priv := true } (regs [(11, 0x2000000000000000)]) ∧ released (regs [(11, 0x2000000000000000)]) = true
    ∧ 1 < bitsOf (plainRead (regs [(11, 0x2000000000000000)]).t 11) 60 4
    ∧ Goes (.tlbinv 11 false) { a := some 11, priv := true } (regs [(11, 0x0000200000000000)]) ∧ bitsOf (plainRead (regs [(11, 0x0000200000000000)]).t 11) 45 15 = 1
    ∧ Goes (.tlbinv 0 false) { a := some 0, priv := true } base :=
  ⟨goes_of (by decide +kernel), by decide +kernel, by decide +kernel, by decide +kernel, goes_of (by decide +kernel), by decide +kernel, by decide +kernel,
    goes_of (by decide +kernel), by decide +kernel, goes_of (by decide +kernel)⟩

/-- A read of the slot has been issued and not answered. -/
def reading : State := { base with replies := [{ slot := 0, home := 0, dst := .glob 2, sign := false, size := 8, value := 5 }] }

/-- Core 0 traces TMARK for slot 0. -/
def tracing : State := base.setCore 0 { Core.reset with trcctl := BitVec.ofNat 64 (2 ^ 0 + 2 ^ 9 + 2 ^ 8) }

theorem wit_trace : Goes (.roinv false) {} base ∧ readsPending base = false ∧ Goes (.roinv false) {} reading ∧ readsPending reading = true
    ∧ Goes (.tmark 11 false) { a := some 11 } base ∧ traceOn (base.coreAt base.core) (base.cur % 4) 7 = false
    ∧ Goes (.tmark 11 false) { a := some 11 } tracing ∧ traceOn (tracing.coreAt tracing.core) (tracing.cur % 4) 7 = true
    ∧ Goes (.tstamp 11 false) { d := [11] } base :=
  ⟨goes_of (by decide +kernel), by decide +kernel, goes_of (by decide +kernel), by decide +kernel, goes_of (by decide +kernel), by decide +kernel,
    goes_of (by decide +kernel), by decide +kernel, goes_of (by decide +kernel)⟩

/-- Queue 0 of die 0 in host memory: one record and one outcome byte, with prod and cons, perhaps past its lap timeout. -/
def portBase (prod cons : BitVec 32) (out : Word) (first : Option Nat) : State :=
  base.setDie 0 { Die.reset with
    wqs := [(0, { WorkQueue.reset with base := 0x7000000000000000, outaddr := out, prod := prod, cons := cons, firstRead := first })] }

/-- Slot 1 of die 0 admits that queue. -/
def portBound : State :=
  (portBase 1 0 0 none).setDie 0 { (portBase 1 0 0 none).dieAt 0 with slotTab := [(8, 0x100300000), (10, 0x8000), (14, 1)] }

theorem wit_port : (wqAt (portBase 1 0 0 none) 0 0).error = false ∧ (wqAt (portBase 1 0 0 none) 0 0).prod ≠ (wqAt (portBase 1 0 0 none) 0 0).cons
    ∧ 2 ^ wqLogN (wqAt (portBase 3 0 0 none) 0 0) < wqWaiting (wqAt (portBase 3 0 0 none) 0 0)
    ∧ wqRead (portBase 1 0 0 none) 0 { wqAt (portBase 1 0 0 none) 0 0 with base := 0x2000000000000000 } = none
    ∧ wqWaiting (wqAt (portBase 1 0 0 none) 0 0) ≤ 2 ^ wqLogN (wqAt (portBase 1 0 0 none) 0 0)
    ∧ wqLap (wqAt (portBase 1 0 0 none) 0 0) = false ∧ wqLap (wqAt (portBase 2 1 0 none) 0 0) = true
    ∧ wqLate { portBase 2 1 0 (some 0) with tstamp := 2000 } (wqAt (portBase 2 1 0 (some 0)) 0 0) = true := by decide +kernel

theorem wit_port_reads : ∃ s1 s2, wqRead (portBase 1 0 0 none) 0 (wqAt (portBase 1 0 0 none) 0 0) = some (s1, [0, 0, 0, 0, 0, 0, 0, 0], false)
    ∧ wqRead (portBase 2 1 0 none) 0 (wqAt (portBase 2 1 0 none) 0 0) = some (s2, [0, 0, 0, 0, 0, 0, 0, 0], false) := by
  refine ⟨_, _, rfl, rfl⟩

theorem wit_port_outcomes : recordValid [0, 0, 0, 0, 0, 0, 0, 0] = true ∧ recordValid [1, 0, 0, 0, 0, 0, 0, 0] = false
    ∧ wqBinds (portBase 1 0 0 none) 0 0 0 = [] ∧ wqOutcome portBound 0 0 [0, 0, 0, 0, 0, 0, 0, 0] = 1 ∧ (wqAt portBound 0 0).outaddr = 0
    ∧ wqOutcome (portBase 1 0 0 none) 0 0 [1, 0, 0, 0, 0, 0, 0, 0] = 5 := by decide +kernel

theorem wit_port_byte : ∃ s2, (wqAt (portBase 1 0 0x7000000000000100 none) 0 0).outaddr ≠ 0
    ∧ wqPlace (portBase 1 0 0x7000000000000100 none) 0 (wqAt (portBase 1 0 0x7000000000000100 none) 0 0) .store
        (wqByte (wqAt (portBase 1 0 0x7000000000000100 none) 0 0)) 1 1 = some (s2, hostAddr 0x100) ∧ owned s2 (hostAddr 0x100) 1 = false := by
  refine ⟨_, by decide +kernel, rfl, by decide +kernel⟩

theorem wit_window_and_host : base.boot = .ready ∧ base.fatal = none ∧ populated 0x17FFFFFFFF = true ∧ owned base 0x17FFFFFFF8 8 = false
    ∧ inArmed base 0x17FFFFFFF8 8 = false ∧ inArmed { base with armed := [0] } 0 8 = true ∧ (base.slotAt 0).t.pulled = [] ∧ (base.slotAt 0).t.pulledFar = [] ∧ 0x14 % 8 ≠ 0
    ∧ (0x10FF8 % 8 = 0 ∧ 0x10FF8 < 0x11000) ∧ (0x11FFF8 % 8 = 0 ∧ 0x11FFF8 < 0x120000) ∧ (0x27FFF8 % 8 = 0 ∧ 0x27FFF8 < 0x280000)
    ∧ (0x7FFFFFFF8 % 8 = 0 ∧ 0x7FFFFFFF8 < 2 ^ 35) := by decide +kernel

/-- The device in recovery with a code, no image in SRAM. -/
def recovering : State := { base with boot := .recovery 5 }

theorem wit_boot : recovering.boot = .recovery 5 ∧ (verifyImage recovering).1 ≠ 0 ∧ (∀ f, base.boot ≠ .recovery f) ∧ (1 : BitVec 512).getLsbD 0 = true
    ∧ { base with fatal := some (2, 0, 0) }.fatal = some (2, 0, 0) ∧ { base with fatal := some (2, 0, 0) }.boot = .ready := by
  exact ⟨rfl, by decide +kernel, fun f h => by simp [base] at h, by decide +kernel, rfl, rfl⟩

/-- Context 0 stopped, with or without its image. -/
def stoppedState (ims : List Image) (failed : List Nat) : State :=
  { base with slot := { base.slot with stopped := true }, stopped := [0], failed := failed, images := ims }
def anImage : Image := imageOf (stoppedState [] []) 0

/-- Slot 0 runs a task again; accumulator 0 has gone to slot 7; the cluster is to be retired. -/
def taken : State := { base with stopped := [0], images := [anImage] }
def accGone : State := (stoppedState [] []).setCluster 0 { Cluster.reset with acc0 := accum (some 7) true }
def retiringNow : State := { stoppedState [anImage] [] with retiring := [0] }

/-- A partition with a command, a gate, an accumulator and a barrier. -/
def rich : State :=
  let s := (stoppedState [] []).setCluster 0 { Cluster.reset with
      acc0 := accum (some 0) true, loomq := [loomCmd .mzero 0 1 0], copyq := [copyCmd .cpy 8 0 false],
      gates := [{ record := rec false, addr := 0, target := 1, core := 0, ctx := 0 }] }
  { s with
    barriers := [(1, some (newBarrier 0 1 0))], chunks := [chunkOf false], ferryMsgs := [ferryMsg true [1]], inflight := [onWay 9 (rec false)],
    deliveries := (delivering true).deliveries }

theorem wit_gang_resume : (∃ p ∈ anImage.slots, slotReturns taken 0 p.1 = false) ∧ (∃ p ∈ anImage.slots, retiringNow.retiring.contains (clusterOf p.1) = true)
    ∧ accReturns accGone (0, 0, accum (some 0) true) = false ∧ (anImage.slots.map Prod.fst).Nodup
    ∧ (∀ p ∈ anImage.slots, slotReturns (stoppedState [anImage] []) 0 p.1 = true ∧ (stoppedState [anImage] []).retiring.contains (clusterOf p.1) = false)
    ∧ (∀ a ∈ anImage.accs, accReturns (stoppedState [anImage] []) a = true)
    ∧ (∀ p ∈ anImage.slots, (if ((stoppedState [anImage] []).slotAt p.1).stopped then ((stoppedState [anImage] []).slotAt p.1).t else p.2.t).pulled = [])
    ∧ (∀ p ∈ anImage.slots, (if ((stoppedState [anImage] []).slotAt p.1).stopped then ((stoppedState [anImage] []).slotAt p.1).t else p.2.t).pulledFar = [])
    ∧ (stoppedState [anImage] []).boot = .ready := by
  decide +kernel

theorem wit_save : partsStopped rich 0 = true ∧ rich.images.any (fun i => i.ctx = 0) = false ∧ 0 ∈ partitionSlots rich 0
    ∧ (rich.clusterAt 0).loomq.map (fun q => q.who.ctx) = [0] ∧ (rich.clusterAt 0).copyq.map (fun q => q.who.ctx) = [0]
    ∧ (rich.clusterAt 0).gates.map Gate.ctx = [0] ∧ (accOf (rich.clusterAt 0) 0).owner = some 0 ∧ (newBarrier 0 1 0).ctx = 0
    ∧ (chunkOf false).ctx = 0 ∧ (ferryMsg true [1]).ctx = 0 ∧ (onWay 9 (rec false)).ctx = 0
    ∧ (rich.clusters.map Prod.fst) = [0] ∧ base.inflight = [] ∧ base.remote = [] := by decide +kernel

/-- A word of slice 0 with one bit in error, and one past correction. -/
def scrubbing : State := { base with faint := [0], spoiled := [1] }

theorem wit_scrub : scrubWords scrubbing 0 scrubbing.faint = [0] ∧ scrubWords scrubbing 0 scrubbing.spoiled = [1] := by decide +kernel

theorem wit_gangs : base.stopped.contains 0 = false ∧ (stoppedState [] []).stopped.contains 0 = true ∧ 0 ∈ partitionSlots base 0
    ∧ (stoppedState [] []).images.any (fun i => i.ctx = 0) = false ∧ partsStopped (stoppedState [] []) 0 = true ∧ partsStopped base 0 = false
    ∧ (stoppedState [anImage] []).images.find? (fun i => i.ctx = 0) = some anImage ∧ (stoppedState [anImage] []).failed.contains 0 = false
    ∧ (stoppedState [anImage] [0]).failed.contains 0 = true := by decide +kernel

/-- Fifteen errors before, the oldest at time 5. -/
def erring : State := { base.setDie 0 { Die.reset with eccTimes := [(3 * 65536 + 4, List.replicate 16 5)] } with tstamp := 600000000005 }

theorem wit_links : ((erring.dieAt 0).eccTimes.get [] (3 * 65536 + 4))[15]? = some 5 ∧ erring.tstamp.toNat ≤ 5 + 600000000000
    ∧ { erring with tstamp := 600000000006 }.tstamp.toNat > 5 + 600000000000 ∧ ((base.dieAt 0).eccTimes.get [] (3 * 65536 + 4))[15]? = none := by decide +kernel

/-- An access of slot 0 that waits at the home of its TCM. -/
def heldOne (op : HomeOp) (q : BitVec 2) : Held :=
  { slot := 0, seq := 0, pc := 0, addr := tcmAddr 0 0x10000, size := 8, q := q, op := op, dst := .glob 2, popA := none, popB := none, popC := none, pfx := none, parts := 1, stamp := 9 }
def heldAt (hs : List Held) (owners : List Own) : State := { base with held := hs, own := owners }

theorem wit_homes : (heldAt [heldOne (.load false) 0] []).held[0]? = some (heldOne (.load false) 0) ∧ mayGo (heldAt [heldOne (.load false) 0] []) 0 (heldOne (.load false) 0) = true
    ∧ mayGo (heldAt [heldOne (.load false) 0] [{ cid := 5, chunk := 0, lo := tcmAddr 0 0x10000, hi := tcmAddr 0 0x10008 }]) 0 (heldOne (.load false) 0) = false
    ∧ mayGo (heldAt [heldOne (.load false) 2] []) 0 (heldOne (.load false) 2) = true ∧ mayGo (heldAt [heldOne (.store 7) 1] []) 0 (heldOne (.store 7) 1) = true
    ∧ mayGo (heldAt [heldOne (.store 7) 0] []) 0 (heldOne (.store 7) 0) = true ∧ hasGranules (tcmAddr 0 0x10000) = true
    ∧ waitPlace (heldAt (List.replicate 33 (heldOne (.load false) 2)) []) 32 = 32 ∧ waitPlace (heldAt [heldOne (.load false) 0] []) 0 = 0
    ∧ (heldOne (.load false) 0).far = none ∧ replyFirst reading 0 { slot := 0, home := 0, dst := .glob 2, sign := false, size := 8, value := 5 } = true
    ∧ inArmed (heldAt [heldOne (.store 7) 0] []) (tcmAddr 0 0x10000) 8 = false
    ∧ (let s := { heldAt [{ heldOne (.store 7) 0 with addr := sramAddr 0 0 }] [] with armed := [sramAddr 0 0] }
       mayGo s 0 { heldOne (.store 7) 0 with addr := sramAddr 0 0 } = true ∧ inArmed s (sramAddr 0 0) 8 = true ∧ (heldOne (.store 7) 0).checked = false)
    ∧ reading.replies[0]? = some { slot := 0, home := 0, dst := .glob 2, sign := false, size := 8, value := 5 } := by decide +kernel

/-- A load of slot 0 from device 1, and what the slot has waited for. -/
def farLoad : RemoteAcc := { src := 1, ctx := 0, user := false, addr := 0x4000000000000040, q := 0, op := .load, size := 8, value := 0 }
def request (parked : Option (Nat × Nat × Nat)) : Remote := { slot := 0, device := 1, acc := farLoad, dst := .glob 2, sign := false, parked := parked, hold := false }
def asking (parked : Option (Nat × Nat × Nat)) (time : Word) : State := { base with remote := [request parked], tstamp := time }

theorem wit_requests : (asking none 0).remote[0]? = some (request none) ∧ mayReply (asking none 0) 0 (request none) = true
    ∧ firstDue (retryDue (asking (some (0, 1000, 1000)) 1000) 0) (asking (some (0, 1000, 1000)) 1000) = some (0, request (some (0, 1000, 1000)))
    ∧ firstDue (dropDue (asking (some (0, 100500, 64000)) 100000) 0) (asking (some (0, 100500, 64000)) 100000) = some (0, request (some (0, 100500, 64000)))
    ∧ ((asking (some (0, 100500, 64000)) 100000).remote.drop 1).filter (fun q => q.replays && sameQueue q (request (some (0, 100500, 64000)))) = []
    ∧ (request none).eng = none ∧ (request none).hold = false ∧ (request none).withdrawn = none ∧ (request none).parked = none ∧ farLoad.eng = none ∧ base.held = [] ∧ base.farWaits = []
    ∧ farLoad.src ≠ hostSrc ∧ locate base (farAsker farLoad) .load farLoad.addr 8 1 none 0 = .ok (base, .mem (tcmAddr 0 0x40) 0)
    ∧ locate base (farAsker farLoad) .store farLoad.addr 8 1 none 0 = .ok (base, .mem (tcmAddr 0 0x40) 0) ∧ owned base (tcmAddr 0 0x40) 8 = false
    ∧ inArmed base (tcmAddr 0 0x40) 8 = false ∧ locate base (farAsker farLoad) .load 0x4000600000004000 8 1 none 0 = .error .xlat
    ∧ locate base (farAsker farLoad) .load 0x4000800000000000 8 1 none 0 = .error .path := by decide +kernel

/-- The device fetches at virtual address 0x4000, a page that code may run from; SEL stands there. -/
def fetching (flags : Nat) : State :=
  let s := { base.setT { base.t with pc := 0x4000 } with turn := .issue, tlb := fillTlbs [] 0 { unit := .core 0, ctx := 0, level := 3, vpage := 1, base := 0x100000, flags := flags } }
  writeNat s 0x100000 4 0x04B30D1C

theorem issuesNext_of {s : State} (h : s.agenda = [] ∧ s.boot = .ready ∧ s.fatal = none ∧ s.turn = .issue ∧ s.slot.phase = .running
      ∧ slotHeld { s with turn := .background } s.cur = false ∧ s.slot.haltReq = false ∧ interruptCause { s with turn := .background } s.cur = none
      ∧ s.t.wait = none ∧ quantumDue { s with turn := .background } s.cur = false ∧ execMatch s.slot = none ∧ s.flaws.contains (.slot s.cur) = false) : IssuesNext s :=
  ⟨h.1, h.2.1, h.2.2.1, h.2.2.2.1, h.2.2.2.2.1, h.2.2.2.2.2.1, h.2.2.2.2.2.2.1, h.2.2.2.2.2.2.2.1, h.2.2.2.2.2.2.2.2.1, h.2.2.2.2.2.2.2.2.2.1, h.2.2.2.2.2.2.2.2.2.2.1, h.2.2.2.2.2.2.2.2.2.2.2⟩

/-- The state in which the word is fetched. -/
def fetched (flags : Nat) : State := { (tick (fetching flags)) with turn := .background }

theorem wit_step : IssuesNext (tick (fetching 2)) ∧ (fetched 2).t.leader = none ∧ fetchPlace (fetched 2) (fetched 2).asker 0x4000 = .ok (fetched 2, 0x100000)
    ∧ owned (fetched 2) 0x100000 4 = false ∧ roHit (fetched 2) 0 0 0x4000 = false
    ∧ decode (readBytes (fetched 2) 0x100000 4) = .ok (.sel 11 12 13 false, [])
    ∧ IssuesNext (tick (fetching 0)) ∧ fetchPlace (fetched 0) (fetched 0).asker 0x4000 = .error .prot
    ∧ decodeWord (BitVec.ofNat 32 (roRead (fetched 2) 0 0 0x4004 0x100004 4).2) = .error .opcode :=
  ⟨issuesNext_of (by decide +kernel), by decide +kernel, by decide +kernel, by decide +kernel, by decide +kernel, by decide +kernel,
    issuesNext_of (by decide +kernel), by decide +kernel, by decide +kernel⟩

/-- A follower of slot 4 to which `add z,z,z` has been forwarded. -/
def following : State :=
  { base.setT { base.t with leader := some 4, fwd := [{ pc := 0x4000, word := 0x04000000, next := 0x4004 }] } with turn := .issue }

theorem wit_follower : ∃ i, IssuesNext (tick following) ∧ (tick following).t.leader.isSome = true ∧ (tick following).t.handlers = 0
    ∧ (tick following).t.fwd = [{ pc := 0x4000, word := 0x04000000, next := 0x4004 }] ∧ decodeWord 0x04000000 = .ok i :=
  ⟨_, issuesNext_of (by decide +kernel), by decide +kernel, by decide +kernel, by decide +kernel, rfl⟩

theorem wit_word : ∃ i : Instr, i.isWord = true ∧ i.wellFormed = true ∧ i = .bfi 11 12 16 8 false := ⟨_, rfl, by decide, rfl⟩
theorem wit_canonical : State.canonical State.reset = true ∧ ∃ t, step State.reset = .next t := ⟨by decide +kernel, _, rfl⟩

/-! ## What one step does: the chapters' worked examples, and corners worked out by hand from the rule that a test names -/

/-- What a code holds after an instruction on given registers. -/
def val (i : Instr) (l : List (Reg × Word)) (r : Reg) : Word := plainRead (run1 i (regs l)).t r

/-- R311, R357, R379, R381, R315: wraps, signs and shift amounts. -/
theorem test_integer : val (.add 11 12 13 false) [(12, 0xFFFFFFFFFFFFFFFF), (13, 2)] 11 = 1 ∧ val (.sub 11 12 13 false) [(12, 1), (13, 2)] 11 = 0xFFFFFFFFFFFFFFFF
    ∧ val (.min 11 12 13 false) [(12, 0xFFFFFFFFFFFFFFFF), (13, 1)] 11 = 0xFFFFFFFFFFFFFFFF ∧ val (.minu 11 12 13 false) [(12, 0xFFFFFFFFFFFFFFFF), (13, 1)] 11 = 1
    ∧ val (.max 11 12 13 false) [(12, 0xFFFFFFFFFFFFFFFF), (13, 1)] 11 = 1 ∧ val (.maxu 11 12 13 false) [(12, 0xFFFFFFFFFFFFFFFF), (13, 1)] 11 = 0xFFFFFFFFFFFFFFFF
    ∧ val (.shl 11 12 13 false) [(12, 3), (13, 65)] 11 = 6 ∧ val (.shr 11 12 13 false) [(12, 0x8000000000000000), (13, 63)] 11 = 1
    ∧ val (.sra 11 12 13 false) [(12, 0xFFFFFFFFFFFFFFFF), (13, 63)] 11 = 0xFFFFFFFFFFFFFFFF
    ∧ val (.slt 11 12 13 false) [(12, 0xFFFFFFFFFFFFFFFF), (13, 0)] 11 = 1 ∧ val (.sltu 11 12 13 false) [(12, 0xFFFFFFFFFFFFFFFF), (13, 0)] 11 = 0 := by decide +kernel

/-- R315, R330, R363, R378: bits, counts, products, a source that is also the destination. -/
theorem test_integer2 : val (.and 11 12 13 false) [(12, 0xF0F0), (13, 0xFF00)] 11 = 0xF000 ∧ val (.or 11 11 13 false) [(11, 0xF0F0), (13, 0xFF00)] 11 = 0xFFF0
    ∧ val (.xor 11 11 11 false) [(11, 7)] 11 = 0 ∧ val (.clz 11 12 false) [(12, 0)] 11 = 64 ∧ val (.ctz 11 12 false) [(12, 0x8000000000000000)] 11 = 63
    ∧ val (.popc 11 12 false) [(12, 0xF00000000000000F)] 11 = 8 ∧ val (.mul 11 12 13 false) [(12, 0xFFFFFFFFFFFFFFFF), (13, 3)] 11 = 0xFFFFFFFFFFFFFFFD
    ∧ val (.mulh 11 12 13 false) [(12, 0xFFFFFFFFFFFFFFFF), (13, 3)] 11 = 0xFFFFFFFFFFFFFFFF ∧ val (.mulhu 11 12 13 false) [(12, 0xFFFFFFFFFFFFFFFF), (13, 3)] 11 = 2
    ∧ val (.sel 11 12 13 false) [(11, 5), (12, 0), (13, 9)] 11 = 5 ∧ val (.sel 11 12 13 false) [(11, 5), (12, 1), (13, 9)] 11 = 9
    ∧ val (.mix 11 12 13 false) [(12, 0), (13, 0)] 11 = 0 := by decide +kernel

/-- R311, R312, R315, R323, R356, R379, R381: immediates; the words are the chapters'. -/
theorem test_immediates : val (.addi 11 12 0x1FFF false) [(12, 0)] 11 = 0xFFFFFFFFFFFFFFFF ∧ val (.andi 11 12 0x1000 false) [(12, 0xFFFFFFFFFFFFFFFF)] 11 = 0xFFFFFFFFFFFFF000
    ∧ val (.ori 11 12 1 false) [(12, 2)] 11 = 3 ∧ val (.xori 11 12 0x1FFF false) [(12, 5)] 11 = 0xFFFFFFFFFFFFFFFA ∧ val (.slti 11 12 0x1FFF false) [(12, 0x8000000000000000)] 11 = 1
    ∧ val (.sltiu 11 12 0x1FFF false) [(12, 0xFFFFFFFFFFFFFFFF)] 11 = 0 ∧ val (.shli 11 12 63 false) [(12, 3)] 11 = 0x8000000000000000
    ∧ val (.shri 11 12 63 false) [(12, 0x8000000000000000)] 11 = 1 ∧ val (.srai 11 12 63 false) [(12, 0x8000000000000000)] 11 = 0xFFFFFFFFFFFFFFFF
    ∧ val (.lui 11 0x40000 false) [] 11 = 0xFFFFFFFF80000000 ∧ val (.addpc 11 1 false) [] 11 = 0x2000
    ∧ val (.bfi 11 12 8 8 false) [(11, 0x11223344), (12, 0xFFAB)] 11 = 0x1122AB44 ∧ val (.bfx 11 12 8 8 false) [(12, 0x1122AB44)] 11 = 0xAB := by decide +kernel

/-- R342: the divider's result for −7 and 2, division by zero, and −2^63 by −1. -/
theorem test_divisions : (let d (i : Instr) (a b : Word) := ((run1 i (regs [(12, a), (13, b)])).coreAt 0).divider.map Division.value
     d (.div 11 12 13 false) 0xFFFFFFFFFFFFFFF9 2 = some 0xFFFFFFFFFFFFFFFD ∧ d (.rem 11 12 13 false) 0xFFFFFFFFFFFFFFF9 2 = some 0xFFFFFFFFFFFFFFFF
     ∧ d (.divu 11 12 13 false) 0xFFFFFFFFFFFFFFF9 2 = some 0x7FFFFFFFFFFFFFFC ∧ d (.remu 11 12 13 false) 0xFFFFFFFFFFFFFFF9 2 = some 1
     ∧ d (.div 11 12 13 false) 5 0 = some 0xFFFFFFFFFFFFFFFF ∧ d (.rem 11 12 13 false) 5 0 = some 5
     ∧ d (.div 11 12 13 false) 0x8000000000000000 0xFFFFFFFFFFFFFFFF = some 0x8000000000000000 ∧ d (.rem 11 12 13 false) 0x8000000000000000 0xFFFFFFFFFFFFFFFF = some 0) := by
  decide +kernel

/-- R342: the result reaches rd, and the divider is free. -/
theorem test_division_result : plainRead (run1 (.divisionResult 0) (dividing (.glob 6))).t 7 = 9 ∧ ((run1 (.divisionResult 0) (dividing (.glob 6))).coreAt 0).divider = none := by
  decide +kernel

/-- The doubleword 0xFFFE8081 stands in the last doubleword of the TCM. -/
def signs : State := tcmEnd 0xFFFFFFFEFFFE8081 true

/-- R354: each load of it, with its extension. -/
theorem test_loads : plainRead (run1 (.ldb 13 11 0 0 false) signs).t 13 = 0xFFFFFFFFFFFFFF81 ∧ plainRead (run1 (.ldbu 13 11 0 0 false) signs).t 13 = 0x81
    ∧ plainRead (run1 (.ldh 13 11 0 0 false) signs).t 13 = 0xFFFFFFFFFFFF8081 ∧ plainRead (run1 (.ldhu 13 11 0 0 false) signs).t 13 = 0x8081
    ∧ plainRead (run1 (.ldw 13 11 1 0 false) signs).t 13 = 0xFFFFFFFFFFFFFFFE ∧ plainRead (run1 (.ldwu 13 11 1 0 false) signs).t 13 = 0xFFFFFFFE
    ∧ plainRead (run1 (.ldd 13 11 0 0 false) signs).t 13 = 0xFFFFFFFEFFFE8081 ∧ isFull (run1 (.ldd 13 11 0 2 false) signs) (tcmAddr 0 0x1FFF8) = false := by decide +kernel

/-- R383, R169: each store changes its own bytes only; a qualified one fills its granule. -/
theorem test_stores : readNat (run1 (.stb 12 11 0 0 false) signs) (tcmAddr 0 0x1FFF8) 8 = 0xFFFFFFFEFFFE8009 ∧ readNat (run1 (.sth 12 11 1 0 false) signs) (tcmAddr 0 0x1FFF8) 8 = 0xFFFFFFFE00098081
    ∧ readNat (run1 (.stw 12 11 0 0 false) signs) (tcmAddr 0 0x1FFF8) 8 = 0xFFFFFFFE00000009 ∧ readNat (run1 (.std 12 11 0 0 false) signs) (tcmAddr 0 0x1FFF8) 8 = 9
    ∧ isFull (run1 (.std 12 11 0 1 false) (tcmEnd 5 false)) (tcmAddr 0 0x1FFF8) = true := by decide +kernel

/-- What an atomic on the doubleword 5 with 9 leaves in memory, and the old value. -/
def amo (i : Instr) : Nat × Word := (readNat (run1 i (tcmEnd 5 true)) (tcmAddr 0 0x1FFF8) 8, plainRead (run1 i (tcmEnd 5 true)).t 13)

/-- R313, R329, R170: each operation once. -/
theorem test_atomics : amo (.amoAdd 13 11 12 0 true false) = (14, 5) ∧ amo (.amoAnd 13 11 12 0 true false) = (1, 5) ∧ amo (.amoOr 13 11 12 0 true false) = (13, 5)
    ∧ amo (.amoXor 13 11 12 0 true false) = (12, 5) ∧ amo (.amoMin 13 11 12 0 true false) = (5, 5) ∧ amo (.amoMax 13 11 12 0 true false) = (9, 5)
    ∧ amo (.amoMinu 13 11 12 0 true false) = (5, 5) ∧ amo (.amoMaxu 13 11 12 0 true false) = (9, 5) ∧ amo (.amoSwap 13 11 12 0 false false) = (9, 5)
    ∧ amo (.amoNib 13 11 12 0 false) = (9, 5) ∧ amo (.cas 13 11 12 0 true false) = (5, 5)
    ∧ readNat (run1 (.amoFadd32 11 12 13 0 false) (writeNat (regs [(12, 0x2000000000000000), (13, 0x3F800000)]) (tcmAddr 0 0) 4 0x40000000)) (tcmAddr 0 0) 4 = 0x40400000 := by
  decide +kernel

/-- R347, R348: FEGET gives 1 for a full granule; FESET and FECLR change its state. -/
theorem test_full_empty : plainRead (run1 (.feget 13 11 false) (tcmEnd 5 true)).t 13 = 1 ∧ plainRead (run1 (.feget 13 11 false) (tcmEnd 5 false)).t 13 = 0
    ∧ isFull (run1 (.feset 11 false) (tcmEnd 5 false)) (tcmAddr 0 0x1FFF8) = true ∧ isFull (run1 (.feclr 11 false) (tcmEnd 5 true)) (tcmAddr 0 0x1FFF8) = false := by decide +kernel

/-- The PC after an instruction at 0x1000. -/
def pcAfter (i : Instr) (l : List (Reg × Word)) : Pc := (run1 i ((regs l).setT { (regs l).t with pc := 0x1000 })).t.pc

/-- R322, R328, R352: branches forward, back and not taken; jumps; the frame of a call. -/
theorem test_control : pcAfter (.beq 11 12 2 false) [] = 0x1008 ∧ pcAfter (.bne 11 12 2 false) [] = 0x1004 ∧ pcAfter (.blt 11 12 0x1FFF false) [(11, 0xFFFFFFFFFFFFFFFF)] = 0xFFC
    ∧ pcAfter (.bge 11 12 2 false) [(11, 0xFFFFFFFFFFFFFFFF)] = 0x1004 ∧ pcAfter (.bltu 11 12 2 false) [(11, 0xFFFFFFFFFFFFFFFF)] = 0x1004
    ∧ pcAfter (.bgeu 11 12 2 false) [(11, 0xFFFFFFFFFFFFFFFF)] = 0x1008 ∧ pcAfter (.j 0x1FFFFFF false) [] = 0xFFC ∧ pcAfter (.call 0x40 false) [] = 0x1100
    ∧ pcAfter (.jr 11 false) [(11, 0xFFFF000000002000)] = 0x2000 ∧ pcAfter (.callr 11 false) [(11, 0x2000)] = 0x2000
    ∧ (called.t.frames.length, called.t.depth, called.t.frame.size) = (2, 2, 8) ∧ (run1 (.ret false) called).t.pc = 4 ∧ (run1 (.ret false) called).t.frames.length = 1
    ∧ (run1 (.enter 48 false) called).t.frame.size = 48 ∧ (run1 (.shrink 9 false) (run1 (.enter 48 false) called)).t.frame.size = 9 := by decide +kernel

/-- R247, R248, R346, R394, R324, R102: a trap's saved state, its return, and the illegal word. -/
theorem test_traps : (let s := (regs [(11, 1)]).setT { (regs [(11, 1)]).t with pc := 0x1000, tvec := 0x2000, status := 2 }
     let t := run1 (.trap false) s
     (t.t.pc, t.t.tepc, t.t.tstatus, t.t.status) = (0x2000, 0x1000, 2, 1) ∧ (run1 (.eret false) t).t.pc = 0x1000 ∧ (run1 (.eret false) t).t.status = 2
     ∧ (run1 (.eret false) s).t.tcause = 9 ∧ (run1 (.illopEncoding 0) s).t.tcause = 1 ∧ (run1 (.bkpt false) s).t.pc = 0x2000 ∧ (run1 (.bkpt false) s).t.tepc = 0x1000) := by
  decide +kernel

/-- R334, R335: CSRR, and the old value that CSRW, CSRS and CSRC give, on TSCRATCH (0x007). -/
theorem test_csr : (let s := run1 (.csrw 0 11 0x007 false) (regs [(11, 0xF0), (12, 0x3C)])
     plainRead (run1 (.csrr 13 0x007 false) s).t 13 = 0xF0 ∧ (run1 (.csrs 13 12 0x007 false) s).t.tscratch = 0xFC ∧ (run1 (.csrc 13 12 0x007 false) s).t.tscratch = 0xC0
     ∧ plainRead (run1 (.csrc 13 12 0x007 false) s).t 13 = 0xF0 ∧ plainRead (run1 (.csrr 13 0x074 false) s).t 13 = 0x0300) := by decide +kernel

/-- Tile rows given as (4·16·tile + row place, value), with w1 = n. -/
def tiled (n : Word) (l : List (Nat × BitVec 512)) : State := baseWith (fun t => { plainWrite t 9 n with tiles := l.foldl (fun v p => v.set! p.1 p.2) t.tiles })

/-- R405's example: row 2 of m2 holds 2^24, 1 and 1, and VREDS gives 2^24 + 2. -/
theorem test_vreds : plainRead (run1 (.vreds 2 11 9 false) (tiled 2 [(34, 0x3F8000003F8000004B800000)])).t 11 = 0x4B800001 := by decide +kernel

/-- R406: y = −∞ gives a zero with UF and NX, whatever the sign of x; a negative x is NaN with NV in an unsigned format otherwise. -/
theorem test_vscale : (fmtB8 0x13).map (fun d => elemScale fmtFP32 fmtFP32 d .rne false 0xBF800000 0xFF800000 0) = some (0, flagUF ||| flagNX)
    ∧ elemScale fmtFP32 fmtFP32 fmtFP32 .rne false 0x3FC00000 0xC0000000 0 = (0x3EC00000, 0) := by decide +kernel

/-- R402's example: `fmt a=f32, d=b8p4, sat=1` and `vcvt m1.row[w1+0], m0.row[w1+0]` of 0.3, 250, 1.5·2^−10, NaN and −1. -/
theorem test_vcvt : (let s := run1 (.fmt 0x23 0x3F 0x04 0 true 0) (tiled 9 [(9, 0xBF8000007FC000003AC00000437A00003E99999A)])
     let t := run1 (.vcvt 1 0 false false 9 0 false) s
     decodeWord 0xDA3FC410 = .ok (.fmt 0x23 0x3F 0x04 0 true 0) ∧ decodeWord 0xC1480240 = .ok (.vcvt 1 0 false false 9 0 false)
     ∧ t.t.tiles[25]! = 0xC080027F32 ∧ t.t.fflags = 0x18) := by decide +kernel

/-- R296: the published 64-byte output of SHAKE256 for the empty message, its first byte lowest. -/
theorem test_shake256 : shake256 [] =
    0xBEC4B7B3AC2E294086B49A47491C82FCF692B5679D0105CB00F2C0D8DDC45DD72F76D56E64270CB5821BB862EA52CD3F24EB3E74EB3F3B23138DA80B2BDDB946 := by
  decide +kernel

/-! ## Steps of vectors, synchronisation, tasks, engines and the device -/

/-- The first row of m0 after a vector instruction on the first rows of m1 and m2 (tiles 1 and 2) with m0 given. -/
def vec (i : Instr) (d a b : BitVec 512) : BitVec 512 := (run1 i (tiled 0 [(0, d), (16, a), (32, b)])).t.tiles[0]!

/-- R40, R398, R401, R407: 1.5 + 2, 1.5 − 2, 1.5 · 2, 1.5 · 2 + 1, and comparisons, in FP32. -/
theorem test_vector_float : vec (.vadd 0 1 2 false false false 9 0 false) 0 0x3FC00000 0x40000000 = 0x40600000
    ∧ vec (.vsub 0 1 2 false false false 9 0 false) 0 0x3FC00000 0x40000000 = 0xBF000000 ∧ vec (.vmul 0 1 2 false false false 9 0 false) 0 0x3FC00000 0x40000000 = 0x40400000
    ∧ vec (.vfma 0 1 2 false false false 9 0 false) 0x3F800000 0x3FC00000 0x40000000 = 0x40800000 ∧ vec (.vmin 0 1 2 false false false 9 0 false) 0 0xBF800000 0x40000000 = 0xBF800000
    ∧ vec (.vmax 0 1 2 false false false 9 0 false) 0 0xBF800000 0x40000000 = 0x40000000 ∧ getBits (vec (.vcmplt 0 1 2 false false false 9 0 false) 0 0xBF800000 0) 0 32 ≠ 0
    ∧ getBits (vec (.vneg 0 1 false false 9 0 false) 0 0x3F800000 0) 0 32 = 0xBF800000 ∧ vec (.vabs 0 1 false false 9 0 false) 0 0xBF800000 0 = 0x3F800000 := by decide +kernel

/-- R399, R403, R408: bits, and a row moved into a column. -/
theorem test_vector_bits : vec (.vand 0 1 2 false false false 9 0 false) 0 0xF0F0 0xFF00 = 0xF000 ∧ vec (.vor 0 1 2 false false false 9 0 false) 0 0xF0F0 0xFF00 = 0xFFF0
    ∧ vec (.vxor 0 1 2 false false false 9 0 false) 0 0xF0F0 0xFF00 = 0x0FF0 ∧ vec (.vshl 0 1 2 false false false 9 0 false) 0 0x80000001 1 = 2
    ∧ vec (.vshr 0 1 2 false false false 9 0 false) 0 0x80000001 1 = 0x40000000 ∧ vec (.vsra 0 1 2 false false false 9 0 false) 0 0x80000001 1 = 0xC0000000
    ∧ (let t := run1 (.vmov 1 0 true false 9 0 false) (tiled 0 [(0, 0x0000000200000001)])
       t.t.tiles[16]! = 1 ∧ t.t.tiles[17]! = 2) := by decide +kernel

/-- R397, R400, R405: elements and whole tiles. -/
theorem test_tiles : (let s := (tiled 0 [(0, 0x0000000200000001), (16, 7)]).setT (plainWrite (tiled 0 [(0, 0x0000000200000001), (16, 7)]).t 11 5)
     plainRead (run1 (.vget 0 11 9 1 false) s).t 11 = 2 ∧ (run1 (.vput 0 11 9 1 false) s).t.tiles[0]! = 0x0000000500000001
     ∧ bitsOf (BitVec.ofNat 64 ((run1 (.vbcast 0 11 9 false) s).t.tiles[0]!).toNat) 0 64 = 0x0000000500000005
     ∧ (run1 (.tzero 1 false) s).t.tiles[16]! = 0 ∧ (run1 (.ttr 1 0 false) s).t.tiles[17]! = 2 ∧ plainRead (run1 (.vredm 0 11 9 false) s).t 11 = 2) := by decide +kernel

/-- R327, R396, R344, R345, R344: a counter, the clock, an engine register. -/
theorem test_sync : (let s := writeNat (regs [(11, 0x2000000000010000), (12, 3)]) (tcmAddr 0 0x10000) 8 4
     readNat (run1 (.cadd 11 12 false) s) (tcmAddr 0 0x10000) 8 = 7 ∧ plainRead (run1 (.tstamp 13 false) { s with tstamp := 99 }).t 13 = 99
     ∧ plainRead (run1 (.erd 13 1 0 false) (run1 (.erw 12 1 0 false) s)).t 13 = 3) := by decide +kernel

/-- R370: RETIRE of a task with no frame above its own leaves the slot idle; R410: YIELD asks for the quantum's end. -/
theorem test_tasks : (run1 (.retire false) base).slot.phase = .idle ∧ (run1 (.yield false) (baseWith (fun t => { t with prio := 4 }))).t.yielded = true
    ∧ (run1 (.yield false) base).t.yielded = false := by decide +kernel

/-- R203, R187, R193, R197: a copy's bytes; the loom's zero. -/
theorem test_engines : readNat (run1 (.copyChunk 0 0) (writeNat (copying (copyCmd .cpy 8 0 false)) (padAddr 0 0x10000) 8 0x1122334455667788)) (padAddr 0 0) 8 = 0x1122334455667788
    ∧ ((run1 (.cpy 11 12 false false false) (regs [(11, 0x3000000000000000), (12, 0x3000000000010000)])).clusterAt 0).copyq.length = 1
    ∧ ((run1 (.mzeroExecute 0) (looming (loomCmd .mzero 0 1 0))).clusterAt 0).loomq.length = 0 := by decide +kernel

/-- R272, R252, R263: the mailbox, the pending bits and the debug port. -/
theorem test_device : ((run1 (.doorbellWrite 5 77) base).coreAt 5).mailbox = 77 ∧ ((run1 (.doorbellWrite 5 77) base).coreAt 5).ipend3 = true
    ∧ ((run1 (.dbgHaltRequest 4) base).slotAt 4).halted = true ∧ ((run1 (.dbgRaiseInterrupt 4) base).slotAt 4).t.ipend = 0x20
    ∧ ((run1 (.clfreezeWrite 3 1) base).clusterAt 3).frozen = true := by decide +kernel

/-- R252: a timer interrupt enters the handler, saves the PC and the status, and clears IE. -/
theorem test_interrupt : (let s := baseWith (fun t => { t with pc := 0x1000, tvec := 0x2000, status := 3, iemask := 2, tcmp := 0 })
     let t := run1 (.interruptEntry 0) s
     (t.t.pc, t.t.tepc, t.t.tcause, t.t.tstatus, t.t.status) = (0x2000, 0x1000, 0x8000000000000001, 3, 1)) := by decide +kernel

end Sys2Proof.Tests
end

section
/-!
Every instruction and every step has a next state (R11, R101, R248): an instruction that issues has one whatever its effect does,
every event answers one, and so does every turn that a unit of the device may take.
-/
namespace Sys2Proof.Machine

/-! ## Events that depend on what stands at a place -/

/-- DIVISION_RESULT, with and without a division in progress (R342). -/
theorem execDivisionResult_completes (core : Nat) (s : State) : Completes (execDivisionResult core s) := by
  unfold execDivisionResult
  dsimp only
  split <;> exact ⟨_, rfl⟩

theorem execMrotDelivery_completes (idx : Nat) (s : State) : Completes (execMrotDelivery idx s) := by
  unfold execMrotDelivery
  split <;> exact ⟨_, rfl⟩

theorem execCpyrChunkApply_completes (idx : Nat) (s : State) : Completes (execCpyrChunkApply idx s) := by
  unfold execCpyrChunkApply
  split <;> exact ⟨_, rfl⟩

/-- A key leaves a home's filter only for a chunk that waits there and finds the filter full (R206). -/
theorem execKeyFilterExpiry_completes (home : Nat) (s : State) : Completes (execKeyFilterExpiry home s) := by
  unfold execKeyFilterExpiry
  split
  · split <;> exact ⟨_, rfl⟩
  · exact ⟨_, rfl⟩

theorem execBxComplete_completes (die idx : Nat) (s : State) : Completes (execBxComplete die idx s) := by
  unfold execBxComplete
  split
  · split
    · exact ⟨_, rfl⟩
    · split <;> exact ⟨_, rfl⟩
  · exact ⟨_, rfl⟩

theorem execResamplePhase2_completes (die idx : Nat) (s : State) : Completes (execResamplePhase2 die idx s) := by
  unfold execResamplePhase2
  split <;> exact ⟨_, rfl⟩

theorem execClonePlacement_completes (die idx : Nat) (s : State) : Completes (execClonePlacement die idx s) := by
  unfold execClonePlacement
  split
  · split <;> exact ⟨_, rfl⟩
  · exact ⟨_, rfl⟩

/-! ## Instructions -/

/-- An instruction that issues has a next state, whatever it names and whatever its effect does. -/
theorem issue_completes (i : Instr) (sw : Bool) (u : Use) (body : Vals → State → Eff) (s : State) : Completes (issue i sw u body s) :=
  issue_next i sw u body s

section
variable (i : Instr) (sw : Bool) (rd ra rb : Reg) (s : State)

theorem alu2_completes (f : Word → Word → Word) : Completes (alu2 i sw rd ra rb f s) := issue_completes _ _ _ _ s

theorem alu1_completes (f : Word → Word) : Completes (alu1 i sw rd ra f s) := issue_completes _ _ _ _ s

theorem divide_completes (f : Word → Word → Word) : Completes (divide i sw rd ra rb f s) := issue_completes _ _ _ _ s

theorem load_completes (off : BitVec 11) (q : BitVec 2) (size : Nat) (sign : Bool) : Completes (load i sw rd ra off q size sign s) :=
  issue_completes _ _ _ _ s

theorem store_completes (off : BitVec 11) (q : BitVec 2) (size : Nat) : Completes (store i sw rd ra off q size s) :=
  issue_completes _ _ _ _ s

theorem amo_completes (aop : Nat) (sc : BitVec 2) (wd : Bool) : Completes (amo i sw rd ra rb aop sc wd s) := issue_completes _ _ _ _ s

theorem branch_completes (disp : BitVec 13) (taken : Word → Word → Bool) : Completes (branch i sw ra rb disp taken s) := by
  unfold branch
  exact issue_completes _ _ _ _ s

theorem fence_completes (sc : BitVec 2) (rel acq : Bool) : Completes (fence i sw rd sc rel acq s) := issue_completes _ _ _ _ s

theorem csrOp_completes (r : Option Reg) (csr : BitVec 12) (writes : Bool) (f : Word → Word → CsrValue) :
    Completes (csrOp i sw rd r csr writes f s) := by
  unfold csrOp
  exact issue_completes _ _ _ _ s

theorem vec_completes (un : Bool) (ok : Fmt → Fmt → Fmt → Bool) (op : ElemOp) (d a b : Slice) (xi : Reg) (k : BitVec 5) :
    Completes (vec i sw un ok op d a b xi k s) := by
  unfold vec
  exact issue_completes _ _ _ _ s

end

/-- Each instruction goes through issue, by the operation that its group shares; each event answers a next state as it stands, or by
the lemma on what it finds. -/
theorem exec_completes (i : Instr) (s : State) : Completes (exec i s) := by
  cases i with
  | divisionResult core => exact execDivisionResult_completes core s
  | mrotDelivery idx => exact execMrotDelivery_completes idx s
  | cpyrChunkApply idx => exact execCpyrChunkApply_completes idx s
  | keyFilterExpiry home => exact execKeyFilterExpiry_completes home s
  | bxComplete die idx => exact execBxComplete_completes die idx s
  | resamplePhase2 die idx => exact execResamplePhase2_completes die idx s
  | clonePlacement die idx => exact execClonePlacement_completes die idx s
  | interruptEntry | timerCompare | takeRecord | idleSearchRetry | dequeTheft | inboxDelivery | backstopWrite
  | backstopRefill | spawnQueueDispatch | quantumExpiry | quantumSaveDone | strandForm | watchWake | watchRepoll
  | feReissue | accessAtHome | replayRetry | replayDrop | barrierParentArrival | leaseGrant | leaseLapse | mmulExecute
  | mrotChunk | mdrainExecute | mzeroExecute | accumulatorFree | copyChunk | copySignal | streamReadahead | bxMapInstall
  | bxGroup | bxSwapPair | ferryEnd | ferrySend | ferryRecv | ferryRrs | ferryCopy | ferryWait | ferryLoop | ferrySignal
  | ferryChunkArrival | ferryStepTimeout | residualDeadline | wqDecide | wqLapTimeout | reset | ferryCreditArrival
  | doorbellWrite | dbgHaltRequest | dbgResume | dbgRaiseInterrupt | clfreezeWrite | registerWindowWrite | hostAccess
  | gangStop | partitionSave | gangResume | flitCrcRetry | linkRetire | contextError | l2Scrub | thermalTrip | fatalError
  | bootLoad | attestationRequest | wqErrorClear | wqKick | remoteReceive | memoryReply => exact ⟨_, rfl⟩
  | add | sub | and | or | xor | shl | shr | sra | slt | sltu | min | max | minu | maxu | mix | mul | mulh | mulhu =>
    dsimp only [exec]
    exact alu2_completes _ _ _ _ _ s _
  | clz | ctz | popc | addi | andi | ori | xori | slti | sltiu | shli | shri | srai | bfx =>
    dsimp only [exec]
    exact alu1_completes _ _ _ _ s _
  | div | divu | rem | remu =>
    dsimp only [exec]
    exact divide_completes _ _ _ _ _ s _
  | ldb | ldbu | ldh | ldhu | ldw | ldwu | ldd =>
    dsimp only [exec]
    exact load_completes _ _ _ _ s _ _ _ _
  | stb | sth | stw | std =>
    dsimp only [exec]
    exact store_completes _ _ _ _ s _ _ _
  | amoAdd | amoAnd | amoOr | amoXor | amoMin | amoMax | amoMinu | amoMaxu | amoSwap | amoFadd32 | amoNib =>
    dsimp only [exec]
    exact amo_completes _ _ _ _ _ s _ _ _
  | beq | bne | blt | bge | bltu | bgeu =>
    dsimp only [exec]
    exact branch_completes _ _ _ _ s _ _
  | fenceRel | fenceAcq | fenceAr =>
    dsimp only [exec]
    exact fence_completes _ _ _ s _ _ _
  | csrr | csrw | csrs | csrc =>
    dsimp only [exec]
    exact csrOp_completes _ _ _ s _ _ _ _
  | vadd | vsub | vmul | vfma | vfms | vfnma | vmin | vmax | vscale | vcmpeq | vcmplt | vcmple | vsel | vand | vor | vxor | vshl
  | vshr | vsra | vabs | vneg | vrsqs | vrcps | vxexp | vmov =>
    dsimp only [exec]
    exact vec_completes _ _ s _ _ _ _ _ _ _ _
  | addpc | j | call | mif | melse | mend | join | fmt | vcvt | vget | vput | vbcast | vreds | vredm =>
    dsimp only [exec, execAddpc, execJ, execCall, execMif, execMelse, execMend, execJoin, execFmt, execVcvt, execVget, execVput,
      execVbcast, execVreds, execVredm]
    exact issue_completes _ _ _ _ s
  | _ =>
    dsimp only [exec]
    exact issue_completes _ _ _ _ s

/-! ## The turn of the slot in force -/

/-- A word runs as an instruction, or takes ILLOP (R101). -/
theorem runWord_completes (w : IWord) (s : State) : Completes (runWord w s) := by
  unfold runWord
  split
  · next i _ => exact exec_completes i s
  · exact exec_completes (.illopEncoding w) s

theorem issueNext_completes (s : State) : Completes (issueNext s) := by
  unfold issueNext
  dsimp only
  split
  · split
    · exact runWord_completes _ _
    · exact ⟨_, rfl⟩
  · split
    · exact runWord_completes _ _
    · exact ⟨_, rfl⟩
    · exact ⟨_, rfl⟩

/-- Halts, interrupts, breakpoints and the quantum come before the next instruction: each has a next state, and so has that
instruction. -/
theorem slotTurn_completes (s : State) : Completes (slotTurn s) := by
  unfold slotTurn
  dsimp only
  split
  · exact ⟨_, rfl⟩
  split
  · exact ⟨_, rfl⟩
  split
  · exact exec_completes (.interruptEntry s.cur) s
  split
  · exact ⟨_, rfl⟩
  split
  · exact exec_completes (.quantumExpiry s.cur) s
  split
  · exact ⟨_, rfl⟩
  · exact issueNext_completes s

/-! ## The turns of the other units -/

/-- A turn that has a next state whatever state it is taken in. -/
def Turnable.Total (f : Turnable) : Prop := ∀ s, Completes (f s)

/-- Every turn of a list is total. -/
def AllTotal (ts : List Turnable) : Prop := ∀ f ∈ ts, f.Total

theorem Turnable.Total.of_exec (i : Instr) : Turnable.Total (exec i) := exec_completes i

theorem Turnable.Total.of_next (f : State → State) : Turnable.Total (fun s => .next (f s)) := fun s => ⟨f s, rfl⟩

@[simp] theorem allTotal_nil : AllTotal [] := by simp [AllTotal]

@[simp] theorem allTotal_cons (f : Turnable) (ts : List Turnable) : AllTotal (f :: ts) ↔ f.Total ∧ AllTotal ts :=
  List.forall_mem_cons

@[simp] theorem allTotal_append (ts us : List Turnable) : AllTotal (ts ++ us) ↔ AllTotal ts ∧ AllTotal us :=
  List.forall_mem_append

@[simp] theorem allTotal_when (b : Bool) (f : Turnable) : AllTotal (when b f) ↔ (b = true → f.Total) := by
  cases b <;> simp [when]

theorem allTotal_map {α : Type} {l : List α} {g : α → Turnable} (h : ∀ a, (g a).Total) : AllTotal (l.map g) :=
  List.forall_mem_map.2 fun a _ => h a

theorem allTotal_flatten_map {α : Type} {l : List α} {g : α → List Turnable} (h : ∀ a, AllTotal (g a)) :
    AllTotal (l.map g).flatten := by
  intro f hf
  obtain ⟨_, ⟨a, -, rfl⟩, hfa⟩ := by simpa only [List.mem_flatten, List.mem_map] using hf
  exact h a f hfa

theorem slotTurns_total (s : State) (n : Nat) : AllTotal (slotTurns s n) := by
  unfold slotTurns
  simp only [allTotal_append, allTotal_when, and_assoc]
  refine ⟨fun _ => .of_next _, fun _ => .of_exec (.interruptEntry n), ?wait, fun _ => .of_exec (.quantumExpiry n),
    fun _ => .of_exec (.quantumSaveDone n), fun _ => .of_exec (.takeRecord n), fun _ => .of_exec (.streamReadahead n false),
    fun _ => .of_exec (.streamReadahead n true)⟩
  case wait =>
    split
    · exact (allTotal_when _ _).2 fun _ => .of_exec (.strandForm n)
    · simp only [allTotal_append, allTotal_when]
      exact ⟨fun _ => .of_exec (.residualDeadline n), fun _ => .of_exec (.watchWake n)⟩
    · simp only [allTotal_append, allTotal_when]
      exact ⟨fun _ => .of_exec (.timerCompare n), fun _ => .of_exec (.watchWake n)⟩
    · exact (allTotal_when _ _).2 fun _ => .of_exec (.watchWake n)
    · exact allTotal_nil

theorem coreTurns_total (s : State) (c : Nat) : AllTotal (coreTurns s c) := by
  unfold coreTurns
  simp only [allTotal_append, allTotal_when, and_assoc]
  refine ⟨fun _ => .of_exec (.backstopWrite c), fun _ => .of_exec (.backstopRefill c), fun _ => .of_exec (.inboxDelivery c),
    fun _ => .of_exec (.divisionResult c), ?_⟩
  split
  · exact allTotal_nil
  · exact allTotal_map fun i => .of_exec (.takeRecord (4 * c + i))

theorem theftTurns_total (s : State) : AllTotal (theftTurns s) := by
  unfold theftTurns
  split
  · exact allTotal_nil
  · intro f hf
    obtain ⟨n, -, hn⟩ := List.mem_filterMap.1 hf
    obtain ⟨c, -, rfl⟩ := Option.map_eq_some_iff.1 hn
    exact .of_exec (.dequeTheft n c)

theorem bxTurn_total (die idx : Nat) (op : BxOp) : AllTotal (bxTurn die idx op) := by
  have hend : Turnable.Total (execBxComplete die idx) := .of_exec (.bxComplete die idx)
  cases op <;> simp only [bxTurn, allTotal_cons, allTotal_nil, hend, and_true]
  case map => exact .of_exec (.bxMapInstall die idx)
  case apply => exact .of_exec (.bxGroup die idx)
  case swap => exact .of_exec (.bxSwapPair die idx)

theorem ferryTurn_total (s : State) (die idx : Nat) (f : FerryCtx) : AllTotal (ferryTurn s die idx f) := by
  unfold ferryTurn
  simp only [allTotal_append, allTotal_when]
  refine ⟨fun _ => .of_exec (.ferryStepTimeout die idx), fun _ => ?_⟩
  split
  · exact .of_exec (.ferryEnd die idx)
  · exact .of_exec (.ferrySend die idx)
  · exact .of_exec (.ferryRecv die idx)
  · exact .of_exec (.ferryRrs die idx)
  · exact .of_exec (.ferryCopy die idx)
  · exact .of_exec (.ferryWait die idx)
  · exact .of_exec (.ferryLoop die idx)
  · exact .of_exec (.ferrySignal die idx)

theorem dieTurns_total (s : State) (die : Nat) (d : Die) : AllTotal (dieTurns s die d) := by
  unfold dieTurns
  simp only [allTotal_append, allTotal_when, and_assoc]
  refine ⟨fun _ => .of_exec (.spawnQueueDispatch die), allTotal_flatten_map fun q => ?queue,
    allTotal_flatten_map fun q => bxTurn_total die q.2 q.1.op, allTotal_flatten_map fun f => ferryTurn_total s die f.2 f.1,
    allTotal_flatten_map fun p => ?population⟩
  case queue =>
    simp only [allTotal_append, allTotal_when, and_assoc]
    refine ⟨fun _ => .of_exec (.wqDecide die q.1), fun _ => .of_exec (.wqLapTimeout die q.1), ?_⟩
    split
    · exact allTotal_nil
    · exact allTotal_map fun n => .of_exec (.takeRecord n)
  case population =>
    simp only [allTotal_append, allTotal_when]
    exact ⟨fun _ => .of_exec (.resamplePhase2 die p.2), fun _ => .of_exec (.clonePlacement die p.2)⟩

theorem clusterTurns_total (s : State) (c : Nat) (k : Cluster) : AllTotal (clusterTurns s c k) := by
  unfold clusterTurns
  simp only [allTotal_append, allTotal_when, and_assoc]
  refine ⟨fun _ => .of_exec (.leaseGrant c), fun _ => .of_exec (.leaseLapse c), fun _ => .of_next _, ?loom,
    allTotal_flatten_map fun i => (allTotal_when _ _).2 fun _ => .of_exec (.accumulatorFree c i),
    allTotal_flatten_map fun q => (allTotal_when _ _).2 fun _ => ?copy⟩
  case loom =>
    split
    · split <;> simp only [allTotal_cons, allTotal_nil, and_true]
      · exact .of_exec (.mzeroExecute c)
      · exact .of_exec (.mmulExecute c)
      · exact .of_exec (.mrotChunk c)
      · exact .of_exec (.mdrainExecute c)
    · exact allTotal_nil
  case copy =>
    split
    · exact .of_exec (.copySignal c q.2)
    · exact .of_exec (.copyChunk c q.2)

theorem fabricTurns_total (s : State) : AllTotal (fabricTurns s) := by
  unfold fabricTurns
  simp only [allTotal_append, allTotal_when, and_assoc]
  refine ⟨allTotal_flatten_map fun h => (allTotal_when _ _).2 fun _ => ?held, fun _ => .of_exec (.accessAtHome s.held.length),
    allTotal_flatten_map fun r => (allTotal_when _ _).2 fun _ => .of_exec (.memoryReply (s.remote.length + r.2) 0 0),
    allTotal_flatten_map fun a => (allTotal_when _ _).2 fun _ => .of_exec (.barrierParentArrival a.2),
    allTotal_flatten_map fun d => (allTotal_when _ _).2 fun _ => .of_exec (.mrotDelivery d.2),
    allTotal_flatten_map fun m => ?chunk, ?ferry, allTotal_flatten_map fun c => ?replay,
    allTotal_flatten_map fun c => (allTotal_when _ _).2 fun _ => .of_exec (.partitionSave c)⟩
  case held =>
    split
    · exact .of_exec (.feReissue h.2)
    · exact .of_exec (.accessAtHome h.2)
  case chunk =>
    have happly : Turnable.Total (execCpyrChunkApply m.2) := .of_exec (.cpyrChunkApply m.2)
    split
    · exact allTotal_nil
    split <;> simp only [allTotal_cons, allTotal_nil, happly, and_true]
    exact .of_exec (.keyFilterExpiry m.1.home)
  case ferry =>
    split
    · next m _ =>
      simp only [allTotal_cons, allTotal_nil, and_true]
      split
      · exact .of_exec (.ferryChunkArrival m.die m.idx m.rank m.run m.bytes)
      · exact .of_exec (.ferryCreditArrival m.die m.idx m.rank m.run)
    · exact allTotal_nil
  case replay =>
    simp only [allTotal_append, allTotal_when]
    exact ⟨fun _ => .of_exec (.replayDrop c), fun _ => .of_exec (.replayRetry c)⟩

theorem foremanTurns_total (s : State) : AllTotal (foremanTurns s) := by
  unfold foremanTurns
  simp only [allTotal_append, allTotal_when]
  exact ⟨fun _ => .of_next _, allTotal_flatten_map fun c => (allTotal_when _ _).2 fun _ => .of_next _⟩

theorem allTurns_total (s : State) : AllTotal (allTurns s) := by
  unfold allTurns
  simp only [allTotal_append, and_assoc]
  exact ⟨allTotal_flatten_map (slotTurns_total s), allTotal_flatten_map (coreTurns_total s), theftTurns_total s,
    allTotal_flatten_map fun d => dieTurns_total s d.1 d.2, allTotal_flatten_map fun c => clusterTurns_total s c.1 c.2,
    fabricTurns_total s, foremanTurns_total s⟩

/-- The turn taken is one of the list, so it has a next state; with no turn to take nothing moves. -/
theorem unitTurn_completes (s : State) : Completes (unitTurn s) := by
  unfold unitTurn
  dsimp only
  split
  · next f hf => exact allTurns_total s f (List.mem_of_getElem? hf) _
  · exact ⟨_, rfl⟩

/-! ## The step -/

theorem idleTurn_completes (s : State) : Completes (idleTurn s) := by
  unfold idleTurn
  split
  · exact exec_completes (.reset s.devid true) s
  · exact ⟨_, rfl⟩
  · next c d a _ _ => exact exec_completes (.fatalError c d a) s
  · exact ⟨_, rfl⟩

theorem move_completes (s : State) : Completes (move s) := by
  unfold move
  split
  · exact exec_completes _ _
  split
  · exact idleTurn_completes s
  split
  · exact slotTurn_completes _
  · exact unitTurn_completes _

theorem step_completes (s : State) : Completes (step s) := move_completes (tick s)

/-- Settles O58: every instruction and every event completes, and so does whatever moves in a step. -/
theorem everyStepHasANextState : Obligations.EveryStepHasANextState := ⟨exec_completes, step_completes⟩

end Sys2Proof.Machine
end

section
/-!
Rounding on the rationals (R40, R41): what the integer roundings of the model choose, and that the choice is the grid point that
roundsTo asks for.
-/
namespace Sys2Proof.Machine

/-! ## Signs and finite values -/

/-- The factor of a sign. -/
def signOf (neg : Bool) : ℚ := if neg then -1 else 1

@[simp] theorem signOf_false : signOf false = 1 := rfl
@[simp] theorem signOf_true : signOf true = -1 := rfl
theorem signOf_not (n : Bool) : signOf (!n) = -signOf n := by cases n <;> simp
theorem signOf_ne (a b : Bool) : signOf (a != b) = signOf a * signOf b := by cases a <;> cases b <;> simp
theorem signOf_ne_zero (n : Bool) : signOf n ≠ 0 := by cases n <;> simp
theorem abs_signOf_mul (n : Bool) (x : ℚ) : |signOf n * x| = |x| := by cases n <;> simp
theorem signOf_mul_neg_iff {n : Bool} {x : ℚ} (hx : 0 < x) : signOf n * x < 0 ↔ n = true := by
  cases n <;> simp [hx, hx.le]

theorem two_zpow_pos (q : ℤ) : (0 : ℚ) < 2 ^ q := zpow_pos (by norm_num) q
theorem two_zpow_add (a b : ℤ) : (2 : ℚ) ^ (a + b) = 2 ^ a * 2 ^ b := zpow_add₀ (by norm_num) a b
theorem two_zpow_le {a b : ℤ} (h : a ≤ b) : (2 : ℚ) ^ a ≤ 2 ^ b := zpow_le_zpow_right₀ (by norm_num) h
theorem two_zpow_lt_iff {a b : ℤ} : (2 : ℚ) ^ a < 2 ^ b ↔ a < b := zpow_lt_zpow_iff_right₀ (by norm_num)
theorem two_zpow_natCast (n : Nat) : (2 : ℚ) ^ (n : ℤ) = 2 ^ n := zpow_natCast 2 n
/-- A power of two with a difference that is not negative, as a natural number. -/
theorem two_zpow_toNat {a b : ℤ} (h : b ≤ a) : (2 : ℚ) ^ a = ((2 ^ (a - b).toNat : ℕ) : ℚ) * 2 ^ b := by
  rw [Nat.cast_pow, Nat.cast_ofNat, ← zpow_natCast, ← two_zpow_add]; congr 1; omega

theorem real_fin (n : Bool) (m : Nat) (e : ℤ) : (Num.fin n m e).real = signOf n * (m * 2 ^ e) := mul_assoc _ _ _

/-- A positive magnitude lies between the powers of two that its log2 names. -/
theorem magnitude_bounds {m : Nat} (hm : m ≠ 0) (e : ℤ) :
    (2 : ℚ) ^ ((m.log2 : ℤ) + e) ≤ m * 2 ^ e ∧ (m : ℚ) * 2 ^ e < 2 ^ ((m.log2 : ℤ) + e + 1) := by
  have hlo : ((2 ^ m.log2 : ℕ) : ℚ) ≤ m := Nat.cast_le.2 (Nat.log2_self_le hm)
  have hhi : (m : ℚ) < ((2 ^ (m.log2 + 1) : ℕ) : ℚ) := Nat.cast_lt.2 Nat.lt_log2_self
  push_cast at hlo hhi
  refine ⟨?_, ?_⟩
  · rw [two_zpow_add, two_zpow_natCast]
    exact mul_le_mul_of_nonneg_right hlo (two_zpow_pos e).le
  · rw [show (m.log2 : ℤ) + e + 1 = ((m.log2 + 1 : ℕ) : ℤ) + e by push_cast; ring, two_zpow_add, two_zpow_natCast]
    exact mul_lt_mul_of_pos_right hhi (two_zpow_pos e)

theorem magnitude_pos {m : Nat} (hm : m ≠ 0) (e : ℤ) : (0 : ℚ) < m * 2 ^ e :=
  mul_pos (Nat.cast_pos.2 (Nat.pos_of_ne_zero hm)) (two_zpow_pos e)

/-! ## The integer that a mode chooses -/

/-- Whether a mode goes up from the integer below: d is the part above it, strictly between 0 and 1. -/
def RMode.up (rm : RMode) (neg tie : Bool) (d : ℚ) : Bool :=
  match rm with
  | .rne => if 2 * d = 1 then tie else decide (1 < 2 * d)
  | .rz => false
  | .rd => neg
  | .ru => !neg

/-- The integer that a mode chooses for a magnitude z of a sign. -/
def pick (rm : RMode) (neg : Bool) (tie : Nat → Bool) (z : ℚ) : Nat :=
  if z = ⌊z⌋₊ then ⌊z⌋₊ else if rm.up neg (tie ⌊z⌋₊) (z - ⌊z⌋₊) then ⌊z⌋₊ + 1 else ⌊z⌋₊

/-- What pick can choose: the magnitude itself, or one of its two neighbours as the mode says. -/
theorem pick_cases (rm : RMode) (neg : Bool) (tie : Nat → Bool) {z : ℚ} (hz : 0 ≤ z) :
    (z = ⌊z⌋₊ ∧ pick rm neg tie z = ⌊z⌋₊)
    ∨ ((⌊z⌋₊ : ℚ) < z ∧ z < ⌊z⌋₊ + 1
      ∧ ((rm.up neg (tie ⌊z⌋₊) (z - ⌊z⌋₊) = false ∧ pick rm neg tie z = ⌊z⌋₊)
        ∨ (rm.up neg (tie ⌊z⌋₊) (z - ⌊z⌋₊) = true ∧ pick rm neg tie z = ⌊z⌋₊ + 1))) := by
  rcases eq_or_ne z ⌊z⌋₊ with h | h
  · exact .inl ⟨h, if_pos h⟩
  · refine .inr ⟨lt_of_le_of_ne (Nat.floor_le hz) h.symm, Nat.lt_floor_add_one z, ?_⟩
    rw [pick, if_neg h]
    cases hu : rm.up neg (tie ⌊z⌋₊) (z - ⌊z⌋₊) <;> simp

/-- The choice is exact just when the magnitude is an integer. -/
theorem pick_eq_iff (rm : RMode) (neg : Bool) (tie : Nat → Bool) {z : ℚ} (hz : 0 ≤ z) :
    (pick rm neg tie z : ℚ) = z ↔ z = ⌊z⌋₊ := by
  obtain ⟨h, hp⟩ | ⟨hlo, hhi, ⟨-, hp⟩ | ⟨-, hp⟩⟩ := pick_cases rm neg tie hz
  · rw [hp]; exact eq_comm
  · rw [hp]; exact eq_comm
  · rw [hp]; push_cast
    exact iff_of_false hhi.ne' hlo.ne'

theorem pick_natCast (rm : RMode) (neg : Bool) (tie : Nat → Bool) (n : Nat) : pick rm neg tie n = n := by
  simp [pick]

theorem pick_le (rm : RMode) (neg : Bool) (tie : Nat → Bool) {z : ℚ} (hz : 0 ≤ z) : ⌊z⌋₊ ≤ pick rm neg tie z ∧ pick rm neg tie z ≤ ⌊z⌋₊ + 1 := by
  obtain ⟨-, hp⟩ | ⟨-, -, ⟨-, hp⟩ | ⟨-, hp⟩⟩ := pick_cases rm neg tie hz <;> omega

/-- Dropping low bits chooses the integer of the mode, and reports whether that was inexact. -/
theorem roundShift_eq_pick (rm : RMode) (neg : Bool) (m sh : Nat) (tie : Nat → Bool) :
    roundShift rm neg m sh tie
      = (pick rm neg tie ((m : ℚ) / 2 ^ sh), decide ((pick rm neg tie ((m : ℚ) / 2 ^ sh) : ℚ) ≠ (m : ℚ) / 2 ^ sh)) := by
  have hpow : (0 : ℚ) < 2 ^ sh := by positivity
  have hfloor : ⌊(m : ℚ) / 2 ^ sh⌋₊ = m >>> sh := by
    rw [Nat.shiftRight_eq_div_pow, ← Nat.floor_div_eq_div (K := ℚ)]; norm_num
  have hsplit : (m : ℚ) / 2 ^ sh = ((m >>> sh : ℕ) : ℚ) + ((m % 2 ^ sh : ℕ) : ℚ) / 2 ^ sh := by
    rw [Nat.shiftRight_eq_div_pow, add_div' _ _ _ hpow.ne']
    congr 1
    exact_mod_cast (Nat.div_add_mod' m (2 ^ sh)).symm
  have hexact : ((pick rm neg tie ((m : ℚ) / 2 ^ sh) : ℚ) ≠ (m : ℚ) / 2 ^ sh) ↔ m % 2 ^ sh ≠ 0 := by
    rw [Ne, pick_eq_iff rm neg tie (by positivity), hfloor, hsplit]
    simp
  simp only [hexact]
  have hd : (m : ℚ) / 2 ^ sh - ((m >>> sh : ℕ) : ℚ) = ((m % 2 ^ sh : ℕ) : ℚ) / 2 ^ sh := by rw [hsplit]; ring
  have heq : (m : ℚ) / 2 ^ sh = ⌊(m : ℚ) / 2 ^ sh⌋₊ ↔ m % 2 ^ sh = 0 := by
    rw [← pick_eq_iff rm neg tie (by positivity)]; exact not_iff_not.1 (by simpa using hexact)
  by_cases hr : m % 2 ^ sh = 0
  · rw [pick, if_pos (heq.2 hr), hfloor]
    simp [roundShift, hr]
  · rw [pick, if_neg (mt heq.1 hr), hfloor, hd]
    have h1 : 2 * (((m % 2 ^ sh : ℕ) : ℚ) / 2 ^ sh) = 1 ↔ 2 * (m % 2 ^ sh) = 2 ^ sh := by
      rw [mul_div_assoc', div_eq_one_iff_eq hpow.ne']; norm_cast
    have h2 : 1 < 2 * (((m % 2 ^ sh : ℕ) : ℚ) / 2 ^ sh) ↔ 2 ^ sh < 2 * (m % 2 ^ sh) := by
      rw [mul_div_assoc', one_lt_div hpow]; norm_cast
    cases rm with
    | rne => simp [roundShift, RMode.up, hr, h1, h2]
    | rz => simp [roundShift, RMode.up, hr]
    | rd => cases neg <;> simp [roundShift, RMode.up, hr]
    | ru => cases neg <;> simp [roundShift, RMode.up, hr]

/-- A magnitude m·2^e rounded to a multiple of 2^q: the form of both roundings of the model. -/
def roundAt (rm : RMode) (neg : Bool) (m : Nat) (e q : ℤ) (tie : Nat → Bool) : Nat × Bool :=
  if e ≥ q then (m <<< (e - q).toNat, false) else roundShift rm neg m (q - e).toNat tie

theorem roundAt_eq_pick (rm : RMode) (neg : Bool) (m : Nat) (e q : ℤ) (tie : Nat → Bool) :
    roundAt rm neg m e q tie = (pick rm neg tie ((m : ℚ) * 2 ^ e / 2 ^ q),
        decide ((pick rm neg tie ((m : ℚ) * 2 ^ e / 2 ^ q) : ℚ) ≠ (m : ℚ) * 2 ^ e / 2 ^ q)) := by
  rw [roundAt]
  split
  next h =>
    have hz : (m : ℚ) * 2 ^ e / 2 ^ q = ((m <<< (e - q).toNat : ℕ) : ℚ) := by
      rw [div_eq_iff (two_zpow_pos q).ne', two_zpow_toNat h, Nat.shiftLeft_eq]; push_cast; ring
    rw [hz, pick_natCast]; simp
  next h =>
    have hz : (m : ℚ) * 2 ^ e / 2 ^ q = (m : ℚ) / 2 ^ (q - e).toNat := by
      rw [two_zpow_toNat (a := q) (b := e) (by omega)]; push_cast
      rw [mul_div_mul_right _ _ (two_zpow_pos e).ne']
    rw [hz, roundShift_eq_pick]

/-! ## The grid of a format -/

theorem onGrid_neg {f : Fmt} {bounded : Bool} {w : ℚ} (h : f.onGrid bounded w) : f.onGrid bounded (-w) := by
  obtain ⟨k, q, hq, hk, rfl⟩ := h
  exact ⟨-k, q, hq, by simpa using hk, by push_cast; ring⟩

theorem evenPoint_neg {f : Fmt} {bounded : Bool} {w : ℚ} (h : f.evenPoint bounded w) : f.evenPoint bounded (-w) := by
  obtain ⟨k, q, heven, hk, rfl, hn⟩ := h
  exact ⟨-k, q, heven.neg, by simpa using hk, by push_cast; ring, by simpa using hn⟩

/-- A significand that carries into the next place still names a grid point. -/
theorem onGrid_of_abs_le {f : Fmt} {bounded : Bool} {k q : ℤ} (hq : bounded = true → f.emin ≤ q) (hk : |k| ≤ 2 ^ (f.t + 1)) :
    f.onGrid bounded (k * 2 ^ q) := by
  rcases hk.lt_or_eq with h | h
  · exact ⟨k, q, hq, h, rfl⟩
  · have hhalf : ∀ s : ℤ, |s| = 1 → k = s * 2 ^ (f.t + 1) → f.onGrid bounded (k * 2 ^ q) := fun s hs hks =>
      ⟨s * 2 ^ f.t, q + 1, fun hb => by have := hq hb; omega,
          by rw [abs_mul, hs, one_mul, abs_of_pos (by positivity)]; exact pow_lt_pow_right₀ (by norm_num) (by omega),
        by rw [hks, two_zpow_add]; push_cast; ring⟩
    rcases abs_eq (by positivity) |>.1 h with h | h
    · exact hhalf 1 rfl (by rw [h, one_mul])
    · exact hhalf (-1) rfl (by rw [h]; ring)

/-- 2^q is the last place of a magnitude x: x has at most t + 1 bits above it, and all of them unless the exponent range ends there. -/
structure Fmt.LastPlace (f : Fmt) (bounded : Bool) (q : ℤ) (x : ℚ) : Prop where
  low : bounded = true → f.emin ≤ q
  high : x < 2 ^ (q + f.t + 1)
  full : (2 : ℚ) ^ (q + f.t) ≤ x ∨ (bounded = true ∧ q = f.emin)

theorem lastPlace_unbounded (f : Fmt) {m : Nat} (hm : m ≠ 0) (e : ℤ) : f.LastPlace false ((m.log2 : ℤ) + e - f.t) (m * 2 ^ e) := by
  obtain ⟨hlo, hhi⟩ := magnitude_bounds hm e
  exact ⟨nofun, by simpa using hhi, .inl (by simpa using hlo)⟩

theorem lastPlace_bounded (f : Fmt) {m : Nat} (hm : m ≠ 0) (e : ℤ) : f.LastPlace true (max ((m.log2 : ℤ) + e - f.t) f.emin) (m * 2 ^ e) := by
  obtain ⟨hlo, hhi⟩ := magnitude_bounds hm e
  refine ⟨fun _ => le_max_right _ _, hhi.trans_le (two_zpow_le (by omega)), ?_⟩
  rcases le_total f.emin ((m.log2 : ℤ) + e - f.t) with h | h
  · exact .inl (by rw [max_eq_left h]; simpa using hlo)
  · exact .inr ⟨rfl, max_eq_right h⟩

section
variable {f : Fmt} {bounded : Bool} {q : ℤ} {x : ℚ}

/-- The integer part of a magnitude at its last place has at most t + 1 bits, and all of them unless the exponent range ends there. -/
theorem Fmt.LastPlace.floor (h : f.LastPlace bounded q x) (hx : 0 ≤ x) :
    ⌊x / 2 ^ q⌋₊ < 2 ^ (f.t + 1) ∧ (2 ^ f.t ≤ ⌊x / 2 ^ q⌋₊ ∨ (bounded = true ∧ q = f.emin)) := by
  refine ⟨(Nat.floor_lt (div_nonneg hx (two_zpow_pos q).le)).2 ?_, h.full.imp_left fun hf => Nat.le_floor ?_⟩
  · rw [div_lt_iff₀ (two_zpow_pos q)]
    have := h.high
    rw [add_assoc, two_zpow_add, mul_comm] at this
    exact_mod_cast this
  · rw [le_div_iff₀ (two_zpow_pos q)]
    rw [two_zpow_add, mul_comm] at hf
    exact_mod_cast hf

/-- No grid point lies between a magnitude's two neighbours at its last place. -/
theorem grid_gap (h : f.LastPlace bounded q x) (hx : 0 ≤ x) {w : ℚ} (hw : f.onGrid bounded w) :
    w ≤ (⌊x / 2 ^ q⌋₊ : ℚ) * 2 ^ q ∨ ((⌊x / 2 ^ q⌋₊ : ℚ) + 1) * 2 ^ q ≤ w := by
  obtain ⟨k, p, hp, hk, rfl⟩ := hw
  obtain ⟨-, hfull⟩ := h.floor hx
  generalize ⌊x / 2 ^ q⌋₊ = n at hfull ⊢
  rcases le_or_gt q p with hqp | hpq
  · rw [two_zpow_toNat hqp, ← mul_assoc]
    refine (le_or_gt (k * (2 ^ (p - q).toNat : ℕ)) (n : ℤ)).imp (fun hle => ?_) fun hgt => ?_
    · exact mul_le_mul_of_nonneg_right (by exact_mod_cast hle) (two_zpow_pos q).le
    · exact mul_le_mul_of_nonneg_right (by exact_mod_cast hgt) (two_zpow_pos q).le
  · have hn : 2 ^ f.t ≤ n := hfull.resolve_right fun ⟨hb, hq⟩ => by have := hp hb; omega
    refine .inl ?_
    have hkq : (k : ℚ) ≤ 2 ^ f.t * 2 := by
      have := (le_abs_self k).trans hk.le
      rw [pow_succ] at this
      exact_mod_cast this
    calc (k : ℚ) * 2 ^ p ≤ (2 ^ f.t * 2) * 2 ^ p := mul_le_mul_of_nonneg_right hkq (two_zpow_pos p).le
      _ = 2 ^ f.t * 2 ^ (p + 1) := by rw [two_zpow_add]; ring
      _ ≤ n * 2 ^ q := mul_le_mul (by exact_mod_cast hn) (two_zpow_le (by omega)) (two_zpow_pos _).le (by positivity)

/-- Both neighbours are grid points. -/
theorem onGrid_floor (h : f.LastPlace bounded q x) (hx : 0 ≤ x) {k : Nat} (hk : k ≤ ⌊x / 2 ^ q⌋₊ + 1) : f.onGrid bounded (k * 2 ^ q) := by
  have hn := (h.floor hx).1
  have : |(k : ℤ)| ≤ 2 ^ (f.t + 1) := by rw [Nat.abs_cast]; exact_mod_cast (by omega : k ≤ 2 ^ (f.t + 1))
  simpa using onGrid_of_abs_le h.low this

/-- An even one of the two neighbours is an even grid point. -/
theorem evenPoint_floor (h : f.LastPlace bounded q x) (hx : 0 ≤ x) (ht : 1 ≤ f.t) {k : Nat} (hlo : ⌊x / 2 ^ q⌋₊ ≤ k)
    (hhi : k ≤ ⌊x / 2 ^ q⌋₊ + 1) (heven : Even k) : f.evenPoint bounded (k * 2 ^ q) := by
  obtain ⟨hn, hfull⟩ := h.floor hx
  rcases eq_or_ne k (2 ^ (f.t + 1)) with hk | hk
  · refine ⟨2 ^ f.t, q + 1, even_two.pow_of_ne_zero (by omega), ?_, ?_, .inl (le_abs_self _)⟩
    · rw [abs_of_pos (by positivity)]; exact pow_lt_pow_right₀ (by norm_num) (by omega)
    · rw [hk, two_zpow_add]; push_cast; ring
  · refine ⟨k, q, by exact_mod_cast heven, ?_, by simp, ?_⟩
    · rw [Nat.abs_cast]; exact_mod_cast (by omega : k < 2 ^ (f.t + 1))
    · rw [Nat.abs_cast]
      refine hfull.imp (fun hf => ?_) .inr
      exact_mod_cast hf.trans hlo

end

/-! ## The chosen grid point -/

/-- The mode that rounds −x as rm rounds x. -/
def RMode.mirror : RMode → RMode
  | .rd => .ru
  | .ru => .rd
  | rm => rm

theorem pick_mirror (rm : RMode) (tie : Nat → Bool) (z : ℚ) : pick rm true tie z = pick rm.mirror false tie z := by
  cases rm <;> rfl

theorem roundsTo_neg {f : Fmt} {bounded : Bool} {rm : RMode} {x y : ℚ} (h : f.roundsTo bounded rm.mirror x y) :
    f.roundsTo bounded rm (-x) (-y) := by
  refine ⟨onGrid_neg h.1, ?_⟩
  have h2 := h.2
  have habs : ∀ z : ℚ, |-x - z| = |x - -z| := fun z => by rw [← abs_neg]; ring_nf
  cases rm with
  | rne =>
    intro z hz
    obtain ⟨hle, htie⟩ := h2 (-z) (onGrid_neg hz)
    rw [habs, neg_neg, habs]
    exact ⟨hle, fun hne heq ht => evenPoint_neg (htie (fun hc => hne (by rw [← hc, neg_neg])) heq ht)⟩
  | rz =>
    obtain ⟨h3, h4, h5⟩ := h2
    exact ⟨by simpa using h3, by simpa using h4, fun z hz hle => by simpa using h5 z hz (by simpa using hle)⟩
  | rd =>
    obtain ⟨h3, h4⟩ := h2
    exact ⟨neg_le_neg h3, fun z hz hle => le_neg.1 (h4 _ (onGrid_neg hz) (le_neg.1 hle))⟩
  | ru =>
    obtain ⟨h3, h4⟩ := h2
    exact ⟨neg_le_neg h3, fun z hz hle => neg_le.1 (h4 _ (onGrid_neg hz) (neg_le.1 hle))⟩

/-- A grid point beyond the neighbours is farther than they are. -/
theorem nearest_of_gap {K : Type*} [Field K] [LinearOrder K] [IsStrictOrderedRing K] {x a b y w : K} (hax : a ≤ x) (hxb : x ≤ b)
    (hy : (y = a ∧ 2 * x ≤ a + b) ∨ (y = b ∧ a + b ≤ 2 * x)) (hw : w ≤ a ∨ b ≤ w) :
    |x - y| ≤ |x - w| ∧ (w ≠ y → |x - y| = |x - w| → 2 * x = a + b) := by
  have hxw : |x - w| = if x ≤ w then w - x else x - w := by
    split
    · rw [abs_of_nonpos (by linarith)]; ring
    · exact abs_of_pos (by linarith)
  rw [hxw]
  obtain ⟨rfl, hm⟩ | ⟨rfl, hm⟩ := hy
  · rw [abs_of_nonneg (by linarith)]
    split <;> rcases hw with hw | hw <;> refine ⟨by linarith, fun hne heq => ?_⟩
    · exact absurd (by linarith) hne
    · linarith
    · exact absurd (by linarith) hne
    · linarith
  · rw [abs_of_nonpos (by linarith)]
    split <;> rcases hw with hw | hw <;> refine ⟨by linarith, fun hne heq => ?_⟩
    · linarith
    · exact absurd (by linarith) hne
    · linarith
    · exact absurd (by linarith) hne

section
variable {f : Fmt} {bounded : Bool} {q : ℤ} {x : ℚ} {tie : Nat → Bool}

/-- In nearest mode the choice is the nearer neighbour, and at a tie the one that the rule names. -/
theorem pick_rne (neg : Bool) (tie : Nat → Bool) {z : ℚ} (hz : 0 ≤ z) :
    ((pick .rne neg tie z = ⌊z⌋₊ ∧ 2 * z ≤ ⌊z⌋₊ + (⌊z⌋₊ + 1)) ∨ (pick .rne neg tie z = ⌊z⌋₊ + 1 ∧ (⌊z⌋₊ : ℚ) + (⌊z⌋₊ + 1) ≤ 2 * z))
      ∧ (2 * z = ⌊z⌋₊ + (⌊z⌋₊ + 1) → pick .rne neg tie z = if tie ⌊z⌋₊ then ⌊z⌋₊ + 1 else ⌊z⌋₊) := by
  obtain ⟨h, hp⟩ | ⟨hlo, hhi, hp⟩ := pick_cases .rne neg tie hz
  · exact ⟨.inl ⟨hp, by linarith⟩, fun ht => by linarith⟩
  · by_cases ht : 2 * (z - ⌊z⌋₊) = 1
    · simp only [RMode.up, ht, if_true] at hp
      obtain ⟨htie, hp⟩ | ⟨htie, hp⟩ := hp
      · exact ⟨.inl ⟨hp, by linarith⟩, fun _ => by simp [htie, hp]⟩
      · exact ⟨.inr ⟨hp, by linarith⟩, fun _ => by simp [htie, hp]⟩
    · simp only [RMode.up, ht, if_false, decide_eq_false_iff_not, decide_eq_true_eq, not_lt] at hp
      refine ⟨hp.imp (fun ⟨hu, hp⟩ => ⟨hp, by linarith⟩) (fun ⟨hu, hp⟩ => ⟨hp, by linarith⟩), fun h => absurd (by linarith) ht⟩

/-- In nearest mode no grid point is nearer than the choice, and one is as near only where the magnitude is halfway between its neighbours. -/
theorem pick_nearest (h : f.LastPlace bounded q x) (hx : 0 ≤ x) {w : ℚ} (hw : f.onGrid bounded w) :
    |x - pick .rne false tie (x / 2 ^ q) * 2 ^ q| ≤ |x - w|
      ∧ (w ≠ pick .rne false tie (x / 2 ^ q) * 2 ^ q → |x - pick .rne false tie (x / 2 ^ q) * 2 ^ q| = |x - w|
        → 2 * (x / 2 ^ q) = ⌊x / 2 ^ q⌋₊ + (⌊x / 2 ^ q⌋₊ + 1)) := by
  have hq := two_zpow_pos q
  have hz : 0 ≤ x / 2 ^ q := div_nonneg hx hq.le
  have hlo : (⌊x / 2 ^ q⌋₊ : ℚ) * 2 ^ q ≤ x := (le_div_iff₀ hq).1 (Nat.floor_le hz)
  have hhi : x < ((⌊x / 2 ^ q⌋₊ : ℚ) + 1) * 2 ^ q := (div_lt_iff₀ hq).1 (Nat.lt_floor_add_one _)
  have hside :
      (pick .rne false tie (x / 2 ^ q) * 2 ^ q = (⌊x / 2 ^ q⌋₊ : ℚ) * 2 ^ q ∧ 2 * x ≤ (⌊x / 2 ^ q⌋₊ : ℚ) * 2 ^ q + ((⌊x / 2 ^ q⌋₊ : ℚ) + 1) * 2 ^ q)
      ∨ (pick .rne false tie (x / 2 ^ q) * 2 ^ q = ((⌊x / 2 ^ q⌋₊ : ℚ) + 1) * 2 ^ q
          ∧ (⌊x / 2 ^ q⌋₊ : ℚ) * 2 ^ q + ((⌊x / 2 ^ q⌋₊ : ℚ) + 1) * 2 ^ q ≤ 2 * x) := by
    rw [← add_mul, ← div_le_iff₀ hq, ← le_div_iff₀ hq, mul_div_assoc]
    exact (pick_rne false tie hz).1.imp (fun ⟨hp, hm⟩ => ⟨by rw [hp], hm⟩) (fun ⟨hp, hm⟩ => ⟨by rw [hp]; push_cast; rfl, hm⟩)
  obtain ⟨hle, hhalf⟩ := nearest_of_gap hlo hhi.le hside (grid_gap h hx hw)
  exact ⟨hle, fun hne heq => by rw [mul_div_assoc', div_eq_iff hq.ne', hhalf hne heq]; ring⟩

/-- A magnitude rounded at its last place is rounded to the grid. -/
theorem roundsTo_pick_pos (rm : RMode) (h : f.LastPlace bounded q x) (hx : 0 ≤ x) (htie : 1 ≤ f.t → ∀ n, tie n = decide (n % 2 = 1)) :
    f.roundsTo bounded rm x (pick rm false tie (x / 2 ^ q) * 2 ^ q) := by
  have hq := two_zpow_pos q
  have hz : 0 ≤ x / 2 ^ q := div_nonneg hx hq.le
  have hxz : x = x / 2 ^ q * 2 ^ q := (div_mul_cancel₀ x hq.ne').symm
  have hlo : (⌊x / 2 ^ q⌋₊ : ℚ) * 2 ^ q ≤ x := (le_div_iff₀ hq).1 (Nat.floor_le hz)
  have hhi : x < ((⌊x / 2 ^ q⌋₊ : ℚ) + 1) * 2 ^ q := (div_lt_iff₀ hq).1 (Nat.lt_floor_add_one _)
  refine ⟨onGrid_floor h hx (pick_le rm false tie hz).2, ?_⟩
  cases rm with
  | rne =>
    intro w hw
    obtain ⟨hle, hhalf⟩ := pick_nearest (tie := tie) h hx hw
    refine ⟨hle, fun hne heq ht1 => ?_⟩
    have hp := (pick_rne false tie hz).2 (hhalf hne heq)
    rw [htie ht1] at hp
    refine evenPoint_floor h hx ht1 (pick_le .rne false tie hz).1 (pick_le .rne false tie hz).2 ?_
    rw [hp, Nat.even_iff]
    split
    next hodd => have := of_decide_eq_true hodd; omega
    next heven => have := of_decide_eq_false (Bool.eq_false_of_not_eq_true heven); omega
  | rz =>
    have hp : pick .rz false tie (x / 2 ^ q) = ⌊x / 2 ^ q⌋₊ := by simp [pick, RMode.up]
    have hnn : (0 : ℚ) ≤ (⌊x / 2 ^ q⌋₊ : ℚ) * 2 ^ q := by positivity
    rw [hp, abs_of_nonneg hnn, abs_of_nonneg hx]
    refine ⟨hlo, mul_nonneg hx hnn, fun w hw hle => ?_⟩
    have habs : f.onGrid bounded |w| := by
      rcases abs_choice w with hc | hc <;> rw [hc]
      · exact hw
      · exact onGrid_neg hw
    exact (grid_gap h hx habs).resolve_right (by linarith)
  | rd =>
    have hp : pick .rd false tie (x / 2 ^ q) = ⌊x / 2 ^ q⌋₊ := by simp [pick, RMode.up]
    rw [hp]
    exact ⟨hlo, fun w hw hle => (grid_gap h hx hw).resolve_right (by linarith)⟩
  | ru =>
    obtain ⟨hex, hp⟩ | ⟨hlt, -, ⟨hup, -⟩ | ⟨-, hp⟩⟩ := pick_cases .ru false tie hz
    · rw [hp, ← hex, ← hxz]
      exact ⟨le_rfl, fun w _ hle => hle⟩
    · simp [RMode.up] at hup
    · rw [hp]; push_cast
      have := (lt_div_iff₀ hq).1 hlt
      exact ⟨hhi.le, fun w hw hle => (grid_gap h hx hw).resolve_left (by linarith)⟩

/-- The same for a value of either sign. -/
theorem roundsTo_pick (rm : RMode) (neg : Bool) (h : f.LastPlace bounded q x) (hx : 0 ≤ x)
    (htie : 1 ≤ f.t → ∀ n, tie n = decide (n % 2 = 1)) :
    f.roundsTo bounded rm (signOf neg * x) (signOf neg * (pick rm neg tie (x / 2 ^ q) * 2 ^ q)) := by
  cases neg with
  | false => simpa using roundsTo_pick_pos rm h hx htie
  | true => simpa [pick_mirror] using roundsTo_neg (roundsTo_pick_pos rm.mirror h hx htie)

end

/-! ## The choice is unique -/

/-- Two even points of the unbounded grid have a grid point between them. -/
theorem between_evenPoints {f : Fmt} {a b : ℚ} (ha : f.evenPoint false a) (hb : f.evenPoint false b) (hab : a < b) :
    ∃ w, f.onGrid false w ∧ a < w ∧ w < b := by
  obtain ⟨k, q, ⟨i, hi⟩, hk, rfl, -⟩ := ha
  obtain ⟨l, p, ⟨j, hj⟩, hl, rfl, -⟩ := hb
  have hq := two_zpow_pos q
  have hp := two_zpow_pos p
  have h1 : f.onGrid false ((k + 1 : ℤ) * 2 ^ q) := onGrid_of_abs_le nofun (by have := abs_add_le k 1; simp only [abs_one] at this; omega)
  have h2 : f.onGrid false ((l - 1 : ℤ) * 2 ^ p) := onGrid_of_abs_le nofun (by have := abs_sub l 1; simp only [abs_one] at this; omega)
  push_cast at h1 h2
  rcases le_total q p with hqp | hpq
  · refine ⟨_, h1, by linarith, ?_⟩
    rw [two_zpow_toNat hqp, ← mul_assoc] at hab ⊢
    rw [mul_lt_mul_iff_left₀ hq] at hab ⊢
    have hlt : k < l * (2 ^ (p - q).toNat : ℕ) := by exact_mod_cast hab
    have : k + 1 < l * (2 ^ (p - q).toNat : ℕ) := by
      have : l * (2 ^ (p - q).toNat : ℕ) = 2 * (j * (2 ^ (p - q).toNat : ℕ)) := by rw [hj]; ring
      omega
    exact_mod_cast this
  · refine ⟨_, h2, ?_, by linarith⟩
    rw [two_zpow_toNat hpq, ← mul_assoc] at hab ⊢
    rw [mul_lt_mul_iff_left₀ hp] at hab ⊢
    have hlt : k * (2 ^ (q - p).toNat : ℕ) < l := by exact_mod_cast hab
    have : k * (2 ^ (q - p).toNat : ℕ) < l - 1 := by
      have : k * (2 ^ (q - p).toNat : ℕ) = 2 * (i * (2 ^ (q - p).toNat : ℕ)) := by rw [hi]; ring
      omega
    exact_mod_cast this

/-- The two points that a tie stands between are not both even: a third one would be nearer. -/
theorem not_both_nearest {f : Fmt} {x a b : ℚ} (hab : a < b) (ha : f.evenPoint false a) (hb : f.evenPoint false b) (heq : |x - a| = |x - b|)
    (hmin : ∀ w, f.onGrid false w → |x - a| ≤ |x - w|) : False := by
  obtain ⟨w, hw, haw, hwb⟩ := between_evenPoints ha hb hab
  have hmid : x - a = b - x := by
    rcases abs_eq_abs.1 heq with h | h <;> linarith
  have := hmin w hw
  rw [abs_of_nonneg (by linarith : 0 ≤ x - a)] at this
  rcases abs_cases (x - w) with ⟨h, -⟩ | ⟨h, -⟩ <;> linarith

theorem roundsTo_unique {f : Fmt} {rm : RMode} {x y z : ℚ} (hfree : 1 ≤ f.t ∨ rm ≠ .rne) (hy : f.roundsTo false rm x y)
    (hz : f.roundsTo false rm x z) : y = z := by
  obtain ⟨hyg, hy⟩ := hy
  obtain ⟨hzg, hz⟩ := hz
  cases rm with
  | rne =>
    have ht : 1 ≤ f.t := hfree.resolve_right (by simp)
    have heq : |x - y| = |x - z| := le_antisymm (hy z hzg).1 (hz y hyg).1
    by_contra hne
    have hye := (hy z hzg).2 (Ne.symm hne) heq ht
    have hze := (hz y hyg).2 hne heq.symm ht
    rcases lt_or_gt_of_ne hne with h | h
    · exact not_both_nearest h hye hze heq fun w hw => (hy w hw).1
    · exact not_both_nearest h hze hye heq.symm fun w hw => (hz w hw).1
  | rz =>
    obtain ⟨hy1, hy2, hy3⟩ := hy
    obtain ⟨hz1, hz2, hz3⟩ := hz
    have habs : |y| = |z| := le_antisymm (hz3 y hyg hy1) (hy3 z hzg hz1)
    rcases abs_eq_abs.1 habs with h | h
    · exact h
    · have hx0 : x * z = 0 := le_antisymm (by rw [h] at hy2; linarith) hz2
      rcases mul_eq_zero.1 hx0 with h0 | h0
      · rw [h0, abs_zero] at hz1
        rw [h, abs_nonpos_iff.1 hz1, neg_zero]
      · rw [h, h0, neg_zero]
  | rd => exact le_antisymm (hz.2 y hyg hy.1) (hy.2 z hzg hz.1)
  | ru => exact le_antisymm (hy.2 z hzg hz.1) (hz.2 y hyg hy.1)

end Sys2Proof.Machine
end

section
/-!
The floating-point formats (R30 to R36): the value of a code, and that rounding delivers the code of the chosen grid point with the
flags of R41.
-/
namespace Sys2Proof.Machine

/-! ## The list of the formats -/

/-- The floating-point formats of R28. -/
def floatFmts : List Fmt := ((List.range 64).filterMap fmtOfCode).filter Fmt.isFloat

theorem fmtOfCode_lt {c : Nat} {f : Fmt} (h : fmtOfCode c = some f) : c < 64 := by
  by_contra hc
  rw [fmtOfCode, if_neg (by omega)] at h
  · cases h
  all_goals omega

theorem mem_floatFmts {f : Fmt} (h : floatFmt f) : f ∈ floatFmts := by
  obtain ⟨hf, c, hc⟩ := h
  exact List.mem_filter.2 ⟨List.mem_filterMap.2 ⟨c, List.mem_range.2 (fmtOfCode_lt hc), hc⟩, hf⟩

theorem floatFmt_fp32 : floatFmt fmtFP32 := ⟨rfl, 0x23, rfl⟩

/-- The greatest magnitude code that is not a NaN's. -/
def Fmt.topCode (f : Fmt) : Nat := if f.hasInf then f.infCode else f.maxCode

/-- What the tables of R30 to R36 give for every floating-point format: where the NaN, the infinity and the greatest finite value stand
among the magnitude codes. -/
structure Fmt.Codes (f : Fmt) : Prop where
  notInt : f.isInt = false
  widthPos : 0 < f.width
  codeLt : f.code < 0x24
  eminLow : -149 ≤ f.emin
  ieee : f.cls = .ieee → f.signed = true ∧ f.hasInf = true ∧ f.infCode < f.nan ∧ f.nan < 2 ^ (f.width - 1)
  notSmall : f.cls ≠ .small → f.cls = .ieee
  maxLt : f.maxCode < 2 ^ f.magBits
  maxInf : f.hasInf = true → f.maxCode + 1 = f.infCode
  smallSigned : f.cls = .small → f.signed = true →
    f.nan = 2 ^ (f.width - 1) ∧ f.topCode + 1 = 2 ^ (f.width - 1)
  smallUnsigned : f.signed = false → f.nan + 1 = 2 ^ f.width ∧ f.topCode + 1 = f.nan
  exponents : 2 ^ f.magBits ≤ 256 * 2 ^ f.t ∧ (f.maxCode / 2 ^ f.t : ℕ) + f.emin + f.t ≤ 129

theorem codes_of_mem {f : Fmt} (h : f ∈ floatFmts) : f.Codes where
  notInt := by revert f; decide +kernel
  widthPos := by revert f; decide +kernel
  codeLt := by revert f; decide +kernel
  eminLow := by revert f; decide +kernel
  ieee := by revert f; decide +kernel
  notSmall := by revert f; decide +kernel
  maxLt := by revert f; decide +kernel
  maxInf := by revert f; decide +kernel
  smallSigned := by revert f; decide +kernel
  smallUnsigned := by revert f; decide +kernel
  exponents := by revert f; decide +kernel

theorem floatFmt.codes {f : Fmt} (h : floatFmt f) : f.Codes := codes_of_mem (mem_floatFmts h)

theorem Fmt.Codes.max_le_top {f : Fmt} (h : f.Codes) : f.maxCode ≤ f.topCode := by
  rw [Fmt.topCode]
  split
  next hi => have := h.maxInf hi; omega
  next => exact le_rfl

/-! ## The value of a magnitude code -/

/-- The value of a magnitude code as a rational. -/
def Fmt.magReal (f : Fmt) (c : Nat) : ℚ :=
  if c / 2 ^ f.t = 0 then (c % 2 ^ f.t : ℕ) * 2 ^ f.emin else ((2 ^ f.t + c % 2 ^ f.t : ℕ) : ℚ) * 2 ^ (f.emin + (c / 2 ^ f.t - 1 : ℕ))

theorem magValue_fin (f : Fmt) (neg : Bool) (c : Nat) :
    ∃ m e, f.magValue neg c = .fin neg m e ∧ (f.magValue neg c).real = signOf neg * f.magReal c
      ∧ m < 2 ^ (f.t + 1) ∧ f.emin ≤ e ∧ e ≤ f.emin + (c / 2 ^ f.t : ℕ) := by
  have hlt : c % 2 ^ f.t < 2 ^ f.t := Nat.mod_lt _ (by positivity)
  rw [pow_succ, Fmt.magReal, Fmt.magValue, Nat.shiftRight_eq_div_pow]
  generalize c / 2 ^ f.t = k
  split
  next h => exact ⟨_, _, rfl, real_fin _ _ _, by omega, by omega, by omega⟩
  next h => exact ⟨_, _, rfl, real_fin _ _ _, by omega, by omega, by omega⟩

/-- Every magnitude code is an exponent part and a significand; the significand may carry. -/
theorem magReal_code (f : Fmt) {k r : Nat} (hr : r ≤ 2 ^ (f.t + 1)) (hk : 2 ^ f.t ≤ r ∨ k = 0) :
    f.magReal (k * 2 ^ f.t + r) = r * 2 ^ (f.emin + k) := by
  have hpos : 0 < 2 ^ f.t := by positivity
  rw [pow_succ] at hr
  have hdiv : (k * 2 ^ f.t + r) / 2 ^ f.t = k + r / 2 ^ f.t := by rw [Nat.add_comm, Nat.add_mul_div_right _ _ hpos, Nat.add_comm]
  have hmod : (k * 2 ^ f.t + r) % 2 ^ f.t = r % 2 ^ f.t := by simp [Nat.add_mod]
  rw [Fmt.magReal, hdiv, hmod]
  rcases lt_or_ge r (2 ^ f.t) with h1 | h1
  · obtain rfl : k = 0 := hk.resolve_left (by omega)
    simp [Nat.div_eq_of_lt h1, Nat.mod_eq_of_lt h1]
  rcases hr.lt_or_eq with h2 | h2
  · have hq : r / 2 ^ f.t = 1 := Nat.div_eq_of_lt_le (by omega) (by omega)
    have hm : r % 2 ^ f.t = r - 2 ^ f.t := by rw [Nat.mod_eq_sub_mod h1, Nat.mod_eq_of_lt (by omega)]
    rw [hq, hm, if_neg (by omega), Nat.add_sub_cancel' h1, Nat.add_sub_cancel]
  · have hq : r / 2 ^ f.t = 2 := by rw [h2, Nat.mul_div_cancel_left _ hpos]
    have hm : r % 2 ^ f.t = 0 := by rw [h2]; exact Nat.mul_mod_right _ _
    rw [hq, hm, if_neg (by omega), h2]
    push_cast
    rw [show f.emin + ((k : ℤ) + 1) = f.emin + k + 1 by ring, two_zpow_add _ 1]
    ring

theorem magCode_split (f : Fmt) (c : Nat) : ∃ k r, c = k * 2 ^ f.t + r ∧ r < 2 ^ (f.t + 1) ∧ (2 ^ f.t ≤ r ∨ k = 0) := by
  have hlt : c % 2 ^ f.t < 2 ^ f.t := Nat.mod_lt _ (by positivity)
  have hc := Nat.div_add_mod' c (2 ^ f.t)
  rw [pow_succ]
  rcases Nat.eq_zero_or_pos (c / 2 ^ f.t) with h | h
  · exact ⟨0, c % 2 ^ f.t, by rw [h] at hc; omega, by omega, .inr rfl⟩
  · obtain ⟨k, hk⟩ := Nat.exists_eq_add_of_le h
    refine ⟨k, 2 ^ f.t + c % 2 ^ f.t, ?_, by omega, .inl (by omega)⟩
    rw [hk] at hc
    linarith

/-- Greater codes have greater values. -/
theorem magReal_strictMono (f : Fmt) : StrictMono f.magReal := by
  refine strictMono_nat_of_lt_succ fun c => ?_
  obtain ⟨k, r, rfl, hr, hk⟩ := magCode_split f c
  rw [add_assoc, magReal_code f hr.le hk, magReal_code f (r := r + 1) (by omega) (by omega)]
  exact mul_lt_mul_of_pos_right (by push_cast; linarith) (two_zpow_pos _)

theorem magReal_nonneg (f : Fmt) (c : Nat) : 0 ≤ f.magReal c := by
  obtain ⟨k, r, rfl, hr, hk⟩ := magCode_split f c
  rw [magReal_code f hr.le hk]
  exact mul_nonneg (Nat.cast_nonneg _) (two_zpow_pos _).le

theorem magReal_lt (f : Fmt) (c : Nat) : f.magReal c < 2 ^ ((c / 2 ^ f.t : ℕ) + f.emin + f.t) := by
  have hpos : 0 < 2 ^ f.t := by positivity
  have hlt : c < (c / 2 ^ f.t) * 2 ^ f.t + 2 ^ f.t := by
    have := Nat.mod_lt c hpos
    have := Nat.div_add_mod' c (2 ^ f.t)
    omega
  refine (magReal_strictMono f hlt).trans_le ?_
  rw [magReal_code f (by rw [pow_succ]; omega) (.inl le_rfl)]
  push_cast
  rw [← two_zpow_natCast, ← two_zpow_add]
  exact two_zpow_le (by omega)

/-! ## The value of a code -/

theorem testBit_top {w c : Nat} (hw : 0 < w) (hc : c < 2 ^ w) : c.testBit (w - 1) = decide (2 ^ (w - 1) ≤ c) := by
  obtain ⟨v, rfl⟩ : ∃ v, w = v + 1 := ⟨w - 1, by omega⟩
  rw [Nat.add_sub_cancel, Nat.testBit_eq_decide_div_mod_eq, decide_eq_decide]
  rw [pow_succ] at hc
  have hpos : 0 < 2 ^ v := by positivity
  rcases lt_or_ge c (2 ^ v) with h | h
  · simp [Nat.div_eq_of_lt h, h]
  · simp [Nat.div_eq_of_lt_le (show 1 * 2 ^ v ≤ c by omega) (by omega), h]

/-- The sign of a code and its magnitude code. -/
def Fmt.codeNeg (f : Fmt) (c : Nat) : Bool := f.signed && decide (2 ^ (f.width - 1) ≤ c)
def Fmt.codeMag (f : Fmt) (c : Nat) : Nat := if f.signed then c % 2 ^ (f.width - 1) else c

theorem value_eq {f : Fmt} (h : floatFmt f) {c : Nat} (hc : c < 2 ^ f.width) :
    f.value c = if c = f.nan ∨ (f.cls = .ieee ∧ f.infCode < f.codeMag c) then .nan
      else if f.hasInf = true ∧ f.codeMag c = f.infCode then .inf (f.codeNeg c) else f.magValue (f.codeNeg c) (f.codeMag c) := by
  have hk := h.codes
  have hm : c % 2 ^ f.magBits = f.codeMag c := by
    rw [Fmt.magBits, Fmt.codeMag]
    split
    · rfl
    · exact Nat.mod_eq_of_lt hc
  have hn : (f.signed && c.testBit (f.width - 1)) = f.codeNeg c := by rw [testBit_top hk.widthPos hc]; rfl
  by_cases hsmall : f.cls = .small
  · simp only [Fmt.value, hsmall, hm, hn, Bool.and_eq_true, decide_eq_true_eq, reduceCtorEq, false_and, or_false]
  · have hi := hk.notSmall hsmall
    obtain ⟨hs, hinf, hnan, hlt⟩ := hk.ieee hi
    have hn : c.testBit (f.width - 1) = f.codeNeg c := by rw [← hn, hs, Bool.true_and]
    have hiff : (c = f.nan ∨ (f.cls = .ieee ∧ f.infCode < f.codeMag c)) ↔ f.codeMag c > f.infCode := by
      refine ⟨fun hor => hor.elim (fun hcn => ?_) And.right, fun hgt => .inr ⟨hi, hgt⟩⟩
      rw [hcn, Fmt.codeMag, if_pos hs, Nat.mod_eq_of_lt hlt]
      exact hnan
    simp only [hiff, hinf, true_and, Fmt.value]
    simp only [hi, hm, hn]

/-- A magnitude code up to the greatest finite one, with a sign that the format has for it. -/
theorem value_withSign {f : Fmt} (h : floatFmt f) {neg : Bool} {c : Nat} (hc : c ≤ f.maxCode) (hs : neg = true → f.signed = true)
    (hz : neg = true → c = 0 → f.cls = .ieee) : f.withSign neg c < 2 ^ f.width ∧ f.value (f.withSign neg c) = f.magValue neg c := by
  have hk := h.codes
  have hlt : c < 2 ^ f.magBits := hc.trans_lt hk.maxLt
  have hw : 2 ^ (f.width - 1) + 2 ^ (f.width - 1) = 2 ^ f.width := by
    rw [← two_mul, ← pow_succ', Nat.sub_add_cancel hk.widthPos]
  have hmag : f.signed = true → c < 2 ^ (f.width - 1) := fun hs => by rwa [Fmt.magBits, if_pos hs] at hlt
  have hwidth : f.withSign neg c < 2 ^ f.width := by
    cases neg with
    | true =>
      have := hmag (hs rfl)
      simp only [Fmt.withSign, if_true]
      omega
    | false =>
      refine hlt.trans_le (Nat.pow_le_pow_right (by norm_num) ?_)
      rw [Fmt.magBits]; split <;> omega
  have hcm : f.codeMag (f.withSign neg c) = c := by
    rw [Fmt.codeMag, Fmt.withSign]
    cases hsg : f.signed with
    | true => cases neg <;> simp [Nat.mod_eq_of_lt (hmag hsg)]
    | false =>
      cases neg with
      | true => simp [hs rfl] at hsg
      | false => simp
  have hcn : f.codeNeg (f.withSign neg c) = neg := by
    cases neg with
    | true => simp [Fmt.codeNeg, Fmt.withSign, hs rfl]
    | false =>
      cases hsg : f.signed with
      | true => simp [Fmt.codeNeg, Fmt.withSign, hmag hsg]
      | false => simp [Fmt.codeNeg, hsg]
  have hinf : ¬ (f.hasInf = true ∧ c = f.infCode) := fun ⟨hi, he⟩ => by have := hk.maxInf hi; omega
  have hnan : ¬ (f.withSign neg c = f.nan ∨ (f.cls = .ieee ∧ f.infCode < c)) := by
    by_cases hsmall : f.cls = .small
    · rw [hsmall]
      simp only [reduceCtorEq, false_and, or_false]
      cases hsg : f.signed with
      | true =>
        obtain ⟨hn, -⟩ := hk.smallSigned hsmall hsg
        have := hmag hsg
        cases neg with
        | true =>
          have : c ≠ 0 := fun h0 => by simp [hsmall] at hz; exact hz h0
          simp only [Fmt.withSign, if_true]
          omega
        | false => simp only [Fmt.withSign]; simp; omega
      | false =>
        obtain ⟨-, hn⟩ := hk.smallUnsigned hsg
        cases neg with
        | true => simp [hs rfl] at hsg
        | false =>
          have : c ≤ f.topCode := hc.trans hk.max_le_top
          simp only [Fmt.withSign]; simp; omega
    · obtain ⟨hsg, hi, hin, hnl⟩ := hk.ieee (hk.notSmall hsmall)
      have := hk.maxInf hi
      cases neg <;> simp only [Fmt.withSign] <;> simp <;> omega
  refine ⟨hwidth, ?_⟩
  rw [value_eq h hwidth, hcm, hcn, if_neg hnan, if_neg hinf]

theorem real_maxCode {f : Fmt} (h : floatFmt f) : (f.value f.maxCode).finite = true ∧ (f.value f.maxCode).real = f.magReal f.maxCode := by
  have hv : f.value f.maxCode = f.magValue false f.maxCode := (value_withSign h (neg := false) le_rfl nofun nofun).2
  obtain ⟨m, e, hfin, hreal, -⟩ := magValue_fin f false f.maxCode
  rw [hv, hreal, signOf_false, one_mul]
  exact ⟨by rw [hfin]; rfl, rfl⟩

end Sys2Proof.Machine
end

section
/-!
The one rounding of the model (R40, R41): what it delivers for a finite value is the code of the grid point that the mode chooses, or
the overflow of R41.
-/
namespace Sys2Proof.Machine

/-! ## The value of a code, and the greatest one (R30 to R36) -/

/-- The formula of R30. -/
theorem magReal_formula (f : Fmt) (c : Nat) :
    f.magReal c = if ((c / 2 ^ f.t : ℕ) : ℤ) = 0 then 2 ^ (1 - (f.bias : ℤ)) * (((c % 2 ^ f.t : ℕ) : ℚ) / 2 ^ f.t)
      else 2 ^ (((c / 2 ^ f.t : ℕ) : ℤ) - f.bias) * (1 + ((c % 2 ^ f.t : ℕ) : ℚ) / 2 ^ f.t) := by
  have ht : (2 : ℚ) ^ f.t ≠ 0 := by positivity
  have hemin : (2 : ℚ) ^ (1 - (f.bias : ℤ)) = 2 ^ f.emin * 2 ^ f.t := by
    rw [Fmt.emin, ← two_zpow_natCast f.t, ← two_zpow_add]; congr 1; omega
  rw [Fmt.magReal]
  generalize c / 2 ^ f.t = k
  rcases Nat.eq_zero_or_pos k with rfl | hk
  · simp only [if_true, Nat.cast_zero, hemin]
    field_simp
  · have hexp : (2 : ℚ) ^ ((k : ℤ) - f.bias) = 2 ^ (f.emin + (k - 1 : ℕ)) * 2 ^ f.t := by
      rw [Fmt.emin, ← two_zpow_natCast f.t, ← two_zpow_add]; congr 1; omega
    rw [if_neg hk.ne', if_neg (by exact_mod_cast hk.ne'), hexp]
    push_cast
    field_simp

theorem codeValue_value {f : Fmt} (h : floatFmt f) {c : Nat} (hc : c < 2 ^ f.width) : codeValue f c (f.value c) := by
  have hneg : (f.signed && decide (2 ^ (f.width - 1) ≤ c)) = f.codeNeg c := rfl
  have hmag : (if f.signed then c % 2 ^ (f.width - 1) else c) = f.codeMag c := rfl
  simp only [codeValue, value_eq h hc, hneg, hmag]
  by_cases h1 : c = f.nan ∨ (f.cls = .ieee ∧ f.infCode < f.codeMag c)
  · simp only [if_pos h1]
  by_cases h2 : f.hasInf = true ∧ f.codeMag c = f.infCode
  · simp only [if_neg h1, if_pos h2]
  · simp only [if_neg h1, if_neg h2]
    obtain ⟨m, e, hfin, hreal, -⟩ := magValue_fin f (f.codeNeg c) (f.codeMag c)
    exact ⟨by rw [hfin]; rfl, by rw [hfin]; rfl, by rw [hreal, magReal_formula]; rfl⟩

/-- No finite value exceeds that of the code of maxfin. -/
theorem abs_value_le_max {f : Fmt} (h : floatFmt f) {c : Nat} (hc : c < 2 ^ f.width) (hfin : (f.value c).finite = true) :
    |(f.value c).real| ≤ (f.value f.maxCode).real := by
  have hk := h.codes
  rw [value_eq h hc] at hfin ⊢
  by_cases h1 : c = f.nan ∨ (f.cls = .ieee ∧ f.infCode < f.codeMag c)
  · simp [if_pos h1, Num.finite] at hfin
  by_cases h2 : f.hasInf = true ∧ f.codeMag c = f.infCode
  · simp [if_neg h1, if_pos h2, Num.finite] at hfin
  rw [if_neg h1, if_neg h2]
  obtain ⟨-, -, -, hreal, -⟩ := magValue_fin f (f.codeNeg c) (f.codeMag c)
  rw [hreal, (real_maxCode h).2, abs_signOf_mul, abs_of_nonneg (magReal_nonneg f _)]
  refine (magReal_strictMono f).monotone ?_
  have htop : f.codeMag c ≤ f.topCode := by
    push Not at h1
    by_cases hsmall : f.cls = .small
    · cases hsg : f.signed with
      | true =>
        obtain ⟨-, hn⟩ := hk.smallSigned hsmall hsg
        have : f.codeMag c < 2 ^ (f.width - 1) := by rw [Fmt.codeMag, if_pos hsg]; exact Nat.mod_lt _ (by positivity)
        omega
      | false =>
        obtain ⟨hn, hm⟩ := hk.smallUnsigned hsg
        have : f.codeMag c = c := by rw [Fmt.codeMag, hsg]; simp
        have := h1.1
        omega
    · obtain ⟨-, hi, -⟩ := hk.ieee (hk.notSmall hsmall)
      rw [Fmt.topCode, if_pos hi]
      exact h1.2 (hk.notSmall hsmall)
  rw [Fmt.topCode] at htop
  cases hi : f.hasInf with
  | true =>
    rw [if_pos hi] at htop
    have := hk.maxInf hi
    have : f.codeMag c ≠ f.infCode := fun he => h2 ⟨hi, he⟩
    omega
  | false => simpa [hi] using htop

/-! ## The rounding of a finite value -/

theorem tie_even {f : Fmt} {neg : Bool} {q : ℤ} (ht : 1 ≤ f.t) (n : Nat) : f.tie neg q n = decide (n % 2 = 1) := by
  simp [Fmt.tie, show f.t ≠ 0 by omega]

theorem overflow_eq (f : Fmt) (neg : Bool) (rm : RMode) (sat : Bool) : f.overflow neg rm sat = f.overflowTo neg rm sat := by
  cases sat with
  | true => cases neg <;> simp [Fmt.overflow, Fmt.overflowTo, Fmt.maxfin, Fmt.withSign]
  | false => cases hi : f.hasInf <;> cases neg <;> cases rm <;> simp [Fmt.overflow, Fmt.overflowTo, Fmt.maxfin, Fmt.withSign, hi]

/-- The exponent of the last place of a magnitude, in the bounded and the unbounded range. -/
def Fmt.place (f : Fmt) (m : Nat) (e : ℤ) : ℤ := max ((m.log2 : ℤ) + e - f.t) f.emin

/-- The significand that a finite value is rounded to. -/
def Fmt.significand (f : Fmt) (neg : Bool) (m : Nat) (e : ℤ) (rm : RMode) : Nat :=
  pick rm neg (f.tie neg (f.place m e)) (m * 2 ^ e / 2 ^ f.place m e)

theorem roundFin_eq (f : Fmt) (neg : Bool) (m : Nat) (e : ℤ) (rm : RMode) (sat : Bool) :
    f.roundFin neg m e rm sat =
      let r := f.significand neg m e rm
      let code := (f.place m e - f.emin).toNat * 2 ^ f.t + r
      let inexact := decide ((r : ℚ) * 2 ^ f.place m e ≠ m * 2 ^ e)
      if r ≠ 0 ∧ code > f.maxCode then f.overflow neg rm sat
      else
        let fl := flagIf inexact flagNX ||| flagIf (inexact && f.tiny neg m e rm) flagUF
        if r = 0 then (if f.cls = .ieee && neg then f.withSign true 0 else 0, fl) else (f.withSign neg code, fl) := by
  have hr := roundAt_eq_pick rm neg m e (f.place m e) (f.tie neg (f.place m e))
  simp only [Ne, eq_div_iff (two_zpow_pos (f.place m e)).ne'] at hr
  have hdef : f.roundFin neg m e rm sat =
      let r := roundAt rm neg m e (f.place m e) (f.tie neg (f.place m e))
      let code := (f.place m e - f.emin).toNat * 2 ^ f.t + r.1
      if r.1 ≠ 0 ∧ code > f.maxCode then f.overflow neg rm sat
      else
        let fl := flagIf r.2 flagNX ||| flagIf (r.2 && f.tiny neg m e rm) flagUF
        if r.1 = 0 then (if f.cls = .ieee && neg then f.withSign true 0 else 0, fl) else (f.withSign neg code, fl) := rfl
  rw [hdef, hr]
  rfl

/-- The magnitude code of the rounded value names it. -/
theorem magReal_significand (f : Fmt) {m : Nat} (hm : m ≠ 0) (neg : Bool) (e : ℤ) (rm : RMode) :
    f.magReal ((f.place m e - f.emin).toNat * 2 ^ f.t + f.significand neg m e rm) = f.significand neg m e rm * 2 ^ f.place m e := by
  have hplace := lastPlace_bounded f hm e
  have hx := (magnitude_pos hm e).le
  obtain ⟨hlt, hfull⟩ := hplace.floor hx
  obtain ⟨hlo, hhi⟩ := pick_le rm neg (f.tie neg (f.place m e)) (div_nonneg hx (two_zpow_pos (f.place m e)).le)
  have hlow : f.emin ≤ f.place m e := le_max_right _ _
  rw [Fmt.significand, magReal_code f (hhi.trans hlt) (hfull.imp (fun h => h.trans hlo) fun h => ?_)]
  · rw [Int.toNat_of_nonneg (by omega), add_sub_cancel]
  · have : f.place m e = f.emin := h.2
    omega

theorem roundsTo_significand (f : Fmt) {m : Nat} (hm : m ≠ 0) (neg : Bool) (e : ℤ) (rm : RMode) :
    f.roundsTo true rm (signOf neg * (m * 2 ^ e)) (signOf neg * (f.significand neg m e rm * 2 ^ f.place m e)) :=
  roundsTo_pick rm neg (lastPlace_bounded f hm e) (magnitude_pos hm e).le fun ht n => tie_even ht n

/-- In nearest mode the sign does not matter. -/
theorem roundsTo_significand_rne (f : Fmt) {m : Nat} (hm : m ≠ 0) (neg : Bool) (e : ℤ) :
    f.roundsTo true .rne (m * 2 ^ e) (f.significand neg m e .rne * 2 ^ f.place m e) := by
  have h : f.significand neg m e .rne = pick .rne false (f.tie neg (f.place m e)) (m * 2 ^ e / 2 ^ f.place m e) := by
    cases neg <;> rfl
  rw [h]
  exact roundsTo_pick_pos .rne (lastPlace_bounded f hm e) (magnitude_pos hm e).le fun ht n => tie_even ht n

/-! ## Tininess (R41) -/

/-- The model's test for tininess is the test on the value rounded with an unbounded exponent. -/
theorem tiny_iff (f : Fmt) {m : Nat} (hm : m ≠ 0) (neg : Bool) (e : ℤ) (rm : RMode) :
    let q := (m.log2 : ℤ) + e - f.t
    f.tiny neg m e rm = true ↔ (pick rm neg (f.tie neg q) (m * 2 ^ e / 2 ^ q) : ℚ) * 2 ^ q < 2 ^ (f.emin + f.t) := by
  intro q
  have hx := (magnitude_pos hm e).le
  have hfloor := (lastPlace_unbounded f hm e).floor hx
  obtain ⟨hlo, hhi⟩ := pick_le rm neg (f.tie neg q) (div_nonneg hx (two_zpow_pos q).le)
  have hdef :
      f.tiny neg m e rm = (decide (q < f.emin) && (decide (q + 1 < f.emin) || decide ((roundAt rm neg m e q (f.tie neg q)).1 < 2 ^ (f.t + 1)))) := by
    rw [roundAt, apply_ite Prod.fst]; rfl
  rw [hdef, roundAt_eq_pick]
  have hfull : 2 ^ f.t ≤ ⌊(m : ℚ) * 2 ^ e / 2 ^ q⌋₊ := hfloor.2.resolve_right (by simp)
  have hlt : ⌊(m : ℚ) * 2 ^ e / 2 ^ q⌋₊ < 2 ^ (f.t + 1) := hfloor.1
  generalize pick rm neg (f.tie neg q) (m * 2 ^ e / 2 ^ q) = r at hlo hhi ⊢
  have hr1 : ((2 ^ f.t : ℕ) : ℚ) ≤ r := Nat.cast_le.2 (hfull.trans hlo)
  have hr2 : (r : ℚ) ≤ ((2 ^ (f.t + 1) : ℕ) : ℚ) := Nat.cast_le.2 (by omega)
  push_cast at hr1 hr2
  have hq := two_zpow_pos q
  simp only [Bool.and_eq_true, Bool.or_eq_true, decide_eq_true_eq]
  rcases lt_trichotomy (q + 1) f.emin with h | h | h
  · refine iff_of_true ⟨by omega, .inl h⟩ ((mul_le_mul_of_nonneg_right hr2 hq.le).trans_lt ?_)
    rw [← two_zpow_natCast, ← two_zpow_add, two_zpow_lt_iff]
    push_cast; omega
  · have hsplit : (2 : ℚ) ^ (f.emin + f.t) = ((2 ^ (f.t + 1) : ℕ) : ℚ) * 2 ^ q := by
      rw [Nat.cast_pow, Nat.cast_ofNat, ← two_zpow_natCast, ← two_zpow_add, ← h]; congr 1; push_cast; ring
    rw [hsplit, mul_lt_mul_iff_left₀ hq, Nat.cast_lt]
    exact ⟨fun hc => hc.2.resolve_left (by omega), fun hc => ⟨by omega, .inr hc⟩⟩
  · refine iff_of_false (fun hc => by omega) (not_lt.2 (le_trans ?_ (mul_le_mul_of_nonneg_right hr1 hq.le)))
    rw [← two_zpow_natCast, ← two_zpow_add]
    exact two_zpow_le (by omega)

theorem isTiny_iff (f : Fmt) {m : Nat} (hm : m ≠ 0) (neg : Bool) (e : ℤ) {rm : RMode} (hfree : 1 ≤ f.t ∨ rm ≠ .rne) :
    f.isTiny rm (signOf neg * (m * 2 ^ e)) ↔ f.tiny neg m e rm = true := by
  have hround := roundsTo_pick rm neg (tie := f.tie neg ((m.log2 : ℤ) + e - f.t)) (lastPlace_unbounded f hm e) (magnitude_pos hm e).le
    fun ht n => tie_even ht n
  have habs : ∀ r q, |signOf neg * (((r : ℕ) : ℚ) * 2 ^ (q : ℤ))| = r * 2 ^ q := fun r q => by
    rw [abs_signOf_mul, abs_of_nonneg (mul_nonneg (Nat.cast_nonneg r) (two_zpow_pos q).le)]
  have htiny := tiny_iff f hm neg e rm
  dsimp only at htiny
  rw [htiny, ← habs (pick rm neg _ _)]
  refine ⟨fun ⟨u, hu, hlt⟩ => ?_, fun hlt => ⟨_, hround, hlt⟩⟩
  rwa [← roundsTo_unique hfree hu hround]

/-! ## Delivery (R40) -/

theorem withSign_true_zero (f : Fmt) : f.withSign true 0 = 2 ^ (f.width - 1) := by simp [Fmt.withSign]

/-- A code of the right value, with the flags of an inexact and tiny result, stands for the rounded value. -/
theorem stands_of_value {f : Fmt} {rm : RMode} {x y : ℚ} {c : Nat} {inexact tiny : Bool} (hlt : c < 2 ^ f.width)
    (hval : ∃ m e, f.value c = .fin (decide (y < 0 ∨ (y = 0 ∧ x < 0 ∧ f.cls = .ieee))) m e ∧ (f.value c).real = y)
    (hinexact : inexact = true ↔ y ≠ x) (htiny : 1 ≤ f.t ∨ rm ≠ .rne → (f.isTiny rm x ↔ tiny = true)) :
    f.stands rm x y (c, flagIf inexact flagNX ||| flagIf (inexact && tiny) flagUF) := by
  refine ⟨hlt, hval, fun heq => ?_, fun hne => ?_⟩
  · obtain rfl : inexact = false := by simpa [heq] using hinexact
    simp [flagIf]
  · obtain rfl : inexact = true := hinexact.2 hne
    refine ⟨?_, fun hfree => ?_⟩
    · cases tiny
      · exact .inl rfl
      · exact .inr rfl
    · rw [htiny hfree]
      cases tiny <;> simp [flagIf, flagNX, flagUF]

/-- The code of a zero result: −0 where the format has it and the value was negative (R40). -/
theorem value_zero {f : Fmt} (h : floatFmt f) (neg : Bool) :
    let c := if f.cls = .ieee && neg then f.withSign true 0 else 0
    c < 2 ^ f.width ∧ ∃ m e, f.value c = .fin (decide (f.cls = .ieee ∧ neg = true)) m e ∧ (f.value c).real = 0 := by
  have hside : ∀ b : Bool, (b = true → f.cls = .ieee) →
      f.withSign b 0 < 2 ^ f.width ∧ ∃ m e, f.value (f.withSign b 0) = .fin b m e ∧ (f.value (f.withSign b 0)).real = 0 := fun b hb => by
    obtain ⟨hlt, hv⟩ := value_withSign h (neg := b) (c := 0) (Nat.zero_le _) (fun hn => (h.codes.ieee (hb hn)).1) fun hn _ => hb hn
    obtain ⟨m, e, hfin, hval, -⟩ := magValue_fin f b 0
    exact ⟨hlt, m, e, hv.trans hfin, by rw [hv, hval]; simp [Fmt.magReal]⟩
  intro c
  by_cases hi : f.cls = .ieee ∧ neg = true
  · simpa only [c, hi, decide_true, Bool.and_self, if_true, and_self] using hside true fun _ => hi.1
  · have hc : c = f.withSign false 0 := if_neg (by simpa using hi)
    rw [hc, decide_eq_false hi]
    exact hside false nofun

section
variable {f : Fmt} (h : floatFmt f) {neg : Bool} {m : Nat} (hm : m ≠ 0) (e : ℤ) (rm : RMode) (sat : Bool)
include h hm

/-- Rounding overflows where the chosen point exceeds the greatest finite value. -/
theorem roundFin_over (hover : (f.value f.maxCode).real < f.significand neg m e rm * 2 ^ f.place m e) :
    f.roundFin neg m e rm sat = f.overflowTo neg rm sat := by
  rw [(real_maxCode h).2, ← magReal_significand f hm, (magReal_strictMono f).lt_iff_lt] at hover
  have hne : f.significand neg m e rm ≠ 0 := fun h0 => by
    have hzero : f.magReal ((f.place m e - f.emin).toNat * 2 ^ f.t + f.significand neg m e rm) = f.magReal 0 := by
      rw [magReal_significand f hm, h0]; simp [Fmt.magReal]
    have := (magReal_strictMono f).injective hzero
    omega
  rw [roundFin_eq, if_pos ⟨hne, hover⟩, overflow_eq]

/-- Elsewhere it gives the code of the chosen point, with the flags of R41. -/
theorem roundFin_fits (hs : neg = true → f.signed = true)
    (hfits : (f.significand neg m e rm : ℚ) * 2 ^ f.place m e ≤ (f.value f.maxCode).real) :
    let inexact := decide ((f.significand neg m e rm : ℚ) * 2 ^ f.place m e ≠ m * 2 ^ e)
    ∃ c, f.roundFin neg m e rm sat = (c, flagIf inexact flagNX ||| flagIf (inexact && f.tiny neg m e rm) flagUF) ∧ c < 2 ^ f.width
      ∧ ∃ m' e', f.value c = .fin (neg && decide (f.significand neg m e rm ≠ 0 ∨ f.cls = .ieee)) m' e'
        ∧ (f.value c).real = signOf neg * (f.significand neg m e rm * 2 ^ f.place m e) := by
  have hcode := magReal_significand f hm neg e rm
  rw [(real_maxCode h).2, ← hcode, (magReal_strictMono f).le_iff_le] at hfits
  rw [roundFin_eq, if_neg (by omega)]
  dsimp only
  generalize f.significand neg m e rm = r at *
  generalize (f.place m e - f.emin).toNat * 2 ^ f.t + r = code at *
  rcases eq_or_ne r 0 with h0 | h0
  · obtain ⟨hlt, m', e', hfin, hval⟩ := value_zero h neg
    rw [if_pos h0]
    refine ⟨_, rfl, hlt, m', e', ?_, by rw [hval, h0]; simp⟩
    rw [hfin, h0]
    cases neg <;> simp
  · have hne : code ≠ 0 := fun hz => by
      rw [hz, Fmt.magReal] at hcode
      simp [h0, (two_zpow_pos (f.place m e)).ne'] at hcode
    obtain ⟨hlt, hv⟩ := value_withSign h hfits hs fun _ hz => absurd hz hne
    obtain ⟨m', e', hfin, hval, -⟩ := magValue_fin f neg code
    rw [if_neg h0]
    exact ⟨_, rfl, hlt, m', e', by rw [hv, hfin]; simp [h0], by rw [hv, hval, hcode]⟩

/-- A finite value that is not 0, of a sign that the format has, is rounded once or overflows. -/
theorem roundFin_rounded (hs : neg = true → f.signed = true) : f.roundedTo rm sat (Num.fin neg m e).real (f.roundFin neg m e rm sat) := by
  have hreal := real_fin neg m e
  have hneg : (Num.fin neg m e).real < 0 ↔ neg = true := by rw [hreal]; exact signOf_mul_neg_iff (magnitude_pos hm e)
  have hnn : (0 : ℚ) ≤ f.significand neg m e rm * 2 ^ f.place m e := mul_nonneg (Nat.cast_nonneg _) (two_zpow_pos _).le
  refine ⟨signOf neg * (f.significand neg m e rm * 2 ^ f.place m e), hreal ▸ roundsTo_significand f hm neg e rm, ?_, ?_⟩
  · rw [abs_signOf_mul, abs_of_nonneg hnn, show decide ((Num.fin neg m e).real < 0) = neg by simp [hneg]]
    exact roundFin_over h hm e rm sat
  · rw [abs_signOf_mul, abs_of_nonneg hnn]
    intro hfits
    obtain ⟨c, hc, hlt, m', e', hfin, hval⟩ := roundFin_fits h hm e rm sat hs hfits
    rw [hc]
    refine stands_of_value hlt ⟨m', e', ?_, hval⟩ ?_ fun hfree => by rw [hreal]; exact isTiny_iff f hm neg e hfree
    · rw [hfin]
      congr 1
      rcases eq_or_ne (f.significand neg m e rm) 0 with h0 | h0
      · cases neg <;> simp [h0, hneg]
      · have hpos := magnitude_pos h0 (f.place m e)
        simp [h0, signOf_mul_neg_iff hpos, mul_ne_zero (signOf_ne_zero neg) hpos.ne']
    · rw [hreal, decide_eq_true_iff, Ne, Ne, mul_right_inj' (signOf_ne_zero neg)]

end

/-- R40: rounding delivers an exact value into a format. -/
theorem roundFloat_lands {f : Fmt} (h : floatFmt f) (x : Num) (rm : RMode) (sat : Bool) : f.lands rm sat x (f.roundFloat x rm sat) := by
  cases x with
  | nan => rfl
  | inf neg =>
    simp only [Fmt.lands, Fmt.roundFloat, overflow_eq]
    congr 2
    cases neg <;> simp [Fmt.withSign]
  | fin neg m e =>
    simp only [Fmt.lands, Fmt.roundFloat]
    split
    · rw [withSign_true_zero]
    split
    · rfl
    next hs => exact roundFin_rounded h ‹_› e rm sat (fun hn => by simpa [hn] using hs)

/-- Every finite number is delivered as its value, with its own sign where it is 0. -/
theorem landsAs_roundFloat {f : Fmt} (h : floatFmt f) (rm : RMode) (sat : Bool) {n : Bool} {m : Nat} {e : ℤ} {v : ℚ} {zneg : Bool}
    (hv : (Num.fin n m e).real = v) (hz : v = 0 → n = zneg) : f.landsAs rm sat v zneg (f.roundFloat (.fin n m e) rm sat) :=
  ⟨n, m, e, hv, hz, roundFloat_lands h _ rm sat⟩

end Sys2Proof.Machine
end

section
/-!
Vector elements (R398, R402, R405, R406, R46, R47): each is an exact operation on numbers whose result is delivered by one rounding.
-/
namespace Sys2Proof.Machine

/-! ## Exact operations as rationals -/

theorem real_signed (n : Bool) (m : Nat) (e : ℤ) : (Num.fin n m e).real = (signed n m : ℚ) * 2 ^ e := by
  rw [real_fin]; cases n <;> simp [signed]

theorem signed_eq_zero {n : Bool} {m : Nat} : signed n m = 0 ↔ m = 0 := by cases n <;> simp [signed]

theorem real_fin_eq_zero {n : Bool} {m : Nat} {e : ℤ} : (Num.fin n m e).real = 0 ↔ m = 0 := by
  rw [real_signed, mul_eq_zero, or_iff_left (two_zpow_pos e).ne', Int.cast_eq_zero, signed_eq_zero]

theorem real_mul_fin (n1 n2 : Bool) (m1 m2 : Nat) (e1 e2 : ℤ) :
    (Num.fin (n1 != n2) (m1 * m2) (e1 + e2)).real = (Num.fin n1 m1 e1).real * (Num.fin n2 m2 e2).real := by
  rw [real_fin, real_fin, real_fin, signOf_ne, two_zpow_add]; push_cast; ring

/-- The rational of an integer at an exponent. -/
def atReal (p : ℤ × ℤ) : ℚ := (p.1 : ℚ) * 2 ^ p.2

theorem atReal_at {u : Num} : atReal u.at = u.real := by
  cases u with
  | fin n m e => exact (real_signed n m e).symm
  | nan => simp [Num.at, Num.real, atReal]
  | inf n => simp [Num.at, Num.real, atReal]

theorem atReal_addAt (n1 e1 n2 e2 : ℤ) : atReal (addAt n1 e1 n2 e2) = atReal (n1, e1) + atReal (n2, e2) := by
  unfold addAt
  by_cases h1 : n1 = 0
  · simp [h1, atReal]
  by_cases h2 : n2 = 0
  · simp [h1, h2, atReal]
  rw [if_neg h1, if_neg h2]
  simp only [atReal]
  push_cast
  rw [two_zpow_toNat (min_le_left e1 e2), two_zpow_toNat (min_le_right e1 e2)]
  push_cast
  ring

theorem atReal_sumAt (l : List (ℤ × ℤ)) : atReal (sumAt l) = (l.map atReal).sum := by
  have h : ∀ a, atReal (l.foldl (fun a t => addAt a.1 a.2 t.1 t.2) a) = atReal a + (l.map atReal).sum := by
    induction l with
    | nil => simp
    | cons t l ih =>
      intro a
      rw [List.foldl_cons, ih, atReal_addAt, List.map_cons, List.sum_cons, add_assoc]
  rw [sumAt, h]
  simp [atReal]

theorem atReal_sumAt_map_at (us : List Num) : atReal (sumAt (us.map Num.at)) = (us.map Num.real).sum := by
  rw [atReal_sumAt, List.map_map]
  congr 1
  exact List.map_congr_left fun u _ => atReal_at

/-- An exact sum is a finite number of the sum's value; an exact 0 has the given sign. -/
theorem ofInt_fin (n e : ℤ) (zneg : Bool) :
    ∃ b m k, Num.ofInt n e zneg = .fin b m k ∧ (Num.fin b m k).real = atReal (n, e) ∧ (atReal (n, e) = 0 → b = zneg) := by
  rw [Num.ofInt]
  have hn : atReal (n, e) = 0 ↔ n = 0 := by simp [atReal, (two_zpow_pos e).ne']
  split
  next h0 => exact ⟨_, _, _, rfl, by rw [hn.2 h0]; simp [Num.real], fun _ => rfl⟩
  next h0 =>
    refine ⟨_, _, _, rfl, ?_, fun h => absurd (hn.1 h) h0⟩
    rw [real_signed, atReal]
    congr 2
    rw [signed]
    split
    next hneg => have := of_decide_eq_true hneg; omega
    next hpos => have := of_decide_eq_false (Bool.eq_false_of_not_eq_true hpos); omega

theorem landsAs_ofInt {d : Fmt} (h : floatFmt d) (rm : RMode) (sat : Bool) {n e : ℤ} {v : ℚ} {zneg : Bool} (hv : atReal (n, e) = v) :
    d.landsAs rm sat v zneg (d.roundFloat (Num.ofInt n e zneg) rm sat) := by
  obtain ⟨b, m, k, hfin, hreal, hz⟩ := ofInt_fin n e zneg
  rw [hfin]
  exact landsAs_roundFloat h rm sat (hreal.trans hv) fun h0 => hz (hv.trans h0)

/-! ## Order -/

/-- The difference decides the order of two finite values. -/
theorem addAt_neg_iff (n1 e1 n2 e2 : ℤ) : (addAt n1 e1 (-n2) e2).1 < 0 ↔ atReal (n1, e1) < atReal (n2, e2) := by
  have h := atReal_addAt n1 e1 (-n2) e2
  have hneg : atReal (-n2, e2) = -atReal (n2, e2) := by simp [atReal]
  rw [hneg, atReal] at h
  rw [← sub_neg (a := atReal (n1, e1)), sub_eq_add_neg, ← h, mul_neg_iff]
  simp [two_zpow_pos, (two_zpow_pos _).le]

theorem lt_iff_numBelow (u v : Num) : u.lt v = true ↔ numBelow u v := by
  match u, v with
  | .nan, _ => simp [Num.lt, numBelow, numLess, Num.isZero]
  | .inf a, .nan => simp [Num.lt, numBelow, numLess, Num.isZero]
  | .fin _ _ _, .nan => simp [Num.lt, numBelow, numLess, Num.isZero]
  | .inf a, .inf b => simp [Num.lt, numBelow, numLess, Num.isZero]
  | .inf a, .fin _ _ _ => simp [Num.lt, numBelow, numLess, Num.isZero]
  | .fin _ _ _, .inf b => simp [Num.lt, numBelow, numLess, Num.isZero]
  | .fin n1 m1 e1, .fin n2 m2 e2 =>
    simp only [Num.lt, numBelow, numLess, Num.isZero, Num.isNeg, decide_eq_true_eq]
    by_cases h : m1 = 0 ∧ m2 = 0
    · rw [if_pos h, real_fin_eq_zero.2 h.1, real_fin_eq_zero.2 h.2]
      simp [h]
    · rw [if_neg h, decide_eq_true_iff, addAt_neg_iff, real_signed, real_signed]
      refine (or_iff_left fun hz => h ⟨hz.1, hz.2.1⟩).symm

/-- A number's place in the order, an infinity beyond every rational; −0 comes before +0. -/
def Num.rank : Num → ℤ ×ₗ (ℚ ×ₗ Bool)
  | .nan => toLex (0, toLex (0, true))
  | .inf n => toLex (if n then -1 else 1, toLex (0, true))
  | .fin n m e => toLex (0, toLex ((Num.fin n m e).real, decide (¬ (m = 0 ∧ n = true))))

/-- The order with −0 below +0 is that of the ranks. -/
theorem numBelow_iff_rank {u v : Num} (hu : u ≠ .nan) (hv : v ≠ .nan) : numBelow u v ↔ u.rank < v.rank := by
  match u, v with
  | .inf a, .inf b => cases a <;> cases b <;> simp [numBelow, numLess, Num.isZero, Num.rank, Prod.Lex.toLex_lt_toLex]
  | .inf a, .fin _ _ _ => cases a <;> simp [numBelow, numLess, Num.isZero, Num.rank, Prod.Lex.toLex_lt_toLex]
  | .fin _ _ _, .inf b => cases b <;> simp [numBelow, numLess, Num.isZero, Num.rank, Prod.Lex.toLex_lt_toLex]
  | .fin n1 m1 e1, .fin n2 m2 e2 =>
    simp only [numBelow, numLess, Num.isZero, Num.isNeg, decide_eq_true_eq, Num.rank, Prod.Lex.toLex_lt_toLex, lt_irrefl, true_and, false_or]
    refine or_congr_right ?_
    have hbool : ∀ a b : Bool, a < b ↔ a = false ∧ b = true := by decide
    rw [hbool, decide_eq_false_iff_not, decide_eq_true_iff, not_not]
    refine ⟨fun ⟨h1, h2, h3, h4⟩ => ⟨?_, ⟨h1, h3⟩, by simp [h4]⟩, fun ⟨heq, ⟨h1, h3⟩, h2⟩ => ?_⟩
    · rw [real_fin_eq_zero.2 h1, real_fin_eq_zero.2 h2]
    · rw [real_fin_eq_zero.2 h1, eq_comm, real_fin_eq_zero] at heq
      exact ⟨h1, heq, h3, by simpa [heq] using h2⟩

theorem numBelow_ne_nan {u v : Num} (h : numBelow u v) : u ≠ .nan ∧ v ≠ .nan := by
  constructor <;> rintro rfl
  · simp [numBelow, numLess, Num.isZero] at h
  · cases u <;> simp [numBelow, numLess, Num.isZero] at h

theorem numBelow_asymm {u v : Num} (h : numBelow u v) : ¬ numBelow v u := by
  obtain ⟨hu, hv⟩ := numBelow_ne_nan h
  rw [numBelow_iff_rank hv hu]
  exact lt_asymm ((numBelow_iff_rank hu hv).1 h)

/-! ## Sums and products (R42, R47) -/

/-- A number and the flags of its operation, delivered into a format. -/
def delivered (d : Fmt) (rm : RMode) (sat : Bool) (p : Num × Flags) : Nat × Flags :=
  ((d.roundFloat p.1 rm sat).1, p.2 ||| (d.roundFloat p.1 rm sat).2)

@[simp] theorem roundFloat_nan (d : Fmt) (rm : RMode) (sat : Bool) : d.roundFloat .nan rm sat = (d.nan, 0#5) := rfl

@[simp] theorem delivered_exact (d : Fmt) (rm : RMode) (sat : Bool) (x : Num) : delivered d rm sat (x, 0#5) = d.roundFloat x rm sat := by
  simp [delivered]
@[simp] theorem delivered_nan (d : Fmt) (rm : RMode) (sat : Bool) (fl : Flags) : delivered d rm sat (.nan, fl) = (d.nan, fl) := by
  simp [delivered]

theorem arith_float {d : Fmt} (h : floatFmt d) (fl : RMode → Num → Num → Num → Num × Flags) (int : ℤ → ℤ → ℤ) (a b : Fmt) (rm : RMode)
    (sat : Bool) (x y z : Nat) : arith fl int a b d rm sat x y z = delivered d rm sat (fl rm (a.value x) (b.value y) (d.value z)) := by
  simp [arith, h.codes.notInt, delivered]

section
variable {d : Fmt} (h : floatFmt d) (rm : RMode) (sat : Bool)
include h

/-- The finite case of a sum: its value is exact, and its sign at 0 is that of R47. -/
theorem add_fin_landsAs (n1 n2 : Bool) (m1 m2 : Nat) (e1 e2 : ℤ) :
    d.landsAs rm sat ((Num.fin n1 m1 e1).real + (Num.fin n2 m2 e2).real) (if m1 = 0 ∧ m2 = 0 ∧ n1 = n2 then n1 else decide (rm = .rd))
      (delivered d rm sat ((Num.fin n1 m1 e1).add (.fin n2 m2 e2) rm)) := by
  simp only [Num.add, BitVec.ofNat_eq_ofNat, delivered_exact]
  refine landsAs_ofInt h rm sat ?_
  rw [Prod.mk.eta, atReal_addAt, real_signed, real_signed, atReal, atReal]

omit h in
/-- R47 for two finite operands. -/
theorem landsSum_fin {n1 n2 : Bool} {m1 m2 : Nat} {e1 e2 : ℤ} {r : Nat × Flags} :
    d.landsSum rm sat (.fin n1 m1 e1) (.fin n2 m2 e2) r ↔ d.landsAs rm sat ((Num.fin n1 m1 e1).real + (Num.fin n2 m2 e2).real)
      (if m1 = 0 ∧ m2 = 0 ∧ n1 = n2 then n1 else decide (rm = .rd)) r := by
  simp only [Fmt.landsSum, reduceCtorEq, or_self, if_false]
  rw [if_congr (Q := m1 = 0 ∧ m2 = 0 ∧ n1 = n2) _ rfl rfl]
  · rfl
  · rw [Bool.and_eq_true, Bool.and_eq_true, decide_eq_true_eq]
    simp [Num.isZero, Num.isNeg, and_assoc]

theorem add_landsSum (u v : Num) : d.landsSum rm sat u v (delivered d rm sat (u.add v rm)) := by
  match u, v with
  | .nan, _ => simp [Fmt.landsSum, Num.add]
  | .inf a, .nan => simp [Fmt.landsSum, Num.add]
  | .fin _ _ _, .nan => simp [Fmt.landsSum, Num.add]
  | .inf a, .inf b =>
    by_cases hab : a = b
    · simpa [Fmt.landsSum, Num.add, hab] using roundFloat_lands h (.inf b) rm sat
    · simp [Fmt.landsSum, Num.add, hab]
  | .inf a, .fin _ _ _ => simpa [Fmt.landsSum, Num.add] using roundFloat_lands h (.inf a) rm sat
  | .fin _ _ _, .inf b => simpa [Fmt.landsSum, Num.add] using roundFloat_lands h (.inf b) rm sat
  | .fin n1 m1 e1, .fin n2 m2 e2 => exact (landsSum_fin rm sat).2 (add_fin_landsAs h rm sat n1 n2 m1 m2 e1 e2)

omit h in
/-- The flag of a product says whether it is 0 × ∞. -/
theorem mul_flags (u v : Num) : (u.mul v).2 = if badProduct u v then flagNV else 0 := by
  match u, v with
  | .nan, .nan | .nan, .inf _ | .nan, .fin _ _ _ | .inf _, .nan | .fin _ _ _, .nan | .inf _, .inf _ | .fin _ _ _, .fin _ _ _ =>
    simp [Num.mul, badProduct, Num.isZero, Num.isInf]
  | .inf a, .fin _ m _ | .fin _ m _, .inf a =>
    by_cases hm : m = 0 <;> simp [Num.mul, badProduct, Num.isZero, Num.isInf, hm]

omit h in
theorem mul_of_bad {u v : Num} (hb : badProduct u v = true) : u.mul v = (.nan, flagNV) := by
  match u, v with
  | .nan, .nan | .nan, .inf _ | .nan, .fin _ _ _ | .inf _, .nan | .fin _ _ _, .nan | .inf _, .inf _ | .fin _ _ _, .fin _ _ _ =>
    simp [badProduct, Num.isZero, Num.isInf] at hb
  | .inf a, .fin _ m _ | .fin _ m _, .inf a =>
    simp [badProduct, Num.isZero, Num.isInf] at hb
    simp [Num.mul, hb]

omit h in
/-- A product that is valid and not NaN: an infinity of the sign of R42, or the finite product. -/
theorem mul_of_good {u v : Num} (hb : badProduct u v = false) (hu : u ≠ .nan) (hv : v ≠ .nan) :
    u.mul v = if u.isInf || v.isInf then (.inf (u.isNeg != v.isNeg), 0)
        else (.fin (u.isNeg != v.isNeg) (u.at.1.natAbs * v.at.1.natAbs) (u.at.2 + v.at.2), 0) := by
  match u, v with
  | .inf _, .inf _ => simp [Num.mul, Num.isInf, Num.isNeg]
  | .fin n1 _ _, .fin n2 _ _ => cases n1 <;> cases n2 <;> simp [Num.mul, Num.isInf, Num.isNeg, Num.at, signed]
  | .inf a, .fin _ m _ | .fin _ m _, .inf a =>
    have hm : m ≠ 0 := by simpa [badProduct, Num.isZero, Num.isInf] using hb
    simp [Num.mul, Num.isInf, Num.isNeg, hm]

theorem mul_landsProduct (u v : Num) : d.landsProduct rm sat u v (delivered d rm sat (u.mul v)) := by
  rw [Fmt.landsProduct]
  by_cases hn : u = .nan ∨ v = .nan
  · rw [if_pos hn]
    obtain rfl | rfl := hn
    · simp [Num.mul]
    · cases u <;> simp [Num.mul]
  push Not at hn
  rw [if_neg (by simpa using hn)]
  cases hb : badProduct u v with
  | true => simp [mul_of_bad hb]
  | false =>
    rw [if_neg (by simp)]
    match u, v with
    | .fin n1 m1 e1, .fin n2 m2 e2 =>
      simp only [Num.isInf, Num.isNeg, Num.mul, BitVec.ofNat_eq_ofNat, delivered_exact, Bool.or_self]
      exact landsAs_roundFloat h rm sat (real_mul_fin ..) fun _ => rfl
    | .inf _, .inf _ | .inf _, .fin _ _ _ | .fin _ _ _, .inf _ =>
      rw [mul_of_good hb hn.1 hn.2]
      simpa [Num.isInf, Num.isNeg] using roundFloat_lands h (.inf _) rm sat

omit h in
/-- R47 for a finite product and a finite third operand. -/
theorem landsFused_fin {n1 n2 n3 : Bool} {m1 m2 m3 : Nat} {e1 e2 e3 : ℤ} {r : Nat × Flags} :
    d.landsFused rm sat (.fin n1 m1 e1) (.fin n2 m2 e2) (.fin n3 m3 e3) r
      ↔ d.landsSum rm sat (.fin (n1 != n2) (m1 * m2) (e1 + e2)) (.fin n3 m3 e3) r := by
  rw [landsSum_fin, Fmt.landsFused, if_neg (by simp [badProduct, Num.isInf]), if_neg (by simp), if_neg (by simp [Num.isInf]),
    if_neg (by simp [Num.isInf]), real_mul_fin, if_congr (Q := m1 * m2 = 0 ∧ m3 = 0 ∧ (n1 != n2) = n3) _ rfl rfl]
  · rfl
  · rw [Bool.and_eq_true, Bool.and_eq_true, decide_eq_true_eq]
    simp [Num.isZero, Num.isNeg, and_assoc]

omit h in
/-- What a valid product adds up to with a third operand is what R47 asks of the fused result. -/
theorem landsFused_of_sum {u v z : Num} {r : Nat × Flags} (hb : badProduct u v = false) (hr : d.landsSum rm sat (u.mul v).1 z r) :
    d.landsFused rm sat u v z r := by
  by_cases hn : u = .nan ∨ v = .nan
  · have hmul : (u.mul v).1 = .nan := by
      obtain rfl | rfl := hn
      · simp [Num.mul]
      · cases u <;> simp [Num.mul]
    rw [Fmt.landsFused, if_neg (by simp [hb]), if_pos (hn.elim .inl fun hv => .inr (.inl hv))]
    simpa [Fmt.landsSum, hmul] using hr
  by_cases hz : z = .nan
  · rw [Fmt.landsFused, if_neg (by simp [hb]), if_pos (.inr (.inr hz))]
    simpa [Fmt.landsSum, hz] using hr
  push Not at hn
  rw [mul_of_good hb hn.1 hn.2] at hr
  by_cases hi : (u.isInf || v.isInf) = true
  · rw [if_pos hi] at hr
    rw [Fmt.landsFused, if_neg (by simp [hb]), if_neg (by simp [hn, hz]), if_pos hi]
    match z with
    | .inf b =>
      rcases Bool.eq_or_eq_not b (u.isNeg != v.isNeg) with rfl | rfl
      · simpa [Fmt.landsSum] using hr
      · simpa [Fmt.landsSum] using hr
    | .fin _ _ _ => simpa [Fmt.landsSum] using hr
  · rw [if_neg hi] at hr
    match u, v, z with
    | .inf _, _, _ => simp [Num.isInf] at hi
    | .fin _ _ _, .inf _, _ => simp [Num.isInf] at hi
    | .fin n1 m1 e1, .fin n2 m2 e2, .inf b => simpa [Fmt.landsFused, hb, Fmt.landsSum, Num.isInf] using hr
    | .fin n1 m1 e1, .fin n2 m2 e2, .fin n3 m3 e3 =>
      have habs : ∀ (n : Bool) (m : Nat) (e : ℤ), (Num.fin n m e).at.1.natAbs = m := fun n m e => by cases n <;> simp [Num.at, signed]
      rw [habs, habs] at hr
      exact (landsFused_fin rm sat).2 hr

theorem fma_landsFused (u v z : Num) : d.landsFused rm sat u v z (delivered d rm sat (u.fma v z rm)) := by
  cases hb : badProduct u v with
  | true => simp [Fmt.landsFused, Num.fma, mul_of_bad hb, hb]
  | false =>
    have hfma : u.fma v z rm = (u.mul v).1.add z rm := by
      have hfl : 0#5 ≠ flagNV := by decide
      simp [Num.fma, mul_flags, hb, hfl]
    rw [hfma]
    exact landsFused_of_sum rm sat hb (add_landsSum h rm sat _ z)

end

end Sys2Proof.Machine
end

section
/-!
VMIN, VMAX, VABS, VNEG, VCVT, VSCALE, VXEXP, VREDS and VREDM on floating-point elements (R398, R402, R405, R406).
-/
namespace Sys2Proof.Machine

/-! ## Values that are chosen and then rounded only into another format (R47, R402) -/

section
variable {d : Fmt} (h : floatFmt d) (a b : Fmt) (rm : RMode) (sat : Bool) (x y z : Nat)
include h

theorem moveTo_lands (src : Fmt) (u : Num) : d.lands rm (sat && decide (src.code ≠ d.code)) u (moveTo src d rm sat u) := by
  rw [moveTo, Fmt.round, if_neg (by simp [h.codes.notInt])]
  exact roundFloat_lands h u rm _

theorem elemSign_eq (fl : Num → Num) (int : ℤ → ℤ) : elemSign fl int a b d rm sat x y z = moveTo a d rm sat (fl (a.value x)) := by
  simp [elemSign, h.codes.notInt]

theorem elemPick_eq (takeY : Num → Num → Bool) (int : ℤ → ℤ → ℤ) :
    elemPick takeY int a b d rm sat x y z =
      if (b.value y).isNan || (!(a.value x).isNan && !takeY (a.value x) (b.value y)) then moveTo a d rm sat (a.value x)
      else moveTo b d rm sat (b.value y) := by
  simp [elemPick, h.codes.notInt]

end

@[simp] theorem isNan_iff (u : Num) : u.isNan = true ↔ u = .nan := by cases u <;> simp [Num.isNan]

section
variable {d : Fmt} (h : floatFmt d) (a b : Fmt) (rm : RMode) (sat : Bool) (x y z : Nat) (takeY : Num → Num → Bool) (int : ℤ → ℤ → ℤ)
include h

/-- x is chosen. -/
theorem elemPick_x (hx : b.value y = .nan ∨ (a.value x ≠ .nan ∧ takeY (a.value x) (b.value y) = false)) :
    d.lands rm (sat && decide (a.code ≠ d.code)) (a.value x) (elemPick takeY int a b d rm sat x y z) := by
  rw [elemPick_eq h, if_pos (by simpa [← Bool.not_eq_true, isNan_iff] using hx)]
  exact moveTo_lands h rm sat a _

/-- y is chosen. -/
theorem elemPick_y (hv : b.value y ≠ .nan) (hy : a.value x = .nan ∨ takeY (a.value x) (b.value y) = true) :
    d.lands rm (sat && decide (b.code ≠ d.code)) (b.value y) (elemPick takeY int a b d rm sat x y z) := by
  rw [elemPick_eq h, if_neg (by simpa [← Bool.not_eq_true, isNan_iff, hv, imp_iff_not_or] using hy)]
  exact moveTo_lands h rm sat b _

/-- One of the two is chosen. -/
theorem elemPick_either : d.lands rm (sat && decide (a.code ≠ d.code)) (a.value x) (elemPick takeY int a b d rm sat x y z)
    ∨ d.lands rm (sat && decide (b.code ≠ d.code)) (b.value y) (elemPick takeY int a b d rm sat x y z) := by
  rw [elemPick_eq h]
  split
  · exact .inl (moveTo_lands h rm sat a _)
  · exact .inr (moveTo_lands h rm sat b _)

end

theorem lt_eq_false_of_not_below {u v : Num} (h : ¬ numBelow u v) : u.lt v = false := by
  rwa [← Bool.not_eq_true, lt_iff_numBelow]

/-! ## VSCALE (R406) -/

theorem trunc_real (n : Bool) (m : Nat) (e : ℤ) :
    (if 0 ≤ (Num.fin n m e).real then ⌊(Num.fin n m e).real⌋ else ⌈(Num.fin n m e).real⌉) = signed n ⌊(m : ℚ) * 2 ^ e⌋₊ := by
  have hx : (0 : ℚ) ≤ m * 2 ^ e := mul_nonneg (Nat.cast_nonneg m) (two_zpow_pos e).le
  rw [real_fin]
  cases n with
  | false => simp [signed, hx, Int.natCast_floor_eq_floor hx]
  | true =>
    simp only [signOf_true, neg_mul, one_mul, signed, if_true, Int.natCast_floor_eq_floor hx, Int.ceil_neg]
    split
    next h0 => rw [le_antisymm (by linarith) hx]; simp
    next => rfl

/-- The truncation of the model is exact up to a limit beyond which every scaling gives the same result. -/
theorem truncExp_eq (n : Bool) (m : Nat) (e : ℤ) : truncExp n m e = signed n (min ⌊(m : ℚ) * 2 ^ e⌋₊ 4096) := by
  rw [truncExp]
  congr 1
  rcases le_or_gt 0 e with he | he
  · have hfloor : ⌊(m : ℚ) * 2 ^ e⌋₊ = m * 2 ^ e.toNat := by
      rw [two_zpow_toNat he]
      simpa using Nat.floor_natCast (R := ℚ) (m * 2 ^ e.toNat)
    rw [hfloor, if_pos he]
    split
    next hbig =>
      rcases Nat.eq_zero_or_pos m with rfl | hm
      · simp
      · have h1 : 2 ^ 64 ≤ m * 2 ^ 64 := Nat.le_mul_of_pos_left _ hm
        have h2 : m * 2 ^ 64 ≤ m * 2 ^ e.toNat := Nat.mul_le_mul_left _ (Nat.pow_le_pow_right (by norm_num) (by omega))
        omega
    next => rw [Nat.shiftLeft_eq]
  · have hfloor : ⌊(m : ℚ) * 2 ^ e⌋₊ = m >>> (-e).toNat := by
      have : (m : ℚ) * 2 ^ e = (m : ℚ) / ((2 ^ (-e).toNat : ℕ) : ℚ) := by
        have h0 := two_zpow_toNat (a := 0) (b := e) he.le
        rw [zpow_zero, zero_sub] at h0
        rw [eq_div_iff (by positivity), mul_assoc, mul_comm _ ((_ : ℕ) : ℚ), ← h0, mul_one]
      rw [this, Nat.floor_div_eq_div, Nat.shiftRight_eq_div_pow]
    rw [hfloor, if_neg (by omega)]
    split
    next hlow =>
      rw [Nat.shiftRight_eq_div_pow, Nat.div_eq_of_lt]
      exact Nat.lt_log2_self.trans_le (Nat.pow_le_pow_right (by norm_num) hlow)
    next => rfl

/-- A finite value is that of a magnitude code. -/
theorem value_eq_magValue {a : Fmt} (h : floatFmt a) {x : Nat} {n : Bool} {m : Nat} {e : ℤ} (hv : a.value x = .fin n m e) :
    ∃ c, c < 2 ^ a.magBits ∧ (a.cls = .ieee → c < a.infCode) ∧ a.magValue n c = .fin n m e := by
  have hsign : ∀ {neg : Bool} {c : Nat}, a.magValue neg c = .fin n m e → a.magValue n c = .fin n m e := fun {neg c} hmag => by
    obtain ⟨m', e', hfin, -⟩ := magValue_fin a neg c
    rw [hmag] at hfin
    obtain ⟨rfl, -⟩ : n = neg ∧ _ := by simpa using hfin
    exact hmag
  have hlt : x % 2 ^ a.magBits < 2 ^ a.magBits := Nat.mod_lt _ (by positivity)
  by_cases hsmall : a.cls = .small
  · simp only [Fmt.value, hsmall] at hv
    split at hv
    · cases hv
    split at hv
    · cases hv
    exact ⟨_, hlt, fun hi => by simp [hsmall] at hi, hsign hv⟩
  · simp only [Fmt.value, h.codes.notSmall hsmall] at hv
    split at hv
    · cases hv
    split at hv
    · cases hv
    exact ⟨_, hlt, fun _ => by omega, hsign hv⟩

/-- A finite element lies between bounds that hold for every format. -/
theorem value_bounds {a : Fmt} (h : floatFmt a) {x : Nat} {n : Bool} {m : Nat} {e : ℤ} (hv : a.value x = .fin n m e) :
    -149 ≤ e ∧ (m : ℚ) * 2 ^ e < 2 ^ (258 : ℤ) := by
  have hk := h.codes
  obtain ⟨c, hc, -, hmag⟩ := value_eq_magValue h hv
  obtain ⟨m', e', hfin, -, hm, he1, he2⟩ := magValue_fin a n c
  rw [hmag] at hfin
  obtain ⟨rfl, rfl⟩ : m = m' ∧ e = e' := by simpa using hfin
  have hexp : c / 2 ^ a.t < 256 := (Nat.div_lt_iff_lt_mul (by positivity)).2 (hc.trans_le hk.exponents.1)
  have hemin : a.emin = 1 - a.bias - a.t := rfl
  refine ⟨by have := hk.eminLow; omega, ?_⟩
  calc (m : ℚ) * 2 ^ e < ((2 ^ (a.t + 1) : ℕ) : ℚ) * 2 ^ e := mul_lt_mul_of_pos_right (Nat.cast_lt.2 hm) (two_zpow_pos e)
    _ = 2 ^ ((a.t : ℤ) + 1 + e) := by rw [Nat.cast_pow, Nat.cast_ofNat, ← two_zpow_natCast, ← two_zpow_add]; congr 1
    _ ≤ 2 ^ (258 : ℤ) := two_zpow_le (by omega)

/-- Every value from 2^130 on overflows. -/
theorem roundFin_of_large {d : Fmt} (h : floatFmt d) {m : Nat} (hm : m ≠ 0) {e : ℤ} (hlarge : (2 : ℚ) ^ (130 : ℤ) ≤ m * 2 ^ e) (neg : Bool)
    (rm : RMode) (sat : Bool) : d.roundFin neg m e rm sat = d.overflow neg rm sat := by
  have htop : 130 ≤ (m.log2 : ℤ) + e := by
    have := two_zpow_lt_iff.1 (hlarge.trans_lt (magnitude_bounds hm e).2)
    omega
  have hemin : d.emin = 1 - d.bias - d.t := rfl
  have hplace : d.place m e = (m.log2 : ℤ) + e - d.t := max_eq_left (by omega)
  have hsig : 2 ^ d.t ≤ d.significand neg m e rm := by
    have hx := (magnitude_pos hm e).le
    refine (((lastPlace_bounded d hm e).floor hx).2.resolve_right fun hc => ?_).trans (pick_le rm neg _ (div_nonneg hx (two_zpow_pos _).le)).1
    have : d.place m e = d.emin := hc.2
    omega
  have hover : d.maxCode < (d.place m e - d.emin).toNat * 2 ^ d.t + d.significand neg m e rm := by
    refine (magReal_strictMono d).lt_iff_lt.1 ((magReal_lt d _).trans_le ?_)
    rw [magReal_significand d hm]
    calc (2 : ℚ) ^ ((d.maxCode / 2 ^ d.t : ℕ) + d.emin + d.t) ≤ 2 ^ ((d.t : ℤ) + d.place m e) := two_zpow_le (by have := h.codes.exponents.2; omega)
      _ = ((2 ^ d.t : ℕ) : ℚ) * 2 ^ d.place m e := by rw [Nat.cast_pow, Nat.cast_ofNat, ← two_zpow_natCast, ← two_zpow_add]
      _ ≤ d.significand neg m e rm * 2 ^ d.place m e := mul_le_mul_of_nonneg_right (Nat.cast_le.2 hsig) (two_zpow_pos _).le
  rw [roundFin_eq, if_pos ⟨(Nat.lt_of_lt_of_le (by positivity) hsig).ne', hover⟩]

/-- Below the half only a directed mode goes up. -/
theorem up_of_lt_half {rm : RMode} {neg tie : Bool} {z : ℚ} (hz : 2 * z < 1) : rm.up neg tie z = rm.up neg false 0 := by
  cases rm with
  | rne => simp [RMode.up, hz.ne, not_lt.2 hz.le]
  | rz | rd | ru => rfl

/-- The result of a value below half the least step does not depend on the value. -/
theorem roundFin_of_small {d : Fmt} {m : Nat} (hm : m ≠ 0) {e : ℤ} (hsmall : (m : ℚ) * 2 ^ e < 2 ^ (d.emin - 1)) (neg : Bool)
    (rm : RMode) (sat : Bool) :
    d.roundFin neg m e rm sat =
      let r := if rm.up neg false 0 then 1 else 0
      if r ≠ 0 ∧ r > d.maxCode then d.overflow neg rm sat
      else if r = 0 then (if d.cls = .ieee && neg then d.withSign true 0 else 0, flagNX ||| flagUF) else (d.withSign neg r, flagNX ||| flagUF) := by
  have hpos := magnitude_pos hm e
  have htop : (m.log2 : ℤ) + e < d.emin - 1 := two_zpow_lt_iff.1 ((magnitude_bounds hm e).1.trans_lt hsmall)
  have hplace : d.place m e = d.emin := max_eq_right (by omega)
  have hhalf : 2 * ((m : ℚ) * 2 ^ e / 2 ^ d.emin) < 1 := by
    rw [mul_div_assoc', div_lt_one (two_zpow_pos _)]
    rw [show d.emin = (d.emin - 1) + 1 by ring, two_zpow_add]
    linarith
  have hz : 0 < (m : ℚ) * 2 ^ e / 2 ^ d.emin := div_pos hpos (two_zpow_pos _)
  have hfloor : ⌊(m : ℚ) * 2 ^ e / 2 ^ d.emin⌋₊ = 0 := Nat.floor_eq_zero.2 (by linarith)
  have hsig : d.significand neg m e rm = if rm.up neg false 0 then 1 else 0 := by
    rw [Fmt.significand, hplace, pick, hfloor, if_neg (by rw [Nat.cast_zero]; exact hz.ne')]
    simp [up_of_lt_half hhalf]
  have hinexact : decide ((d.significand neg m e rm : ℚ) * 2 ^ d.emin ≠ m * 2 ^ e) = true := by
    rw [decide_eq_true_iff, Ne, ← eq_div_iff (two_zpow_pos d.emin).ne', hsig]
    split
    · push_cast; exact fun hc => by linarith
    · push_cast; exact hz.ne
  have htiny : d.tiny neg m e rm = true := by
    simp only [Fmt.tiny, Bool.and_eq_true, Bool.or_eq_true, decide_eq_true_eq]
    exact ⟨by omega, .inl (by omega)⟩
  rw [hsig] at hinexact
  rw [roundFin_eq, hplace]
  simp only [hsig, hinexact, htiny, sub_self, Int.toNat_zero, zero_mul, zero_add, Bool.and_self, flagIf, if_true]

/-- Scaling by more than the limit delivers what scaling by the limit does. -/
theorem roundFin_scale_limit {a d : Fmt} (ha : floatFmt a) (hd : floatFmt d) {x : Nat} {n : Bool} {m : Nat} {e : ℤ} (hv : a.value x = .fin n m e)
    (hm : m ≠ 0) (neg : Bool) (k : Nat) (rm : RMode) (sat : Bool) :
    d.roundFin n m (e + signed neg (min k 4096)) rm sat = d.roundFin n m (e + signed neg k) rm sat := by
  obtain ⟨hlow, hhigh⟩ := value_bounds ha hv
  rcases le_or_gt k 4096 with hk | hk
  · rw [min_eq_left hk]
  rw [min_eq_right hk.le]
  have hone : (1 : ℚ) ≤ m := by exact_mod_cast Nat.one_le_iff_ne_zero.2 hm
  cases neg with
  | false =>
    have hlarge : ∀ j : ℕ, 4096 ≤ j → (2 : ℚ) ^ (130 : ℤ) ≤ m * 2 ^ (e + signed false j) := fun j hj => by
      have : (2 : ℚ) ^ (130 : ℤ) ≤ 2 ^ (e + signed false j) := two_zpow_le (by simp [signed]; omega)
      exact this.trans (le_mul_of_one_le_left (two_zpow_pos _).le hone)
    rw [roundFin_of_large hd hm (hlarge 4096 le_rfl), roundFin_of_large hd hm (hlarge k hk.le)]
  | true =>
    have hsmall : ∀ j : ℕ, 4096 ≤ j → (m : ℚ) * 2 ^ (e + signed true j) < 2 ^ (d.emin - 1) := fun j hj => by
      rw [two_zpow_add, ← mul_assoc]
      calc (m : ℚ) * 2 ^ e * 2 ^ signed true j < 2 ^ (258 : ℤ) * 2 ^ signed true j := mul_lt_mul_of_pos_right hhigh (two_zpow_pos _)
        _ = 2 ^ (258 + signed true j) := (two_zpow_add _ _).symm
        _ ≤ 2 ^ (d.emin - 1) := two_zpow_le (by have := hd.codes.eminLow; simp [signed]; omega)
    rw [roundFin_of_small hm (hsmall 4096 le_rfl), roundFin_of_small hm (hsmall k hk.le)]

/-- The finite case of VSCALE. -/
theorem scale_landsAs {a d : Fmt} (ha : floatFmt a) (hd : floatFmt d) {x : Nat} {n : Bool} {m : Nat} {e : ℤ} (hv : a.value x = .fin n m e)
    (neg : Bool) (k : Nat) (rm : RMode) (sat : Bool) :
    d.landsAs rm sat ((Num.fin n m e).real * 2 ^ signed neg k) n
      (d.roundFloat (.fin n m (if m = 0 then e else e + signed neg (min k 4096))) rm sat) := by
  have hreal : (Num.fin n m (e + signed neg k)).real = (Num.fin n m e).real * 2 ^ signed neg k := by
    rw [real_fin, real_fin, two_zpow_add]; ring
  have hround :
      d.roundFloat (.fin n m (if m = 0 then e else e + signed neg (min k 4096))) rm sat = d.roundFloat (.fin n m (e + signed neg k)) rm sat := by
    rcases eq_or_ne m 0 with rfl | hm
    · rfl
    · simp only [Fmt.roundFloat, hm, if_false, roundFin_scale_limit ha hd hv hm]
  rw [hround]
  exact landsAs_roundFloat hd rm sat hreal fun _ => rfl

/-! ## Rows (R46) -/

theorem anyNan_iff {us : List Num} : anyNan us = true ↔ Num.nan ∈ us := by simp [anyNan]
theorem hasInfOf_iff {n : Bool} {us : List Num} : hasInfOf n us = true ↔ Num.inf n ∈ us := by simp [hasInfOf]

theorem anyNan_eq_false {us : List Num} (h : Num.nan ∉ us) : anyNan us = false := by rwa [← Bool.not_eq_true, anyNan_iff]
theorem hasInfOf_eq_false {n : Bool} {us : List Num} (h : Num.inf n ∉ us) : hasInfOf n us = false := by rwa [← Bool.not_eq_true, hasInfOf_iff]

theorem finite_not_special {us : List Num} (h : ∀ u ∈ us, u.finite = true) : Num.nan ∉ us ∧ ∀ n, Num.inf n ∉ us :=
  ⟨fun hn => by simpa [Num.finite] using h _ hn, fun n hn => by simpa [Num.finite] using h _ hn⟩

theorem rowSum_eq_delivered (a d : Fmt) (rm : RMode) (sat : Bool) (xs : List Nat) :
    rowSum a d rm sat xs = delivered d rm sat (exactSum (xs.map a.value) rm) := rfl

/-- The running maximum of R46. -/
def maxStep (a : Fmt) (m y : Nat) : Nat := if (a.value m).lt (a.value y) then y else m

/-- The running maximum is one of the elements and none is above it. -/
theorem foldl_maxStep (a : Fmt) (ys : List Nat) (hy : ∀ y ∈ ys, a.value y ≠ .nan) : ∀ m, a.value m ≠ .nan →
    ys.foldl (maxStep a) m ∈ m :: ys ∧ ∀ y ∈ m :: ys, ¬ numBelow (a.value (ys.foldl (maxStep a) m)) (a.value y) := by
  have hle : ∀ x y, a.value x ≠ .nan → a.value y ≠ .nan → (¬ numBelow (a.value x) (a.value y) ↔ (a.value y).rank ≤ (a.value x).rank) :=
    fun x y hx hy => by rw [numBelow_iff_rank hx hy, not_lt]
  induction ys with
  | nil => intro m hm; simp [hle m m hm hm]
  | cons w ys ih =>
    intro m hm
    have hw := hy w List.mem_cons_self
    have hstep : (maxStep a m w = w ∨ maxStep a m w = m) ∧ (a.value m).rank ≤ (a.value (maxStep a m w)).rank
        ∧ (a.value w).rank ≤ (a.value (maxStep a m w)).rank := by
      rw [maxStep]
      split
      next hlt => exact ⟨.inl rfl, ((numBelow_iff_rank hm hw).1 ((lt_iff_numBelow _ _).1 hlt)).le, le_rfl⟩
      next hnot => exact ⟨.inr rfl, le_rfl, (hle m w hm hw).1 fun hb => hnot ((lt_iff_numBelow _ _).2 hb)⟩
    have hs : a.value (maxStep a m w) ≠ .nan := by
      rcases hstep.1 with h | h <;> rw [h] <;> assumption
    obtain ⟨hmem, hmax⟩ := ih (fun y hin => hy y (List.mem_cons_of_mem _ hin)) _ hs
    rw [List.foldl_cons]
    have hne : a.value (ys.foldl (maxStep a) (maxStep a m w)) ≠ .nan := by
      rcases List.mem_cons.1 hmem with h | h
      · rwa [h]
      · exact hy _ (List.mem_cons_of_mem _ h)
    have htop := (hle _ _ hne hs).1 (hmax _ List.mem_cons_self)
    refine ⟨?_, fun y hin => ?_⟩
    · rcases List.mem_cons.1 hmem with h | h
      · rw [h]; rcases hstep.1 with h | h <;> simp [h]
      · simp [h]
    · rcases List.mem_cons.1 hin with rfl | hin
      · exact (hle _ _ hne hm).2 (hstep.2.1.trans htop)
      rcases List.mem_cons.1 hin with rfl | hin
      · exact (hle _ _ hne hw).2 (hstep.2.2.trans htop)
      · exact hmax y (List.mem_cons_of_mem _ hin)

theorem rowMax_greatest (a : Fmt) {xs : List Nat} (hne : xs ≠ []) (hnan : Num.nan ∉ xs.map a.value) :
    rowMax a xs ∈ xs ∧ ∀ y ∈ xs, ¬ numBelow (a.value (rowMax a xs)) (a.value y) := by
  have hvals : ∀ y ∈ xs, a.value y ≠ .nan := fun y hy hv => hnan (List.mem_map.2 ⟨y, hy, hv⟩)
  match xs with
  | x :: rest =>
    have hrow : rowMax a (x :: rest) = rest.foldl (maxStep a) x := by
      rw [rowMax, anyNan_eq_false hnan]; rfl
    rw [hrow]
    exact foldl_maxStep a rest (fun y hy => hvals y (List.mem_cons_of_mem _ hy)) x (hvals x List.mem_cons_self)

end Sys2Proof.Machine
end

section
/-!
Conversions from and to integers (R43, R402), and the statement about floating-point elements.
-/
namespace Sys2Proof.Machine

/-! ## Integer formats (R37) -/

theorem intFmt_facts : ∀ d ∈ intFmts, d.cls = .int ∧ d.isInt = true ∧ d.t = 0 ∧ 0 < d.width ∧ 0x24 ≤ d.code ∧ d.intMin = d.lowest
    ∧ d.intMax = d.highest
    ∧ d.lowest ≤ 0 ∧ 0 ≤ d.highest := by
  decide +kernel

theorem intCode_eq (w : Nat) (v : ℤ) : intCode w v = (BitVec.ofInt w v).toNat := by
  rw [BitVec.toNat_ofInt, intCode]

/-- A code of an integer format is the integer that intVal reads, and a zero is +0. -/
theorem value_int {a : Fmt} (ha : a ∈ intFmts) {x : Nat} (hx : x < 2 ^ a.width) :
    ∃ n m, a.value x = .fin n m 0 ∧ signed n m = intVal a x ∧ (m = 0 → n = false) := by
  obtain ⟨hcls, -, -, hw, -⟩ := intFmt_facts a ha
  have htop : 2 ^ (a.width - 1) + 2 ^ (a.width - 1) = 2 ^ a.width := by rw [← two_mul, ← pow_succ', Nat.sub_add_cancel hw]
  simp only [Fmt.value, hcls, testBit_top hw hx, intVal]
  cases hs : a.signed with
  | false => exact ⟨false, x, by simp, by simp [signed], fun _ => rfl⟩
  | true =>
    rw [if_pos rfl, BitVec.toInt_eq_toNat_cond, BitVec.toNat_ofNat, Nat.mod_eq_of_lt hx]
    rcases le_or_gt (2 ^ (a.width - 1)) x with hneg | hpos
    · refine ⟨true, 2 ^ a.width - x, by simp [hneg], ?_, by omega⟩
      rw [if_neg (by omega), signed, if_pos rfl]
      omega
    · refine ⟨false, x, by simp [hpos], ?_, fun _ => rfl⟩
      rw [if_pos (by omega), signed, if_neg (by simp)]

/-! ## Rounding to an integer (R43) -/

theorem intRounds_neg {rm : RMode} {x : ℚ} {k : ℤ} (h : intRounds rm.mirror x k) : intRounds rm (-x) (-k) := by
  cases rm with
  | rne =>
    intro j
    obtain ⟨h1, h2⟩ := h (-j)
    have habs : ∀ i : ℤ, |x - ((-i : ℤ) : ℚ)| = |-x - i| := fun i => by rw [← abs_neg]; push_cast; ring_nf
    rw [habs] at h1 h2
    rw [← habs (-k), neg_neg]
    exact ⟨h1, fun hne heq => (h2 (by omega) heq).neg⟩
  | rz =>
    simp only [intRounds, RMode.mirror] at h ⊢
    subst h
    rcases lt_trichotomy x 0 with hx | rfl | hx
    · rw [if_neg (by linarith), if_pos (by linarith), Int.floor_neg]
    · simp
    · rw [if_pos hx.le, if_neg (by linarith), Int.ceil_neg]
  | rd =>
    simp only [intRounds, RMode.mirror] at h ⊢
    rw [h, Int.floor_neg]
  | ru =>
    simp only [intRounds, RMode.mirror] at h ⊢
    rw [h, Int.ceil_neg]

theorem intRounds_pick_pos (rm : RMode) {z : ℚ} (hz : 0 ≤ z) : intRounds rm z (pick rm false (fun n => decide (n % 2 = 1)) z) := by
  have hfloor : ⌊z⌋ = ⌊z⌋₊ := (Int.natCast_floor_eq_floor hz).symm
  cases rm with
  | rne =>
    intro j
    obtain ⟨hnear, ht⟩ := pick_rne false (fun n => decide (n % 2 = 1)) hz
    have hgap : (j : ℚ) ≤ ⌊z⌋₊ ∨ (⌊z⌋₊ : ℚ) + 1 ≤ j := (le_or_gt j (⌊z⌋₊ : ℤ)).imp (fun h => by exact_mod_cast h) (fun h => by exact_mod_cast h)
    obtain ⟨hle, hhalf⟩ := nearest_of_gap (y := ((pick .rne false (fun n => decide (n % 2 = 1)) z : ℤ) : ℚ)) (Nat.floor_le hz)
      (Nat.lt_floor_add_one z).le (hnear.imp (fun ⟨hp, hm⟩ => ⟨by rw [hp]; rfl, hm⟩) (fun ⟨hp, hm⟩ => ⟨by rw [hp]; push_cast; rfl, hm⟩)) hgap
    refine ⟨hle, fun hne heq => ?_⟩
    have hp := ht (hhalf (by exact_mod_cast hne) heq)
    rw [hp, Int.even_coe_nat, Nat.even_iff]
    split
    next hodd => have := of_decide_eq_true hodd; omega
    next heven => have := of_decide_eq_false (Bool.eq_false_of_not_eq_true heven); omega
  | rz =>
    have hp : pick .rz false (fun n => decide (n % 2 = 1)) z = ⌊z⌋₊ := by simp [pick, RMode.up]
    rw [intRounds, if_pos hz, hp, hfloor]
  | rd =>
    have hp : pick .rd false (fun n => decide (n % 2 = 1)) z = ⌊z⌋₊ := by simp [pick, RMode.up]
    rw [intRounds, hp, hfloor]
  | ru =>
    rw [intRounds]
    obtain ⟨hex, hp⟩ | ⟨hlo, hhi, ⟨hup, -⟩ | ⟨-, hp⟩⟩ := pick_cases .ru false (fun n => decide (n % 2 = 1)) hz
    · rw [hp, hex]; simp
    · simp [RMode.up] at hup
    · rw [hp, eq_comm, Int.ceil_eq_iff]
      push_cast
      exact ⟨by linarith, by linarith⟩

/-- The model's rounding to an integer, and whether it was inexact. -/
theorem roundInt_rounds (n : Bool) (m : Nat) (e : ℤ) (rm : RMode) :
    intRounds rm (Num.fin n m e).real (roundInt n m e rm).1 ∧ (roundInt n m e rm).2 = decide ((Num.fin n m e).real ≠ (roundInt n m e rm).1) := by
  have hx : (0 : ℚ) ≤ m * 2 ^ e := mul_nonneg (Nat.cast_nonneg m) (two_zpow_pos e).le
  have heq : roundInt n m e rm = (signed n (pick rm n (fun n => decide (n % 2 = 1)) (m * 2 ^ e)),
      decide ((pick rm n (fun n => decide (n % 2 = 1)) (m * 2 ^ e) : ℚ) ≠ m * 2 ^ e)) := by
    have h := roundAt_eq_pick rm n m e 0 (fun n => decide (n % 2 = 1))
    simp only [roundAt, sub_zero, zero_sub, zpow_zero, div_one] at h
    rw [roundInt, h]
    rfl
  rw [heq, real_fin]
  have hsigned : ∀ k : ℕ, ((signed n k : ℤ) : ℚ) = signOf n * k := fun k => by cases n <;> simp [signed]
  refine ⟨?_, ?_⟩
  · cases n with
    | false => simpa [signed] using intRounds_pick_pos rm hx
    | true => simpa [signed, pick_mirror] using intRounds_neg (intRounds_pick_pos rm.mirror hx)
  · rw [decide_eq_decide, hsigned, Ne, Ne, mul_right_inj' (signOf_ne_zero n), eq_comm]

section
variable {d : Fmt} (hd : d ∈ intFmts)
include hd

theorem intInto_low {v : ℤ} (hv : v < d.lowest) : intInto d true v = intCode d.width d.intMin := by
  obtain ⟨-, -, -, -, -, hmin, -, h1, h2⟩ := intFmt_facts d hd
  rw [intInto, if_pos rfl, intCode_eq, hmin]; congr 2; omega

theorem intInto_high {v : ℤ} (hv : d.highest < v) : intInto d true v = intCode d.width d.intMax := by
  obtain ⟨-, -, -, -, -, -, hmax, h1, h2⟩ := intFmt_facts d hd
  rw [intInto, if_pos rfl, intCode_eq, hmax]; congr 2; omega

omit hd in
theorem intInto_within {v : ℤ} (h1 : d.lowest ≤ v) (h2 : v ≤ d.highest) : intInto d true v = intCode d.width v := by
  rw [intInto, if_pos rfl, intCode_eq]; congr 2; omega

/-- A finite value is rounded to an integer, then brought into the range. -/
theorem roundToInt_fin (n : Bool) (m : Nat) (e : ℤ) (rm : RMode) :
    d.roundToInt (.fin n m e) rm = (intInto d true (roundInt n m e rm).1,
      if (roundInt n m e rm).1 < d.lowest ∨ d.highest < (roundInt n m e rm).1 then flagNV else flagIf (roundInt n m e rm).2 flagNX) := by
  obtain ⟨-, -, -, -, -, hmin, hmax, h1, h2⟩ := intFmt_facts d hd
  simp only [Fmt.roundToInt]
  rcases lt_or_ge (roundInt n m e rm).1 d.lowest with hlow | hlow
  · rw [if_pos (by rw [hmin]; exact hlow), intInto_low hd hlow, if_pos (.inl hlow)]
  rcases lt_or_ge d.highest (roundInt n m e rm).1 with hhigh | hhigh
  · rw [if_neg (by rw [hmin]; omega), if_pos (by rw [hmax]; exact hhigh), intInto_high hd hhigh, if_pos (.inr hhigh)]
  · rw [if_neg (by rw [hmin]; omega), if_neg (by rw [hmax]; omega), intInto_within hlow hhigh, if_neg (by omega)]

theorem elemCvt_toInt (a b : Fmt) (rm : RMode) (sat : Bool) (x y z : Nat) : elemCvt a b d rm sat x y z = d.roundToInt (a.value x) rm := by
  obtain ⟨-, hint, -⟩ := intFmt_facts d hd
  simp [elemCvt, moveTo, Fmt.round, hint]

/-- VCVT to an integer format (R43). -/
theorem elemCvt_landsInt (a b : Fmt) (rm : RMode) (sat : Bool) (x y z : Nat) : d.landsInt rm (a.value x) (elemCvt a b d rm sat x y z) := by
  obtain ⟨-, -, -, -, -, hmin, hmax, h1, h2⟩ := intFmt_facts d hd
  rw [elemCvt_toInt hd]
  cases a.value x with
  | nan => rfl
  | inf n =>
    have hle : d.lowest ≤ d.highest := h1.trans h2
    cases n with
    | true => simp [Fmt.landsInt, Fmt.roundToInt, intInto_within le_rfl hle, hmin]
    | false => simp [Fmt.landsInt, Fmt.roundToInt, intInto_within hle le_rfl, hmax]
  | fin n m e =>
    obtain ⟨hround, hinexact⟩ := roundInt_rounds n m e rm
    exact ⟨_, hround, by rw [roundToInt_fin hd, hinexact]⟩

end

/-- VCVT between integer formats (R402). -/
theorem elemCvt_int_int {a d : Fmt} (ha : a ∈ intFmts) (hd : d ∈ intFmts) (b : Fmt) (rm : RMode) (sat : Bool) {x : Nat}
    (hx : x < 2 ^ a.width) (y z : Nat) :
    elemCvt a b d rm sat x y z
      = (intInto d true (intVal a x), flagIf (decide (intVal a x < d.lowest ∨ d.highest < intVal a x)) flagNV) := by
  obtain ⟨n, m, hv, hval, -⟩ := value_int ha hx
  have hround : roundInt n m 0 rm = (intVal a x, false) := by simp [roundInt, ← hval, signed]
  rw [elemCvt_toInt hd, hv, roundToInt_fin hd, hround]
  simp [flagIf]

/-- VCVT from an integer format to a floating-point format (R402). -/
theorem elemCvt_int_float {a d : Fmt} (ha : a ∈ intFmts) (hd : floatFmt d) (b : Fmt) (rm : RMode) (sat : Bool) {x : Nat}
    (hx : x < 2 ^ a.width) (y z : Nat) :
    d.landsAs rm sat (intVal a x) false (elemCvt a b d rm sat x y z) := by
  obtain ⟨-, -, -, -, hcode, -⟩ := intFmt_facts a ha
  obtain ⟨n, m, hv, hval, hzero⟩ := value_int ha hx
  have hne : a.code ≠ d.code := by have := hd.codes.codeLt; omega
  have heq : elemCvt a b d rm sat x y z = d.roundFloat (.fin n m 0) rm sat := by
    simp [elemCvt, moveTo, Fmt.round, hd.codes.notInt, hv, hne]
  rw [heq]
  have hreal : (Num.fin n m 0).real = intVal a x := by rw [real_signed, hval]; simp
  exact landsAs_roundFloat hd rm sat hreal fun h0 => hzero (real_fin_eq_zero.1 (hreal.trans h0))

/-! ## The statement's clauses -/

section
variable {a b d : Fmt} (ha : floatFmt a) (hb : floatFmt b) (hd : floatFmt d) (rm : RMode) (sat : Bool) (x y z : Nat)

include ha hd in
/-- VSCALE (R406). -/
theorem elemScale_clauses :
    let u := a.value x
    let v := b.value y
    let r := elemScale a b d rm sat x y z
    (u = .nan ∨ v = .nan → r = (d.nan, 0))
      ∧ (u.finite = true → v.finite = true →
          d.landsAs rm sat (u.real * 2 ^ (if 0 ≤ v.real then ⌊v.real⌋ else ⌈v.real⌉)) u.isNeg r)
      ∧ (u.isInf = true → v.finite = true ∨ v = .inf false → d.lands rm sat u r)
      ∧ (u.isInf = true → v = .inf true → r = (d.nan, flagNV))
      ∧ (u.isZero = true → v = .inf false → r = (d.nan, flagNV))
      ∧ (u.finite = true → u.isZero = false → v = .inf false →
          r = if u.isNeg && !d.signed then (d.nan, flagNV) else d.overflowTo u.isNeg rm sat)
      ∧ (u.finite = true → u.isZero = false → v = .inf true →
          r = (if u.isNeg && d.cls = .ieee then 2 ^ (d.width - 1) else 0, flagUF ||| flagNX)) := by
  intro u v r
  have hr : r = elemScale a b d rm sat x y z := rfl
  rw [elemScale] at hr
  match hu : a.value x, hv : b.value y with
  | .nan, _ => simp [u, v, hr, hu, Num.finite, Num.isInf, Num.isZero]
  | .inf n, .nan => simp [u, v, hr, hu, hv, Num.finite]
  | .fin _ _ _, .nan => simp [u, v, hr, hu, hv, Num.finite, Num.isInf]
  | .inf n, .fin _ _ _ =>
    have := roundFloat_lands hd (.inf n) rm sat
    simpa [u, v, hr, hu, hv, Num.finite, Num.isInf, Num.isZero] using this
  | .inf n, .inf false =>
    have := roundFloat_lands hd (.inf n) rm sat
    simpa [u, v, hr, hu, hv, Num.finite, Num.isInf, Num.isZero] using this
  | .inf n, .inf true => simp [u, v, hr, hu, hv, Num.finite, Num.isInf, Num.isZero]
  | .fin n m e, .inf false =>
    by_cases hm : m = 0 <;> simp [u, v, hr, hu, hv, Num.finite, Num.isInf, Num.isZero, Num.isNeg, hm, overflow_eq]
  | .fin n m e, .inf true =>
    by_cases hm : m = 0 <;> simp [u, v, hr, hu, hv, Num.finite, Num.isInf, Num.isZero, Num.isNeg, hm, withSign_true_zero]
  | .fin n m e, .fin yn ym ye =>
    have := scale_landsAs ha hd hu yn ⌊(ym : ℚ) * 2 ^ ye⌋₊ rm sat
    simpa [u, v, hr, hu, hv, Num.finite, Num.isInf, Num.isNeg, truncExp_eq, trunc_real] using this

include hd in
/-- VXEXP (R406). -/
theorem elemXexp_clauses :
    let u := a.value x
    let r := elemXexp a b d rm sat x y z
    (u = .nan → r = (d.nan, 0))
      ∧ (u.isInf = true → d.lands rm sat (.inf false) r)
      ∧ (u.isZero = true → ∃ q, d.lands rm sat (.inf true) q ∧ r = (q.1, q.2 ||| flagDZ))
      ∧ (u.finite = true → u.isZero = false →
          ∃ e : ℤ, 2 ^ e ≤ |u.real| ∧ |u.real| < 2 ^ (e + 1) ∧ d.landsAs rm sat e false r) := by
  intro u r
  have hr : r = elemXexp a b d rm sat x y z := rfl
  rw [elemXexp] at hr
  match hu : a.value x with
  | .nan => simp [u, hr, hu, Num.finite, Num.isInf, Num.isZero]
  | .inf n =>
    have := roundFloat_lands hd (.inf false) rm sat
    simpa [u, hr, hu, Num.finite, Num.isInf, Num.isZero] using this
  | .fin n m e =>
    refine ⟨by simp [u, hu], by simp [u, hu, Num.isInf], fun hz => ?_, fun _ hz => ?_⟩
    · have hm : m = 0 := by simpa [u, hu, Num.isZero] using hz
      exact ⟨_, roundFloat_lands hd (.inf true) rm sat, by simp [hr, hu, hm]⟩
    · have hm : m ≠ 0 := by simpa [u, hu, Num.isZero] using hz
      obtain ⟨hlo, hhi⟩ := magnitude_bounds hm e
      have habs : |u.real| = m * 2 ^ e := by
        simp only [u, hu]
        rw [real_fin, abs_signOf_mul, abs_of_pos (magnitude_pos hm e)]
      refine ⟨(m.log2 : ℤ) + e, by rwa [habs], by rwa [habs], ?_⟩
      have : r = d.roundFloat (Num.ofInt ((m.log2 : ℤ) + e) 0 false) rm sat := by simp [hr, hu, hm]
      rw [this]
      exact landsAs_ofInt hd rm sat (by simp [atReal])

end

/-- VREDS (R46). -/
theorem rowSum_clauses (a : Fmt) {d : Fmt} (hd : floatFmt d) (rm : RMode) (sat : Bool) (xs : List Nat) :
    let us := xs.map a.value
    let r := rowSum a d rm sat xs
    (Num.nan ∈ us → ¬ (Num.inf true ∈ us ∧ Num.inf false ∈ us) → r = (d.nan, 0))
    ∧ (Num.nan ∉ us → Num.inf true ∈ us → Num.inf false ∈ us → r = (d.nan, flagNV))
    ∧ (∀ n, Num.nan ∉ us → Num.inf n ∈ us → Num.inf (!n) ∉ us → d.lands rm sat (.inf n) r)
    ∧ ((∀ u ∈ us, u.finite = true) →
        d.landsAs rm sat (us.map Num.real).sum
          (us.all (fun u => u.isZero && u.isNeg) || (decide (rm = .rd) && us.any (fun u => !u.isZero))) r) := by
  intro us r
  have hr : r = delivered d rm sat (exactSum us rm) := rowSum_eq_delivered a d rm sat xs
  refine ⟨fun hn _ => ?_, fun hn ht hf => ?_, fun n hn hi hi' => ?_, fun hfin => ?_⟩
  · rw [hr, exactSum, if_pos (anyNan_iff.2 hn)]; simp
  · rw [hr, exactSum, anyNan_eq_false hn, if_neg (by simp), hasInfOf_iff.2 ht, hasInfOf_iff.2 hf]; simp
  · have hsum : exactSum us rm = (.inf n, 0) := by
      cases n with
      | false => simp [exactSum, anyNan_eq_false hn, hasInfOf_iff.2 hi, hasInfOf_eq_false (n := true) hi']
      | true => simp [exactSum, anyNan_eq_false hn, hasInfOf_iff.2 hi, hasInfOf_eq_false (n := false) hi']
    rw [hr, hsum]
    simpa using roundFloat_lands hd (.inf n) rm sat
  · obtain ⟨hn, hi⟩ := finite_not_special hfin
    rw [hr, exactSum, anyNan_eq_false hn, hasInfOf_eq_false (hi false), hasInfOf_eq_false (hi true)]
    simp only [Bool.false_eq_true, if_false, Bool.and_self, BitVec.ofNat_eq_ofNat, delivered_exact]
    exact landsAs_ofInt hd rm sat (by rw [Prod.mk.eta, atReal_sumAt_map_at])

/-- Settles O11: every operation is exact on numbers and its result is delivered by the one rounding of R40. -/
theorem floatElementsRoundOnce : Obligations.FloatElementsRoundOnce := by
  refine ⟨fun f c hf hc => ⟨codeValue_value hf hc, (real_maxCode hf).1, abs_value_le_max hf hc⟩, ?elements, ?fromInt, ?toInt, ?sums, ?greatest⟩
  case elements =>
    intro a b d rm sat x y z ha hb hd u v w satA satB
    have hlt : ∀ {s t : Num}, numBelow s t → s.lt t = true := fun h => (lt_iff_numBelow _ _).2 h
    have hnlt : ∀ {s t : Num}, numBelow s t → t.lt s = false := fun h => lt_eq_false_of_not_below (numBelow_asymm h)
    refine ⟨?_, ?_, ?_, ?_, ?_, ?_, moveTo_lands hd rm sat a u, ?_, ?_,
      fun hv => ⟨elemPick_x hd a b rm sat x y z _ _ (.inl hv), elemPick_x hd a b rm sat x y z _ _ (.inl hv)⟩,
      fun hu hv => ⟨elemPick_y hd a b rm sat x y z _ _ hv (.inl hu), elemPick_y hd a b rm sat x y z _ _ hv (.inl hu)⟩,
      fun h => ⟨elemPick_x hd a b rm sat x y z _ _ (.inr ⟨(numBelow_ne_nan h).1, hnlt h⟩),
          elemPick_y hd a b rm sat x y z _ _ (numBelow_ne_nan h).2 (.inr (hlt h))⟩,
      fun h => ⟨elemPick_y hd a b rm sat x y z _ _ (numBelow_ne_nan h).1 (.inr (hlt h)),
          elemPick_x hd a b rm sat x y z _ _ (.inr ⟨(numBelow_ne_nan h).2, hnlt h⟩)⟩,
      fun _ _ _ _ => ⟨elemPick_either hd a b rm sat x y z _ _, elemPick_either hd a b rm sat x y z _ _⟩,
      elemScale_clauses ha hd rm sat x y z, elemXexp_clauses hd rm sat x y z⟩
    · rw [elemAdd, arith_float hd]; exact add_landsSum hd rm sat u v
    · rw [elemSub, arith_float hd]; exact add_landsSum hd rm sat u v.neg
    · rw [elemMul, arith_float hd]; exact mul_landsProduct hd rm sat u v
    · rw [elemFma, arith_float hd]; exact fma_landsFused hd rm sat u v w
    · rw [elemFms, arith_float hd]; exact fma_landsFused hd rm sat u v w.neg
    · rw [elemFnma, arith_float hd]; exact fma_landsFused hd rm sat u.neg v w
    · rw [elemAbs, elemSign_eq hd]; exact moveTo_lands hd rm sat a u.abs
    · rw [elemNeg, elemSign_eq hd]; exact moveTo_lands hd rm sat a u.neg
  case fromInt =>
    exact fun a d b rm sat x y z ha hx => ⟨fun hd => elemCvt_int_float ha hd b rm sat hx y z, fun hd => elemCvt_int_int ha hd b rm sat hx y z⟩
  case toInt => exact fun a d b rm sat x y z _ hd => elemCvt_landsInt hd a b rm sat x y z
  case sums => exact fun a d rm sat xs _ hd => rowSum_clauses a hd rm sat xs
  case greatest =>
    exact fun a xs _ hne => ⟨fun hn => by rw [rowMax.eq_def, if_pos (anyNan_iff.2 hn)], rowMax_greatest a hne⟩

end Sys2Proof.Machine
end

section
/-!
VRSQS and VRCPS (R45): the nearest value of at most 13 significant bits, from a truncated quotient or root and a sticky bit.
-/
namespace Sys2Proof.Machine

/-! ## FP32 -/

theorem fp32_max : (fmtFP32.value fmtFP32.maxCode).real = (2 ^ 24 - 1) * 2 ^ (104 : ℤ) := by
  have hcode : fmtFP32.maxCode = 253 * 2 ^ fmtFP32.t + (2 ^ 24 - 1) := by decide
  rw [(real_maxCode floatFmt_fp32).2, hcode, magReal_code fmtFP32 (by decide) (by decide)]
  have hemin : fmtFP32.emin + (253 : ℕ) = 104 := by decide
  rw [hemin]
  norm_num

/-- The bounds of a finite FP32 value. -/
theorem fp32_value_bounds {x : Nat} {n : Bool} {m : Nat} {e : ℤ} (hv : fmtFP32.value x = .fin n m e) :
    m < 2 ^ 24 ∧ -149 ≤ e ∧ (m : ℚ) * 2 ^ e < 2 ^ (128 : ℤ) := by
  obtain ⟨c, -, hc, hmag⟩ := value_eq_magValue floatFmt_fp32 hv
  obtain ⟨m', e', hfin, hreal, hm, he, -⟩ := magValue_fin fmtFP32 n c
  rw [hmag] at hfin hreal
  obtain ⟨rfl, rfl⟩ : m = m' ∧ e = e' := by simpa using hfin
  have hinf : fmtFP32.magReal fmtFP32.infCode = 2 ^ (128 : ℤ) := by
    have hcode : fmtFP32.infCode = 254 * 2 ^ fmtFP32.t + 2 ^ 23 := by decide
    have hemin : fmtFP32.emin + (254 : ℕ) = 105 := by decide
    rw [hcode, magReal_code fmtFP32 (by decide) (by decide), hemin]
    norm_num
  rw [real_fin, mul_right_inj' (signOf_ne_zero n)] at hreal
  exact ⟨hm, he, by rw [hreal, ← hinf]; exact magReal_strictMono _ (hc rfl)⟩

/-! ## Thirteen significant bits -/

/-- The grid of the seeds as that of a format: 12 fraction bits above the least step of FP32. -/
def seedFmt : Fmt := { fmtFP32 with t := 12, bias := 138 }

theorem seedPoint_iff {y : ℚ} : seedPoint y ↔ seedFmt.onGrid true y := by
  have hemin : seedFmt.emin = -149 := by decide
  simp only [seedPoint, Fmt.onGrid, hemin, true_imp_iff]
  refine exists_congr fun k => exists_congr fun q => ⟨fun ⟨hk, hq, hy⟩ => ⟨hq, by simpa [seedFmt] using hk, hy⟩,
      fun ⟨hq, hk, hy⟩ => ⟨by simpa [seedFmt] using hk, hq, hy⟩⟩

/-- The significand of round13 before its last step, and the exponent of its last place. -/
def seedBits (r : Nat) (sticky : Bool) : Nat := 2 * r + (if sticky then 1 else 0)
def seedPlace (r : Nat) (sticky : Bool) (e : ℤ) : ℤ := e - 1 + ((seedBits r sticky).log2 - 12 : ℕ)
def seedSig (neg : Bool) (r : Nat) (sticky : Bool) : Nat × Bool :=
  roundShift .rne neg (seedBits r sticky) ((seedBits r sticky).log2 - 12) (fun n => n % 2 = 1)

theorem round13_eq (neg : Bool) (r : Nat) (sticky : Bool) (e : ℤ) :
    round13 neg r sticky e =
      let q := seedSig neg r sticky
      let v := fmtFP32.roundFin neg q.1 (seedPlace r sticky e) .rne false
      (v.1, v.2 ||| flagIf q.2 flagNX ||| flagIf (q.2 && decide ((q.1.log2 : ℤ) + seedPlace r sticky e < fmtFP32.emin + 23)) flagUF) := rfl

/-- A magnitude shifted right in nearest mode: the lower neighbour up to the half, the upper one from there on. -/
theorem roundShift_nearest (neg : Bool) (b s : Nat) (tie : Nat → Bool) :
    let q := roundShift .rne neg b (s + 2) tie
    let n := b / 2 ^ (s + 2)
    ((q.1 = n ∧ b ≤ 2 * ((2 * n + 1) * 2 ^ s)) ∨ (q.1 = n + 1 ∧ 2 * ((2 * n + 1) * 2 ^ s) ≤ b)) ∧ (q.2 = true ↔ q.1 * 2 ^ (s + 2) ≠ b) := by
  have hpow : (0 : ℚ) < 2 ^ (s + 2) := by positivity
  have hfloor : ⌊(b : ℚ) / 2 ^ (s + 2)⌋₊ = b / 2 ^ (s + 2) := by exact_mod_cast Nat.floor_div_eq_div (K := ℚ) b (2 ^ (s + 2))
  have hnear := (pick_rne neg tie (div_nonneg (Nat.cast_nonneg b) hpow.le)).1
  rw [roundShift_eq_pick]
  dsimp only
  rw [hfloor, mul_div_assoc', div_le_iff₀ hpow, le_div_iff₀ hpow] at hnear
  refine ⟨?_, by rw [decide_eq_true_iff, Ne, Ne, eq_div_iff hpow.ne']; norm_cast⟩
  have hfour : 2 ^ (s + 2) = 4 * 2 ^ s := by ring
  generalize b / 2 ^ (s + 2) = n at *
  obtain ⟨hp, hle⟩ | ⟨hp, hle⟩ := hnear
  · have hnat : 2 * b ≤ (n + (n + 1)) * 2 ^ (s + 2) := by exact_mod_cast hle
    rw [hfour] at hnat
    exact .inl ⟨hp, by linarith⟩
  · have hnat : (n + (n + 1)) * 2 ^ (s + 2) ≤ 2 * b := by exact_mod_cast hle
    rw [hfour] at hnat
    exact .inr ⟨hp, by linarith⟩

section
variable {r : Nat} {sticky : Bool} {V : ℝ} (hr : 2 ^ 13 ≤ r) (hlo : (r : ℝ) ≤ V) (hhi : V < r + 1) (hst : sticky = true ↔ (r : ℝ) ≠ V)
include hlo hhi hst

/-- The integers below 2V, of which seedBits is the floor, made odd where V is not an integer: an even number has the same order to both. -/
theorem seedBits_order (k : Nat) :
    ((2 * k ≤ seedBits r sticky ↔ (k : ℝ) ≤ V) ∧ (seedBits r sticky ≤ 2 * k ↔ V ≤ k)) := by
  have hk : ∀ {a b : Nat}, a ≤ b → (a : ℝ) ≤ b := fun h => Nat.cast_le.2 h
  rw [seedBits]
  cases sticky with
  | false =>
    have hV : V = r := by simpa [eq_comm] using hst
    rw [hV, Nat.cast_le, Nat.cast_le]
    simp
  | true =>
    have hne : (r : ℝ) < V := lt_of_le_of_ne hlo (hst.1 rfl)
    simp only [if_true]
    refine ⟨⟨fun h => (hk (by omega : k ≤ r)).trans hlo, fun h => ?_⟩, ⟨fun h => ?_, fun h => ?_⟩⟩
    · have : (k : ℝ) < (r + 1 : ℕ) := by push_cast; linarith
      have := Nat.cast_lt.1 this
      omega
    · have := hk (by omega : r + 1 ≤ k)
      push_cast at this
      linarith
    · have : (r : ℝ) < k := by linarith
      have := Nat.cast_lt.1 this
      omega

include hr

omit hlo hhi hst in
/-- The last place of round13 is that of the seeds' grid. -/
theorem seedPlace_lastPlace {e : ℤ} (hplace : -149 ≤ seedPlace r sticky e) :
    ∃ s : ℕ, (seedBits r sticky).log2 = s + 14 ∧ seedPlace r sticky e = e + s + 1
        ∧ seedFmt.LastPlace true (e + s + 1) (seedBits r sticky * 2 ^ (e - 1)) := by
  have hb : seedBits r sticky ≠ 0 := by rw [seedBits]; omega
  have hlog : 14 ≤ (seedBits r sticky).log2 := (Nat.le_log2 hb).2 (by rw [seedBits]; omega)
  obtain ⟨s, hs⟩ := Nat.exists_eq_add_of_le' hlog
  have hg : seedPlace r sticky e = e + s + 1 := by rw [seedPlace, hs]; omega
  have hu : ((seedBits r sticky).log2 : ℤ) + (e - 1) - (seedFmt.t : ℤ) = e + s + 1 := by rw [hs]; simp only [seedFmt]; omega
  have hemin : seedFmt.emin = -149 := by decide
  have h1 := lastPlace_bounded seedFmt hb (e - 1)
  rw [hu, max_eq_left (by omega)] at h1
  exact ⟨s, hs, hg, h1⟩

omit hlo hhi hst in
/-- The neighbours n and n + 1 of the rounded significand, in units of which none of the seeds' grid lies between; the choice is by the half. -/
theorem seedSig_neighbours (neg : Bool) {e : ℤ} (hplace : -149 ≤ seedPlace r sticky e) :
    let q := seedSig neg r sticky
    let b := seedBits r sticky
    ∃ s n : ℕ, seedPlace r sticky e = e + s + 1 ∧ 2 ^ 12 ≤ n ∧ n < 2 ^ 13 ∧ n * (4 * 2 ^ s) ≤ b ∧ b ≤ (n + 1) * (4 * 2 ^ s)
      ∧ ((q.1 = n ∧ b ≤ 2 * ((2 * n + 1) * 2 ^ s)) ∨ (q.1 = n + 1 ∧ 2 * ((2 * n + 1) * 2 ^ s) ≤ b))
      ∧ (q.2 = true ↔ q.1 * (4 * 2 ^ s) ≠ b)
      ∧ seedPoint (q.1 * 2 ^ (e + s + 1)) ∧ ∀ w, seedPoint w → w ≤ (n : ℚ) * 2 ^ (e + s + 1) ∨ ((n : ℚ) + 1) * 2 ^ (e + s + 1) ≤ w := by
  obtain ⟨s, hs, hg, hlast⟩ := seedPlace_lastPlace hr hplace
  have hsig : seedSig neg r sticky = roundShift .rne neg (seedBits r sticky) (s + 2) (fun n => n % 2 = 1) := by rw [seedSig, hs]; rfl
  obtain ⟨hside, hinexact⟩ := roundShift_nearest neg (seedBits r sticky) s (fun n => n % 2 = 1)
  rw [← hsig] at hside hinexact
  have hb : seedBits r sticky ≠ 0 := by rw [seedBits]; omega
  have hb1 := Nat.log2_self_le hb
  have hb2 := Nat.lt_log2_self (n := seedBits r sticky)
  rw [hs] at hb1 hb2
  dsimp only
  generalize seedBits r sticky = b at *
  have hx : (0 : ℚ) ≤ b * 2 ^ (e - 1) := mul_nonneg (Nat.cast_nonneg _) (two_zpow_pos _).le
  have hfloor : ⌊(b : ℚ) * 2 ^ (e - 1) / 2 ^ (e + s + 1)⌋₊ = b / 2 ^ (s + 2) := by
    rw [two_zpow_toNat (a := e + s + 1) (b := e - 1) (by omega), show (e + s + 1 - (e - 1)).toNat = s + 2 by omega,
      mul_div_mul_right _ _ (two_zpow_pos _).ne', Nat.floor_div_eq_div]
  have hpos : 0 < 2 ^ (s + 2) := by positivity
  have hfour : 2 ^ (s + 2) = 4 * 2 ^ s := by ring
  have hbelow := Nat.div_mul_le_self b (2 ^ (s + 2))
  have habove : b ≤ (b / 2 ^ (s + 2) + 1) * 2 ^ (s + 2) := by rw [Nat.add_one_mul]; exact (Nat.lt_div_mul_add hpos).le
  have hgrid := onGrid_floor hlast hx (k := (seedSig neg r sticky).1) (by rw [hfloor]; omega)
  have hgap := fun w hw => grid_gap (w := w) hlast hx hw
  rw [hfloor] at hgap
  refine ⟨s, b / 2 ^ (s + 2), hg, ?_, ?_, hfour ▸ hbelow, hfour ▸ habove, hside, hfour ▸ hinexact, seedPoint_iff.2 hgrid,
    fun w hw => hgap w (seedPoint_iff.1 hw)⟩
  · exact (Nat.le_div_iff_mul_le hpos).2 (by rw [← pow_add, show 12 + (s + 2) = s + 14 by omega]; exact hb1)
  · exact (Nat.div_lt_iff_lt_mul hpos).2 (by rw [← pow_add, show 13 + (s + 2) = s + 14 + 1 by omega]; exact hb2)

/-- The rounded value is the nearest of the seeds' grid to V · 2^e, and the bit of round13 says whether it differs. -/
theorem seedSig_nearest (neg : Bool) (e : ℤ) (hplace : -149 ≤ seedPlace r sticky e) :
    let q := seedSig neg r sticky
    let y : ℚ := q.1 * 2 ^ seedPlace r sticky e
    seedPoint y ∧ (∀ w, seedPoint w → |V * 2 ^ e - (y : ℝ)| ≤ |V * 2 ^ e - (w : ℝ)|) ∧ (q.2 = true ↔ V * 2 ^ e ≠ (y : ℝ))
      ∧ 2 ^ 12 ≤ q.1 ∧ q.1 ≤ 2 ^ 13 := by
  obtain ⟨s, n, hg, hn1, hn2, hn3, hn4, hside, hinexact, hgrid, hgap⟩ := seedSig_neighbours hr neg hplace
  have horder := seedBits_order hlo hhi hst
  dsimp only
  rw [hg]
  generalize seedSig neg r sticky = q at *
  have he : (0 : ℝ) < 2 ^ e := zpow_pos (by norm_num) e
  have hle : ∀ {a b : ℝ}, a ≤ b → a * 2 ^ e ≤ b * 2 ^ e := fun h => mul_le_mul_of_nonneg_right h he.le
  have hscale : ∀ k : Nat, (k : ℝ) * 2 ^ (e + s + 1) = ((2 * k * 2 ^ s : ℕ) : ℝ) * 2 ^ e := fun k => by
    rw [zpow_add₀ (by norm_num), zpow_add₀ (by norm_num), zpow_natCast]; push_cast; ring
  have hbelow : (n : ℝ) * 2 ^ (e + s + 1) ≤ V * 2 ^ e := by
    rw [hscale]; exact hle ((horder _).1.1 (by linarith))
  have habove : V * 2 ^ e ≤ ((n + 1 : ℕ) : ℝ) * 2 ^ (e + s + 1) := by
    rw [hscale]; exact hle ((horder _).2.1 (by linarith))
  have hhalf : (n : ℝ) * 2 ^ (e + s + 1) + ((n + 1 : ℕ) : ℝ) * 2 ^ (e + s + 1) = 2 * (((2 * n + 1) * 2 ^ s : ℕ) * 2 ^ e) := by
    rw [hscale, hscale]; push_cast; ring
  refine ⟨hgrid, fun w hw => ?_, ?_, by omega, by omega⟩
  · refine (nearest_of_gap hbelow habove ?_ ?_).1
    · rw [hhalf]
      obtain ⟨hq, hb⟩ | ⟨hq, hb⟩ := hside
      · exact .inl ⟨by rw [hq]; push_cast; rfl, mul_le_mul_of_nonneg_left (hle ((horder _).2.1 hb)) (by norm_num)⟩
      · exact .inr ⟨by rw [hq]; push_cast; rfl, mul_le_mul_of_nonneg_left (hle ((horder _).1.1 hb)) (by norm_num)⟩
    · refine (hgap w hw).imp (fun h => ?_) fun h => ?_
      · simpa using (Rat.cast_le (K := ℝ)).2 h
      · simpa using (Rat.cast_le (K := ℝ)).2 h
  · push_cast
    rw [hinexact, Ne, Ne, hscale, mul_left_inj' he.ne', not_iff_not, show q.1 * (4 * 2 ^ s) = 2 * (2 * q.1 * 2 ^ s) by ring]
    exact ⟨fun h => le_antisymm ((horder _).2.1 h.ge) ((horder _).1.1 h.le), fun h => le_antisymm ((horder _).1.2 h.ge) ((horder _).2.2 h.le)⟩

end

/-! ## Delivery -/

/-- A value on the grid is rounded to itself. -/
theorem rne_of_onGrid {f : Fmt} {bounded : Bool} {x y : ℚ} (hx : f.onGrid bounded x) (hy : f.roundsTo bounded .rne x y) : y = x := by
  have h := (hy.2 x hx).1
  rw [sub_self, abs_zero, abs_nonpos_iff, sub_eq_zero] at h
  exact h.symm

/-- A value of 13 bits below the overflow bound is not above the greatest finite value. -/
theorem le_fp32_max_iff {n : Nat} (hn : n ≤ 2 ^ 13) (g : ℤ) :
    (n : ℚ) * 2 ^ g ≤ (fmtFP32.value fmtFP32.maxCode).real ↔ (n : ℚ) * 2 ^ g < 2 ^ (128 : ℤ) := by
  rw [fp32_max]
  refine ⟨fun h => h.trans_lt (by norm_num), fun h => ?_⟩
  have hmax : (2 : ℚ) ^ (23 : ℤ) * 2 ^ (104 : ℤ) ≤ (2 ^ 24 - 1) * 2 ^ (104 : ℤ) := by norm_num
  rcases le_or_gt 104 g with hg | hg
  · rw [two_zpow_toNat hg, ← mul_assoc] at h ⊢
    rw [show (128 : ℤ) = 24 + 104 by norm_num, two_zpow_add, mul_lt_mul_iff_left₀ (two_zpow_pos _)] at h
    refine mul_le_mul_of_nonneg_right ?_ (two_zpow_pos _).le
    have hnat : n * 2 ^ (g - 104).toNat < 2 ^ 24 := by exact_mod_cast h
    have : n * 2 ^ (g - 104).toNat ≤ 2 ^ 24 - 1 := by omega
    calc (n : ℚ) * ((2 ^ (g - 104).toNat : ℕ) : ℚ) = ((n * 2 ^ (g - 104).toNat : ℕ) : ℚ) := by push_cast; rfl
      _ ≤ ((2 ^ 24 - 1 : ℕ) : ℚ) := Nat.cast_le.2 this
      _ = 2 ^ 24 - 1 := by norm_num
  · refine le_trans (mul_le_mul ?_ (two_zpow_le hg.le) (two_zpow_pos _).le (by positivity)) hmax
    exact (Nat.cast_le.2 hn).trans (by norm_num)

/-- FP32's code of an infinity of a sign. -/
theorem fp32_overflow (neg : Bool) : fmtFP32.overflowTo neg .rne false = (0x7F800000 + (if neg then 2147483648 else 0), flagOF ||| flagNX) := by
  cases neg <;> decide

/-- FP32 holds every value of 13 bits: it is delivered as it is, or overflows. -/
theorem roundFin_seed (neg : Bool) {n : Nat} (hn1 : n ≠ 0) (hn2 : n ≤ 2 ^ 13) {g : ℤ} (hg : -149 ≤ g) :
    let v := fmtFP32.roundFin neg n g .rne false
    ((2 : ℚ) ^ (128 : ℤ) ≤ n * 2 ^ g → v = (0x7F800000 + (if neg then 2147483648 else 0), flagOF ||| flagNX))
    ∧ ((n : ℚ) * 2 ^ g < 2 ^ (128 : ℤ) → (fmtFP32.value v.1).finite = true ∧ (fmtFP32.value v.1).real = signOf neg * (n * 2 ^ g) ∧ v.2 = 0) := by
  have hpos := magnitude_pos hn1 g
  have hreal := real_fin neg n g
  obtain ⟨y, hround, hover, hstands⟩ := roundFin_rounded floatFmt_fp32 hn1 g .rne false (neg := neg) fun _ => rfl
  have hemin : fmtFP32.emin = -149 := by decide
  have hgrid : fmtFP32.onGrid true (n * 2 ^ g) := ⟨n, g, fun _ => hemin ▸ hg, by
    rw [Nat.abs_cast]; exact_mod_cast hn2.trans_lt (by decide : 2 ^ 13 < 2 ^ (fmtFP32.t + 1)), rfl⟩
  have hy : y = signOf neg * (n * 2 ^ g) := by
    rw [← hreal]
    refine rne_of_onGrid ?_ hround
    rw [hreal]
    cases neg with
    | false => simpa using hgrid
    | true => simpa using onGrid_neg hgrid
  have habs : |y| = n * 2 ^ g := by rw [hy, abs_signOf_mul, abs_of_pos hpos]
  have hneg : decide ((Num.fin neg n g).real < 0) = neg := by
    rw [hreal]; simp [signOf_mul_neg_iff hpos]
  rw [habs] at hover hstands
  refine ⟨fun h => ?_, fun h => ?_⟩
  · rw [hover (lt_of_not_ge (mt (le_fp32_max_iff hn2 g).1 (not_lt.2 h))), hneg, fp32_overflow]
  · obtain ⟨-, ⟨m, e, hfin, hval⟩, hflags, -⟩ := hstands ((le_fp32_max_iff hn2 g).2 h)
    exact ⟨by rw [hfin]; rfl, hval.trans hy, hflags (hy.trans hreal.symm)⟩

section
variable {r : Nat} {sticky : Bool} {V : ℝ} (hr : 2 ^ 13 ≤ r) (hlo : (r : ℝ) ≤ V) (hhi : V < r + 1) (hst : sticky = true ↔ (r : ℝ) ≠ V)
include hr hhi

/-- The seeds never reach the least step of FP32. -/
theorem seedPlace_low {e : ℤ} (hlow : (2 : ℝ) ^ (-134 : ℤ) ≤ V * 2 ^ e) : -149 ≤ seedPlace r sticky e := by
  have hb : (r : ℝ) + 1 ≤ seedBits r sticky := by
    have : r + 1 ≤ seedBits r sticky := by rw [seedBits]; omega
    exact_mod_cast this
  have hlt : V * 2 ^ e < 2 ^ (((seedBits r sticky).log2 : ℤ) + 1 + e) := by
    rw [zpow_add₀ (by norm_num)]
    refine mul_lt_mul_of_pos_right (hhi.trans_le (hb.trans ?_)) (zpow_pos (by norm_num) e)
    have : (seedBits r sticky : ℝ) < ((2 ^ ((seedBits r sticky).log2 + 1) : ℕ) : ℝ) := Nat.cast_lt.2 Nat.lt_log2_self
    push_cast at this
    exact_mod_cast this.le
  have := (zpow_lt_zpow_iff_right₀ (by norm_num)).1 (hlow.trans_lt hlt)
  rw [seedPlace]
  omega

include hlo hst

/-- R45: the seed's value is the nearest to V · 2^e of at most 13 bits; it overflows, is exact, or is inexact and perhaps tiny. -/
theorem round13_delivers (neg : Bool) {e : ℤ} (hlow : (2 : ℝ) ^ (-134 : ℤ) ≤ V * 2 ^ e) :
    ∃ y : ℚ, seedPoint y ∧ 0 < y ∧ (∀ w, seedPoint w → |V * 2 ^ e - (y : ℝ)| ≤ |V * 2 ^ e - (w : ℝ)|)
      ∧ (2 ^ (128 : ℤ) ≤ y → round13 neg r sticky e = (0x7F800000 + (if neg then 2147483648 else 0), flagOF ||| flagNX))
      ∧ (y < 2 ^ (128 : ℤ) → (fmtFP32.value (round13 neg r sticky e).1).finite = true
        ∧ (fmtFP32.value (round13 neg r sticky e).1).real = signOf neg * y
        ∧ (V * 2 ^ e = y → (round13 neg r sticky e).2 = 0)
        ∧ (V * 2 ^ e ≠ y → (round13 neg r sticky e).2 = flagNX ||| flagIf (decide (y < 2 ^ (-126 : ℤ))) flagUF)) := by
  have hplace := seedPlace_low (sticky := sticky) hr hhi hlow
  obtain ⟨hpoint, hnear, hinexact, hq1, hq2⟩ := seedSig_nearest hr hlo hhi hst neg e hplace
  rw [round13_eq]
  dsimp only at *
  generalize seedSig neg r sticky = q at *
  generalize seedPlace r sticky e = g at *
  have hne : q.1 ≠ 0 := by omega
  obtain ⟨hover, hexact⟩ := roundFin_seed neg hne hq2 hplace
  obtain ⟨hlog1, hlog2⟩ := magnitude_bounds hne g
  have hemin : fmtFP32.emin + 23 = -126 := by decide
  have htiny : decide ((q.1.log2 : ℤ) + g < fmtFP32.emin + 23) = decide ((q.1 : ℚ) * 2 ^ g < 2 ^ (-126 : ℤ)) := by
    rw [decide_eq_decide, hemin]
    refine ⟨fun h => hlog2.trans_le (two_zpow_le (by omega)), fun h => two_zpow_lt_iff.1 (hlog1.trans_lt h)⟩
  rw [htiny]
  refine ⟨_, hpoint, magnitude_pos hne g, hnear, fun h => ?_, fun h => ?_⟩
  · have hbig : decide ((q.1 : ℚ) * 2 ^ g < 2 ^ (-126 : ℤ)) = false :=
      decide_eq_false (not_lt.2 (le_trans (two_zpow_le (by norm_num)) h))
    rw [hover h, hbig]
    cases q.2 <;> simp [flagIf, flagOF, flagNX]
  · obtain ⟨hfin, hval, hflags⟩ := hexact h
    rw [hflags]
    refine ⟨hfin, hval, fun heq => ?_, fun hneq => ?_⟩
    · rw [Bool.eq_false_of_not_eq_true (mt hinexact.1 (not_not.2 heq))]
      simp [flagIf]
    · rw [hinexact.2 hneq]
      simp [flagIf]

end

/-! ## VRCPS (R45) -/

theorem seedPoint_signOf (neg : Bool) {y : ℚ} (h : seedPoint y) : seedPoint (signOf neg * y) := by
  cases neg with
  | false => simpa using h
  | true => simpa using seedPoint_iff.2 (onGrid_neg (seedPoint_iff.1 h))

/-- A distance between values of one sign is that of their magnitudes. -/
theorem abs_signOf_sub (neg : Bool) (x y : ℚ) : |signOf neg * x - signOf neg * y| = |x - y| := by
  rw [← mul_sub, abs_signOf_mul]

theorem signOf_mul_self (neg : Bool) (x : ℚ) : signOf neg * (signOf neg * x) = x := by cases neg <;> simp

/-- The quotient of the model and its sticky bit, for a reciprocal of FP32. -/
theorem recip_quotient {m : Nat} (hm : m ≠ 0) (hlt : m < 2 ^ 24) :
    2 ^ 13 ≤ 2 ^ 48 / m ∧ (((2 ^ 48 / m : ℕ) : ℝ) ≤ 2 ^ 48 / m) ∧ ((2 ^ 48 / m : ℝ) < ((2 ^ 48 / m : ℕ) : ℝ) + 1)
      ∧ (decide (2 ^ 48 / m * m ≠ 2 ^ 48) = true ↔ ((2 ^ 48 / m : ℕ) : ℝ) ≠ 2 ^ 48 / m) := by
  have hpos : 0 < m := Nat.pos_of_ne_zero hm
  have hposr : (0 : ℝ) < m := Nat.cast_pos.2 hpos
  refine ⟨(Nat.le_div_iff_mul_le hpos).2 ?_, ?_, ?_, ?_⟩
  · calc 2 ^ 13 * m ≤ 2 ^ 13 * 2 ^ 24 := Nat.mul_le_mul_left _ hlt.le
      _ ≤ 2 ^ 48 := by norm_num
  · rw [le_div_iff₀ hposr]
    exact_mod_cast Nat.div_mul_le_self (2 ^ 48) m
  · rw [div_lt_iff₀ hposr]
    have := Nat.lt_div_mul_add (a := 2 ^ 48) hpos
    rw [← Nat.add_one_mul] at this
    exact_mod_cast this
  · rw [decide_eq_true_iff, Ne, Ne, eq_div_iff hposr.ne']
    norm_cast

/-- R45: VRCPS of a finite value that is not 0. -/
theorem recip13_nearest {x : Nat} {neg : Bool} {m : Nat} {e : ℤ} (hv : fmtFP32.value x = .fin neg m e) (hm : m ≠ 0) :
    let u := (Num.fin neg m e).real
    let c := recip13 (.fin neg m e)
    ∃ r : ℚ, seedPoint r ∧ (∀ w, seedPoint w → |1 / u - r| ≤ |1 / u - w|)
      ∧ (2 ^ 128 ≤ |r| → c = (0x7F800000 + (if neg then 2147483648 else 0), flagOF ||| flagNX))
      ∧ (|r| < 2 ^ 128 → (fmtFP32.value c.1).finite = true ∧ (fmtFP32.value c.1).real = r
          ∧ c.2 = if r * u = 1 then 0 else flagNX ||| flagIf (decide (|r| < 2 ^ (-126 : ℤ))) flagUF) := by
  obtain ⟨hlt, -, hhigh⟩ := fp32_value_bounds hv
  obtain ⟨hr, hlo, hhi, hst⟩ := recip_quotient hm hlt
  have hpos := magnitude_pos hm e
  have hV : (2 ^ 48 / m : ℝ) * 2 ^ (-e - 48) = ((1 / (m * 2 ^ e) : ℚ) : ℝ) := by
    rw [zpow_sub₀ (by norm_num), zpow_neg]
    push_cast
    field_simp
  have hlow : (2 : ℝ) ^ (-134 : ℤ) ≤ (2 ^ 48 / m : ℝ) * 2 ^ (-e - 48) := by
    rw [hV]
    have : (2 : ℚ) ^ (-134 : ℤ) ≤ 1 / (m * 2 ^ e) := by
      rw [le_div_iff₀ hpos]
      calc (2 : ℚ) ^ (-134 : ℤ) * (m * 2 ^ e) ≤ 2 ^ (-134 : ℤ) * 2 ^ (128 : ℤ) := mul_le_mul_of_nonneg_left hhigh.le (two_zpow_pos _).le
        _ ≤ 1 := by norm_num
    simpa using (Rat.cast_le (K := ℝ)).2 this
  obtain ⟨y, hpoint, hy, hnear, hover, hfits⟩ := round13_delivers hr hlo hhi hst neg hlow
  rw [hV] at hnear hfits
  have hc : recip13 (.fin neg m e) = round13 neg (2 ^ 48 / m) (decide (2 ^ 48 / m * m ≠ 2 ^ 48)) (-e - 48) := by
    simp [recip13, hm]
  have hinv : 1 / (signOf neg * ((m : ℚ) * 2 ^ e)) = signOf neg * (1 / (m * 2 ^ e)) := by cases neg <;> simp
  have habs : |signOf neg * y| = y := by rw [abs_signOf_mul, abs_of_pos hy]
  dsimp only
  rw [real_fin, hinv, hc]
  refine ⟨signOf neg * y, seedPoint_signOf neg hpoint, fun w hw => ?_, ?_, ?_⟩
  · have h := hnear _ (seedPoint_signOf neg hw)
    rw [abs_signOf_sub, ← signOf_mul_self neg w, abs_signOf_sub]
    exact_mod_cast h
  · rw [habs]
    exact fun h => hover (by exact_mod_cast h)
  · rw [habs]
    intro h
    obtain ⟨hfin, hval, hexact, hinexact⟩ := hfits (by exact_mod_cast h)
    refine ⟨hfin, hval, ?_⟩
    have hone : signOf neg * y * (signOf neg * (m * 2 ^ e)) = 1 ↔ 1 / ((m : ℚ) * 2 ^ e) = y := by
      rw [show signOf neg * y * (signOf neg * (m * 2 ^ e)) = signOf neg * (signOf neg * (y * (m * 2 ^ e))) by ring, signOf_mul_self,
        div_eq_iff hpos.ne', eq_comm]
    by_cases heq : 1 / ((m : ℚ) * 2 ^ e) = y
    · rw [if_pos (hone.2 heq)]
      exact hexact (by rw [heq])
    · rw [if_neg (mt hone.1 heq)]
      exact hinexact fun h => heq (by exact_mod_cast h)

/-! ## VRSQS (R45) -/

/-- The bitwise root is the integer square root, for an operand within its bits. -/
theorem isqrtBits_spec (n : Nat) : ∀ k r, r * r ≤ n → n < (r + 2 ^ k) * (r + 2 ^ k) →
    isqrtBits n k r * isqrtBits n k r ≤ n ∧ n < (isqrtBits n k r + 1) * (isqrtBits n k r + 1) := by
  intro k
  induction k with
  | zero => exact fun r h1 h2 => ⟨h1, h2⟩
  | succ k ih =>
    intro r h1 h2
    rw [isqrtBits]
    split
    next h => exact ih _ h (by rwa [pow_succ, mul_two, ← add_assoc] at h2)
    next h => exact ih _ h1 (not_le.1 h)

/-- The operand of VRSQS with an even exponent. -/
def evenMag (m : Nat) (e : ℤ) : Nat := if e % 2 = 0 then m else 2 * m
def evenExp (e : ℤ) : ℤ := if e % 2 = 0 then e else e - 1

theorem evenMag_real (m : Nat) (e : ℤ) : (evenMag m e : ℚ) * 2 ^ evenExp e = m * 2 ^ e := by
  rw [evenMag, evenExp]
  split
  · rfl
  · rw [zpow_sub₀ (by norm_num)]
    push_cast
    field_simp

theorem evenExp_half (e : ℤ) : evenExp e = 2 * (evenExp e / 2) := by
  rw [evenExp]
  split <;> omega

/-- The root of the model and its sticky bit. -/
theorem rsqrt_root {m : Nat} (hm : m ≠ 0) (hlt : m < 2 ^ 25) :
    let r := isqrtBits (2 ^ 64 / m) 33 0
    2 ^ 13 ≤ r ∧ ((r : ℝ) ≤ √(2 ^ 64 / m)) ∧ (√(2 ^ 64 / m) < (r : ℝ) + 1) ∧ (decide (r * r * m ≠ 2 ^ 64) = true ↔ (r : ℝ) ≠ √(2 ^ 64 / m)) := by
  intro r
  have hpos : 0 < m := Nat.pos_of_ne_zero hm
  have hposr : (0 : ℝ) < m := Nat.cast_pos.2 hpos
  have hn : 2 ^ 64 / m ≤ 2 ^ 64 := Nat.div_le_self _ _
  have hspec : r * r ≤ 2 ^ 64 / m ∧ 2 ^ 64 / m < (r + 1) * (r + 1) :=
    isqrtBits_spec (2 ^ 64 / m) 33 0 (Nat.zero_le _) (hn.trans_lt (by norm_num))
  obtain ⟨h1, h2⟩ := hspec
  clear_value r
  have hlow : 2 ^ 39 ≤ 2 ^ 64 / m := (Nat.le_div_iff_mul_le hpos).2 (by
    calc 2 ^ 39 * m ≤ 2 ^ 39 * 2 ^ 25 := Nat.mul_le_mul_left _ hlt.le
      _ = 2 ^ 64 := by norm_num)
  have hsq : (r : ℝ) = √(2 ^ 64 / m) ↔ r * r * m = 2 ^ 64 := by
    rw [eq_comm, Real.sqrt_eq_iff_mul_self_eq (by positivity) (Nat.cast_nonneg r), div_eq_iff hposr.ne']
    exact_mod_cast eq_comm
  refine ⟨?_, ?_, ?_, by rw [decide_eq_true_iff, Ne, Ne, hsq]⟩
  · by_contra hc
    have : (r + 1) * (r + 1) ≤ 2 ^ 13 * 2 ^ 13 := Nat.mul_le_mul (by omega) (by omega)
    omega
  · rw [Real.le_sqrt (Nat.cast_nonneg r) (by positivity), le_div_iff₀ hposr, sq]
    exact_mod_cast (Nat.le_div_iff_mul_le hpos).1 h1
  · rw [Real.sqrt_lt (by positivity) (by positivity), div_lt_iff₀ hposr, sq]
    exact_mod_cast (Nat.div_lt_iff_lt_mul hpos).1 h2

/-- What is nearer to the greater of two values lies above their midpoint, and what is nearer to the less below it. -/
theorem add_le_of_nearer {Y a b : ℝ} (hab : a < b) (h : |Y - b| ≤ |Y - a|) : a + b ≤ 2 * Y := by
  have hsq := sq_le_sq.2 h
  by_contra hc
  have : 0 < (b - a) * (a + b - 2 * Y) := mul_pos (by linarith) (by linarith)
  linarith [show (Y - b) ^ 2 - (Y - a) ^ 2 = (b - a) * (a + b - 2 * Y) by ring]

theorem le_add_of_nearer {Y a b : ℝ} (hab : a < b) (h : |Y - a| ≤ |Y - b|) : 2 * Y ≤ b + a := by
  have hsq := sq_le_sq.2 h
  by_contra hc
  have : 0 < (b - a) * (2 * Y - (b + a)) := mul_pos (by linarith) (by linarith)
  linarith [show (Y - a) ^ 2 - (Y - b) ^ 2 = (b - a) * (2 * Y - (b + a)) by ring]

section
variable {u : ℚ} (hlow : (2 : ℚ) ^ (-149 : ℤ) ≤ u) (hhigh : u < 2 ^ (128 : ℤ)) {Y : ℝ} (hY : 0 < Y) (hsq : (u : ℝ) * Y ^ 2 = 1)
include hlow hhigh hY hsq

/-- The reciprocal of the root of an FP32 value is far from the ends of the range. -/
theorem root_bounds : (2 : ℝ) ^ (-64 : ℤ) < Y ∧ Y < 2 ^ (75 : ℤ) := by
  have hu : (0 : ℝ) < u := Rat.cast_pos.2 ((two_zpow_pos _).trans_le hlow)
  have h1 : (2 : ℝ) ^ (-149 : ℤ) ≤ u := by simpa using (Rat.cast_le (K := ℝ)).2 hlow
  have h2 : (u : ℝ) < 2 ^ (128 : ℤ) := by simpa using (Rat.cast_lt (K := ℝ)).2 hhigh
  have hsq2 : ∀ z : ℝ, 0 ≤ z → (u * z ^ 2 < 1 ↔ z < Y) := fun z hz => by
    rw [← hsq, mul_lt_mul_iff_right₀ hu, pow_lt_pow_iff_left₀ hz hY.le two_ne_zero]
  have hsq3 : ∀ z : ℝ, 0 ≤ z → (1 < u * z ^ 2 ↔ Y < z) := fun z hz => by
    rw [← hsq, mul_lt_mul_iff_right₀ hu, pow_lt_pow_iff_left₀ hY.le hz two_ne_zero]
  refine ⟨(hsq2 _ (by positivity)).1 ?_, (hsq3 _ (by positivity)).1 ?_⟩
  · calc (u : ℝ) * (2 ^ (-64 : ℤ)) ^ 2 < 2 ^ (128 : ℤ) * (2 ^ (-64 : ℤ)) ^ 2 := mul_lt_mul_of_pos_right h2 (by positivity)
      _ = 1 := by norm_num
  · calc (1 : ℝ) < 2 ^ (-149 : ℤ) * (2 ^ (75 : ℤ)) ^ 2 := by norm_num
      _ ≤ u * (2 ^ (75 : ℤ)) ^ 2 := mul_le_mul_of_nonneg_right h1 (by positivity)

variable {y : ℚ} (hnear : ∀ w, seedPoint w → |Y - (y : ℝ)| ≤ |Y - (w : ℝ)|)
include hnear

/-- So is the nearest seed. -/
theorem root_seed_bounds : (2 : ℚ) ^ (-126 : ℤ) ≤ y ∧ y < 2 ^ (128 : ℤ) := by
  obtain ⟨h1, h2⟩ := root_bounds hlow hhigh hY hsq
  have hseed : ∀ q : ℤ, -149 ≤ q → |Y - (y : ℝ)| ≤ |Y - 2 ^ q| := fun q hq => by
    simpa using hnear (2 ^ q) ⟨1, q, by norm_num, hq, by simp⟩
  constructor
  · by_contra hc
    have hc' : (y : ℝ) < 2 ^ (-126 : ℤ) := by simpa using (Rat.cast_lt (K := ℝ)).2 (not_le.1 hc)
    have h := hseed (-64) (by norm_num)
    have hlt : (2 : ℝ) ^ (-126 : ℤ) < 2 ^ (-64 : ℤ) := by norm_num
    rw [abs_of_pos (by linarith), abs_of_pos (by linarith)] at h
    linarith
  · by_contra hc
    have hc' : (2 : ℝ) ^ (128 : ℤ) ≤ y := by simpa using (Rat.cast_le (K := ℝ)).2 (not_lt.1 hc)
    have h := hseed 75 (by norm_num)
    have hlt : (2 : ℝ) ^ (75 : ℤ) < 2 ^ (128 : ℤ) := by norm_num
    rw [abs_of_neg (by linarith), abs_of_neg (by linarith)] at h
    linarith

variable (hy : 0 < y)
include hy

omit hhigh in
/-- The nearest seed, told by the squares of the midpoints. -/
theorem root_nearest {w : ℚ} (hw : seedPoint w) (hw0 : 0 ≤ w) : (w < y → u * (w + y) ^ 2 ≤ 4) ∧ (y < w → 4 ≤ u * (w + y) ^ 2) := by
  have hu : (0 : ℝ) ≤ u := Rat.cast_nonneg.2 ((two_zpow_pos _).le.trans hlow)
  have h := hnear w hw
  have hwr : (0 : ℝ) ≤ w := Rat.cast_nonneg.2 hw0
  have hyr : (0 : ℝ) < y := Rat.cast_pos.2 hy
  have hfour : (u : ℝ) * (2 * Y) ^ 2 = 4 := by rw [mul_pow, ← mul_assoc, mul_comm (u : ℝ), mul_assoc, hsq]; norm_num
  refine ⟨fun hlt => ?_, fun hlt => ?_⟩
  · have hltr : (w : ℝ) < y := Rat.cast_lt.2 hlt
    have hsum := add_le_of_nearer hltr h
    have : (u : ℝ) * (w + y) ^ 2 ≤ 4 := hfour ▸ mul_le_mul_of_nonneg_left (pow_le_pow_left₀ (by positivity) hsum 2) hu
    exact_mod_cast this
  · have hltr : (y : ℝ) < w := Rat.cast_lt.2 hlt
    have hsum := le_add_of_nearer hltr h
    have : 4 ≤ (u : ℝ) * (w + y) ^ 2 := hfour ▸ mul_le_mul_of_nonneg_left (pow_le_pow_left₀ (by positivity) hsum 2) hu
    exact_mod_cast this

omit hlow hhigh hnear in
theorem root_exact_iff : u * y ^ 2 = 1 ↔ Y = y := by
  have hyr : (0 : ℝ) < y := Rat.cast_pos.2 hy
  have hu : (u : ℝ) ≠ 0 := fun h => by simp [h] at hsq
  have hcast : u * y ^ 2 = 1 ↔ (u : ℝ) * (y : ℝ) ^ 2 = 1 := by norm_cast
  rw [hcast, ← hsq, mul_right_inj' hu, pow_left_inj₀ hyr.le hY.le two_ne_zero, eq_comm]

end

/-- R45: VRSQS of a positive value: the nearest to the root's reciprocal, told by squares. -/
theorem rsqrt13_nearest {x : Nat} {m : Nat} {e : ℤ} (hv : fmtFP32.value x = .fin false m e) (hm : m ≠ 0) :
    let u := (Num.fin false m e).real
    let s := rsqrt13 (.fin false m e)
    ∃ r : ℚ, seedPoint r ∧ 0 < r ∧ (fmtFP32.value s.1).finite = true ∧ (fmtFP32.value s.1).real = r
      ∧ (∀ w, seedPoint w → 0 ≤ w → (w < r → u * (w + r) ^ 2 ≤ 4) ∧ (r < w → 4 ≤ u * (w + r) ^ 2))
      ∧ s.2 = flagIf (decide (u * r ^ 2 ≠ 1)) flagNX := by
  obtain ⟨hlt, helow, hhigh⟩ := fp32_value_bounds hv
  have hlow : (2 : ℚ) ^ (-149 : ℤ) ≤ m * 2 ^ e :=
    (two_zpow_le helow).trans (le_mul_of_one_le_left (two_zpow_pos e).le (by exact_mod_cast Nat.one_le_iff_ne_zero.2 hm))
  have hm2 : evenMag m e ≠ 0 ∧ evenMag m e < 2 ^ 25 := by rw [evenMag]; split <;> omega
  obtain ⟨hr, hlo, hhi, hst⟩ := rsqrt_root hm2.1 hm2.2
  have hposr : (0 : ℝ) < evenMag m e := Nat.cast_pos.2 (Nat.pos_of_ne_zero hm2.1)
  have hY : 0 < √(2 ^ 64 / (evenMag m e : ℝ)) * 2 ^ (-(evenExp e / 2) - 32) := by positivity
  have hsq : (((m : ℚ) * 2 ^ e : ℚ) : ℝ) * (√(2 ^ 64 / (evenMag m e : ℝ)) * 2 ^ (-(evenExp e / 2) - 32)) ^ 2 = 1 := by
    have hexp : ((2 : ℝ) ^ (-(evenExp e / 2) - 32)) ^ 2 = 2 ^ (-evenExp e) / 2 ^ 64 := by
      rw [← zpow_natCast, ← zpow_mul, show (-(evenExp e / 2) - 32) * ((2 : ℕ) : ℤ) = -evenExp e - 64 by have := evenExp_half e; push_cast; omega,
        zpow_sub₀ (by norm_num)]
      norm_num
    rw [← evenMag_real m e, mul_pow, Real.sq_sqrt (by positivity), hexp, zpow_neg]
    push_cast
    field_simp
  have hs : rsqrt13 (.fin false m e) = round13 false (isqrtBits (2 ^ 64 / evenMag m e) 33 0)
      (decide (isqrtBits (2 ^ 64 / evenMag m e) 33 0 * isqrtBits (2 ^ 64 / evenMag m e) 33 0 * evenMag m e ≠ 2 ^ 64)) (-(evenExp e / 2) - 32) := by
    rw [rsqrt13, if_neg hm]; rfl
  dsimp only
  rw [hs, real_fin, signOf_false, one_mul]
  obtain ⟨y, hpoint, hy, hnear, -, hfits⟩ := round13_delivers hr hlo hhi hst false
    (le_trans (by norm_num) (root_bounds hlow hhigh hY hsq).1.le)
  obtain ⟨hb1, hb2⟩ := root_seed_bounds hlow hhigh hY hsq hnear
  obtain ⟨hfin, hval, hexact, hinexact⟩ := hfits hb2
  refine ⟨y, hpoint, hy, hfin, by simpa using hval, fun w hw hw0 => root_nearest hlow hY hsq hnear hy hw hw0, ?_⟩
  have hiff := root_exact_iff hY hsq hy
  by_cases heq : √(2 ^ 64 / (evenMag m e : ℝ)) * 2 ^ (-(evenExp e / 2) - 32) = y
  · rw [hexact heq, decide_eq_false (not_not.2 (hiff.2 heq))]
    rfl
  · rw [hinexact heq, decide_eq_true (mt hiff.1 heq), decide_eq_false (not_lt.2 hb1)]
    simp [flagIf]

end Sys2Proof.Machine
end

section
/-!
A chunk of the loom (R48, R49, R53): one rounding of the exact sum, or the sum of the terms kept in the window of R49.
-/
namespace Sys2Proof.Machine

/-! ## The terms of a chunk -/

/-- The products of a chunk as the model takes them. -/
def products (ps : List (Num × Num)) : List (Num × Flags) := ps.map (fun p => p.1.mul p.2)

/-- The accumulator element and the products. -/
def chunkTerms (acc : Nat) (ps : List (Num × Num)) : List Num := fmtFP32.value acc :: ps.map (fun p => (p.1.mul p.2).1)

theorem products_fst (ps : List (Num × Num)) : (products ps).map Prod.fst = ps.map (fun p => (p.1.mul p.2).1) := by
  simp [products, Function.comp_def]

/-- A product is flagged just when it is 0 × ∞. -/
theorem products_invalid (ps : List (Num × Num)) :
    (products ps).any (fun p => decide (p.2 = flagNV)) = ps.any (fun p => badProduct p.1 p.2) := by
  rw [products, List.any_map]
  congr 1
  funext p
  have h0 : ¬ (0#5 = flagNV) := by decide
  cases hb : badProduct p.1 p.2 <;> simp [mul_flags, hb, h0]

/-- What a chunk of finite terms gives. -/
def chunkSum (window : Bool) (acc : Nat) (ps : List (Num × Num)) : Nat × Flags :=
  if window then
    if (chunkTerms acc ps).all Num.isZero then (zeroSum (chunkTerms acc ps), 0)
    else windowRound (windowSum ((chunkTerms acc ps).map Num.at)).1 (windowSum ((chunkTerms acc ps).map Num.at)).2.1
      (windowSum ((chunkTerms acc ps).map Num.at)).2.2
  else
    let s := sumAt ((ps.map (fun p => (p.1.mul p.2).1)).map Num.at)
    let r := addAt (fmtFP32.value acc).at.1 (fmtFP32.value acc).at.2 s.1 s.2
    fmtFP32.roundFloat (Num.ofInt r.1 r.2 ((chunkTerms acc ps).all (fun t => t.isZero && t.isNeg))) .rne false

/-- What is decided before a sum is formed, and in which order. -/
theorem chunkAdd_eq (window : Bool) (acc : Nat) (ps : List (Num × Num)) :
    chunkAdd window acc (products ps) =
      if (ps.any (fun p => badProduct p.1 p.2) || (hasInfOf false (chunkTerms acc ps) && hasInfOf true (chunkTerms acc ps))) = true then
          (fmtFP32.nan, flagNV)
      else if anyNan (chunkTerms acc ps) = true then (fmtFP32.nan, 0)
      else if hasInfOf false (chunkTerms acc ps) = true then (fmtFP32.infCode, 0)
      else if hasInfOf true (chunkTerms acc ps) = true then (fmtFP32.withSign true fmtFP32.infCode, 0)
      else chunkSum window acc ps := by
  rw [← products_invalid, chunkTerms, ← products_fst]
  unfold chunkSum
  rw [chunkTerms, ← products_fst]
  rfl

/-- R53: what is decided before any sum is formed. -/
theorem chunkAdd_special (window : Bool) (acc : Nat) (ps : List (Num × Num)) :
    let us := chunkTerms acc ps
    let r := chunkAdd window acc (products ps)
    (ps.any (fun p => badProduct p.1 p.2) = true ∨ (Num.inf true ∈ us ∧ Num.inf false ∈ us) → r = (0x7FC00000, flagNV))
    ∧ (ps.any (fun p => badProduct p.1 p.2) = false → ¬ (Num.inf true ∈ us ∧ Num.inf false ∈ us) → Num.nan ∈ us → r = (0x7FC00000, 0))
    ∧ (∀ n, ps.any (fun p => badProduct p.1 p.2) = false → Num.nan ∉ us → Num.inf n ∈ us → Num.inf (!n) ∉ us →
        r = (0x7F800000 + (if n then 2147483648 else 0), 0)) := by
  intro us r
  have hinv : ((hasInfOf false us && hasInfOf true us) = true) ↔ Num.inf true ∈ us ∧ Num.inf false ∈ us := by
    rw [Bool.and_eq_true, hasInfOf_iff, hasInfOf_iff, and_comm]
  have hr : r = _ := chunkAdd_eq window acc ps
  refine ⟨fun h => ?_, fun hb hi hn => ?_, fun n hb hn hi hi' => ?_⟩
  · rw [hr, if_pos (by rwa [Bool.or_eq_true, hinv])]; rfl
  · rw [hr, if_neg (by rw [hb, Bool.false_or, hinv]; exact hi), if_pos (anyNan_iff.2 hn)]; rfl
  · have hnot : ¬ (Num.inf true ∈ us ∧ Num.inf false ∈ us) := fun ⟨ht, hf⟩ => hi' (by cases n <;> assumption)
    rw [hr, if_neg (by rw [hb, Bool.false_or, hinv]; exact hnot), if_neg (mt anyNan_iff.1 hn)]
    cases n with
    | false => rw [if_pos (hasInfOf_iff.2 hi)]; rfl
    | true => rw [if_neg (mt (hasInfOf_iff (n := false)).1 hi'), if_pos (hasInfOf_iff.2 hi)]; rfl

/-- A product of finite numbers is finite: its value, whether it is 0, and its sign. -/
theorem mul_finite {u v : Num} (hu : u.finite = true) (hv : v.finite = true) :
    badProduct u v = false ∧ (u.mul v).1.finite = true ∧ (u.mul v).1.real = u.real * v.real
      ∧ (u.mul v).1.isZero = (u.isZero || v.isZero) ∧ (u.mul v).1.isNeg = (u.isNeg != v.isNeg) := by
  match u, v with
  | .fin n1 m1 e1, .fin n2 m2 e2 =>
    exact ⟨by simp [badProduct, Num.isInf], rfl, real_mul_fin n1 n2 m1 m2 e1 e2, by simp [Num.mul, Num.isZero], rfl⟩

/-- Every term is −0: the accumulator is, and so is every product. -/
def allNegZero (acc : Nat) (ps : List (Num × Num)) : Bool :=
  (fmtFP32.value acc).isZero && (fmtFP32.value acc).isNeg && ps.all (fun p => (p.1.isZero || p.2.isZero) && (p.1.isNeg != p.2.isNeg))

section
variable {acc : Nat} {ps : List (Num × Num)} (hacc : (fmtFP32.value acc).finite = true)
  (hps : ∀ p ∈ ps, p.1.finite = true ∧ p.2.finite = true)
include hacc hps

theorem chunkTerms_finite : ∀ u ∈ chunkTerms acc ps, u.finite = true := by
  intro u hu
  rcases List.mem_cons.1 hu with rfl | hu
  · exact hacc
  · obtain ⟨p, hp, rfl⟩ := List.mem_map.1 hu
    exact (mul_finite (hps p hp).1 (hps p hp).2).2.1

omit hacc in
theorem chunkTerms_real : (chunkTerms acc ps).map Num.real = (fmtFP32.value acc).real :: ps.map (fun p => p.1.real * p.2.real) := by
  rw [chunkTerms, List.map_cons, List.map_map]
  congr 1
  exact List.map_congr_left fun p hp => (mul_finite (hps p hp).1 (hps p hp).2).2.2.1

omit hacc in
theorem chunkTerms_allNegZero : (chunkTerms acc ps).all (fun t => t.isZero && t.isNeg) = allNegZero acc ps := by
  rw [chunkTerms, List.all_cons, List.all_map, allNegZero]
  congr 1
  rw [Bool.eq_iff_iff, List.all_eq_true, List.all_eq_true]
  refine forall₂_congr fun p hp => ?_
  obtain ⟨-, -, -, hzero, hneg⟩ := mul_finite (hps p hp).1 (hps p hp).2
  simp only [Function.comp, hzero, hneg]

/-- A chunk of finite terms is summed. -/
theorem chunkAdd_finite (window : Bool) : chunkAdd window acc (products ps) = chunkSum window acc ps := by
  obtain ⟨hn, hi⟩ := finite_not_special (chunkTerms_finite hacc hps)
  have hbad : ps.any (fun p => badProduct p.1 p.2) = false := by
    rw [List.any_eq_false]
    exact fun p hp => by simp [(mul_finite (hps p hp).1 (hps p hp).2).1]
  rw [chunkAdd_eq, hbad, hasInfOf_eq_false (hi false), hasInfOf_eq_false (hi true), anyNan_eq_false hn]
  rfl

/-- R48: the exact sum, rounded once. -/
theorem chunkAdd_exact : fmtFP32.landsAs .rne false (((fmtFP32.value acc).real :: ps.map (fun p => p.1.real * p.2.real)).sum)
    (allNegZero acc ps) (chunkAdd false acc (products ps)) := by
  rw [chunkAdd_finite hacc hps, chunkSum, if_neg (by simp), ← chunkTerms_real hps, ← chunkTerms_allNegZero hps]
  refine landsAs_ofInt floatFmt_fp32 .rne false ?_
  rw [Prod.mk.eta, atReal_addAt, Prod.mk.eta, Prod.mk.eta, atReal_at, atReal_sumAt_map_at]
  rfl

omit hacc hps in
theorem isZero_iff_real {u : Num} (hu : u.finite = true) : u.isZero = true ↔ u.real = 0 := by
  match u with
  | .fin n m e => rw [real_fin_eq_zero]; simp [Num.isZero]

/-- R49: terms that are all 0. -/
theorem chunkAdd_zeros (hzero : ∀ t ∈ ((fmtFP32.value acc).real :: ps.map (fun p => p.1.real * p.2.real)), t = 0) :
    chunkAdd true acc (products ps) = (if allNegZero acc ps then 2147483648 else 0, 0) := by
  rw [← chunkTerms_real hps] at hzero
  have hall : ∀ u ∈ chunkTerms acc ps, u.isZero = true := fun u hu =>
    (isZero_iff_real (chunkTerms_finite hacc hps u hu)).2 (hzero _ (List.mem_map_of_mem hu))
  have hneg : (chunkTerms acc ps).all (fun t => t.isNeg) = (chunkTerms acc ps).all (fun t => t.isZero && t.isNeg) := by
    rw [Bool.eq_iff_iff, List.all_eq_true, List.all_eq_true]
    exact forall₂_congr fun u hu => by rw [hall u hu, Bool.true_and]
  rw [chunkAdd_finite hacc hps, chunkSum, if_pos rfl, if_pos (List.all_eq_true.2 hall), zeroSum, hneg, chunkTerms_allNegZero hps]
  rfl

end

/-! ## The window of R49 -/

/-- The exponent of a term's leading bit. -/
def lead (t : ℤ × ℤ) : ℤ := (t.1.natAbs.log2 : ℤ) + t.2

/-- What is kept of a term at a step 2^q, in units of it, and whether something is dropped. -/
def keptInt (q : ℤ) (t : ℤ × ℤ) : ℤ :=
  if t.2 ≥ q then t.1 * (2 ^ (t.2 - q).toNat : Nat) else signed (t.1 < 0) (t.1.natAbs >>> (q - t.2).toNat)
def loses (q : ℤ) (t : ℤ × ℤ) : Bool := decide (t.2 < q) && decide ((t.1.natAbs >>> (q - t.2).toNat) <<< (q - t.2).toNat ≠ t.1.natAbs)

theorem abs_atReal (t : ℤ × ℤ) : |atReal t| = t.1.natAbs * 2 ^ t.2 := by
  rw [atReal, abs_mul, abs_of_pos (two_zpow_pos t.2)]
  rw [Nat.cast_natAbs, Int.cast_abs]

theorem atReal_neg_iff (t : ℤ × ℤ) : atReal t < 0 ↔ t.1 < 0 := by
  rw [atReal, mul_neg_iff]
  simp [two_zpow_pos, (two_zpow_pos _).le]

theorem keptOf_atReal (q : ℤ) (t : ℤ × ℤ) : keptOf q (atReal t) = keptInt q t * 2 ^ q := by
  have hfloor : ⌊|atReal t| / 2 ^ q⌋ = if t.2 ≥ q then (t.1.natAbs * (2 ^ (t.2 - q).toNat : Nat) : ℤ)
      else ((t.1.natAbs >>> (q - t.2).toNat : ℕ) : ℤ) := by
    rw [abs_atReal]
    split
    next h =>
      rw [two_zpow_toNat h, ← mul_assoc, mul_div_cancel_right₀ _ (two_zpow_pos q).ne']
      exact_mod_cast Int.floor_natCast (R := ℚ) (t.1.natAbs * 2 ^ (t.2 - q).toNat)
    next h =>
      rw [two_zpow_toNat (a := q) (b := t.2) (by omega), mul_div_mul_right _ _ (two_zpow_pos _).ne', ← Int.natCast_floor_eq_floor (by positivity),
        Nat.floor_div_eq_div, Nat.shiftRight_eq_div_pow]
  rw [keptOf, hfloor]
  congr 1
  simp only [atReal_neg_iff, keptInt, signed]
  have habs : (t.1.natAbs : ℤ) = |t.1| := Int.natCast_natAbs t.1
  by_cases hneg : t.1 < 0
  · simp only [hneg, decide_true, if_true]
    rw [habs, abs_of_neg hneg]
    split <;> push_cast <;> ring
  · simp only [hneg, decide_false, if_false, Bool.false_eq_true]
    rw [habs, abs_of_nonneg (not_lt.1 hneg)]
    split <;> push_cast <;> ring

theorem loses_iff (q : ℤ) (t : ℤ × ℤ) : loses q t = true ↔ keptOf q (atReal t) ≠ atReal t := by
  rw [keptOf_atReal, loses, Bool.and_eq_true, decide_eq_true_iff, decide_eq_true_iff, keptInt]
  rcases le_or_gt q t.2 with h | h
  · rw [if_pos h, atReal, two_zpow_toNat h]
    refine iff_of_false (fun hc => by omega) (not_not.2 ?_)
    push_cast
    ring
  · rw [if_neg (by omega), atReal, two_zpow_toNat (a := q) (b := t.2) h.le, ← mul_assoc, Ne, Ne, mul_left_inj' (two_zpow_pos _).ne',
      Nat.shiftLeft_eq, and_iff_right h, not_iff_not]
    generalize 2 ^ (q - t.2).toNat = p
    generalize t.1.natAbs >>> (q - t.2).toNat = k
    have hcast : ((signed (decide (t.1 < 0)) k : ℤ) : ℚ) * (p : ℚ) = (t.1 : ℚ) ↔ signed (decide (t.1 < 0)) k * (p : ℤ) = t.1 := by norm_cast
    rw [hcast, signed]
    by_cases hneg : t.1 < 0
    · simp only [hneg, decide_true, if_true, neg_mul, ← Nat.cast_mul]
      omega
    · simp only [hneg, decide_false, Bool.false_eq_true, if_false, ← Nat.cast_mul]
      omega

/-- The largest leading exponent. -/
theorem foldl_max_lead (l : List (ℤ × ℤ)) : ∀ a, a ≤ l.foldl (fun a t => max a (lead t)) a ∧ (∀ t ∈ l, lead t ≤ l.foldl (fun a t => max a (lead t)) a)
    ∧ (l.foldl (fun a t => max a (lead t)) a = a ∨ ∃ t ∈ l, lead t = l.foldl (fun a t => max a (lead t)) a) := by
  induction l with
  | nil => simp
  | cons t l ih =>
    intro a
    obtain ⟨h1, h2, h3⟩ := ih (max a (lead t))
    rw [List.foldl_cons]
    refine ⟨(le_max_left _ _).trans h1, fun s hs => ?_, ?_⟩
    · rcases List.mem_cons.1 hs with rfl | hs
      · exact (le_max_right _ _).trans h1
      · exact h2 s hs
    · rcases h3 with h3 | ⟨s, hs, h3⟩
      · rcases max_choice a (lead t) with h | h
        · exact .inl (h3.trans h)
        · exact .inr ⟨t, List.mem_cons_self, (h3.trans h).symm⟩
      · exact .inr ⟨s, List.mem_cons_of_mem _ hs, h3⟩

theorem lead_bounds {t : ℤ × ℤ} (ht : t.1 ≠ 0) : (2 : ℚ) ^ lead t ≤ |atReal t| ∧ |atReal t| < 2 ^ (lead t + 1) := by
  rw [abs_atReal]
  exact magnitude_bounds (by omega) t.2

/-- A term is added in the window: its kept part to the sum, and whether it dropped something to the sticky bit. -/
def windowAdd (q : ℤ) (a : ℤ × ℤ × Bool) (t : ℤ × ℤ) : ℤ × ℤ × Bool := (a.1 + keptInt q t, a.2.1, a.2.2 || loses q t)

theorem windowAdd_eq (q : ℤ) : windowAdd q = fun (a : ℤ × ℤ × Bool) (t : ℤ × ℤ) =>
    if t.2 ≥ q then (a.1 + t.1 * (2 ^ (t.2 - q).toNat : Nat), a.2.1, a.2.2)
    else
      let sh := (q - t.2).toNat
      let k := t.1.natAbs >>> sh
      (a.1 + signed (t.1 < 0) k, a.2.1, a.2.2 || decide (k <<< sh ≠ t.1.natAbs)) := by
  funext a t
  rcases le_or_gt q t.2 with h | h
  · simp [h, not_lt.2 h, keptInt, loses, windowAdd]
  · simp [not_le.2 h, h, keptInt, loses, windowAdd]

theorem foldl_windowAdd (q : ℤ) (l : List (ℤ × ℤ)) : ∀ a,
    l.foldl (windowAdd q) a = (a.1 + (l.map (keptInt q)).sum, a.2.1, a.2.2 || l.any (loses q)) := by
  induction l with
  | nil => simp
  | cons t l ih => intro a; simp [ih, windowAdd, add_assoc, Bool.or_assoc]

/-- The window's sum of terms of which one is not 0. -/
theorem windowSum_eq {terms : List (ℤ × ℤ)} {t0 : ℤ × ℤ} {rest : List (ℤ × ℤ)} (hl : terms.filter (fun t => t.1 ≠ 0) = t0 :: rest) :
    let q := rest.foldl (fun a t => max a (lead t)) (lead t0) - 63
    windowSum terms = (((t0 :: rest).map (keptInt q)).sum, q, (t0 :: rest).any (loses q)) := by
  intro q
  have hsum : windowSum terms = (t0 :: rest).foldl (windowAdd q) (0, q, false) := by
    rw [windowSum, hl, windowAdd_eq]
    rfl
  rw [hsum, foldl_windowAdd]
  simp

/-- Terms that are 0 add nothing and drop nothing. -/
theorem sum_keptInt_filter (q : ℤ) (l : List (ℤ × ℤ)) :
    ((l.filter (fun t => t.1 ≠ 0)).map (keptInt q)).sum = (l.map (keptInt q)).sum
        ∧ (l.filter (fun t => t.1 ≠ 0)).any (loses q) = l.any (loses q) := by
  induction l with
  | nil => simp
  | cons t l ih =>
    by_cases ht : t.1 = 0
    · have hk : keptInt q t = 0 := by simp [keptInt, ht, signed]
      have hl : loses q t = false := by simp [loses, ht]
      rw [List.filter_cons_of_neg (by simpa using ht), List.map_cons, List.sum_cons, List.any_cons, hk, hl]
      simpa using ih
    · rw [List.filter_cons_of_pos (by simpa using ht), List.map_cons, List.sum_cons, List.any_cons, List.map_cons, List.sum_cons, List.any_cons,
        ih.1, ih.2]
      exact ⟨rfl, rfl⟩

theorem sum_keptInt_cast (q : ℤ) (l : List (ℤ × ℤ)) :
    (((l.map (keptInt q)).sum : ℤ) : ℚ) * 2 ^ q = keptSum q (l.map atReal) := by
  induction l with
  | nil => simp [keptSum]
  | cons t l ih =>
    rw [keptSum, List.map_cons, List.map_cons, List.map_cons, List.sum_cons, List.sum_cons, keptOf_atReal, ← keptSum, ← ih]
    push_cast
    ring

/-- A term that is not 0 leads at most 63 above the step, and one leads exactly there. -/
theorem lead_of_windowStep {terms : List (ℤ × ℤ)} {q : ℤ} (hstep : windowStep (terms.map atReal) q) :
    (∀ t ∈ terms.filter (fun t => t.1 ≠ 0), lead t ≤ q + 63) ∧ ∃ t ∈ terms.filter (fun t => t.1 ≠ 0), lead t = q + 63 := by
  obtain ⟨hall, _, hmem, hbig⟩ := hstep
  have hle : ∀ t ∈ terms.filter (fun t => t.1 ≠ 0), lead t ≤ q + 63 := fun t ht => by
    obtain ⟨hin, h0⟩ := List.mem_filter.1 ht
    have h0 : t.1 ≠ 0 := by simpa using h0
    have := two_zpow_lt_iff.1 ((lead_bounds h0).1.trans_lt (hall _ (List.mem_map_of_mem hin)))
    omega
  obtain ⟨t1, ht1, rfl⟩ := List.mem_map.1 hmem
  have hne : t1.1 ≠ 0 := fun h => by
    rw [abs_atReal, h] at hbig
    simp at hbig
    exact absurd hbig (not_le.2 (two_zpow_pos _))
  have hin : t1 ∈ terms.filter (fun t => t.1 ≠ 0) := List.mem_filter.2 ⟨ht1, by simpa using hne⟩
  have hge := two_zpow_lt_iff.1 (hbig.trans_lt (lead_bounds hne).2)
  have := hle t1 hin
  exact ⟨hle, t1, hin, by omega⟩

/-- A maximum over a list is the bound that one of its members reaches. -/
theorem foldl_max_lead_eq {t0 : ℤ × ℤ} {rest : List (ℤ × ℤ)} {b : ℤ} (hle : ∀ t ∈ t0 :: rest, lead t ≤ b)
    (hex : ∃ t ∈ t0 :: rest, lead t = b) : rest.foldl (fun a t => max a (lead t)) (lead t0) = b := by
  obtain ⟨h1, h2, h3⟩ := foldl_max_lead rest (lead t0)
  refine le_antisymm ?_ ?_
  · rcases h3 with h3 | ⟨t, ht, h3⟩
    · rw [h3]; exact hle t0 List.mem_cons_self
    · rw [← h3]; exact hle t (List.mem_cons_of_mem _ ht)
  · obtain ⟨t1, ht1, rfl⟩ := hex
    rcases List.mem_cons.1 ht1 with rfl | ht
    · exact h1
    · exact h2 _ ht

/-- R49's window: its step is that of the largest term, its sum that of the kept parts. -/
theorem windowSum_spec {terms : List (ℤ × ℤ)} {q : ℤ} (hstep : windowStep (terms.map atReal) q) :
    ∃ n sticky, windowSum terms = (n, q, sticky) ∧ (n : ℚ) * 2 ^ q = keptSum q (terms.map atReal)
      ∧ (sticky = true ↔ ∃ t ∈ terms.map atReal, keptOf q t ≠ t) := by
  refine ⟨(terms.map (keptInt q)).sum, terms.any (loses q), ?_, sum_keptInt_cast q terms, ?_⟩
  · obtain ⟨hle, hex⟩ := lead_of_windowStep hstep
    obtain ⟨hsum, hany⟩ := sum_keptInt_filter q terms
    obtain ⟨t0, rest, hl⟩ := List.exists_cons_of_ne_nil (List.ne_nil_of_mem hex.choose_spec.1)
    have hw := windowSum_eq hl
    rw [hl] at hle hex hsum hany
    dsimp only at hw
    rw [hw, foldl_max_lead_eq hle hex, add_sub_cancel_right, hsum, hany]
  · rw [List.any_eq_true]
    simp [loses_iff]

end Sys2Proof.Machine
end

section
/-!
The last step of R49: the kept sum rounded to FP32, a halfway sum going away from zero where something was dropped; and the statement
about seeds and loom sums.
-/
namespace Sys2Proof.Machine

/-! ## Tininess grows with the value -/

theorem isTiny_neg {f : Fmt} {x : ℚ} (h : f.isTiny .rne x) : f.isTiny .rne (-x) := by
  obtain ⟨u, hu, hlt⟩ := h
  exact ⟨-u, roundsTo_neg hu, by rwa [abs_neg]⟩

theorem isTiny_signOf {f : Fmt} (neg : Bool) {x : ℚ} : f.isTiny .rne (signOf neg * x) ↔ f.isTiny .rne x := by
  cases neg with
  | false => simp
  | true => exact ⟨fun h => by simpa using isTiny_neg h, fun h => by simpa using isTiny_neg h⟩

/-- Nearest rounding keeps the order. -/
theorem rne_mono {f : Fmt} {bounded : Bool} {x x' u u' : ℚ} (hlt : x < x') (hu : f.roundsTo bounded .rne x u)
    (hu' : f.roundsTo bounded .rne x' u') : u ≤ u' := by
  by_contra hc
  have h1 := sq_le_sq.2 (hu.2 u' hu'.1).1
  have h2 := sq_le_sq.2 (hu'.2 u hu.1).1
  have : 0 < (u - u') * (x' - x) := mul_pos (by linarith) (by linarith)
  linarith [show ((x - u) ^ 2 - (x - u') ^ 2) + ((x' - u') ^ 2 - (x' - u) ^ 2) = 2 * ((u - u') * (x' - x)) by ring]

theorem tiny_of_tiny_succ {f : Fmt} (ht : 1 ≤ f.t) {neg : Bool} {m : Nat} (hm : m ≠ 0) {q : ℤ} (h : f.tiny neg (m + 1) q .rne = true) :
    f.tiny neg m q .rne = true := by
  rw [← isTiny_iff f (by omega) neg q (.inl ht), isTiny_signOf] at h
  rw [← isTiny_iff f hm neg q (.inl ht), isTiny_signOf]
  obtain ⟨u', hu', hlt⟩ := h
  have hu := roundsTo_pick_pos .rne (tie := fun n => decide (n % 2 = 1)) (lastPlace_unbounded f hm q) (magnitude_pos hm q).le fun _ _ => rfl
  refine ⟨_, hu, lt_of_le_of_lt ?_ hlt⟩
  rw [abs_of_nonneg (mul_nonneg (Nat.cast_nonneg _) (two_zpow_pos _).le)]
  refine (rne_mono ?_ hu hu').trans (le_abs_self u')
  push_cast
  linarith [two_zpow_pos q]

/-! ## The point that R49 chooses -/

/-- The nearest FP32 point of a kept sum; a tie goes away from zero where something was dropped, else to the even point. -/
def windowPoint (dropped : Prop) (s y : ℚ) : Prop :=
  fmtFP32.onGrid true y
    ∧ ∀ w, fmtFP32.onGrid true w → |s - y| ≤ |s - w|
      ∧ (w ≠ y → |s - y| = |s - w| → (dropped → |w| < |y|) ∧ (¬ dropped → fmtFP32.evenPoint true y))

theorem windowPoint_signOf {dropped : Prop} {s y : ℚ} (neg : Bool) (h : windowPoint dropped s y) :
    windowPoint dropped (signOf neg * s) (signOf neg * y) := by
  cases neg with
  | false => simpa using h
  | true =>
    simp only [signOf_true, neg_mul, one_mul]
    refine ⟨onGrid_neg h.1, fun w hw => ?_⟩
    obtain ⟨hle, htie⟩ := h.2 (-w) (onGrid_neg hw)
    have habs : ∀ v : ℚ, |-s - v| = |s - -v| := fun v => by rw [← abs_neg]; ring_nf
    rw [habs, habs, neg_neg, abs_neg]
    refine ⟨hle, fun hne heq => ?_⟩
    obtain ⟨h1, h2⟩ := htie (fun hc => hne (by rw [← hc, neg_neg])) heq
    exact ⟨fun hd => by simpa using h1 hd, fun hd => evenPoint_neg (h2 hd)⟩

/-- The kept sum is halfway between two FP32 values. -/
def halfSum (m : Nat) (q : ℤ) : Bool :=
  decide (q < fmtFP32.place m q) && decide (2 * (m % 2 ^ (fmtFP32.place m q - q).toNat) = 2 ^ (fmtFP32.place m q - q).toNat)

/-- The magnitude that R49 rounds to FP32: a halfway sum of which something was dropped counts one unit more. -/
def sumUp (sticky : Bool) (m : Nat) (q : ℤ) : Nat := if sticky && halfSum m q then m + 1 else m

theorem sumUp_of_half {m : Nat} {q : ℤ} (h : halfSum m q = true) : sumUp true m q = m + 1 := by simp [sumUp, h]
theorem sumUp_of_not {sticky : Bool} {m : Nat} {q : ℤ} (h : ¬ (sticky && halfSum m q) = true) : sumUp sticky m q = m := if_neg h
@[simp] theorem sumUp_false (m : Nat) (q : ℤ) : sumUp false m q = m := rfl

theorem sumUp_ne_zero {m : Nat} (hm : m ≠ 0) (sticky : Bool) (q : ℤ) : sumUp sticky m q ≠ 0 := by
  rw [sumUp]; split <;> omega

theorem tiny_of_tiny_sumUp {m : Nat} (hm : m ≠ 0) {neg sticky : Bool} {q : ℤ} (h : fmtFP32.tiny neg (sumUp sticky m q) q .rne = true) :
    fmtFP32.tiny neg m q .rne = true := by
  rw [sumUp] at h
  split at h
  · exact tiny_of_tiny_succ (by decide) hm h
  · exact h

/-- The magnitude of the FP32 point that R49 chooses. -/
def sumPoint (neg : Bool) (m : Nat) (q : ℤ) (sticky : Bool) : ℚ :=
  fmtFP32.significand neg (sumUp sticky m q) q .rne * 2 ^ fmtFP32.place (sumUp sticky m q) q

theorem sumPoint_nonneg (neg : Bool) (m : Nat) (q : ℤ) (sticky : Bool) : 0 ≤ sumPoint neg m q sticky :=
  mul_nonneg (Nat.cast_nonneg _) (two_zpow_pos _).le

/-- The code and the flags of R49's last step for a kept sum of sign `neg` and magnitude `m * 2 ^ q`. -/
def roundSum (neg : Bool) (m : Nat) (q : ℤ) (sticky : Bool) : Nat × Flags :=
  let r := fmtFP32.roundFin neg (sumUp sticky m q) q .rne false
  (r.1, r.2 ||| flagIf sticky flagNX ||| flagIf (sticky && fmtFP32.tiny neg m q .rne) flagUF)

theorem windowRound_eq {n q : ℤ} (hn : n ≠ 0) (sticky : Bool) : windowRound n q sticky = roundSum (decide (n < 0)) n.natAbs q sticky := by
  have h : windowRound n q sticky =
      let neg := decide (n < 0)
      let r := if (sticky && halfSum n.natAbs q) = true then fmtFP32.roundFin neg (n.natAbs + 1) q .rne false
        else fmtFP32.roundFin neg n.natAbs q .rne false
      (r.1, r.2 ||| flagIf sticky flagNX ||| flagIf (sticky && fmtFP32.tiny neg n.natAbs q .rne) flagUF) := by
    rw [windowRound, if_neg hn]; rfl
  rw [h, roundSum, sumUp]
  split <;> rfl

section
variable {m : Nat} (hm : m ≠ 0) (q : ℤ)

/-- The lower neighbour of the kept sum at its last place. -/
def sumFloor (m : Nat) (q : ℤ) : Nat := ⌊(m : ℚ) * 2 ^ q / 2 ^ fmtFP32.place m q⌋₊

theorem halfSum_iff : halfSum m q = true ↔ 2 * ((m : ℚ) * 2 ^ q / 2 ^ fmtFP32.place m q) = sumFloor m q + (sumFloor m q + 1) := by
  rw [halfSum, sumFloor]
  generalize fmtFP32.place m q = g
  rw [Bool.and_eq_true, decide_eq_true_iff, decide_eq_true_iff]
  rcases le_or_gt g q with h | h
  · refine iff_of_false (fun hc => by omega) fun hc => ?_
    rw [two_zpow_toNat h, ← mul_assoc, mul_div_cancel_right₀ _ (two_zpow_pos g).ne', ← Nat.cast_mul, Nat.floor_natCast] at hc
    linarith
  · rw [and_iff_right h, two_zpow_toNat (a := g) (b := q) h.le, mul_div_mul_right _ _ (two_zpow_pos q).ne', Nat.floor_div_eq_div, mul_div_assoc',
      div_eq_iff (by positivity)]
    have hsplit := Nat.div_add_mod' m (2 ^ (g - q).toNat)
    generalize 2 ^ (g - q).toNat = p at *
    have hcast : (2 * (m : ℚ) = (((m / p : ℕ) : ℚ) + (((m / p : ℕ) : ℚ) + 1)) * (p : ℚ)) ↔ 2 * m = (m / p + (m / p + 1)) * p := by norm_cast
    rw [hcast]
    constructor <;> intro hc <;> linarith

include hm

/-- The neighbours of the kept sum, between which there is no FP32 value. -/
theorem sumFloor_bounds :
    (sumFloor m q : ℚ) * 2 ^ fmtFP32.place m q ≤ m * 2 ^ q ∧ (m : ℚ) * 2 ^ q < (sumFloor m q + 1) * 2 ^ fmtFP32.place m q := by
  have hg := two_zpow_pos (fmtFP32.place m q)
  have hz := div_nonneg (magnitude_pos hm q).le hg.le
  exact ⟨(le_div_iff₀ hg).1 (Nat.floor_le hz), (div_lt_iff₀ hg).1 (Nat.lt_floor_add_one _)⟩

theorem sumFloor_gap {w : ℚ} (hw : fmtFP32.onGrid true w) :
    w ≤ (sumFloor m q : ℚ) * 2 ^ fmtFP32.place m q ∨ ((sumFloor m q : ℚ) + 1) * 2 ^ fmtFP32.place m q ≤ w :=
  grid_gap (lastPlace_bounded fmtFP32 hm q) (magnitude_pos hm q).le hw

theorem sumFloor_succ_onGrid : fmtFP32.onGrid true ((sumFloor m q + 1) * 2 ^ fmtFP32.place m q) := by
  have h : fmtFP32.onGrid true (((sumFloor m q + 1 : ℕ) : ℚ) * 2 ^ fmtFP32.place m q) :=
    onGrid_floor (lastPlace_bounded fmtFP32 hm q) (magnitude_pos hm q).le le_rfl
  simpa using h

omit hm in
/-- A halfway sum is the midpoint of its neighbours. -/
theorem sum_midpoint (hhalf : halfSum m q = true) :
    2 * ((m : ℚ) * 2 ^ q) = sumFloor m q * 2 ^ fmtFP32.place m q + (sumFloor m q + 1) * 2 ^ fmtFP32.place m q := by
  have h := (halfSum_iff q).1 hhalf
  rw [mul_div_assoc', div_eq_iff (two_zpow_pos _).ne'] at h
  rw [h]; ring

omit hm in
/-- What is nearest to a value above the midpoint of a gap is the upper end. -/
theorem eq_upper_of_nearest {a b x x' y : ℚ} (hmid : 2 * x = a + b) (hx : x < x') (hb : x' ≤ b) (hgap : y ≤ a ∨ b ≤ y)
    (hnear : |x' - y| ≤ |x' - b|) : y = b := by
  rw [abs_of_nonpos (by linarith : x' - b ≤ 0)] at hnear
  rcases hgap with h | h
  · rw [abs_of_nonneg (by linarith)] at hnear
    linarith
  · rw [abs_of_nonpos (by linarith)] at hnear
    linarith

/-- One more unit than a halfway sum is rounded up. -/
theorem significand_succ_of_half (neg : Bool) (hhalf : halfSum m q = true) :
    (fmtFP32.significand neg (m + 1) q .rne : ℚ) * 2 ^ fmtFP32.place (m + 1) q = (sumFloor m q + 1) * 2 ^ fmtFP32.place m q := by
  obtain ⟨hgrid, hnear⟩ := roundsTo_significand_rne fmtFP32 (Nat.succ_ne_zero m) neg q
  have hq := two_zpow_pos q
  have hlt : q < fmtFP32.place m q := by
    rw [halfSum, Bool.and_eq_true, decide_eq_true_iff] at hhalf
    exact hhalf.1
  have hsucc : ((m + 1 : ℕ) : ℚ) * 2 ^ q ≤ (sumFloor m q + 1) * 2 ^ fmtFP32.place m q := by
    have hhi := (sumFloor_bounds hm q).2
    rw [two_zpow_toNat hlt.le, ← mul_assoc] at hhi ⊢
    rw [mul_lt_mul_iff_left₀ hq] at hhi
    refine mul_le_mul_of_nonneg_right ?_ hq.le
    have hnat : m < (sumFloor m q + 1) * 2 ^ (fmtFP32.place m q - q).toNat := by exact_mod_cast hhi
    exact_mod_cast hnat
  refine eq_upper_of_nearest (sum_midpoint q hhalf) ?_ hsucc (sumFloor_gap hm q hgrid) (hnear _ (sumFloor_succ_onGrid hm q)).1
  push_cast
  linarith

/-- The significand that R49 chooses for a kept sum. -/
theorem windowPoint_of_sum (neg sticky : Bool) :
    windowPoint (sticky = true) (m * 2 ^ q) (sumPoint neg m q sticky) := by
  obtain ⟨hlo, hhi⟩ := sumFloor_bounds hm q
  have hnn : (0 : ℚ) ≤ sumFloor m q * 2 ^ fmtFP32.place m q := mul_nonneg (Nat.cast_nonneg _) (two_zpow_pos _).le
  by_cases hup : (sticky && halfSum m q) = true
  · obtain ⟨hst, hhalf⟩ := (Bool.and_eq_true _ _).mp hup
    have hmid := sum_midpoint q hhalf
    rw [sumPoint, hst, sumUp_of_half hhalf, significand_succ_of_half hm q neg hhalf]
    refine ⟨sumFloor_succ_onGrid hm q, fun w hw => ?_⟩
    refine ⟨(nearest_of_gap hlo hhi.le (.inr ⟨rfl, hmid.ge⟩) (sumFloor_gap hm q hw)).1, fun hne heq => ⟨fun _ => ?_, fun hd => absurd rfl hd⟩⟩
    rw [abs_of_nonpos (by linarith)] at heq
    rw [abs_of_pos (by linarith : 0 < (sumFloor m q + 1 : ℚ) * 2 ^ fmtFP32.place m q)]
    rcases abs_cases ((m : ℚ) * 2 ^ q - w) with ⟨h, -⟩ | ⟨h, -⟩
    · rw [show w = sumFloor m q * 2 ^ fmtFP32.place m q by linarith, abs_of_nonneg hnn]
      linarith
    · exact absurd (by linarith) hne
  · rw [sumPoint, sumUp_of_not hup]
    obtain ⟨hgrid, hnear⟩ := roundsTo_significand_rne fmtFP32 hm neg q
    refine ⟨hgrid, fun w hw => ⟨(hnear w hw).1, fun hne heq => ⟨fun hst => ?_, fun _ => (hnear w hw).2 hne heq (by decide)⟩⟩⟩
    have hhalf := (pick_nearest (tie := fmtFP32.tie neg (fmtFP32.place m q)) (lastPlace_bounded fmtFP32 hm q) (magnitude_pos hm q).le hw).2 hne heq
    exact absurd (by rw [hst, (halfSum_iff q).2 hhalf]; rfl) hup

end

/-! ## The rounded sum -/

theorem one_le_fp32_max : (1 : ℚ) ≤ (fmtFP32.value fmtFP32.maxCode).real := by
  rw [fp32_max]; norm_num

/-- The point chosen for a tiny sum is far below the greatest FP32 value. -/
theorem windowPoint_of_tiny {m : Nat} (hm : m ≠ 0) {q : ℤ} {neg : Bool} {dropped : Prop} {y : ℚ} (htiny : fmtFP32.tiny neg m q .rne = true)
    (hy : windowPoint dropped (m * 2 ^ q) y) : y ≤ (fmtFP32.value fmtFP32.maxCode).real := by
  have hlog : (m.log2 : ℤ) + q - fmtFP32.t < fmtFP32.emin := by
    simp only [Fmt.tiny, Bool.and_eq_true, decide_eq_true_eq] at htiny
    exact htiny.1
  have hemin : fmtFP32.emin + (fmtFP32.t : ℤ) = -126 := by decide
  have hx : (m : ℚ) * 2 ^ q < 1 := (magnitude_bounds hm q).2.trans_le ((two_zpow_le (by omega : _ ≤ (0 : ℤ))).trans_eq (zpow_zero 2))
  have h := (hy.2 1 ⟨1, 0, by decide, by decide, by norm_num⟩).1
  refine le_trans (not_lt.1 fun hlt => ?_) one_le_fp32_max
  rw [abs_of_neg (by linarith), abs_of_neg (by linarith)] at h
  linarith

/-- The flags of R49's last step: inexact where something was dropped or rounded away, and tiny by the kept sum. -/
theorem windowFlags {inexact sticky tiny tiny' : Bool} (hmono : tiny' = true → tiny = true) (hsame : sticky = false → tiny' = tiny)
    (h : inexact = true ∨ sticky = true) :
    flagIf inexact flagNX ||| flagIf (inexact && tiny') flagUF ||| flagIf sticky flagNX ||| flagIf (sticky && tiny) flagUF
      = if tiny then flagNX ||| flagUF else flagNX := by
  revert hmono hsame h
  cases inexact <;> cases sticky <;> cases tiny <;> cases tiny' <;> simp [flagIf, flagNX, flagUF]

section
variable {m : Nat} (hm : m ≠ 0) (q : ℤ) (neg sticky : Bool)

include hm

/-- A sum that rounds beyond the greatest finite value gives the infinity of its sign. -/
theorem roundSum_over (hover : (fmtFP32.value fmtFP32.maxCode).real < sumPoint neg m q sticky) :
    roundSum neg m q sticky = (0x7F800000 + (if neg then 2147483648 else 0), flagOF ||| flagNX) := by
  have htiny : fmtFP32.tiny neg m q .rne = false :=
    Bool.eq_false_of_not_eq_true fun h => absurd (windowPoint_of_tiny hm h (windowPoint_of_sum hm q neg sticky)) (not_le.2 hover)
  rw [roundSum, roundFin_over floatFmt_fp32 (sumUp_ne_zero hm sticky q) q .rne false hover, fp32_overflow, htiny]
  cases sticky <;> simp [flagIf, flagOF, flagNX]

/-- A sum that rounds within the finite values gives the code of the point. -/
theorem roundSum_fits (hfits : sumPoint neg m q sticky ≤ (fmtFP32.value fmtFP32.maxCode).real) :
    (∃ m1 e1, fmtFP32.value (roundSum neg m q sticky).1 = .fin neg m1 e1)
      ∧ (fmtFP32.value (roundSum neg m q sticky).1).real = signOf neg * sumPoint neg m q sticky
      ∧ (roundSum neg m q sticky).2 = if sticky = true ∨ sumPoint neg m q sticky ≠ m * 2 ^ q then
          (if fmtFP32.tiny neg m q .rne then flagNX ||| flagUF else flagNX) else 0 := by
  obtain ⟨c, hc, -, m1, e1, hfin, hval⟩ := roundFin_fits floatFmt_fp32 (sumUp_ne_zero hm sticky q) q .rne false (fun _ => rfl) hfits
  have hclass : fmtFP32.cls = .ieee := rfl
  rw [roundSum, hc]
  refine ⟨⟨m1, e1, by rw [hfin]; simp [hclass]⟩, hval, ?_⟩
  cases sticky with
  | false =>
    by_cases hne : sumPoint neg m q false = m * 2 ^ q
    · have hne' := hne
      rw [sumPoint, sumUp_false] at hne'
      simp [hne, hne', flagIf]
    · have hne' := hne
      rw [sumPoint, sumUp_false] at hne'
      simpa [hne, hne'] using windowFlags (inexact := true) (sticky := false) id (fun _ => rfl) (.inl rfl)
  | true =>
    rw [if_pos (.inl rfl)]
    exact windowFlags (tiny_of_tiny_sumUp hm) (fun h => absurd h (by decide)) (.inr rfl)

end

theorem sum_eq_signOf (n q : ℤ) : (n : ℚ) * 2 ^ q = signOf (decide (n < 0)) * (n.natAbs * 2 ^ q) := by
  rw [← real_fin, real_signed]
  congr 2
  rw [signed]
  by_cases h : n < 0
  · simp only [h, decide_true, if_true]; omega
  · simp only [h, decide_false, Bool.false_eq_true, if_false]; omega

/-- R49's last step for a kept sum that is not 0. -/
theorem windowRound_spec {n q : ℤ} (hn : n ≠ 0) (sticky : Bool) :
    let s : ℚ := n * 2 ^ q
    let r := windowRound n q sticky
    ∃ y, windowPoint (sticky = true) s y
      ∧ ((fmtFP32.value fmtFP32.maxCode).real < |y| → r = (0x7F800000 + (if s < 0 then 2147483648 else 0), flagOF ||| flagNX))
      ∧ (|y| ≤ (fmtFP32.value fmtFP32.maxCode).real →
          (∃ m e, fmtFP32.value r.1 = .fin (decide (s < 0)) m e) ∧ (fmtFP32.value r.1).real = y
          ∧ (y = s → ¬ sticky = true → r.2 = 0)
          ∧ (y ≠ s ∨ sticky = true → (r.2 = flagNX ∨ r.2 = flagNX ||| flagUF)
            ∧ (r.2 = flagNX ||| flagUF ↔ fmtFP32.isTiny .rne s))) := by
  have hm : n.natAbs ≠ 0 := by omega
  dsimp only
  rw [windowRound_eq hn, sum_eq_signOf n q]
  generalize decide (n < 0) = neg
  generalize n.natAbs = m at hm
  have hneg : signOf neg * ((m : ℚ) * 2 ^ q) < 0 ↔ neg = true := signOf_mul_neg_iff (magnitude_pos hm q)
  refine ⟨_, windowPoint_signOf neg (windowPoint_of_sum hm q neg sticky), ?_⟩
  rw [abs_signOf_mul, abs_of_nonneg (sumPoint_nonneg neg m q sticky), isTiny_iff fmtFP32 hm neg q (.inl (by decide)),
    Ne, mul_right_inj' (signOf_ne_zero neg)]
  simp only [hneg, Bool.decide_eq_true]
  refine ⟨roundSum_over hm q neg sticky, fun hfits => ?_⟩
  obtain ⟨hfin, hval, hflags⟩ := roundSum_fits hm q neg sticky hfits
  rw [hflags]
  refine ⟨hfin, hval, fun heq hst => if_neg fun h => h.elim hst fun hne => hne heq, fun hany => ?_⟩
  rw [if_pos hany.symm]
  cases fmtFP32.tiny neg m q .rne <;> simp [flagNX, flagUF]

/-! ## The statement -/

/-- VRSQS and VRCPS (R45). -/
theorem seeds_clauses (b d : Fmt) (rm : RMode) (sat : Bool) (x y z : Nat) :
    let u := fmtFP32.value x
    let s := elemRsqs fmtFP32 b d rm sat x y z
    let c := elemRcps fmtFP32 b d rm sat x y z
    let sign : Nat := if u.isNeg then 2147483648 else 0
    (u = .nan → s = (0x7FC00000, 0) ∧ c = (0x7FC00000, 0))
    ∧ (u.isZero = true → s = (0x7F800000 + sign, flagDZ) ∧ c = (0x7F800000 + sign, flagDZ))
    ∧ (∀ n, u = .inf n → s = (if n then (0x7FC00000, flagNV) else (0, 0)) ∧ c = (sign, 0))
    ∧ (u.finite = true → u.isZero = false → u.isNeg = true → s = (0x7FC00000, flagNV))
    ∧ (u.finite = true → 0 < u.real →
        ∃ r : ℚ, seedPoint r ∧ 0 < r ∧ (fmtFP32.value s.1).finite = true ∧ (fmtFP32.value s.1).real = r
          ∧ (∀ w, seedPoint w → 0 ≤ w → (w < r → u.real * (w + r) ^ 2 ≤ 4) ∧ (r < w → 4 ≤ u.real * (w + r) ^ 2))
          ∧ s.2 = flagIf (decide (u.real * r ^ 2 ≠ 1)) flagNX)
    ∧ (u.finite = true → u.isZero = false →
        ∃ r : ℚ, seedPoint r ∧ (∀ w, seedPoint w → |1 / u.real - r| ≤ |1 / u.real - w|)
          ∧ (2 ^ 128 ≤ |r| → c = (0x7F800000 + sign, flagOF ||| flagNX))
          ∧ (|r| < 2 ^ 128 → (fmtFP32.value c.1).finite = true ∧ (fmtFP32.value c.1).real = r
              ∧ c.2 = if r * u.real = 1 then 0 else flagNX ||| flagIf (decide (|r| < 2 ^ (-126 : ℤ))) flagUF)) := by
  have hnan : fmtFP32.nan = 0x7FC00000 := by decide
  have hinf : ∀ n, fmtFP32.withSign n fmtFP32.infCode = 0x7F800000 + (if n then 2147483648 else 0) := by decide
  have hzero : ∀ n, fmtFP32.withSign n 0 = if n then 2147483648 else 0 := by decide
  simp only [elemRsqs, elemRcps]
  match hu : fmtFP32.value x with
  | .nan => simp [Num.isZero, Num.finite, rsqrt13, recip13, hnan]
  | .inf n => cases n <;> simp [Num.isZero, Num.finite, Num.isNeg, rsqrt13, recip13, hnan, hzero]
  | .fin n m e =>
    refine ⟨nofun, fun hz => ?_, nofun, fun _ hz hn => ?_, fun _ hpos => ?_, fun _ hz => ?_⟩
    · have hm : m = 0 := by simpa [Num.isZero] using hz
      cases n <;> simp [rsqrt13, recip13, hm, hinf, Num.isNeg]
    · have hm : m ≠ 0 := by simpa [Num.isZero] using hz
      obtain rfl : n = true := hn
      simp [rsqrt13, hm, hnan]
    · have hm : m ≠ 0 := fun h => hpos.ne' (real_fin_eq_zero.2 h)
      obtain rfl : n = false := by
        rw [real_fin] at hpos
        exact Bool.eq_false_of_not_eq_true fun hn => lt_asymm hpos ((signOf_mul_neg_iff (magnitude_pos hm e)).2 hn)
      exact rsqrt13_nearest hu hm
    · exact recip13_nearest hu (by simpa [Num.isZero] using hz)

/-- Settles O38: the seeds are nearest by their quotient or root and sticky bit; a chunk's special cases come first, then its exact sum is
rounded once, or the sum of the window. -/
theorem seedsAndLoomSums : Obligations.SeedsAndLoomSums := by
  refine ⟨seeds_clauses, fun window acc ps => ?special, fun acc ps hacc hps => ⟨chunkAdd_exact hacc hps, chunkAdd_zeros hacc hps, ?window⟩⟩
  case special =>
    obtain ⟨hinvalid, hnan, hinf⟩ := chunkAdd_special window acc ps
    exact ⟨fun hb hn hi => hnan hb hi hn, fun _ _ h => hinvalid h, hinf⟩
  case window =>
    intro q hstep
    have hreal := chunkTerms_real (acc := acc) hps
    have hat : ((chunkTerms acc ps).map Num.at).map atReal = (chunkTerms acc ps).map Num.real := by
      rw [List.map_map]; exact List.map_congr_left fun u _ => atReal_at
    have hnonzero : ¬ (chunkTerms acc ps).all Num.isZero = true := fun hall => by
      obtain ⟨-, t, ht, hbig⟩ := hstep
      rw [← hreal] at ht
      obtain ⟨u, hu, rfl⟩ := List.mem_map.1 ht
      rw [(isZero_iff_real (chunkTerms_finite hacc hps u hu)).1 (List.all_eq_true.1 hall u hu), abs_zero] at hbig
      exact absurd hbig (not_le.2 (two_zpow_pos _))
    obtain ⟨n, sticky, hw, hsum, hdropped⟩ := windowSum_spec (terms := (chunkTerms acc ps).map Num.at) (q := q) (by rw [hat, hreal]; exact hstep)
    rw [hat, hreal] at hsum hdropped
    have hchunk : chunkAdd true acc (ps.map (fun p => p.1.mul p.2)) = windowRound n q sticky := by
      rw [← products, chunkAdd_finite hacc hps, chunkSum, if_pos rfl, if_neg hnonzero, hw]
    dsimp only
    rw [hchunk, ← hsum]
    simp only [← hdropped]
    refine ⟨fun h0 => ?_, fun h0 => ?_⟩
    · have hn : n = 0 := by simpa [(two_zpow_pos q).ne'] using h0
      rw [hn]
      exact ⟨fun hst => by rw [hst]; rfl, fun hst => by rw [Bool.eq_false_of_not_eq_true hst]; rfl⟩
    · have hn : n ≠ 0 := fun h => h0 (by simp [h])
      obtain ⟨y, ⟨hgrid, hnear⟩, hover, hfits⟩ := windowRound_spec (q := q) hn sticky
      exact ⟨y, hgrid, hnear, hover, hfits⟩

end Sys2Proof.Machine
end

section
/-!
The encoder and the decoder agree (R82 to R98, R101). A word is the concatenation of its fields, so each format has one equivalence: its
pieces make up a word exactly when they are that word's fields. Decoding an instruction's word reads the equivalence one way, re-encoding
a decoded word reads it the other way.
-/
namespace Sys2Proof

/-! ## Fields of a concatenation -/

theorem append_eq_iff {n m k : Nat} {x : BitVec n} {y : BitVec m} {z : BitVec k} (h : n + m = k) :
    (x ++ y).cast h = z ↔ z.extractLsb' m n = x ∧ z.extractLsb' 0 m = y := by
  subst h
  constructor
  · rintro rfl
    exact ⟨by simp [BitVec.extractLsb'_append_eq_of_le], by simp [BitVec.extractLsb'_append_eq_of_add_le]⟩
  · rintro ⟨rfl, rfl⟩
    exact (BitVec.extractLsb'_append_extractLsb'_eq_extractLsb' (Nat.zero_add m).symm).trans BitVec.extractLsb'_eq_self

/-- A word made of two pieces holds them as fields. -/
theorem append_eq_word {n m : Nat} {x : BitVec n} {y : BitVec m} {w : IWord} (h : n + m = 32) :
    (x ++ y).cast h = w ↔ field w m n = x ∧ field w 0 m = y :=
  append_eq_iff h

/-- A field made of two pieces holds them as smaller fields. -/
theorem field_eq_append {n m : Nat} {x : BitVec n} {y : BitVec m} {w : IWord} {lo : Nat} :
    field w lo (n + m) = x ++ y ↔ field w (lo + m) n = x ∧ field w lo m = y := by
  have hhi : (field w lo (n + m)).extractLsb' m n = field w (lo + m) n := by
    ext i hi
    simp [field, show m + i < n + m by omega, Nat.add_assoc]
  have hlo : (field w lo (n + m)).extractLsb' 0 m = field w lo m := by
    ext i hi
    simp [field, show i < n + m by omega]
  rw [← hhi, ← hlo, eq_comm]
  exact append_eq_iff rfl

/-- A field of one bit is a flag. -/
theorem field_eq_ofBool {b : Bool} {w : IWord} {n : Nat} : field w n 1 = BitVec.ofBool b ↔ flag w n = b := by
  have h : field w n 1 = BitVec.ofBool (flag w n) := by
    ext i hi
    obtain rfl : i = 0 := by omega
    simp [field, flag]
  rw [h]
  cases b <;> cases flag w n <;> decide

theorem guardWith_eq_ok {ok : Bool} {r : Reject} {i j : Instr} : guardWith ok r i = .ok j ↔ ok = true ∧ i = j := by
  unfold guardWith
  cases ok <;> simp

/-! ## The formats: which pieces make up a word (R82 to R98) -/

section
variable {w : IWord} {op rd ra rb rt x fa fb fd xs xi : BitVec 6} {sw : Bool}

/-- Registers and a function code. -/
theorem word_reg {fn : BitVec 7} : op ++ rd ++ ra ++ rb ++ fn ++ BitVec.ofBool sw = w ↔
    field w 26 6 = op ∧ field w 20 6 = rd ∧ field w 14 6 = ra ∧ field w 8 6 = rb ∧ field w 1 7 = fn ∧ flag w 0 = sw := by
  refine (append_eq_word rfl).trans ?_
  simp only [field_eq_append, field_eq_ofBool, and_assoc]

/-- A fence, whose function code holds its scope and its kind (R92). -/
theorem word_fence {z : BitVec 3} {sc kind : BitVec 2} : op ++ rd ++ ra ++ rb ++ z ++ sc ++ kind ++ BitVec.ofBool sw = w ↔
    field w 26 6 = op ∧ field w 20 6 = rd ∧ field w 14 6 = ra ∧ field w 8 6 = rb ∧ field w 5 3 = z ∧ field w 3 2 = sc
      ∧ field w 1 2 = kind ∧ flag w 0 = sw := by
  refine (append_eq_word rfl).trans ?_
  simp only [field_eq_append, field_eq_ofBool, and_assoc]

/-- Atomics (R90). -/
theorem word_amo {aop : BitVec 4} {sc : BitVec 2} {wd : Bool} :
    op ++ rd ++ ra ++ rb ++ aop ++ sc ++ BitVec.ofBool wd ++ BitVec.ofBool sw = w ↔
    field w 26 6 = op ∧ field w 20 6 = rd ∧ field w 14 6 = ra ∧ field w 8 6 = rb ∧ field w 4 4 = aop ∧ field w 2 2 = sc
      ∧ flag w 1 = wd ∧ flag w 0 = sw := by
  refine (append_eq_word rfl).trans ?_
  simp only [field_eq_append, field_eq_ofBool, and_assoc]

/-- A 13-bit immediate or displacement. -/
theorem word_imm {imm : BitVec 13} : op ++ rd ++ ra ++ imm ++ BitVec.ofBool sw = w ↔
    field w 26 6 = op ∧ field w 20 6 = rd ∧ field w 14 6 = ra ∧ field w 1 13 = imm ∧ flag w 0 = sw := by
  refine (append_eq_word rfl).trans ?_
  simp only [field_eq_append, field_eq_ofBool, and_assoc]

/-- A shift count or a frame size below reserved bits. -/
theorem word_shift {z : BitVec 7} {n : BitVec 6} : op ++ rd ++ ra ++ z ++ n ++ BitVec.ofBool sw = w ↔
    field w 26 6 = op ∧ field w 20 6 = rd ∧ field w 14 6 = ra ∧ field w 7 7 = z ∧ field w 1 6 = n ∧ flag w 0 = sw := by
  refine (append_eq_word rfl).trans ?_
  simp only [field_eq_append, field_eq_ofBool, and_assoc]

/-- A bit field's length and place. -/
theorem word_bits {z : Bool} {len pos : BitVec 6} : op ++ rd ++ ra ++ BitVec.ofBool z ++ len ++ pos ++ BitVec.ofBool sw = w ↔
    field w 26 6 = op ∧ field w 20 6 = rd ∧ field w 14 6 = ra ∧ flag w 13 = z ∧ field w 7 6 = len ∧ field w 1 6 = pos
      ∧ flag w 0 = sw := by
  refine (append_eq_word rfl).trans ?_
  simp only [field_eq_append, field_eq_ofBool, and_assoc]

/-- Loads and stores. -/
theorem word_mem {off : BitVec 11} {q : BitVec 2} : op ++ rt ++ ra ++ off ++ q ++ BitVec.ofBool sw = w ↔
    field w 26 6 = op ∧ field w 20 6 = rt ∧ field w 14 6 = ra ∧ field w 3 11 = off ∧ field w 1 2 = q ∧ flag w 0 = sw := by
  refine (append_eq_word rfl).trans ?_
  simp only [field_eq_append, field_eq_ofBool, and_assoc]

/-- LUI and ADDPC. -/
theorem word_upper {imm : BitVec 19} : op ++ rd ++ imm ++ BitVec.ofBool sw = w ↔
    field w 26 6 = op ∧ field w 20 6 = rd ∧ field w 1 19 = imm ∧ flag w 0 = sw := by
  refine (append_eq_word rfl).trans ?_
  simp only [field_eq_append, field_eq_ofBool, and_assoc]

/-- J and CALL. -/
theorem word_jump {disp : BitVec 25} : op ++ disp ++ BitVec.ofBool sw = w ↔
    field w 26 6 = op ∧ field w 1 25 = disp ∧ flag w 0 = sw := by
  refine (append_eq_word rfl).trans ?_
  simp only [field_eq_append, field_eq_ofBool, and_assoc]

/-- Vector operations on slices (R93). -/
theorem word_vector {vfn k : BitVec 5} {md ma mb : BitVec 2} {od oa ob : Bool} :
    op ++ vfn ++ md ++ ma ++ mb ++ BitVec.ofBool od ++ BitVec.ofBool oa ++ BitVec.ofBool ob ++ xi ++ k ++ BitVec.ofBool sw = w ↔
    field w 26 6 = op ∧ field w 21 5 = vfn ∧ field w 19 2 = md ∧ field w 17 2 = ma ∧ field w 15 2 = mb ∧ flag w 14 = od
      ∧ flag w 13 = oa ∧ flag w 12 = ob ∧ field w 6 6 = xi ∧ field w 1 5 = k ∧ flag w 0 = sw := by
  refine (append_eq_word rfl).trans ?_
  simp only [field_eq_append, field_eq_ofBool, and_assoc]

/-- TZERO and TTR, on whole tiles (R93). -/
theorem word_tile {vfn k : BitVec 5} {md ma mb : BitVec 2} {z : BitVec 3} :
    op ++ vfn ++ md ++ ma ++ mb ++ z ++ xi ++ k ++ BitVec.ofBool sw = w ↔
    field w 26 6 = op ∧ field w 21 5 = vfn ∧ field w 19 2 = md ∧ field w 17 2 = ma ∧ field w 15 2 = mb ∧ field w 12 3 = z
      ∧ field w 6 6 = xi ∧ field w 1 5 = k ∧ flag w 0 = sw := by
  refine (append_eq_word rfl).trans ?_
  simp only [field_eq_append, field_eq_ofBool, and_assoc]

/-- Single elements of a tile (R94). -/
theorem word_element {vfn : BitVec 5} {mt : BitVec 2} {k : BitVec 6} : op ++ vfn ++ mt ++ xs ++ xi ++ k ++ BitVec.ofBool sw = w ↔
    field w 26 6 = op ∧ field w 21 5 = vfn ∧ field w 19 2 = mt ∧ field w 13 6 = xs ∧ field w 7 6 = xi ∧ field w 1 6 = k
      ∧ flag w 0 = sw := by
  refine (append_eq_word rfl).trans ?_
  simp only [field_eq_append, field_eq_ofBool, and_assoc]

/-- TLD and TST (R95). -/
theorem word_slice {mt q : BitVec 2} {o : Bool} {z : BitVec 3} {k : BitVec 5} :
    op ++ mt ++ BitVec.ofBool o ++ z ++ ra ++ xi ++ k ++ q ++ BitVec.ofBool sw = w ↔
    field w 26 6 = op ∧ field w 24 2 = mt ∧ flag w 23 = o ∧ field w 20 3 = z ∧ field w 14 6 = ra ∧ field w 8 6 = xi
      ∧ field w 3 5 = k ∧ field w 1 2 = q ∧ flag w 0 = sw := by
  refine (append_eq_word rfl).trans ?_
  simp only [field_eq_append, field_eq_ofBool, and_assoc]

/-! The engine commands (R96), by how their four modifier bits divide. -/

theorem word_engine {eng : BitVec 3} {cmd : BitVec 5} {nf : Bool} {m : BitVec 4} :
    op ++ eng ++ cmd ++ ra ++ rb ++ BitVec.ofBool nf ++ m ++ BitVec.ofBool sw = w ↔
    field w 26 6 = op ∧ field w 23 3 = eng ∧ field w 18 5 = cmd ∧ field w 12 6 = ra ∧ field w 6 6 = rb ∧ flag w 5 = nf
      ∧ field w 1 4 = m ∧ flag w 0 = sw := by
  refine (append_eq_word rfl).trans ?_
  simp only [field_eq_append, field_eq_ofBool, and_assoc]

theorem word_engine_bit {eng : BitVec 3} {cmd : BitVec 5} {nf b : Bool} {m : BitVec 3} :
    op ++ eng ++ cmd ++ ra ++ rb ++ BitVec.ofBool nf ++ m ++ BitVec.ofBool b ++ BitVec.ofBool sw = w ↔
    field w 26 6 = op ∧ field w 23 3 = eng ∧ field w 18 5 = cmd ∧ field w 12 6 = ra ∧ field w 6 6 = rb ∧ flag w 5 = nf
      ∧ field w 2 3 = m ∧ flag w 1 = b ∧ flag w 0 = sw := by
  refine (append_eq_word rfl).trans ?_
  simp only [field_eq_append, field_eq_ofBool, and_assoc]

theorem word_engine_acc {eng : BitVec 3} {cmd : BitVec 5} {nf : Bool} {m acc : BitVec 2} :
    op ++ eng ++ cmd ++ ra ++ rb ++ BitVec.ofBool nf ++ m ++ acc ++ BitVec.ofBool sw = w ↔
    field w 26 6 = op ∧ field w 23 3 = eng ∧ field w 18 5 = cmd ∧ field w 12 6 = ra ∧ field w 6 6 = rb ∧ flag w 5 = nf
      ∧ field w 3 2 = m ∧ field w 1 2 = acc ∧ flag w 0 = sw := by
  refine (append_eq_word rfl).trans ?_
  simp only [field_eq_append, field_eq_ofBool, and_assoc]

theorem word_engine_stat {eng : BitVec 3} {cmd : BitVec 5} {nf z clr : Bool} {acc : BitVec 2} :
    op ++ eng ++ cmd ++ ra ++ rb ++ BitVec.ofBool nf ++ BitVec.ofBool z ++ BitVec.ofBool clr ++ acc ++ BitVec.ofBool sw = w ↔
    field w 26 6 = op ∧ field w 23 3 = eng ∧ field w 18 5 = cmd ∧ field w 12 6 = ra ∧ field w 6 6 = rb ∧ flag w 5 = nf
      ∧ flag w 4 = z ∧ flag w 3 = clr ∧ field w 1 2 = acc ∧ flag w 0 = sw := by
  refine (append_eq_word rfl).trans ?_
  simp only [field_eq_append, field_eq_ofBool, and_assoc]

/-- ERD and ERW (R97). -/
theorem word_ereg {eng : BitVec 3} {ereg : BitVec 8} {dir : Bool} {z : BitVec 7} :
    op ++ x ++ eng ++ ereg ++ BitVec.ofBool dir ++ z ++ BitVec.ofBool sw = w ↔
    field w 26 6 = op ∧ field w 20 6 = x ∧ field w 17 3 = eng ∧ field w 9 8 = ereg ∧ flag w 8 = dir ∧ field w 1 7 = z
      ∧ flag w 0 = sw := by
  refine (append_eq_word rfl).trans ?_
  simp only [field_eq_append, field_eq_ofBool, and_assoc]

/-- FMT, which has no marker (R82). -/
theorem word_fmt {sm : BitVec 3} {sat : Bool} {rm z : BitVec 2} : op ++ fa ++ fb ++ fd ++ sm ++ BitVec.ofBool sat ++ rm ++ z = w ↔
    field w 26 6 = op ∧ field w 20 6 = fa ∧ field w 14 6 = fb ∧ field w 8 6 = fd ∧ field w 5 3 = sm ∧ flag w 4 = sat
      ∧ field w 2 2 = rm ∧ field w 0 2 = z := by
  refine (append_eq_word rfl).trans ?_
  simp only [field_eq_append, field_eq_ofBool, and_assoc]

/-- Accesses to special registers (R98). -/
theorem word_csr {csr : BitVec 12} {dir : Bool} : op ++ rd ++ ra ++ csr ++ BitVec.ofBool dir ++ BitVec.ofBool sw = w ↔
    field w 26 6 = op ∧ field w 20 6 = rd ∧ field w 14 6 = ra ∧ field w 2 12 = csr ∧ flag w 1 = dir ∧ flag w 0 = sw := by
  refine (append_eq_word rfl).trans ?_
  simp only [field_eq_append, field_eq_ofBool, and_assoc]

end

/-! ## A word that decodes is the word of its instruction -/

/-- The word is the instruction's, which is well-formed. -/
def Instr.Encodes (i : Instr) (w : IWord) : Prop := encode i = some w ∧ i.isWord = true ∧ i.wellFormed = true

section
variable {w : IWord} {i : Instr}

/-- An assigned number in a field is the field's value. -/
theorem field_eq_of_toNat {lo len n : Nat} (h : (field w lo len).toNat = n) (hn : n < 2 ^ len := by decide) :
    field w lo len = BitVec.ofNat len n :=
  BitVec.eq_of_toNat_eq (by rw [BitVec.toNat_ofNat, Nat.mod_eq_of_lt hn, h])

theorem decodeInteger_encodes (hop : field w 26 6 = 0x01) (h : decodeInteger w = .ok i) : i.Encodes w := by
  unfold decodeInteger at h
  split at h <;> rename_i hfn <;> simp only [guardWith_eq_ok, Except.ok.injEq, reduceCtorEq, beq_iff_eq] at h
  case h_17 | h_18 | h_19 =>
    obtain ⟨hz, rfl⟩ := h
    exact ⟨congrArg some (word_reg.2 (by simp [hop, field_eq_of_toNat hfn, hz])), rfl, rfl⟩
  all_goals
    subst h
    exact ⟨congrArg some (word_reg.2 (by simp [hop, field_eq_of_toNat hfn])), rfl, rfl⟩

theorem decodeFe_encodes (hop : field w 26 6 = 0x1F) (h : decodeFe w = .ok i) : i.Encodes w := by
  unfold decodeFe at h
  split at h <;> rename_i hfn <;> simp only [guardWith_eq_ok, reduceCtorEq, Bool.and_eq_true, beq_iff_eq] at h
  all_goals
    obtain ⟨hz, rfl⟩ := h
    exact ⟨congrArg some (word_reg.2 (by simp [hop, field_eq_of_toNat hfn, hz])), rfl, rfl⟩

theorem decodeControl_encodes (hop : field w 26 6 = 0x28) (h : decodeControl w = .ok i) : i.Encodes w := by
  unfold decodeControl at h
  split at h <;> rename_i hfn <;> simp only [guardWith_eq_ok, reduceCtorEq, Bool.and_eq_true, beq_iff_eq] at h
  all_goals
    obtain ⟨hz, rfl⟩ := h
    exact ⟨congrArg some (word_reg.2 (by simp [hop, field_eq_of_toNat hfn, hz])), rfl, rfl⟩

theorem decodeMask_encodes (hop : field w 26 6 = 0x2B) (h : decodeMask w = .ok i) : i.Encodes w := by
  unfold decodeMask at h
  split at h <;> rename_i hfn <;> simp only [guardWith_eq_ok, reduceCtorEq, Bool.and_eq_true, beq_iff_eq] at h
  all_goals
    obtain ⟨hz, rfl⟩ := h
    exact ⟨congrArg some (word_reg.2 (by simp [hop, field_eq_of_toNat hfn, hz])), rfl, rfl⟩

theorem decodeTask_encodes (hop : field w 26 6 = 0x2C) (h : decodeTask w = .ok i) : i.Encodes w := by
  unfold decodeTask at h
  split at h <;> rename_i hfn <;>
    simp only [guardWith_eq_ok, Except.ok.injEq, reduceCtorEq, Bool.and_eq_true, beq_iff_eq] at h
  case h_6 | h_7 =>
    subst h
    exact ⟨congrArg some (word_reg.2 (by simp [hop, field_eq_of_toNat hfn])), rfl, rfl⟩
  all_goals
    obtain ⟨hz, rfl⟩ := h
    exact ⟨congrArg some (word_reg.2 (by simp [hop, field_eq_of_toNat hfn, hz])), rfl, rfl⟩

theorem decodePop_encodes (hop : field w 26 6 = 0x2D) (h : decodePop w = .ok i) : i.Encodes w := by
  unfold decodePop at h
  split at h <;> rename_i hfn <;>
    simp only [guardWith_eq_ok, Except.ok.injEq, reduceCtorEq, Bool.and_eq_true, beq_iff_eq] at h
  case h_1 | h_3 =>
    subst h
    exact ⟨congrArg some (word_reg.2 (by simp [hop, field_eq_of_toNat hfn])), rfl, rfl⟩
  all_goals
    obtain ⟨hz, rfl⟩ := h
    exact ⟨congrArg some (word_reg.2 (by simp [hop, field_eq_of_toNat hfn, hz])), rfl, rfl⟩

theorem decodeResid_encodes (hop : field w 26 6 = 0x2E) (h : decodeResid w = .ok i) : i.Encodes w := by
  unfold decodeResid at h
  split at h <;> rename_i hfn <;> simp only [guardWith_eq_ok, Except.ok.injEq, reduceCtorEq, beq_iff_eq] at h
  case h_2 | h_3 | h_4 =>
    subst h
    exact ⟨congrArg some (word_reg.2 (by simp [hop, field_eq_of_toNat hfn])), rfl, rfl⟩
  all_goals
    obtain ⟨hz, rfl⟩ := h
    exact ⟨congrArg some (word_reg.2 (by simp [hop, field_eq_of_toNat hfn, hz])), rfl, rfl⟩

theorem decodeSystem_encodes (hop : field w 26 6 = 0x39) (h : decodeSystem w = .ok i) : i.Encodes w := by
  unfold decodeSystem at h
  split at h <;> rename_i hfn <;> simp only [guardWith_eq_ok, reduceCtorEq, Bool.and_eq_true, beq_iff_eq] at h
  all_goals
    obtain ⟨hz, rfl⟩ := h
    exact ⟨congrArg some (word_reg.2 (by simp [hop, field_eq_of_toNat hfn, hz])), rfl, rfl⟩

theorem decodeFence_encodes (hop : field w 26 6 = 0x2F) (hz : field w 5 3 = 0) (h : decodeFence w = .ok i) : i.Encodes w := by
  unfold decodeFence at h
  dsimp only at h
  split at h <;> rename_i hkind <;> simp only [guardWith_eq_ok, reduceCtorEq, Bool.and_eq_true, beq_iff_eq] at h
  all_goals
    obtain ⟨hab, rfl⟩ := h
    exact ⟨congrArg some (word_fence.2 (by simp [hop, hz, hab, field_eq_of_toNat hkind])), rfl, rfl⟩

theorem decodeSync_encodes (hop : field w 26 6 = 0x2F) (h : decodeSync w = .ok i) : i.Encodes w := by
  unfold decodeSync at h
  split at h <;> rename_i hfn <;>
    simp only [guardWith_eq_ok, Except.ok.injEq, Bool.and_eq_true, beq_iff_eq] at h
  case h_3 | h_9 =>
    subst h
    exact ⟨congrArg some (word_reg.2 (by simp [hop, field_eq_of_toNat hfn])), rfl, rfl⟩
  case h_10 =>
    obtain ⟨hb, rfl⟩ := h
    exact ⟨congrArg some (word_reg.2 (by simp [hop, field_eq_of_toNat hfn])), rfl, hb⟩
  case h_12 =>
    split at h
    next hz => exact decodeFence_encodes hop hz h
    next => cases h
  all_goals
    obtain ⟨hz, rfl⟩ := h
    exact ⟨congrArg some (word_reg.2 (by simp [hop, field_eq_of_toNat hfn, hz])), rfl, rfl⟩

theorem decodeAmo_encodes (hop : field w 26 6 = 0x1D) (h : decodeAmo w = .ok i) : i.Encodes w := by
  unfold decodeAmo at h
  split at h <;> rename_i haop <;>
    simp only [guardWith_eq_ok, Except.ok.injEq, reduceCtorEq, Bool.not_eq_true'] at h
  case h_10 | h_11 =>
    obtain ⟨hz, rfl⟩ := h
    exact ⟨congrArg some (word_amo (wd := false).2 (by simp [hop, field_eq_of_toNat haop, hz])), rfl, rfl⟩
  all_goals
    subst h
    exact ⟨congrArg some (word_amo.2 (by simp [hop, field_eq_of_toNat haop])), rfl, rfl⟩

/-- Reserved bits are zero when each of the pieces that they stand for is zero. -/
theorem tileReserved_zero : field w 1 16 = 0 ↔ field w 15 2 = 0 ∧ field w 12 3 = 0 ∧ field w 6 6 = 0 ∧ field w 1 5 = 0 := by
  rw [show (0 : BitVec 16) = 0#2 ++ 0#3 ++ 0#6 ++ 0#5 from rfl, field_eq_append (n := 11) (m := 5), field_eq_append (n := 5) (m := 6),
    field_eq_append (n := 2) (m := 3), and_assoc, and_assoc]
  rfl

theorem decodeVector_encodes (hop : field w 26 6 = 0x30) (h : decodeVector w = .ok i) : i.Encodes w := by
  unfold decodeVector at h
  split at h <;> rename_i hfn <;>
    simp only [guardWith_eq_ok, Except.ok.injEq, reduceCtorEq, Bool.and_eq_true, beq_iff_eq, Bool.not_eq_true'] at h
  case h_20 | h_21 | h_22 | h_23 | h_24 | h_25 | h_26 =>
    obtain ⟨hz, rfl⟩ := h
    exact ⟨congrArg some (word_vector (ob := false).2 (by simp [hop, field_eq_of_toNat hfn, hz])), rfl, rfl⟩
  case h_27 =>
    obtain ⟨hz, rfl⟩ := h
    have hz' : field w 1 18 = 0#2 ++ 0#16 := hz
    obtain ⟨hma, hz'⟩ := (field_eq_append (n := 2) (m := 16)).1 hz'
    exact ⟨congrArg some (word_tile.2 (by simp [hop, field_eq_of_toNat hfn, hma, tileReserved_zero.1 hz'])), rfl, rfl⟩
  case h_28 =>
    obtain ⟨hz, rfl⟩ := h
    exact ⟨congrArg some (word_tile.2 (by simp [hop, field_eq_of_toNat hfn, tileReserved_zero.1 hz])), rfl, rfl⟩
  all_goals
    subst h
    exact ⟨congrArg some (word_vector.2 (by simp [hop, field_eq_of_toNat hfn])), rfl, rfl⟩

theorem decodeElement_encodes (hop : field w 26 6 = 0x31) (h : decodeElement w = .ok i) : i.Encodes w := by
  unfold decodeElement at h
  split at h <;> rename_i hfn <;> simp only [guardWith_eq_ok, Except.ok.injEq, reduceCtorEq, beq_iff_eq] at h
  case h_1 | h_2 =>
    subst h
    exact ⟨congrArg some (word_element.2 (by simp [hop, field_eq_of_toNat hfn])), rfl, rfl⟩
  all_goals
    obtain ⟨hz, rfl⟩ := h
    exact ⟨congrArg some (word_element.2 (by simp [hop, field_eq_of_toNat hfn, hz])), rfl, rfl⟩

/-- An engine command's number is its engine's and its own. -/
theorem field_command {eng : BitVec 3} {cmd : BitVec 5} (heng : field w 23 3 = eng) (hcmd : field w 18 5 = cmd) :
    field w 18 8 = eng ++ cmd :=
  (field_eq_append (n := 3) (m := 5)).2 ⟨heng, hcmd⟩

theorem engine_of_command {n : Nat} (h : (field w 18 8).toNat = n) (hn : n < 256 := by decide)
    (hsplit : BitVec.ofNat 3 (n / 32) ++ BitVec.ofNat 5 n = BitVec.ofNat 8 n := by decide) :
    field w 23 3 = BitVec.ofNat 3 (n / 32) ∧ field w 18 5 = BitVec.ofNat 5 n :=
  (field_eq_append (n := 3) (m := 5)).1 ((field_eq_of_toNat h hn).trans hsplit.symm)

/-- The modifier of a CPYT is its direction, below reserved bits (R96). -/
theorem field_direction {b : Bool} : field w 2 3 = 0#2 ++ BitVec.ofBool b ↔ field w 3 2 = 0 ∧ flag w 2 = b := by
  rw [field_eq_append (n := 2) (m := 1), field_eq_ofBool]
  rfl

theorem decodeEngine_encodes (hop : field w 26 6 = 0x34) (h : decodeEngine w = .ok i) : i.Encodes w := by
  unfold decodeEngine at h
  split at h <;> rename_i hcmd <;> simp only [guardWith_eq_ok, reduceCtorEq, Bool.and_eq_true, beq_iff_eq, Bool.not_eq_true'] at h
  all_goals obtain ⟨hz, rfl⟩ := h
  case h_1 | h_2 | h_18 | h_19 =>
    exact ⟨congrArg some (word_engine_bit.2 (by simp [hop, engine_of_command hcmd, hz])), rfl, rfl⟩
  case h_3 =>
    cases hdir : flag w 2 <;>
      exact ⟨congrArg some (word_engine_bit.2 (by simp [hop, engine_of_command hcmd, field_direction.2 ⟨hz, hdir⟩])), rfl, rfl⟩
  case h_6 | h_7 | h_8 | h_9 =>
    exact ⟨congrArg some (word_engine_acc.2 (by simp [hop, engine_of_command hcmd, hz])), rfl, rfl⟩
  case h_10 =>
    exact ⟨congrArg some (word_engine_stat (z := false).2 (by simp [hop, engine_of_command hcmd, hz])), rfl, rfl⟩
  all_goals
    exact ⟨congrArg some (word_engine.2 (by simp [hop, engine_of_command hcmd, hz])), rfl, rfl⟩

/-- A frame size stands below reserved bits. -/
theorem frameReserved_zero : field w 7 19 = 0 ↔ field w 20 6 = 0 ∧ field w 14 6 = 0 ∧ field w 7 7 = 0 := by
  rw [show (0 : BitVec 19) = 0#6 ++ 0#6 ++ 0#7 from rfl, field_eq_append (n := 12) (m := 7), field_eq_append (n := 6) (m := 6), and_assoc]
  rfl

theorem decodeWord_encodes (h : decodeWord w = .ok i) : i.Encodes w := by
  unfold decodeWord at h
  split at h <;> rename_i hop
  case h_1 => exact decodeInteger_encodes (field_eq_of_toNat hop) h
  case h_26 => exact decodeAmo_encodes (field_eq_of_toNat hop) h
  case h_28 => exact decodeFe_encodes (field_eq_of_toNat hop) h
  case h_37 => exact decodeControl_encodes (field_eq_of_toNat hop) h
  case h_40 => exact decodeMask_encodes (field_eq_of_toNat hop) h
  case h_41 => exact decodeTask_encodes (field_eq_of_toNat hop) h
  case h_42 => exact decodePop_encodes (field_eq_of_toNat hop) h
  case h_43 => exact decodeResid_encodes (field_eq_of_toNat hop) h
  case h_44 => exact decodeSync_encodes (field_eq_of_toNat hop) h
  case h_45 => exact decodeVector_encodes (field_eq_of_toNat hop) h
  case h_46 => exact decodeElement_encodes (field_eq_of_toNat hop) h
  case h_49 => exact decodeEngine_encodes (field_eq_of_toNat hop) h
  case h_54 => exact decodeSystem_encodes (field_eq_of_toNat hop) h
  case h_55 => cases h
  case h_2 | h_3 | h_4 | h_5 | h_6 | h_7 | h_29 | h_30 | h_31 | h_32 | h_33 | h_34 =>
    cases h
    exact ⟨congrArg some (word_imm.2 (by simp [field_eq_of_toNat hop])), rfl, rfl⟩
  case h_8 | h_9 | h_10 =>
    simp only [guardWith_eq_ok, beq_iff_eq] at h
    obtain ⟨hz, rfl⟩ := h
    exact ⟨congrArg some (word_shift.2 (by simp [field_eq_of_toNat hop, hz])), rfl, rfl⟩
  case h_11 | h_12 =>
    cases h
    exact ⟨congrArg some (word_upper.2 (by simp [field_eq_of_toNat hop])), rfl, rfl⟩
  case h_13 | h_14 =>
    simp only [guardWith_eq_ok, Bool.and_eq_true, Bool.not_eq_true'] at h
    obtain ⟨⟨hz, hok⟩, rfl⟩ := h
    exact ⟨congrArg some (word_bits (z := false).2 (by simp [field_eq_of_toNat hop, hz])), rfl, hok⟩
  case h_15 | h_16 | h_17 | h_18 | h_19 | h_20 | h_21 | h_22 | h_23 | h_24 | h_25 =>
    simp only [guardWith_eq_ok] at h
    obtain ⟨hq, rfl⟩ := h
    exact ⟨congrArg some (word_mem.2 (by simp [field_eq_of_toNat hop])), rfl, hq⟩
  case h_27 =>
    simp only [guardWith_eq_ok, beq_iff_eq] at h
    obtain ⟨hz, rfl⟩ := h
    exact ⟨congrArg some (word_amo.2 (by simp [field_eq_of_toNat hop, hz])), rfl, rfl⟩
  case h_35 | h_36 =>
    cases h
    exact ⟨congrArg some (word_jump.2 (by simp [field_eq_of_toNat hop])), rfl, rfl⟩
  case h_38 | h_39 =>
    split at h
    case isFalse => cases h
    next hz =>
      rw [beq_iff_eq] at hz
      obtain ⟨hk, rfl⟩ := guardWith_eq_ok.1 h
      exact ⟨congrArg some (word_shift.2 (by simp [field_eq_of_toNat hop, frameReserved_zero.1 hz])), rfl, hk⟩
  case h_47 | h_48 =>
    split at h
    case isFalse => cases h
    next hz =>
      rw [beq_iff_eq] at hz
      obtain ⟨hq, rfl⟩ := guardWith_eq_ok.1 h
      exact ⟨congrArg some (word_slice.2 (by simp [field_eq_of_toNat hop, hz])), rfl, hq⟩
  case h_50 =>
    split at h
    case isFalse => cases h
    next hz =>
      rw [beq_iff_eq] at hz
      obtain ⟨hr, rfl⟩ := guardWith_eq_ok.1 h
      cases hdir : flag w 8
      · exact ⟨congrArg some (word_ereg (dir := false).2 (by simp [field_eq_of_toNat hop, hz, hdir])), rfl, hr⟩
      · exact ⟨congrArg some (word_ereg (dir := true).2 (by simp [field_eq_of_toNat hop, hz, hdir])), rfl, hr⟩
  case h_51 =>
    simp only [guardWith_eq_ok, beq_iff_eq] at h
    obtain ⟨hz, rfl⟩ := h
    exact ⟨congrArg some (word_fmt.2 (by simp [field_eq_of_toNat hop, hz])), rfl, rfl⟩
  case h_52 =>
    split at h
    next hdir =>
      cases h
      exact ⟨congrArg some (word_csr (dir := true).2 (by simp [field_eq_of_toNat hop, hdir])), rfl, rfl⟩
    next hdir =>
      simp only [guardWith_eq_ok, beq_iff_eq] at h
      obtain ⟨hz, rfl⟩ := h
      exact ⟨congrArg some (word_csr (dir := false).2 (by simp [field_eq_of_toNat hop, hdir, hz])), rfl, rfl⟩
  case h_53 =>
    split at h <;> cases h
    next hdir => exact ⟨congrArg some (word_csr (dir := true).2 (by simp [field_eq_of_toNat hop, hdir])), rfl, rfl⟩
    next hdir => exact ⟨congrArg some (word_csr (dir := false).2 (by simp [field_eq_of_toNat hop, hdir])), rfl, rfl⟩

end

/-! ## The word of an instruction decodes to it -/

section
variable {w : IWord} {i : Instr}

/-! The major opcodes that hold a group (R87). -/

theorem decodeWord_integer (h : field w 26 6 = 0x01) : decodeWord w = decodeInteger w := by simp [decodeWord, h]
theorem decodeWord_amo (h : field w 26 6 = 0x1D) : decodeWord w = decodeAmo w := by simp [decodeWord, h]
theorem decodeWord_fe (h : field w 26 6 = 0x1F) : decodeWord w = decodeFe w := by simp [decodeWord, h]
theorem decodeWord_control (h : field w 26 6 = 0x28) : decodeWord w = decodeControl w := by simp [decodeWord, h]
theorem decodeWord_mask (h : field w 26 6 = 0x2B) : decodeWord w = decodeMask w := by simp [decodeWord, h]
theorem decodeWord_task (h : field w 26 6 = 0x2C) : decodeWord w = decodeTask w := by simp [decodeWord, h]
theorem decodeWord_pop (h : field w 26 6 = 0x2D) : decodeWord w = decodePop w := by simp [decodeWord, h]
theorem decodeWord_resid (h : field w 26 6 = 0x2E) : decodeWord w = decodeResid w := by simp [decodeWord, h]
theorem decodeWord_sync (h : field w 26 6 = 0x2F) : decodeWord w = decodeSync w := by simp [decodeWord, h]
theorem decodeWord_vector (h : field w 26 6 = 0x30) : decodeWord w = decodeVector w := by simp [decodeWord, h]
theorem decodeWord_element (h : field w 26 6 = 0x31) : decodeWord w = decodeElement w := by simp [decodeWord, h]
theorem decodeWord_engine (h : field w 26 6 = 0x34) : decodeWord w = decodeEngine w := by simp [decodeWord, h]
theorem decodeWord_system (h : field w 26 6 = 0x39) : decodeWord w = decodeSystem w := by simp [decodeWord, h]

/-- The function codes from 0x10 on have a bit set that a fence leaves clear (R92). -/
theorem decodeSync_fence (hz : field w 5 3 = 0) : decodeSync w = decodeFence w := by
  have htop : (field w 1 7).toNat / 16 = (field w 5 3).toNat := by
    simp only [field, BitVec.extractLsb'_toNat, Nat.shiftRight_eq_div_pow]
    omega
  rw [hz] at htop
  unfold decodeSync
  split
  case h_12 => simp [hz]
  all_goals next hfn => simp [hfn] at htop

/-- By the instruction's format, whose pieces are the fields of its word. -/
theorem decodeWord_of_encode (h : encode i = some w) (hwf : i.wellFormed = true) : decodeWord w = .ok i := by
  cases i with
  | add | sub | and | or | xor | shl | shr | sra | slt | sltu | min | max | minu | maxu | sel | mix | mul | mulh | mulhu | div | divu | rem
  | remu =>
    have hf := word_reg.1 (Option.some.inj h)
    simp [decodeWord_integer hf.1, decodeInteger, hf]
  | clz | ctz | popc =>
    have hf := word_reg.1 (Option.some.inj h)
    simp [decodeWord_integer hf.1, decodeInteger, guardWith, hf]
  | feget | feset | feclr =>
    have hf := word_reg.1 (Option.some.inj h)
    simp [decodeWord_fe hf.1, decodeFe, guardWith, hf]
  | callr | jr | ret =>
    have hf := word_reg.1 (Option.some.inj h)
    simp [decodeWord_control hf.1, decodeControl, guardWith, hf]
  | mif | melse | mend =>
    have hf := word_reg.1 (Option.some.inj h)
    simp [decodeWord_mask hf.1, decodeMask, guardWith, hf]
  | fork | join | spawn | retire | yield | tgate | tspawn | strand | unstrand =>
    have hf := word_reg.1 (Option.some.inj h)
    simp [decodeWord_task hf.1, decodeTask, guardWith, hf]
  | popnew | popjoin | resample | popleave | popinfo =>
    have hf := word_reg.1 (Option.some.inj h)
    simp [decodeWord_pop hf.1, decodePop, guardWith, hf]
  | rsnew | rspost | rsread | rstry | rsstat | rsseal =>
    have hf := word_reg.1 (Option.some.inj h)
    simp [decodeWord_resid hf.1, decodeResid, guardWith, hf]
  | cwait | cadd | barnew | barlink | bararr | barwait | barfree | barref | enq | tstamp =>
    have hf := word_reg.1 (Option.some.inj h)
    simp [decodeWord_sync hf.1, decodeSync, guardWith, hf]
  | trap | eret | wfi | bkpt | tlbinv | roinv | tmark =>
    have hf := word_reg.1 (Option.some.inj h)
    simp [decodeWord_system hf.1, decodeSystem, guardWith, hf]
  | deq rd ra rb sw =>
    have hf := word_reg.1 (Option.some.inj h)
    have hrb : statusReg rb = true := hwf
    simp [decodeWord_sync hf.1, decodeSync, guardWith, hf, hrb]
  | fenceRel | fenceAcq | fenceAr =>
    obtain ⟨hop, hd, ha, hb, hz, hf⟩ := word_fence.1 (Option.some.inj h)
    simp [decodeWord_sync hop, decodeSync_fence hz, decodeFence, guardWith, hd, ha, hb, hf]
  | addi | andi | ori | xori | slti | sltiu | beq | bne | blt | bge | bltu | bgeu =>
    simp [decodeWord, word_imm.1 (Option.some.inj h)]
  | shli | shri | srai => simp [decodeWord, guardWith, word_shift.1 (Option.some.inj h)]
  | enter k sw | shrink k sw =>
    obtain ⟨hop, hd, ha, hz, hf⟩ := word_shift.1 (Option.some.inj h)
    have hk : frameSizeOk k = true := hwf
    simp [decodeWord, guardWith, hop, frameReserved_zero.2 ⟨hd, ha, hz⟩, hf, hk]
  | lui | addpc => simp [decodeWord, word_upper.1 (Option.some.inj h)]
  | j | call => simp [decodeWord, word_jump.1 (Option.some.inj h)]
  | bfx rd ra pos len sw | bfi rd ra pos len sw =>
    have hok : bitFieldOk pos len = true := hwf
    simp [decodeWord, guardWith, word_bits (z := false).1 (Option.some.inj h), hok]
  | ldb _ _ _ q | ldbu _ _ _ q | ldh _ _ _ q | ldhu _ _ _ q | ldw _ _ _ q | ldwu _ _ _ q | ldd _ _ _ q | stb _ _ _ q | sth _ _ _ q
  | stw _ _ _ q | std _ _ _ q =>
    have hq : q ≠ 3#2 := bne_iff_ne.1 hwf
    simp [decodeWord, guardWith, word_mem.1 (Option.some.inj h), hq]
  | amoAdd | amoAnd | amoOr | amoXor | amoMin | amoMax | amoMinu | amoMaxu | amoSwap =>
    have hf := word_amo.1 (Option.some.inj h)
    simp [decodeWord_amo hf.1, decodeAmo, hf]
  | amoFadd32 | amoNib =>
    have hf := word_amo (wd := false).1 (Option.some.inj h)
    simp [decodeWord_amo hf.1, decodeAmo, guardWith, hf]
  | cas => simp [decodeWord, guardWith, word_amo.1 (Option.some.inj h)]
  | vadd | vsub | vmul | vfma | vfms | vfnma | vmin | vmax | vscale | vcmpeq | vcmplt | vcmple | vsel | vand | vor | vxor | vshl | vshr
  | vsra =>
    have hf := word_vector.1 (Option.some.inj h)
    simp [decodeWord_vector hf.1, decodeVector, hf]
  | vabs | vneg | vcvt | vrsqs | vrcps | vxexp | vmov =>
    have hf := word_vector (ob := false).1 (Option.some.inj h)
    simp [decodeWord_vector hf.1, decodeVector, guardWith, hf]
  | tzero =>
    obtain ⟨hop, hfn, hd, ha, hb, hz, hxi, hk, hf⟩ := word_tile.1 (Option.some.inj h)
    have hz' : field w 1 18 = 0 := (field_eq_append (n := 2) (m := 16)).2 ⟨ha, tileReserved_zero.2 ⟨hb, hz, hxi, hk⟩⟩
    simp [decodeWord_vector hop, decodeVector, guardWith, hfn, hd, hz', hf]
  | ttr =>
    obtain ⟨hop, hfn, hd, ha, hb, hz, hxi, hk, hf⟩ := word_tile.1 (Option.some.inj h)
    simp [decodeWord_vector hop, decodeVector, guardWith, hfn, hd, ha, tileReserved_zero.2 ⟨hb, hz, hxi, hk⟩, hf]
  | vget | vput | vbcast | vreds | vredm =>
    have hf := word_element.1 (Option.some.inj h)
    simp [decodeWord_element hf.1, decodeElement, guardWith, hf]
  | tld _ _ _ _ _ q | tst _ _ _ _ _ q =>
    have hq : q ≠ 3#2 := bne_iff_ne.1 hwf
    simp [decodeWord, guardWith, word_slice.1 (Option.some.inj h), hq]
  | cpy | cpyr | scfg | sdone =>
    obtain ⟨hop, heng, hcmd, hf⟩ := word_engine_bit.1 (Option.some.inj h)
    simp [decodeWord_engine hop, decodeEngine, field_command heng hcmd, guardWith, hf]
  | cpytE2p =>
    obtain ⟨hop, heng, hcmd, ha, hb, hnf, hm, hf⟩ := word_engine_bit.1 (Option.some.inj h)
    simp [decodeWord_engine hop, decodeEngine, field_command heng hcmd, guardWith, ha, hb, hnf, (field_direction (b := false)).1 hm, hf]
  | cpytP2e =>
    obtain ⟨hop, heng, hcmd, ha, hb, hnf, hm, hf⟩ := word_engine_bit.1 (Option.some.inj h)
    simp [decodeWord_engine hop, decodeEngine, field_command heng hcmd, guardWith, ha, hb, hnf, (field_direction (b := true)).1 hm, hf]
  | mlease | mrel | bxmap | bxapply | bxswap | bxresume | colload | colgo | colstat =>
    obtain ⟨hop, heng, hcmd, hf⟩ := word_engine.1 (Option.some.inj h)
    simp [decodeWord_engine hop, decodeEngine, field_command heng hcmd, guardWith, hf]
  | mmul | mrot | mdrain | mzero =>
    obtain ⟨hop, heng, hcmd, hf⟩ := word_engine_acc.1 (Option.some.inj h)
    simp [decodeWord_engine hop, decodeEngine, field_command heng hcmd, guardWith, hf]
  | mstat =>
    obtain ⟨hop, heng, hcmd, hf⟩ := word_engine_stat (z := false).1 (Option.some.inj h)
    simp [decodeWord_engine hop, decodeEngine, field_command heng hcmd, guardWith, hf]
  | erd _ eng ereg =>
    have hr : engineRegOk eng ereg = true := hwf
    simp [decodeWord, guardWith, word_ereg (dir := false).1 (Option.some.inj h), hr]
  | erw _ eng ereg =>
    have hr : engineRegOk eng ereg = true := hwf
    simp [decodeWord, guardWith, word_ereg (dir := true).1 (Option.some.inj h), hr]
  | fmt => simp [decodeWord, guardWith, word_fmt.1 (Option.some.inj h)]
  | csrr => simp [decodeWord, guardWith, word_csr (dir := false).1 (Option.some.inj h)]
  | csrs => simp [decodeWord, word_csr (dir := false).1 (Option.some.inj h)]
  | csrw | csrc => simp [decodeWord, word_csr (dir := true).1 (Option.some.inj h)]
  | _ => cases (h : none = some w)

/-- A word in memory is read back from its four bytes (R6). -/
theorem wordOfBytes_bytesOfWord (w : IWord) :
    wordOfBytes (w.extractLsb' 0 8) (w.extractLsb' 8 8) (w.extractLsb' 16 8) (w.extractLsb' 24 8) = w := by
  refine (append_eq_word rfl).2 ⟨?_, rfl⟩
  rw [field_eq_append, field_eq_append]
  exact ⟨⟨rfl, rfl⟩, rfl⟩

theorem decode_bytesOfWord (h : decodeWord w = .ok i) (rest : List Byte) : decode (bytesOfWord w ++ rest) = .ok (i, rest) := by
  simp only [bytesOfWord, List.cons_append, List.nil_append, decode, wordOfBytes_bytesOfWord, h]

theorem word_of_encode (h : encode i = some w) : i.word = w := by
  unfold Instr.word
  split
  next => cases h
  next => rw [h]; rfl

/-- The rows with a word are those that the encoder gives one. -/
theorem isWord_eq_isSome_encode (i : Instr) : i.isWord = (encode i).isSome := by
  cases i <;> rfl

end

/-- Settles O56: the pieces of each format are the fields of its word, read in both directions. -/
theorem decodeAndEncodeAgree : Obligations.DecodeAndEncodeAgree := by
  refine ⟨fun i hword hwf => ?_, fun w i h => decodeWord_encodes h⟩
  obtain ⟨w, hw⟩ := Option.isSome_iff_exists.1 (isWord_eq_isSome_encode i ▸ hword)
  have hdec := decodeWord_of_encode hw hwf
  exact ⟨w, hw, hdec, word_of_encode hw, decode_bytesOfWord hdec⟩

end Sys2Proof
end

section
/-!
What an instruction of a calm slot leaves behind, when its codes are plain (R57, R62) and its effect is known: the rules that the
statements on computing instructions, special registers and engine registers share.
-/
namespace Sys2Proof.Machine

/-! ## What completion keeps -/

/-- The state t follows s by the completion of an instruction: besides what completion itself uses up, nothing has changed (R86, R103,
R250). -/
structure Completed (s t : State) : Prop where
  task : ∃ wt, t.t = { s.t with
    heldA := none, heldB := none, heldC := none, fetched := [], pass := none, met := false, seq := s.t.seq + 1,
    status := s.t.status &&& 3, wait := wt }
  slot : ∃ hq, t.slot = { s.slot with haltReq := hq, t := t.t }
  device : t = { s with slot := t.slot, cores := t.cores }
  ports : ∀ c, portless (t.coreAt c) = portless (s.coreAt c)

/-- An instruction of a calm slot that waits for no answers completes. -/
theorem conclude_completed {s : State} (hs : Calm s) (word : IWord) (sw : Bool) (u : Use) {s2 : State} (hr : u.ret = false)
    (hk : u.keepPfx = false) (hw : s2.t.wait = none) : Completed s2 (conclude word sw u s s2) := by
  obtain ⟨wt, hq, cs, h, hp, -⟩ := conclude_calm hs word sw u s2 hr hk (by simp [hw]) (by simp [hw])
  rw [h]
  exact ⟨⟨wt, rfl⟩, ⟨hq, rfl⟩, rfl, hp⟩

/-- An instruction whose effect has come about with no wait completes. -/
theorem issue_completed {i : Instr} {sw : Bool} {u : Use} {v : Vals} {s s2 : State} {body : Vals → State → Eff} (hs : Calm s)
    (hi : Issues i u s s v) (hr : u.ret = false) (hk : u.keepPfx = false) (hb : body v (advanced s s) = .ok s2) (hw : s2.t.wait = none) :
    ∃ t, issue i sw u body s = .next t ∧ Completed s2 t :=
  ⟨_, issue_ok hi sw hb, conclude_completed hs i.word sw u hr hk hw⟩

section
variable {s t : State} (h : Completed s t)
include h

theorem Completed.cur : t.cur = s.cur := by rw [h.device]
theorem Completed.mem : t.mem = s.mem := by rw [h.device]
theorem Completed.core : t.core = s.core := by rw [State.core, State.core, h.cur]

theorem Completed.pc : t.t.pc = s.t.pc := by obtain ⟨wt, ht⟩ := h.task; rw [ht]
theorem Completed.globals : t.t.globals = s.t.globals := by obtain ⟨wt, ht⟩ := h.task; rw [ht]
theorem Completed.win : t.t.win = s.t.win := by obtain ⟨wt, ht⟩ := h.task; rw [ht]
theorem Completed.frames : t.t.frames = s.t.frames := by obtain ⟨wt, ht⟩ := h.task; rw [ht]
theorem Completed.eregs : t.t.eregs = s.t.eregs := by obtain ⟨wt, ht⟩ := h.task; rw [ht]

theorem Completed.codes : sameCodes s t := by
  obtain ⟨wt, ht⟩ := h.task
  intro r
  exact plainRead_congr r (by rw [ht]) (by rw [ht]) (by rw [ht]) (by rw [ht]) (by rw [ht])

theorem Completed.special : sameSpecial s t := by
  obtain ⟨wt, ht⟩ := h.task
  simp [sameSpecial, ht, BitVec.and_assoc]

theorem Completed.tiles : sameTiles s t := by obtain ⟨wt, ht⟩ := h.task; rw [sameTiles, ht]
theorem Completed.flags : sameFlags s t := by obtain ⟨wt, ht⟩ := h.task; rw [sameFlags, ht]
theorem Completed.mask : sameMask s t := by obtain ⟨wt, ht⟩ := h.task; simp [sameMask, ht]
theorem Completed.frame : sameFrames s t := by obtain ⟨wt, ht⟩ := h.task; simp [sameFrames, ht]
theorem Completed.bytes : sameBytes s t := fun a => by rw [readByte, h.mem]; rfl
theorem Completed.same : sameDevice s t := ⟨h.device, h.ports⟩

end

/-! ## What a plain write keeps -/

/-- The state in which an instruction's effect runs, its codes being plain: only the PC has moved. -/
theorem plainRead_advanced (s : State) (r : Reg) : plainRead (advanced s s).t r = plainRead s.t r :=
  plainRead_congr r rfl rfl rfl rfl rfl

theorem plainCode_advanced (s : State) (r : Reg) : plainCode (advanced s s).t r = plainCode s.t r := rfl

/-- A code that is plain and not z is a register or a plain stream. -/
theorem register_or_stream {t : Task} {r : Reg} (h : plainCode t r = true) : r.toNat < 56 ∨ isStream r = true := by
  obtain ⟨hl, -⟩ | ⟨rfl, -⟩ | ⟨rfl, -⟩ := plainCode_cases h
  exacts [.inl hl, .inr rfl, .inr rfl]

/-- An effect that is one plain write: its value is in rd, and nothing else has changed. -/
theorem issue_writes {i : Instr} {sw : Bool} {u : Use} {rd : Reg} {w : Word} {s : State} {body : Vals → State → Eff} (hs : Calm s)
    (hi : Issues i u s s (plainVals s.t u)) (hr : u.ret = false) (hk : u.keepPfx = false) (hrd : plainCode s.t rd = true)
    (hb : body (plainVals s.t u) (advanced s s) = putReg (advanced s s) rd w) :
    ∃ t, issue i sw u body s = .next t ∧ (rd ≠ 0 → plainRead t.t rd = w) ∧ onlyWrites s t rd := by
  rw [putReg_plain (advanced s s) w (plainCode_advanced s rd ▸ hrd)] at hb
  have hsame := plainRead_plainWrite_same (advanced s s).t rd w
  have hother := fun r => plainRead_plainWrite_other (advanced s s).t rd r w
  obtain ⟨g, win, a, b, hpw⟩ := plainWrite_frame (advanced s s).t rd w
  obtain ⟨t, ht, hc⟩ := issue_completed (sw := sw) hs hi hr hk hb (by rw [State.t_setT, hpw]; exact hs.awake)
  rw [hpw] at hsame hother hc
  refine ⟨t, ht, fun h0 => ?_, hc.pc, plainRead_zero _ _ rfl, fun r hne => ?_, hc.special, hc.tiles, hc.flags, hc.mask, hc.frame, hc.bytes,
    hc.same⟩
  · rw [hc.codes]
    exact hsame h0 (register_or_stream hrd)
  · rw [hc.codes]
    exact (hother r hne).trans (plainRead_advanced s r)

end Sys2Proof.Machine
end
section
/-!
Instructions that only compute (R311, R312, R315, R323, R330, R356, R357, R362, R363, R379, R381): each is one issue whose effect is the
write of its value to rd.
-/
namespace Sys2Proof.Machine

/-! ## The operations as the reference states them -/

theorem toNat_and_63 (x : Word) : (x &&& 63).toNat = x.toNat % 64 := by
  rw [BitVec.toNat_and]
  exact Nat.and_two_pow_sub_one_eq_mod x.toNat 6

theorem shlBy_eq (x y : Word) : shlBy x (y.toNat % 64) = x <<< (y &&& 63) := by
  rw [shlBy, ← toNat_and_63]
  rfl

theorem shrBy_eq (x y : Word) : shrBy x (y.toNat % 64) = x >>> (y &&& 63) := by
  rw [shrBy, ← toNat_and_63]
  rfl

theorem sraBy_eq (x y : Word) : sraBy x (y.toNat % 64) = x.sshiftRight (y &&& 63).toNat := by
  rw [sraBy, toNat_and_63]

theorem truth_slt (x y : Word) : truth (x.slt y) = if x.toInt < y.toInt then 1 else 0 := by
  simp [truth, BitVec.slt_eq_decide]

theorem truth_ult (x y : Word) : truth (decide (x < y)) = if x.toNat < y.toNat then 1 else 0 := by
  simp [truth, BitVec.lt_def]

theorem minS_eq (x y : Word) : minS x y = BitVec.ofInt 64 (min x.toInt y.toInt) := by
  rw [minS, BitVec.slt_eq_decide]
  rcases lt_or_ge x.toInt y.toInt with h | h
  · simp [h, min_eq_left h.le]
  · simp [h.not_gt, min_eq_right h]

theorem maxS_eq (x y : Word) : maxS x y = BitVec.ofInt 64 (max x.toInt y.toInt) := by
  rw [maxS, BitVec.slt_eq_decide]
  rcases lt_or_ge x.toInt y.toInt with h | h
  · simp [h, max_eq_right h.le]
  · simp [h.not_gt, max_eq_left h]

theorem minU_eq (x y : Word) : minU x y = BitVec.ofNat 64 (min x.toNat y.toNat) := by
  simp only [minU, BitVec.lt_def]
  rcases lt_or_ge x.toNat y.toNat with h | h
  · simp [h, min_eq_left h.le]
  · simp [h.not_gt, min_eq_right h]

theorem maxU_eq (x y : Word) : maxU x y = BitVec.ofNat 64 (max x.toNat y.toNat) := by
  simp only [maxU, BitVec.lt_def]
  rcases lt_or_ge x.toNat y.toNat with h | h
  · simp [h, max_eq_right h.le]
  · simp [h.not_gt, max_eq_left h]

/-- Leading zeros are the place of the first one from bit 63 on. -/
theorem leadingZeros_eq_findIdx (x : Word) (n : Nat) (hn : n ≤ 64) :
    leadingZeros x n = (List.range' (64 - n) n).findIdx (fun i => x.getMsbD i) := by
  induction n with
  | zero => rfl
  | succ n ih =>
    have hbit : x.getMsbD (64 - (n + 1)) = x.getLsbD n := by
      rw [BitVec.getMsbD_eq_getLsbD, show 64 - 1 - (64 - (n + 1)) = n by omega]
      simp; omega
    rw [leadingZeros, List.range'_succ, List.findIdx_cons, hbit, show 64 - (n + 1) + 1 = 64 - n by omega, ih (by omega)]
    cases x.getLsbD n <;> simp [Nat.add_comm]

/-- Trailing zeros are the place of the first one from bit 0 on. -/
theorem trailingZeros_eq_findIdx (x : Word) (i n : Nat) : trailingZeros x i n = (List.range' i n).findIdx (fun i => x.getLsbD i) := by
  induction n generalizing i with
  | zero => rfl
  | succ n ih =>
    rw [trailingZeros, List.range'_succ, List.findIdx_cons, ih]
    cases x.getLsbD i <;> simp [Nat.add_comm]

theorem onesIn_eq_countP (x : Word) (n : Nat) : onesIn x n = (List.range n).countP (fun i => x.getLsbD i) := by
  induction n with
  | zero => rfl
  | succ n ih =>
    rw [onesIn, List.range_succ, List.countP_append, ih]
    cases h : x.getLsbD n <;> simp [h, Nat.add_comm]

theorem clz_eq (x : Word) : leadingZeros x 64 = (List.range 64).findIdx (fun i => x.getMsbD i) := by
  rw [leadingZeros_eq_findIdx x 64 le_rfl, List.range_eq_range']

theorem ctz_eq (x : Word) : trailingZeros x 0 64 = (List.range 64).findIdx (fun i => x.getLsbD i) := by
  rw [trailingZeros_eq_findIdx, List.range_eq_range']

theorem immS_toInt (imm : BitVec 13) : (immS imm).toInt = imm.toInt := BitVec.toInt_signExtend_of_le (by decide)

theorem immU_eq (imm : BitVec 19) : immU imm = BitVec.ofInt 64 (imm.toInt * 8192) := by
  rw [immU, BitVec.shiftLeft_eq_mul_twoPow, BitVec.ofInt_mul]
  rfl

theorem fieldMask_eq (len : BitVec 6) : fieldMask len = onesUpTo len := by
  revert len
  decide

/-- The effect of an instruction that only computes is the write of its value to rd. -/
theorem exec_computes {i : Instr} {c : Computes} (h : computes i = some c) (s : State) :
    exec i s = issue i c.sw c.use (fun v s1 => putReg s1 c.rd (c.value s.t.pc v)) s := by
  cases i <;> simp only [computes, Option.some.injEq, reduceCtorEq] at h
  all_goals subst h
  case add | sub | and | or | xor | mix | mul | addi | andi | ori | xori  => rfl
  case shl => simp only [← shlBy_eq]; rfl
  case shr => simp only [← shrBy_eq]; rfl
  case sra => simp only [← sraBy_eq]; rfl
  case slt => simp only [← truth_slt]; rfl
  case sltu => simp only [← truth_ult]; rfl
  case min => simp only [← minS_eq]; rfl
  case max => simp only [← maxS_eq]; rfl
  case minu => simp only [← minU_eq]; rfl
  case maxu => simp only [← maxU_eq]; rfl
  case clz => simp only [← clz_eq]; rfl
  case ctz => simp only [← ctz_eq]; rfl
  case popc => simp only [← onesIn_eq_countP]; rfl
  case slti => simp only [← immS_toInt, ← truth_slt]; rfl
  case sltiu => simp only [← truth_ult]; rfl
  case lui => simp only [← immU_eq]; rfl
  case addpc => simp only [← immU_eq, BitVec.ofNat_toNat]; rfl
  case bfx | bfi => simp only [← fieldMask_eq]; rfl
  case mulh | mulhu | shli | shri | srai => rfl

/-- It reads plain fields, accepts no FMT word before it and is not privileged. -/
theorem computes_use {i : Instr} {c : Computes} (h : computes i = some c) : ∃ a b x, c.use = { a := a, b := b, c := x, d := [c.rd] } := by
  cases i <;> simp only [computes, Option.some.injEq, reduceCtorEq] at h
  all_goals subst h; exact ⟨_, _, _, rfl⟩

end Sys2Proof.Machine
end
section
/-! Every computing instruction writes its result to rd and nothing else (R57, R226). -/
namespace Sys2Proof.Machine

/-- A computing instruction whose codes are plain issues when nothing stands in its way. -/
theorem issues_computes {i : Instr} {c : Computes} {s : State} (h : computes i = some c) (hwf : i.wellFormed = true) (hs : Calm s)
    (ha : s.t.active = true) (hp : ∀ r ∈ c.use.reads ++ c.use.d, plainCode s.t r = true) :
    Issues i c.use s s (plainVals s.t c.use) := by
  obtain ⟨a, b, x, hu⟩ := computes_use h
  rw [hu] at hp ⊢
  exact issues_plain hs (by simp [ha]) hp hwf rfl rfl nofun

/-- Settles O1: a computing instruction is one issue whose effect is the write of its value. -/
theorem computedResultIsWritten : Obligations.ComputedResultIsWritten := by
  refine ⟨fun i c s hc hwf hs ha hp => ?_, fun i c s s1 s2 v hc hi hput => ?_⟩
  · obtain ⟨a, b, x, hu⟩ := computes_use hc
    rw [exec_computes hc]
    exact issue_writes hs (issues_computes hc hwf hs ha hp) (by rw [hu]) (by rw [hu]) (hp c.rd (by simp [hu])) rfl
  · have hn : exec i s = .next (conclude i.word c.sw c.use s s2) := by
      rw [exec_computes hc]
      exact issue_ok hi c.sw hput
    exact ⟨hn, fun hw => by rw [hn, conclude_completes (by simp [hw]) (by simp [hw])]⟩

end Sys2Proof.Machine
end

section
/-! What each operand code gives when it is read and takes when it is written (R14, R20, R57 to R61). -/
namespace Sys2Proof.Machine

/-! ## Link queues -/

/-- A pop takes the oldest word that came from a neighbour, and touches no other queue and no other core. -/
theorem linkQueue_popLink (s : State) (core : Nat) (d e : Dir) :
    linkQueue ((popLink s core d).coreAt core) e =
      if e = d then (linkQueue (s.coreAt core) d).drop 1 else linkQueue (s.coreAt core) e := by
  cases d <;> cases e <;> simp [popLink, linkQueue]

theorem coreAt_popLink_other (s : State) {core c : Nat} (d : Dir) (h : c ≠ core) : (popLink s core d).coreAt c = s.coreAt c := by
  cases d <;> simp [popLink, h]

theorem popLink_cores (s : State) (core : Nat) (d : Dir) : popLink s core d = { s with cores := (popLink s core d).cores } := by
  cases d <;> rfl

/-- A push puts its word behind those on their way to the neighbour. -/
theorem queueToward_pushLink (s : State) (core : Nat) (d : Dir) (v : Word) :
    queueToward (pushLink s core d v) core d = queueToward s core d ++ [v] := by
  cases d <;> simp [pushLink, queueToward]

theorem coreAt_pushLink_other (s : State) {core c : Nat} {d : Dir} (v : Word) (h : c ≠ neighbour core d) :
    (pushLink s core d v).coreAt c = s.coreAt c := by
  cases d <;> simp [pushLink, h]

theorem pushLink_cores (s : State) (core : Nat) (d : Dir) (v : Word) :
    pushLink s core d v = { s with cores := (pushLink s core d v).cores } := by
  cases d <;> rfl

/-! ## Reads -/

/-- A register of the window is an entry above the frame's base (R62). -/
theorem plainRead_windowed (t : Task) {n : Nat} (hn : n < 48) : plainRead t (BitVec.ofNat 6 (8 + n)) = t.win[(t.frame.base + n) % 128]! := by
  have h : (BitVec.ofNat 6 (8 + n)).toNat = 8 + n := by simp; omega
  rw [plainRead_win _ _ (by omega) (by omega), h, Nat.add_sub_cancel_left, getWin, Task.entry, Nat.mod_mod]

theorem readReg_link {s : State} {r : Reg} {d : Dir} {w : Word} {rest : List Word} (hr : linkOf r = some d)
    (hq : linkQueue (s.coreAt s.core) d = w :: rest) : readReg s r = .ok (popLink s s.core d, w) := by
  simp [readReg, hr, hq]

/-- ib, eq and a stream armed for reading refuse what is not there, and an armed stream the other direction. -/
theorem readReg_ib (s : State) : readReg s 60 = match s.t.runs with
    | run :: _ =>
      if run.given && run.ibRead < 6 then
        .ok (s.setT (setRun s.t (fun x => { x with ibRead := x.ibRead + 1 })), run.record.getD (2 + run.ibRead) 0)
      else .error (.trap .queue 60)
    | [] => .error (.trap .queue 60) := rfl

theorem readReg_eq (s : State) : readReg s 63 = match s.t.eq with
    | w :: rest => .ok (s.setT { s.t with eq := rest }, w)
    | [] => .error (.trap .queue 63) := rfl

theorem readReg_armed_write {s : State} {r : Reg} (hs : isStream r = true) (ha : (streamOf s.t r).armed = true)
    (hw : (streamOf s.t r).write = true) : readReg s r = .error (.trap .queue (r.zeroExtend 64)) := by
  have hr : r = 61 ∨ r = 62 := by simpa [isStream] using hs
  have hl : linkOf r = none ∧ isIb r = false ∧ isEq r = false := by obtain rfl | rfl := hr <;> decide
  obtain ⟨hl, hi, he⟩ := hl
  unfold readReg
  simp only [hl, hi, he, hs, ha, hw, Bool.and_self, Bool.false_eq_true, if_false, if_true]

/-! ## Writes -/

theorem putReg_link (s : State) {r : Reg} {d : Dir} (v : Word) (hr : linkOf r = some d) : putReg s r v = .ok (pushLink s s.core d v) := by
  simp [putReg, hr]

theorem putReg_badWrite (s : State) {r : Reg} (v : Word) (hl : linkOf r = none) (hb : badWrite s.t r = true) :
    putReg s r v = .error (.trap .queue (r.zeroExtend 64)) := by
  simp [putReg, hl, hb]

theorem putReg_zero (s : State) (v : Word) : putReg s 0 v = .ok s := rfl

/-- A plain code takes the value written, and no other code changes. -/
theorem putReg_plain_reads (s : State) {r : Reg} (v : Word) (hr : plainCode s.t r = true) (h0 : r ≠ 0) :
    ∃ s1, putReg s r v = .ok s1 ∧ plainRead s1.t r = v ∧ sameCodesBut s s1 r ∧ s1 = s.setT s1.t ∧ s1.t.frames = s.t.frames :=
  ⟨_, putReg_plain s v hr, plainRead_plainWrite_same _ _ _ h0 (register_or_stream hr),
    fun _ hq => plainRead_plainWrite_other _ _ _ _ hq, rfl, plainWrite_frames _ _ _⟩

/-! ## Stalls -/

theorem stalls_stalled (s : State) : ((stalled s).coreAt s.core).stalls.getLsbD (s.cur % 4) = true := by
  have h : s.cur % 4 < 4 := Nat.mod_lt _ (by decide)
  have hk : ((stalled s).coreAt s.core).stalls = (s.coreAt s.core).stalls ||| BitVec.ofNat 4 (1 <<< (s.cur % 4)) := by
    simp [stalled]
  rw [hk, BitVec.getLsbD_or, BitVec.getLsbD_ofNat]
  simp [h]

/-- An instruction whose link queues are not ready is only noted as stalled (R14). -/
theorem issue_links_wait {i : Instr} {u : Use} {s : State} (sw : Bool) (body : Vals → State → Eff) (ha : s.t.active = true)
    (hl : linksReady s u = false) :
    ∃ t, issue i sw u body s = .next t ∧ t.t = s.t ∧ (t.coreAt s.core).stalls.getLsbD (s.cur % 4) = true ∧ sameDevice s t := by
  obtain ⟨cs, hst, hp⟩ := stalled_frame s
  refine ⟨stalled s, issue_stalls sw body (by simp [ha]) (by simp [readyToIssue, hl]), ?_, stalls_stalled s, ?_, ?_⟩
  · rw [hst]
  · rw [hst]
  · rw [hst]; exact hp

/-! ## The obligation -/

/-- Settles O14: each code's read and write is one branch of readReg and of putReg, and a stalled instruction stops before both. -/
theorem operandCodesReadAndWrite : Obligations.OperandCodesReadAndWrite := by
  refine ⟨fun s => ⟨fun r => readReg_plain s, plainRead_zero _ _ rfl, fun n hn => ?_, fun n hn => ?_, ?_, ?_, ?_, ?_, ?_, ?_, ?_⟩,
    fun s v => ⟨putReg_zero s v, fun r => putReg_plain_reads s v, ?_, rfl, rfl, ?_, ?_⟩, fun i c s hi ha hl => ?_⟩
  case refine_1 =>
    have h : (BitVec.ofNat 6 (1 + n)).toNat = 1 + n := by simp; omega
    rw [plainRead_glob _ _ (by omega) (by omega), h, Nat.add_sub_cancel_left]
  case refine_2 => exact plainRead_windowed s.t hn
  case refine_3 =>
    intro r d w rest hr hq
    refine ⟨_, readReg_link hr hq, ?_, fun e he => ?_, fun c hc => coreAt_popLink_other s d hc, popLink_cores s s.core d⟩
    · rw [linkQueue_popLink, if_pos rfl, hq]; rfl
    · rw [linkQueue_popLink, if_neg he]
  case refine_4 =>
    intro run rest hr hg hl
    refine ⟨_, ?_, rfl⟩
    rw [readReg_ib, hr]
    simp [setRun, hr, hg, hl]
  case refine_5 =>
    intro run rest hr hor
    rw [readReg_ib, hr]
    obtain hg | hl := hor
    · simp [hg]
    · simp [Nat.not_lt.2 hl]
  case refine_6 => intro w rest hq; rw [readReg_eq, hq]
  case refine_7 => intro hq; rw [readReg_eq, hq]
  case refine_8 => exact readReg_armed_write (r := 61) rfl
  case refine_9 => exact readReg_armed_write (r := 62) rfl
  case refine_10 =>
    intro r d hr
    exact ⟨_, putReg_link s v hr, queueToward_pushLink s s.core d v, fun c hc => coreAt_pushLink_other s v hc, pushLink_cores s s.core d v⟩
  case refine_11 =>
    intro ha hw
    exact putReg_badWrite s v rfl (by simp [badWrite, streamOf, isStream, ha, hw])
  case refine_12 =>
    intro ha hw
    exact putReg_badWrite s v rfl (by simp [badWrite, streamOf, isStream, ha, hw])
  case refine_13 =>
    rw [exec_computes hi]
    exact issue_links_wait _ _ ha hl

end Sys2Proof.Machine
end

section
/-! The order of the checks at issue (R98, R102). -/
namespace Sys2Proof.Machine

/-! ## The checks, from the first one that fails -/

theorem staticCheck_badPrefix {i : Instr} {u : Use} {t : Task} (hb : t.badPrefix = true) :
    staticCheck i u t = some (.illop, t.pending.zeroExtend 64) := by
  simp [staticCheck, hb]

/-- An FMT word before an instruction that accepts none. -/
theorem staticCheck_prefix {i : Instr} {u : Use} {t : Task} (hb : t.badPrefix = false) (hp : t.hasPrefix = true) (hu : u.pfx = false) :
    staticCheck i u t = some (.illop, i.word.zeroExtend 64) := by
  simp [staticCheck, hb, hp, hu]

section
variable {i : Instr} {u : Use} {t : Task} (hp : t.hasPrefix = false) (hw : i.wellFormed = true) (hm : u.mixed .dflt = false)
  (hf : u.fmtOk .dflt = true)
include hp hw hm hf

/-- With no FMT word in force, an instruction of the supervisor in user mode. -/
theorem staticCheck_priv (hu : u.priv = true) (hs : t.status.getLsbD 0 = false) :
    staticCheck i u t = some (.priv, i.word.zeroExtend 64) := by
  unfold staticCheck
  simp only [Task.badPrefix, Task.fmt, hp, hw, hm, hf, hu, hs, Bool.false_and, Bool.or_self, Bool.not_true, Bool.not_false, Bool.and_self,
    Bool.false_eq_true, if_true, if_false]

/-- With no FMT word in force, the first code outside the frame. -/
theorem staticCheck_illreg (hu : u.priv = false) {r : Reg} (hr : (u.reads ++ u.d).find? (outOfFrame t) = some r) :
    staticCheck i u t = some (.illreg, r.zeroExtend 64) := by
  unfold staticCheck
  simp [Task.badPrefix, Task.fmt, hp, hw, hm, hf, hu, hr]

end

/-! ## Plain codes hold nothing up -/

/-- A calm slot is ready for plain codes, whatever the instruction's other checks are. -/
theorem readyToIssue_plain {s : State} (hs : Calm s) {u : Use} (hr : ∀ r ∈ u.reads ++ u.d, plainCode s.t r = true) :
    readyToIssue s u = true :=
  (issues_plain (i := .eret false) (u := { u with priv := false, control := true, mixed := fun _ => false, fmtOk := fun _ => true }) hs
    (Bool.or_true _) hr rfl rfl rfl (fun h => absurd h Bool.false_ne_true)).ready

/-- An instruction of the supervisor takes PRIV in user mode. -/
theorem issue_priv {i : Instr} {u : Use} {s : State} (sw : Bool) (body : Vals → State → Eff) (hs : Calm s) (ha : s.t.active = true)
    (hr : ∀ r ∈ u.reads ++ u.d, plainCode s.t r = true) (hw : i.wellFormed = true) (hm : u.mixed .dflt = false)
    (hf : u.fmtOk .dflt = true) (hu : u.priv = true) (hp : s.t.status.getLsbD 0 = false) :
    issue i sw u body s = trapped s .priv (i.word.zeroExtend 64) :=
  issue_static sw body (by simp [ha]) (readyToIssue_plain hs hr) (staticCheck_priv hs.no_prefix hw hm hf hu hp)

/-! ## The supervisor's instructions -/

theorem exec_eret (sw : Bool) (s : State) :
    exec (.eret sw) s = issue (.eret sw) sw { priv := true, ret := true } (fun _ s => .ok (returnFromHandler s)) s := rfl

theorem exec_wfi (sw : Bool) (s : State) :
    exec (.wfi sw) s =
      issue (.wfi sw) sw { priv := true } (fun _ s => if waitHolds s s.cur .interrupt then .ok s else .error (.park s .interrupt)) s := rfl

theorem exec_tlbinv (ra : Reg) (sw : Bool) (s : State) :
    exec (.tlbinv ra sw) s = issue (.tlbinv ra sw) sw { a := some ra, priv := true } (fun v s => tlbinvAt ra v.a s) s := rfl

/-! ## The obligation -/

/-- Settles O17: each clause is the check of R102 that fails first. -/
theorem issueChecksInOrder : Obligations.IssueChecksInOrder := by
  refine ⟨fun i c s hi ha hready => ?_, ?_⟩
  · have htrap {k : Cause} {v : Word} (hc : staticCheck i c.use s.t = some (k, v)) : exec i s = trapped s k v := by
      rw [exec_computes hi]
      exact issue_static _ _ (by simp [ha]) hready hc
    obtain ⟨a, b, x, hu⟩ := computes_use hi
    exact ⟨fun hb => htrap (staticCheck_badPrefix hb), fun hb hp => htrap (staticCheck_prefix hb hp (by rw [hu])),
      fun hp hw r hr => htrap (staticCheck_illreg hp hw (by rw [hu]) (by rw [hu]) (by rw [hu]) hr)⟩
  · rintro i s ⟨sw, rfl | rfl | ⟨ra, rfl, hra⟩⟩ hs ha hp
    · exact exec_eret sw s ▸ issue_priv sw _ hs ha (by simp [Use.reads]) rfl rfl rfl rfl hp
    · exact exec_wfi sw s ▸ issue_priv sw _ hs ha (by simp [Use.reads]) rfl rfl rfl rfl hp
    · exact exec_tlbinv ra sw s ▸ issue_priv sw _ hs ha (by simpa [Use.reads] using hra) rfl rfl rfl rfl hp

end Sys2Proof.Machine
end

section
/-! Entry into a handler: what is saved, and where the slot goes (R74, R248, R250). -/
namespace Sys2Proof.Machine

/-! ## What leaving a wait and setting accesses aside keep -/

/-- t is s but for its wait, the accesses set aside and the elements read ahead (R213, R248, R249). -/
structure SetAside (s t : State) : Prop where
  task : ∃ (pulled : List Held) (far : List (Nat × Remote)) (pend : List Dst) (a b : List Word) (wt : Option Wait) (met : Bool),
    t.t = { s.t with
      pulled := pulled, pulledFar := far, pend := pend, wait := wt, met := met,
      sa := { s.t.sa with ahead := a }, sb := { s.t.sb with ahead := b } }
  slot : t.slot = { s.slot with t := t.t }
  cur : t.cur = s.cur
  mem : t.mem = s.mem

theorem SetAside.refl (s : State) : SetAside s s := ⟨⟨_, _, _, _, _, _, _, rfl⟩, rfl, rfl, rfl⟩

theorem SetAside.trans {s t u : State} (h : SetAside s t) (h' : SetAside t u) : SetAside s u := by
  obtain ⟨⟨_, _, _, _, _, _, _, ht⟩, hs, hc, hm⟩ := h
  obtain ⟨⟨pulled, far, pend, a, b, wt, met, ht'⟩, hs', hc', hm'⟩ := h'
  refine ⟨⟨pulled, far, pend, a, b, wt, met, ?_⟩, ?_, hc'.trans hc, hm'.trans hm⟩
  · rw [ht', ht]
  · rw [hs', hs]

/-- A slot that waits for nothing leaves no wait. -/
theorem endWait_setAside {s : State} (h : s.t.wait = none) : SetAside s (endWait s) := by
  have he : endWait s = (dropWatch s s.cur).setT { s.t with wait := none, met := false } := by
    simp [endWait, leaveWait, h, dropWatch]
  rw [he]
  exact ⟨⟨_, _, _, _, _, _, _, rfl⟩, rfl, rfl, rfl⟩

theorem pullHere_setAside (s : State) : SetAside s (pullHere s) := by
  unfold pullHere
  dsimp only
  split
  · exact .refl s
  · exact ⟨⟨_, _, _, _, _, _, _, rfl⟩, rfl, rfl, rfl⟩

theorem pullFar_setAside (s : State) : SetAside s (pullFar s) := by
  unfold pullFar
  dsimp only
  split
  · exact .refl s
  · exact ⟨⟨_, _, _, _, _, _, _, rfl⟩, rfl, rfl, rfl⟩

theorem dropAheadOf_setAside (b : Bool) (s : State) : SetAside s (dropAheadOf b s s.cur) := by
  unfold dropAheadOf
  simp only [State.updTaskOf, State.updSlot, State.slotAt, State.setSlot, if_true]
  cases b <;> exact ⟨⟨_, _, _, _, _, _, _, rfl⟩, rfl, rfl, rfl⟩

theorem dropAhead_setAside (s : State) : SetAside s (dropAhead s s.cur) := by
  have h := dropAheadOf_setAside false s
  have h' := dropAheadOf_setAside true (dropAheadOf false s s.cur)
  rw [h.cur] at h'
  exact h.trans h'

/-- The state that a handler is entered from. -/
def clearedForHandler (s : State) : State := dropAhead (pullQualified (endWait s)) s.cur

theorem clearedForHandler_setAside {s : State} (h : s.t.wait = none) : SetAside s (clearedForHandler s) := by
  have hp := (endWait_setAside h).trans ((pullHere_setAside _).trans (pullFar_setAside _))
  have hd := dropAhead_setAside (pullQualified (endWait s))
  rw [pullQualified, hp.cur] at hd
  exact hp.trans hd

/-! ## The entry -/

/-- The registers of trap entry, for the task as it then stands (R74). -/
def savedTask (t : Task) (cause : Nat) (irq : Bool) (v : Word) (wt : Option Wait) : Task :=
  { t with
    tepc := t.pc.zeroExtend 64, tcause := BitVec.ofNat 64 (cause + boolBit irq 63), tval := v, tstatus := t.statusWord,
    tprefix := if t.hasPrefix then t.pending.zeroExtend 64 else t.tprefix, status := (t.status &&& 1) ||| 1,
    handlers := t.handlers + 1, keptA := t.heldA, keptB := t.heldB, keptC := t.heldC, heldA := none, heldB := none, heldC := none,
    pass := none, matched := t.pass :: t.matched, fetched := [], wait := wt }

/-- The slot goes on at TVEC, and halts when TVEC is 0 (R248). -/
theorem enterHandler_enters (s : State) (cause : Nat) (irq : Bool) (v : Word) :
    ∃ wt a b c, let s1 := clearedForHandler s
      let t := enterHandler s cause irq v
      t.t = { savedTask s1.t cause irq v wt with
        heldA := a, heldB := b, heldC := c, pc := if s1.t.tvec = 0 then s1.t.pc else s1.t.tvec.truncate 48 }
      ∧ t.slot.halted = (if s1.t.tvec = 0 then true else s1.slot.halted) ∧ t.mem = s1.mem := by
  refine ⟨if outstandingReads (clearedForHandler s) (clearedForHandler s).cur then some .marker else none, ?_⟩
  unfold enterHandler clearedForHandler
  dsimp only
  generalize dropAhead (pullQualified (endWait s)) s.cur = s1
  by_cases h0 : s1.t.tvec = 0
  · refine ⟨s1.t.heldA, s1.t.heldB, s1.t.heldC, ?_⟩
    simp only [if_pos h0]
    split <;> exact ⟨rfl, trivial, rfl⟩
  · refine ⟨none, none, none, ?_⟩
    simp only [if_neg h0]
    split <;> exact ⟨rfl, rfl, rfl⟩

/-- STATUS in a handler: IE and PP clear, SUP set (R248). -/
theorem and_one_or_one (x : Word) : (x &&& 1) ||| 1 = 1 := by
  ext i h
  by_cases hi : i = 0 <;> simp [hi]

/-- Settles O15: the registers saved are those of the slot, since what is set aside before the entry leaves them alone. -/
theorem trapEntrySavesTheState : Obligations.TrapEntrySavesTheState := by
  intro s c v hw
  dsimp only [takeTrap]
  obtain ⟨⟨pulled, far, pend, a, b, w1, met, ht⟩, hslot, -, hmem⟩ := clearedForHandler_setAside hw
  obtain ⟨wt, ha, hb, hc, htask, hhalt, hm⟩ := enterHandler_enters s (causeCode c) false v
  rw [ht] at htask hhalt
  rw [hslot] at hhalt
  generalize enterHandler s (causeCode c) false v = t at htask hhalt hm
  refine ⟨by rw [htask]; rfl, by rw [htask]; rfl, by rw [htask]; rfl, by rw [htask]; rfl, fun hp => ?_, fun hp => ?_, ?_, fun h0 => ?_,
    fun h0 => ?_, by rw [htask]; rfl, by rw [htask]; rfl, by rw [htask]; rfl, by rw [htask]; rfl, by rw [htask]; rfl, by rw [htask]; rfl,
    fun r => ?_, by rw [sameTiles, htask]; rfl, by rw [sameFrames, htask]; exact ⟨rfl, rfl⟩, fun x => ?_⟩
  · rw [htask]; exact if_pos hp
  · rw [htask]; exact if_neg (ne_true_of_eq_false hp)
  · rw [htask]; exact and_one_or_one _
  · rw [htask, hhalt]; exact ⟨if_neg h0, if_neg h0⟩
  · rw [htask, hhalt]; exact ⟨if_pos h0, if_pos h0⟩
  · exact plainRead_congr r (by rw [htask]; rfl) (by rw [htask]; rfl) (by rw [htask]; rfl) (by rw [htask]; rfl) (by rw [htask]; rfl)
  · rw [readByte, hm, hmem]; rfl

end Sys2Proof.Machine
end

section
/-! FMT and the engine registers (R75, R86, R344, R345, R350). -/
namespace Sys2Proof.Machine

/-! ## FMT -/

section
variable {fa fb fd : BitVec 6} {sm : BitVec 3} {sat : Bool} {rm : BitVec 2}

theorem exec_fmt (s : State) : exec (.fmt fa fb fd sm sat rm) s = issue (.fmt fa fb fd sm sat rm) false { keepPfx := true }
    (fun _ s => .ok (s.setT { s.t with pending := (Instr.fmt fa fb fd sm sat rm).word, status := s.t.status ||| 4 })) s := rfl

/-- The formats of an FMT word are the fields that it was made of. -/
theorem fmtOfWord_fmt {w : IWord} (h : (Instr.fmt fa fb fd sm sat rm).word = w) :
    fmtOfWord w = { fa := fa.toNat, fb := fb.toNat, fd := fd.toNat, sm := sm.toNat, sat := sat, rm := rm.toNat } := by
  obtain ⟨-, rfl, rfl, rfl, rfl, rfl, rfl, -⟩ := word_fmt.1 h
  rfl

/-- An FMT word is a good pending word. -/
theorem badPrefix_fmt {t : Task} (h : (Instr.fmt fa fb fd sm sat rm).word = t.pending) : t.badPrefix = false := by
  obtain ⟨hop, -, -, -, -, -, -, hz⟩ := word_fmt.1 h
  rw [field] at hop hz
  simp [Task.badPrefix, hop, hz]

end

/-- The PP bit of STATUS is set, and SUP and IE stay (R86). -/
theorem or_four_getLsbD (x : Word) : (x ||| 4).getLsbD 2 = true := by simp

theorem or_four_and_three (x : Word) : (x ||| 4) &&& 3 = x &&& 3 := by
  rw [BitVec.and_comm, BitVec.and_or_distrib_left, BitVec.and_comm]
  simp

/-- An unmarked instruction that keeps the FMT word in force completes with its STATUS (R86). -/
theorem complete_keepPfx {s : State} (hs : Calm s) (word : IWord) {u : Use} (hk : u.keepPfx = true) (hr : u.ret = false) (s2 : State) :
    ∃ hq, complete word false u s s2 =
      { s2 with slot := { s2.slot with
        haltReq := hq,
        t := { s2.t with heldA := none, heldB := none, heldC := none, fetched := [], pass := none, met := false, seq := s2.t.seq + 1 } } } := by
  have hf : forwardTo s.t = [] := by simp [forwardTo, hs.no_followers]
  have hl : s.t.follows = false := by simp [Task.follows, hs.no_leader]
  unfold complete
  simp only [hf, hl, hr, hk, List.filter_nil, forward, List.foldl_nil, Bool.false_and, Bool.or_false, Bool.false_eq_true, if_false, if_true]
  exact ⟨_, rfl⟩

/-- An instruction without codes waits for none. -/
theorem readyToIssue_no_codes {s : State} (hp : s.t.pend = []) (hf : s.t.followers = []) {u : Use} (hr : u.popped s.t = []) (hd : u.d = []) :
    readyToIssue s u = true := by
  simp [readyToIssue, linksReady, scoreboardClear, forwardRoom, forwardTo, hp, hf, hr, hd]

/-- With none in force an FMT word becomes the pending one. -/
theorem exec_fmt_pends {fa fb fd : BitVec 6} {sm : BitVec 3} {sat : Bool} {rm : BitVec 2} {s : State} (hs : Calm s) (ha : s.t.active = true) :
    ∃ hq cs, let t : State := { s with
        cores := cs
        slot := { s.slot with
          haltReq := hq,
          t := { s.t with
            pc := s.t.pc + 4, pending := (Instr.fmt fa fb fd sm sat rm).word, status := s.t.status ||| 4, heldA := none, heldB := none,
            heldC := none, fetched := [], pass := none, met := false, seq := s.t.seq + 1 } } }
      exec (.fmt fa fb fd sm sat rm) s = .next t ∧ ∀ c, portless (t.coreAt c) = portless (s.coreAt c) := by
  have hi : Issues (.fmt fa fb fd sm sat rm) { keepPfx := true } s s (plainVals s.t { keepPfx := true }) :=
    issues_plain hs (by simp [ha]) (by simp [Use.reads]) rfl rfl rfl (by simp)
  obtain ⟨hq, hc⟩ := complete_keepPfx hs (Instr.fmt fa fb fd sm sat rm).word (u := { keepPfx := true }) rfl rfl
    ((advanced s s).setT { (advanced s s).t with pending := (Instr.fmt fa fb fd sm sat rm).word, status := (advanced s s).t.status ||| 4 })
  obtain ⟨cs, hport, hsame⟩ := issued_frame false (complete (Instr.fmt fa fb fd sm sat rm).word false { keepPfx := true } s
    ((advanced s s).setT { (advanced s s).t with pending := (Instr.fmt fa fb fd sm sat rm).word, status := (advanced s s).t.status ||| 4 }))
  refine ⟨hq, cs, ?_, fun c => ?_⟩
  · rw [exec_fmt, issue_ok hi false rfl, conclude_completes (by simp [advanced, hs.awake]) (by simp [advanced, hs.awake]), hport, hc]
    rfl
  · rw [hc] at hsame
    exact hsame c

/-- Settles O23: the word is kept as it was encoded, and completion leaves STATUS.PP to it. -/
theorem fmtBecomesThePendingPrefix : Obligations.FmtBecomesThePendingPrefix := by
  intro fa fb fd sm sat rm s hw ha hp hf hl
  refine ⟨fun hpre => ?_, fun hpre hbad => ?_⟩
  · obtain ⟨hq, cs, hex, hcores⟩ := exec_fmt_pends (fa := fa) (fb := fb) (fd := fd) (sm := sm) (sat := sat) (rm := rm)
      (s := s) ⟨hw, hp, hpre, hf, hl⟩ ha
    refine ⟨_, hex, rfl, or_four_getLsbD _, ?_, badPrefix_fmt rfl, ⟨fun r => plainRead_congr r rfl rfl rfl rfl rfl, ?_, rfl, rfl, fun _ => rfl⟩,
      rfl, hcores⟩
    · exact (if_pos (or_four_getLsbD _)).trans (fmtOfWord_fmt rfl)
    · exact ⟨or_four_and_three _, rfl, rfl, rfl, rfl, rfl, rfl, rfl, rfl, rfl, rfl, rfl, rfl, rfl, rfl, rfl, rfl, rfl, rfl, rfl⟩
  · rw [exec_fmt]
    exact issue_static _ _ (by simp [ha]) (readyToIssue_no_codes hp hf (by simp [Use.popped]) rfl) (staticCheck_prefix hbad hpre rfl)

/-! ## Engine registers -/

theorem exec_erd (x : Reg) (eng : BitVec 3) (ereg : BitVec 8) (sw : Bool) (s : State) :
    exec (.erd x eng ereg sw) s = issue (.erd x eng ereg sw) sw { d := [x] } (fun _ s => putReg s x (s.t.eregs.get 0 (eregKey eng ereg))) s := rfl

theorem exec_erw (x : Reg) (eng : BitVec 3) (ereg : BitVec 8) (sw : Bool) (s : State) :
    exec (.erw x eng ereg sw) s = issue (.erw x eng ereg sw) sw { c := some x }
      (fun v s => .ok (s.setT { s.t with eregs := s.t.eregs.set 0 (eregKey eng ereg) v.c })) s := rfl

/-- Settles O22: the register file is a map, and neither instruction touches another key of it. -/
theorem engineRegistersKeepWhatIsWritten : Obligations.EngineRegistersKeepWhatIsWritten := by
  intro x eng ereg sw s hs ha hx hok
  refine ⟨?_, ?_⟩
  · have hi : Issues (.erw x eng ereg sw) { c := some x } s s (plainVals s.t { c := some x }) :=
      issues_plain hs (by simp [ha]) (by simpa [Use.reads] using hx) hok rfl rfl (by simp)
    obtain ⟨t, ht, hc⟩ := issue_completed (sw := sw) hs hi rfl rfl (body := fun v s =>
      .ok (s.setT { s.t with eregs := s.t.eregs.set 0 (eregKey eng ereg) v.c })) rfl hs.awake
    rw [exec_erw]
    refine ⟨t, ht, hc.pc, ?_, fun k hk => ?_, fun r => ?_, hc.tiles, hc.flags, hc.bytes, hc.same⟩
    · rw [hc.eregs]
      exact (SMap.get_set _ _ _ _ _).trans (if_pos rfl)
    · rw [hc.eregs]
      exact (SMap.get_set _ _ _ _ _).trans (if_neg hk)
    · rw [hc.codes]
      exact plainRead_advanced s r
  · have hi : Issues (.erd x eng ereg sw) { d := [x] } s s (plainVals s.t { d := [x] }) :=
      issues_plain hs (by simp [ha]) (by simpa [Use.reads] using hx) hok rfl rfl (by simp)
    rw [exec_erd]
    exact issue_writes hs hi rfl rfl hx rfl

end Sys2Proof.Machine
end

section
/-!
What a special register reads, and what its value depends on (R69 to R73).
-/
namespace Sys2Proof.Machine

/-! ## What a read depends on -/

/-- IPEND of the slot in force (R252). -/
theorem pendingOf_cur (s : State) : pendingOf s s.cur =
    (s.t.ipend &&& 0x24) ||| (if s.t.tcmp.toNat ≤ s.tstamp.toNat then 2 else 0) ||| (if (s.coreAt s.core).ipend3 then 8 else 0)
      ||| (if (s.coreAt s.core).ipend4 then 16 else 0) := by
  unfold pendingOf State.core State.slotAt
  rw [if_pos rfl]

theorem csrRead_status (s : State) : csrRead s 0 = s.t.statusWord := rfl

theorem csrRead_pending (s : State) : csrRead s 9 = pendingOf s s.cur := rfl

theorem outstandingOf_setT (s : State) (t : Task) (n : Nat) : outstandingOf (s.setT t) n = outstandingOf s n := rfl
theorem outstandingCore_setT (s : State) (t : Task) (c : Nat) : outstandingCore (s.setT t) c = outstandingCore s c := rfl

theorem replayCount_congr {s t : State} (h : t.remote = s.remote) (u : Nat) : replayCount t u = replayCount s u := by
  unfold replayCount
  rw [h]

theorem replayCount_setT (s : State) (t : Task) (u : Nat) : replayCount (s.setT t) u = replayCount s u := rfl
theorem bkpta_setT (s : State) (t : Task) : (s.setT t).slot.bkpta = s.slot.bkpta := rfl

/-- The PC and the operand codes are no special registers. -/
theorem csrRead_setT_codes (s : State) (pc : Pc) (g : Vector Word 7) (w : Vector Word 128) (a b : Stream) (n : Nat) :
    csrRead (s.setT { s.t with pc := pc, globals := g, win := w, sa := a, sb := b }) n = csrRead s n := by
  unfold csrRead
  dsimp only
  simp only [State.coreAt_setT, State.core_setT, replayCount_setT, bkpta_setT]
  split
  case h_10 => simp only [pendingOf_cur]; rfl
  case h_39 => simp only [outstandingOf_setT, outstandingCore_setT]; rfl
  all_goals exact rfl

theorem csrRead_advanced (s : State) (n : Nat) : csrRead (advanced s s) n = csrRead s n := csrRead_setT_codes s _ _ _ _ _ n

/-- A write of a plain code leaves every special register. -/
theorem csrRead_plainWrite (s : State) (r : Reg) (v : Word) (n : Nat) : csrRead (s.setT (plainWrite s.t r v)) n = csrRead s n := by
  obtain ⟨g, w, a, b, h⟩ := plainWrite_frame s.t r v
  rw [h]
  exact csrRead_setT_codes s _ _ _ _ _ n

/-- Cores that differ in their issue port only. -/
theorem portless_inj {j k : Core} (h : portless j = portless k) : ∃ a b c, j = { k with last := a, lost := b, stalls := c } := by
  have hj : j = { portless j with last := j.last, lost := j.lost, stalls := j.stalls } := rfl
  rw [h] at hj
  exact ⟨_, _, _, hj⟩

/-- Completion leaves every special register but STATUS, whose PP it clears, and OUTST. -/
theorem Completed.csrRead_eq {s t : State} (h : Completed s t) {n : Nat} (h0 : n ≠ 0x000) (ho : n ≠ 0x0A0) : csrRead t n = csrRead s n := by
  obtain ⟨wt, ht⟩ := h.task
  obtain ⟨hq, hs⟩ := h.slot
  obtain ⟨a, b, c, hk⟩ := portless_inj (h.ports s.core)
  have hb : t.slot.bkpta = s.slot.bkpta := by rw [hs]
  have hc : t.slot.bkptctl = s.slot.bkptctl := by rw [hs]
  have hd : t.devid = s.devid := by rw [h.device]
  have hts : t.tstamp = s.tstamp := by rw [h.device]
  have hr : t.remote = s.remote := by rw [h.device]
  unfold csrRead
  dsimp only
  simp only [h.core, h.cur, hb, hc, hd, replayCount_congr hr]
  rw [hk, ht]
  split
  case h_1 => exact absurd rfl h0
  case h_10 =>
    rw [← h.cur, pendingOf_cur, h.cur, pendingOf_cur, h.core, hk, ht, hts]
  case h_39 => exact absurd rfl ho
  all_goals rfl

/-! ## Where the registers stand -/

/-- What a task shows of the special registers (R69, R71 to R74). -/
def taskShows (t : Task) : Nat → Word
  | 0x000 => t.statusWord
  | 0x001 => t.tvec
  | 0x002 => t.tepc
  | 0x003 => t.tcause
  | 0x004 => t.tval
  | 0x005 => t.tstatus
  | 0x006 => t.tprefix
  | 0x007 => t.tscratch
  | 0x008 => t.iemask
  | 0x00A => t.tcmp
  | 0x010 => t.fflags
  | 0x022 => t.member
  | 0x023 => t.lineage
  | 0x024 => t.ctxid
  | 0x025 => t.prio
  | 0x037 => t.stealdom
  | 0x040 => t.spillb
  | 0x041 => t.spillp
  | 0x042 => t.windepth
  | 0x043 => BitVec.ofNat 64 t.frame.size
  | 0x060 => t.peerfail
  | _ => 0

/-- What a core shows of them (R69, R72, R73, R265). -/
def coreShows (k : Core) : Nat → Word
  | 0x030 => k.ibbase
  | 0x031 => k.ibsize
  | 0x032 => k.ibhead
  | 0x033 => k.ibtail
  | 0x034 => k.dqbase
  | 0x035 => k.dqtop
  | 0x036 => k.dqbot
  | 0x080 => k.trcctl
  | 0x081 => k.trctrig
  | 0x082 => k.trcptr
  | 0x083 => k.trcstat
  | n => if 0x050 ≤ n ∧ n ≤ 0x05F then k.peertab[n - 0x050]! else 0

/-- Tasks that show the same at a number give the same register. -/
theorem csrRead_setT {s : State} {t : Task} {n : Nat} (hd : csrDerived n = false) (h : taskShows t n = taskShows s.t n) :
    csrRead (s.setT t) n = csrRead s n := by
  unfold csrRead
  dsimp only
  simp only [State.coreAt_setT, State.core_setT, replayCount_setT, bkpta_setT, State.t_setT]
  split
  case h_1 | h_10 | h_39 => cases hd
  case h_2 | h_3 | h_4 | h_5 | h_6 | h_7 | h_8 | h_9 | h_11 | h_12 | h_15 | h_16 | h_17 | h_18 | h_26 | h_27 | h_28 | h_29 | h_30 | h_31 =>
    exact h
  all_goals exact rfl

theorem coreShows_peertab (k : Core) {n : Nat} (h : 0x050 ≤ n ∧ n ≤ 0x05F) : coreShows k n = k.peertab[n - 0x050]! := by
  unfold coreShows
  split
  case h_12 => exact if_pos h
  all_goals omega

/-- And so do cores. -/
theorem csrRead_setCore {s : State} {k : Core} {n : Nat} (hd : csrDerived n = false)
    (h : coreShows k n = coreShows (s.coreAt s.core) n) : csrRead (s.setCore s.core k) n = csrRead s n := by
  have hk : (s.setCore s.core k).coreAt (s.setCore s.core k).core = k := (State.coreAt_setCore _ _ _ _).trans (if_pos rfl)
  have hb : (s.setCore s.core k).slot.bkpta = s.slot.bkpta := rfl
  unfold csrRead
  dsimp only
  simp only [hk, hb]
  split
  case h_1 | h_10 | h_39 => cases hd
  case h_19 | h_20 | h_21 | h_22 | h_23 | h_24 | h_25 | h_34 | h_35 | h_36 | h_37 => exact h
  case h_41 =>
    by_cases hr : 0x050 ≤ n ∧ n ≤ 0x05F
    · rw [coreShows_peertab k hr, coreShows_peertab _ hr] at h
      simp [hr, h]
    · simp [hr]
  all_goals exact rfl

end Sys2Proof.Machine
end
section
/-!
What a write of a special register keeps of its value, and which other registers it leaves (R70 to R73, R335).
-/
namespace Sys2Proof.Machine

theorem csrRead_breakpoint (s : State) {n : Nat} (h : 0x090 ≤ n ∧ n ≤ 0x093) : csrRead s n = s.slot.bkpta[n - 0x090]! := by
  obtain ⟨h1, h2⟩ := h
  interval_cases n <;> rfl

/-- The registers of the core (R69). -/
def coreNumber (n : Nat) : Bool := (0x030 ≤ n && n ≤ 0x036) || (0x050 ≤ n && n ≤ 0x05F) || (0x080 ≤ n && n ≤ 0x083)

theorem csrRead_core {s : State} {n : Nat} (h : coreNumber n = true) : csrRead s n = coreShows (s.coreAt s.core) n := by
  have hn : (0x030 ≤ n ∧ n ≤ 0x036) ∨ (0x050 ≤ n ∧ n ≤ 0x05F) ∨ (0x080 ≤ n ∧ n ≤ 0x083) := by
    simpa [coreNumber, or_assoc] using h
  obtain ⟨h1, h2⟩ | ⟨h1, h2⟩ | ⟨h1, h2⟩ := hn <;> interval_cases n <;> rfl

theorem csrRead_setCore_self (s : State) (k : Core) {n : Nat} (h : coreNumber n = true) :
    csrRead (s.setCore s.core k) n = coreShows k n := by
  rw [csrRead_core h]
  exact congrArg (coreShows · n) ((State.coreAt_setCore _ _ _ _).trans (if_pos rfl))

/-! ## A write of the slot's registers -/

theorem csrRead_bkptctl {s : State} (v : Word) {n : Nat} (hn : n ≠ 0x094) (hd : csrDerived n = false) :
    csrRead { s with slot := { s.slot with bkptctl := v } } n = csrRead s n := by
  unfold csrRead
  dsimp only
  split
  case h_1 | h_10 | h_39 => cases hd
  case h_38 => exact absurd rfl hn
  all_goals exact rfl

theorem getElem!_setIfInBounds_ne {k : Nat} (a : Vector Word k) (v : Word) {i j : Nat} (h : i ≠ j) :
    (a.setIfInBounds i v)[j]! = a[j]! := by
  by_cases hj : j < k
  · simp [getElem!_pos, hj, Vector.getElem_setIfInBounds_ne, h]
  · simp [getElem!_neg, hj]

theorem getElem!_setIfInBounds_self {k : Nat} (a : Vector Word k) (v : Word) {i : Nat} (h : i < k) :
    (a.setIfInBounds i v)[i]! = v := by
  simp [getElem!_pos, h]

theorem csrRead_bkpta {s : State} (b : Vector Word 4) {n : Nat} (hn : ¬ (0x090 ≤ n ∧ n ≤ 0x093)) (hd : csrDerived n = false) :
    csrRead { s with slot := { s.slot with bkpta := b } } n = csrRead s n := by
  have hr : ¬ (decide (0x090 ≤ n) && decide (n ≤ 0x093)) = true := by simpa using hn
  unfold csrRead
  dsimp only
  split
  case h_1 | h_10 | h_39 => cases hd
  case h_41 => 
    rw [if_neg hr, if_neg hr]
    exact rfl
  all_goals exact rfl

/-- Writing one breakpoint address leaves the others. -/
theorem csrRead_bkpta_other {s : State} (v : Word) {n m : Nat} (hn : n ≠ m) (hm : (decide (0x090 ≤ m) && decide (m ≤ 0x093)) = true)
    (hd : csrDerived n = false) :
    csrRead { s with slot := { s.slot with bkpta := s.slot.bkpta.setIfInBounds (m - 0x090) v } } n = csrRead s n := by
  have hm' : 0x090 ≤ m ∧ m ≤ 0x093 := by simpa using hm
  by_cases hr : 0x090 ≤ n ∧ n ≤ 0x093
  · have hne : m - 0x090 ≠ n - 0x090 := by omega
    rw [csrRead_breakpoint _ hr, csrRead_breakpoint _ hr]
    generalize n - 0x090 = j at hne ⊢
    generalize m - 0x090 = i at hne ⊢
    exact getElem!_setIfInBounds_ne _ v hne
  · exact csrRead_bkpta _ hr hd

/-- A write of one of the slot's registers leaves every other one: at the written number nothing is claimed, and at every other one the
field that is read has not changed. -/
theorem csrRead_writeSlotCsr_other (s : State) {n m : Nat} (x : CsrValue) (hn : n ≠ m) (hd : csrDerived n = false) :
    csrRead (writeSlotCsr s m x) n = csrRead s n := by
  unfold writeSlotCsr
  dsimp only
  split
  case h_12 =>
    split
    · refine csrRead_setT hd ?_
      unfold taskShows
      split <;> try exact rfl
      contradiction
    · rfl
  case h_16 => exact csrRead_bkptctl _ hn hd
  case h_17 =>
    split
    · next hm => exact csrRead_bkpta_other _ hn hm hd
    · rfl
  all_goals
    refine csrRead_setT hd ?_
    unfold taskShows
    split <;> try exact rfl
    contradiction

/-! ## A write of the core's registers -/

/-- Writing one word of PEERTAB leaves the others, and every other register of the core. -/
theorem coreShows_peertab_other (k : Core) (v : Word) {n m : Nat} (hn : n ≠ m) (hm : (decide (0x050 ≤ m) && decide (m ≤ 0x05F)) = true) :
    coreShows { k with peertab := k.peertab.setIfInBounds (m - 0x050) v } n = coreShows k n := by
  have hm' : 0x050 ≤ m ∧ m ≤ 0x05F := by simpa using hm
  by_cases hr : 0x050 ≤ n ∧ n ≤ 0x05F
  · rw [coreShows_peertab _ hr, coreShows_peertab _ hr]
    exact getElem!_setIfInBounds_ne _ _ (by omega)
  · unfold coreShows
    split
    case h_12 => rw [if_neg hr, if_neg hr]
    all_goals rfl

/-- A write of one of the core's registers leaves every other one, for the same reason. -/
theorem csrRead_writeCoreCsr_other (s : State) {n m : Nat} (x : CsrValue) (hn : n ≠ m) (hd : csrDerived n = false) :
    csrRead (writeCoreCsr s m x) n = csrRead s n := by
  unfold writeCoreCsr
  dsimp only
  split
  case h_2 | h_10 =>
    split
    · refine csrRead_setCore hd ?_
      unfold coreShows
      split <;> try exact rfl
      contradiction
    · rfl
  case h_11 =>
    split
    · next hm => exact csrRead_setCore hd (coreShows_peertab_other _ _ hn hm)
    · rfl
  all_goals
    refine csrRead_setCore hd ?_
    unfold coreShows
    split <;> try exact rfl
    contradiction

/-! ## A write of any register -/

/-- The bits of IPEND that a write of ones clears; the timer's comes again at once (R252). -/
theorem csrRead_clearPending_other (s : State) (m : Word) {n : Nat} (hn : n ≠ 0x009) (hd : csrDerived n = false) :
    csrRead (clearPending s m) n = csrRead s n := by
  unfold clearPending
  dsimp only
  refine (csrRead_setCore hd ?_).trans (csrRead_setT hd ?_)
  · unfold coreShows
    split <;> exact rfl
  · unfold taskShows
    split <;> exact rfl

/-- A permitted write leaves every other register (R70, R335). -/
theorem csrRead_csrWrite_other (s : State) {n m : Nat} (x : CsrValue) (hn : n ≠ m) (hd : csrDerived n = false) :
    csrRead (csrWrite s m x) n = csrRead s n := by
  unfold csrWrite
  split
  · next h => exact csrRead_clearPending_other s _ (h ▸ hn) hd
  · split
    · exact csrRead_writeCoreCsr_other s x hn hd
    · exact csrRead_writeSlotCsr_other s x hn hd

/-- The registers of csrMask take the bits that they have. -/
theorem csrRead_csrWrite_masked {n : Nat} {m : Word} (h : csrMask n = some m) (s : State) (x : CsrValue) :
    csrRead (csrWrite s n x) n = x.v &&& m := by
  have hall (v : Word) : v &&& 0xFFFFFFFFFFFFFFFF = v := BitVec.and_allOnes
  unfold csrMask at h
  split at h
  all_goals cases h
  case h_2 | h_3 | h_4 | h_5 => exact (hall _).symm
  case h_6 => exact (csrRead_setCore_self s _ rfl).trans (hall _).symm
  case h_10 | h_11 | h_12 | h_15 | h_18 | h_19 => exact csrRead_setCore_self s _ rfl
  case h_20 | h_21 | h_22 | h_23 => exact getElem!_setIfInBounds_self s.slot.bkpta _ (by decide)
  all_goals exact rfl

/-- The ranged fields take what csrTakes says. -/
theorem csrRead_csrWrite_takes {n : Nat} {s : State} {x : CsrValue} {v : Word} (h : csrTakes n (csrRead s n) x.v = some v) (h0 : n ≠ 0) :
    csrRead (csrWrite s n x) n = v := by
  unfold csrTakes at h
  split at h
  case h_1 => exact absurd rfl h0
  case h_2 =>
    cases h
    change csrRead (if bitsOf x.v 0 4 ≤ 10 then s.setCore s.core _ else s) 0x031 = _
    split
    · exact csrRead_setCore_self s _ rfl
    · rfl
  case h_3 =>
    cases h
    exact csrRead_setCore_self s _ rfl
  case h_4 =>
    cases h
    change csrRead (if bitsOf x.v 0 3 ≤ 4 then s.setT _ else s) 0x037 = _
    split <;> rfl
  case h_5 =>
    cases h
    refine (csrRead_setCore_self s _ rfl).trans ?_
    exact getElem!_setIfInBounds_self (s.coreAt s.core).peertab _ (by decide)
  case h_6 =>
    split at h
    · next hr =>
      cases h
      obtain ⟨hlo, hhi⟩ := hr
      interval_cases n <;> exact (csrRead_setCore_self s _ rfl).trans (getElem!_setIfInBounds_self (s.coreAt s.core).peertab _ (by decide))
    · cases h

/-- A flag is cleared by a one in its bit. -/
theorem flag_cleared (b : Bool) (m : Word) (i : Nat) (hi : i < 64) :
    (if (b && !m.getLsbD i) = true then BitVec.twoPow 64 i else 0) = (if b = true then BitVec.twoPow 64 i else 0) &&& ~~~m := by
  cases b
  · simp
  · ext j hj
    by_cases hij : i = j
    · subst hij
      cases hm : m.getLsbD i <;> simp_all
    · cases hm : m.getLsbD i <;> simp_all

/-- A mask clears as the bits that it lets through do, and nothing else. -/
theorem and_not_masked {a c : Word} (h : a &&& c = a) (m : Word) : a &&& ~~~(m &&& c) = a &&& ~~~m := by
  have hz : a &&& ~~~c = 0#64 := by rw [← h, BitVec.and_assoc, BitVec.and_not_self]; exact BitVec.and_zero
  rw [BitVec.not_and, BitVec.and_or_distrib_left, hz, BitVec.or_zero]

theorem and_not_unmasked {a c : Word} (h : a &&& c = 0) (m : Word) : a &&& ~~~(m &&& c) = a := by
  ext i hi
  have hc : (a &&& c)[i] = false := by rw [h]; simp
  simp only [BitVec.getElem_and, BitVec.getElem_not] at hc ⊢
  cases ha : a[i] <;> simp_all

/-- What W1C leaves of IPEND. -/
theorem pendingOf_clearPending (s : State) (m : Word) : csrRead (clearPending s m) 0x009 = csrRead s 0x009 &&& ~~~(m &&& 0x3C) := by
  have hk : (clearPending s m).coreAt (clearPending s m).core =
      { s.coreAt s.core with ipend3 := (s.coreAt s.core).ipend3 && !m.getLsbD 3, ipend4 := (s.coreAt s.core).ipend4 && !m.getLsbD 4 } :=
    (State.coreAt_setCore _ _ _ _).trans (if_pos rfl)
  have ht : (clearPending s m).t = { s.t with ipend := s.t.ipend &&& ~~~m } := rfl
  have hc : (clearPending s m).tstamp = s.tstamp := rfl
  have h3 := flag_cleared (s.coreAt s.core).ipend3 m 3 (by decide)
  have h4 := flag_cleared (s.coreAt s.core).ipend4 m 4 (by decide)
  rw [csrRead_pending, csrRead_pending, pendingOf_cur, pendingOf_cur, hk, ht, hc]
  dsimp only
  have hi : (s.t.ipend &&& ~~~m) &&& 0x24 = (s.t.ipend &&& 0x24) &&& ~~~(m &&& 0x3C) := by
    rw [and_not_masked (by rw [BitVec.and_assoc]; rfl), BitVec.and_assoc, BitVec.and_comm (~~~m), ← BitVec.and_assoc]
  have hT : (if s.t.tcmp.toNat ≤ s.tstamp.toNat then 2 else 0 : Word) &&& ~~~(m &&& 0x3C) =
      if s.t.tcmp.toNat ≤ s.tstamp.toNat then 2 else 0 := and_not_unmasked (by split <;> rfl) m
  have hK (b : Bool) (k : Word) (hk : k &&& 0x3C = k) : (if b then k else 0) &&& ~~~(m &&& 0x3C) = (if b then k else 0) &&& ~~~m :=
    and_not_masked (by split; exacts [hk, rfl]) m
  rw [BitVec.and_or_distrib_right, BitVec.and_or_distrib_right, BitVec.and_or_distrib_right, ← hi, hT, hK _ 8 rfl, hK _ 16 rfl]
  change _ ||| (if _ then BitVec.twoPow 64 3 else 0) ||| (if _ then BitVec.twoPow 64 4 else 0) = _
  rw [h3, h4]
  rfl

/-- W1C clears what csrClears says. -/
theorem csrRead_csrWrite_clears {n : Nat} {s : State} {x : CsrValue} {v : Word} (h : csrClears n (csrRead s n) x.clear = some v) :
    csrRead (csrWrite s n x) n = v := by
  unfold csrClears at h
  split at h
  all_goals cases h
  case h_1 => exact pendingOf_clearPending s x.clear
  case h_2 => exact rfl
  case h_3 =>
    change csrRead (if x.clear.getLsbD 0 then s.setCore s.core _ else s) 0x083 = _
    split
    · exact csrRead_setCore_self s _ rfl
    · rfl

/-- A read-only register ignores the write. -/
theorem csrWrite_readOnly {n : Nat} (h : csrReadOnly n = true) (s : State) (x : CsrValue) : csrWrite s n x = s := by
  have hn : n ∈ [0x020, 0x021, 0x022, 0x023, 0x024, 0x025, 0x033, 0x042, 0x043, 0x070, 0x071, 0x072, 0x073, 0x074, 0x0A1] :=
    List.contains_iff_mem.1 h
  fin_cases hn <;> rfl

end Sys2Proof.Machine
end
section
/-!
CSRR, CSRW, CSRS and CSRC (R69, R70, R334 to R336).
-/
namespace Sys2Proof.Machine

/-! ## What a write of a register leaves alone -/

/-- t differs from s in special registers only. -/
structure OnlyCsrs (s t : State) : Prop where
  pc : t.t.pc = s.t.pc
  globals : t.t.globals = s.t.globals
  win : t.t.win = s.t.win
  frames : t.t.frames = s.t.frames
  spilled : t.t.spilled = s.t.spilled
  sa : t.t.sa = s.t.sa
  sb : t.t.sb = s.t.sb
  tiles : t.t.tiles = s.t.tiles
  mask : t.t.mask = s.t.mask
  active : t.t.active = s.t.active
  wait : t.t.wait = s.t.wait
  mem : t.mem = s.mem

theorem OnlyCsrs.refl (s : State) : OnlyCsrs s s := ⟨rfl, rfl, rfl, rfl, rfl, rfl, rfl, rfl, rfl, rfl, rfl, rfl⟩

theorem OnlyCsrs.codes {s t : State} (h : OnlyCsrs s t) : sameCodes s t := fun r =>
  plainRead_congr r h.globals h.win h.frames (by rw [h.sa]) (by rw [h.sb])

theorem writeCoreCsr_onlyCsrs (s : State) (n : Nat) (x : CsrValue) : OnlyCsrs s (writeCoreCsr s n x) := by
  unfold writeCoreCsr
  dsimp only
  split
  case h_2 | h_10 | h_11 => split <;> exact ⟨rfl, rfl, rfl, rfl, rfl, rfl, rfl, rfl, rfl, rfl, rfl, rfl⟩
  all_goals exact ⟨rfl, rfl, rfl, rfl, rfl, rfl, rfl, rfl, rfl, rfl, rfl, rfl⟩

theorem writeSlotCsr_onlyCsrs (s : State) (n : Nat) (x : CsrValue) : OnlyCsrs s (writeSlotCsr s n x) := by
  unfold writeSlotCsr
  dsimp only
  split
  case h_12 | h_17 => split <;> exact ⟨rfl, rfl, rfl, rfl, rfl, rfl, rfl, rfl, rfl, rfl, rfl, rfl⟩
  all_goals exact ⟨rfl, rfl, rfl, rfl, rfl, rfl, rfl, rfl, rfl, rfl, rfl, rfl⟩

theorem csrWrite_onlyCsrs (s : State) (n : Nat) (x : CsrValue) : OnlyCsrs s (csrWrite s n x) := by
  unfold csrWrite
  split
  · exact ⟨rfl, rfl, rfl, rfl, rfl, rfl, rfl, rfl, rfl, rfl, rfl, rfl⟩
  · split
    · exact writeCoreCsr_onlyCsrs s n x
    · exact writeSlotCsr_onlyCsrs s n x

/-! ## The instructions -/

/-- What a CSR instruction that writes leaves: rd has the old value, the register what csrWrite gives it (STATUS without its PP), and
everything else is as before. -/
structure CsrDone (s t : State) (rd : Reg) (n : Nat) (x : CsrValue) : Prop where
  pc : t.t.pc = s.t.pc + 4
  old : rd ≠ 0 → plainRead t.t rd = csrRead s n
  left : n ≠ 0x000 → n ≠ 0x0A0 → ∃ s2, csrRead s2 = csrRead s ∧ csrRead t n = csrRead (csrWrite s2 n x) n
  status : n = 0x000 → csrRead t 0x000 = x.v &&& 3
  others : ∀ k, k ≠ n → csrDerived k = false → csrRead t k = csrRead s k
  codes : sameCodesBut s t rd
  tiles : sameTiles s t
  mask : sameMask s t
  frames : sameFrames s t
  bytes : sameBytes s t

/-- STATUS as it reads after a write. -/
theorem underMask_status (old v : Word) : ((underMask 3 old v &&& 3) &&& 7) ||| 0 = v &&& 3 := by
  have h7 : (3 : Word) &&& 7 = 3 := rfl
  have h0 : (~~~3 : Word) &&& 3 = 0 := rfl
  rw [underMask, BitVec.and_assoc, h7, BitVec.and_or_distrib_right, BitVec.and_assoc, h0, BitVec.and_assoc]
  simp

theorem underived {k : Nat} (h : csrDerived k = false) : k ≠ 0x000 ∧ k ≠ 0x0A0 := by
  constructor <;> rintro rfl <;> cases h

/-- A write that may take place completes. -/
theorem csrOp_writes {i : Instr} {rd ra : Reg} {csr : BitVec 12} {f : Word → Word → CsrValue} {s : State} (sw : Bool) (hs : Calm s)
    (ha : s.t.active = true) (hr : ∀ r ∈ [ra, rd], plainCode s.t r = true) (hw : i.wellFormed = true)
    (hl : csrListed csr.toNat = true) (hp : s.t.status.getLsbD 0 = true ∨ csrUserWrite csr.toNat = true) :
    ∃ t, csrOp i sw rd (some ra) csr true f s = .next t
      ∧ CsrDone s t rd csr.toNat (f (csrRead s csr.toNat) (plainRead s.t ra)) := by
  let u : Use := { a := some ra, d := [rd], mixed := fun _ => !csrListed csr.toNat, priv := !csrUserWrite csr.toNat }
  have hrd : plainCode s.t rd = true := hr rd (by simp)
  have hi : Issues i u s s (plainVals s.t u) := by
    refine issues_plain hs (by simp [ha]) (by simpa [Use.reads, u] using hr) hw (by simp [u, hl]) rfl fun hu => ?_
    obtain hp | hp := hp
    · exact hp
    · simp [u, hp] at hu
  let s2 := (advanced s s).setT (plainWrite (advanced s s).t rd (csrRead s csr.toNat))
  have hread : csrRead s2 = csrRead s := funext fun k => (csrRead_plainWrite _ _ _ k).trans (csrRead_advanced s k)
  let x := f (csrRead s csr.toNat) (plainRead s.t ra)
  have ho := csrWrite_onlyCsrs s2 csr.toNat x
  obtain ⟨g, win, a, b, hpw⟩ := plainWrite_frame (advanced s s).t rd (csrRead s csr.toNat)
  have ht2 : s2.t = { (advanced s s).t with
      globals := g, win := win, sa := { (advanced s s).t.sa with value := a }, sb := { (advanced s s).t.sb with value := b } } := hpw
  obtain ⟨t, ht, hc⟩ := issue_completed (sw := sw) (s2 := csrWrite s2 csr.toNat x) (body := fun v s =>
      match result s rd (csrRead s csr.toNat) with
      | .error e => .error e
      | .ok s1 => .ok (csrWrite s1 csr.toNat (f (csrRead s csr.toNat) v.a))) hs hi rfl rfl (by
    have hput : result (advanced s s) rd (csrRead s csr.toNat) = .ok s2 := putReg_plain _ _ hrd
    simp only [csrRead_advanced, hput]
    rfl) (by rw [ho.wait, ht2]; exact hs.awake)
  have hcodes (r : Reg) : plainRead t.t r = plainRead s2.t r := (hc.codes r).trans (ho.codes r)
  refine ⟨t, ht, ?_, fun h0 => ?_, fun h0 hA => ⟨s2, hread, hc.csrRead_eq h0 hA⟩, fun h0 => ?_, fun k hk hd => ?_, fun r hne => ?_, ?_, ?_, ?_,
    fun b => ?_⟩
  · rw [hc.pc, ho.pc, ht2]; rfl
  · rw [hcodes]; exact plainRead_plainWrite_same _ _ _ h0 (register_or_stream hrd)
  · obtain ⟨wt, htask⟩ := hc.task
    rw [h0] at htask
    have hst : t.t.status = underMask 3 s2.t.status x.v &&& 3 := by rw [htask]; rfl
    have hld : t.t.leader = none := by rw [htask]; exact (congrArg Task.leader ht2).trans hs.no_leader
    rw [csrRead_status, Task.statusWord, hst, hld]
    exact underMask_status _ _
  · obtain ⟨h0, hA⟩ := underived hd
    rw [hc.csrRead_eq h0 hA, csrRead_csrWrite_other s2 x hk hd, hread]
  · rw [hcodes]
    exact (plainRead_plainWrite_other _ _ _ _ hne).trans (plainRead_advanced s r)
  · exact hc.tiles.trans (ho.tiles.trans (by rw [ht2]; rfl))
  · exact ⟨hc.mask.1.trans (ho.mask.trans (by rw [ht2]; rfl)), hc.mask.2.trans (ho.active.trans (by rw [ht2]; rfl))⟩
  · exact ⟨hc.frames.trans (ho.frames.trans (by rw [ht2]; rfl)), hc.frame.2.trans (ho.spilled.trans (by rw [ht2]; rfl))⟩
  · rw [hc.bytes b, readByte, ho.mem]; rfl

/-- A CSR instruction that only reads writes rd. -/
theorem csrOp_reads {i : Instr} {rd : Reg} {ra : Option Reg} {csr : BitVec 12} {f : Word → Word → CsrValue} {s : State} (sw : Bool)
    (hs : Calm s) (ha : s.t.active = true) (hra : ∀ r ∈ ra, plainCode s.t r = true) (hrd : plainCode s.t rd = true)
    (hw : i.wellFormed = true) (hl : csrListed csr.toNat = true) (hp : (s.t.status.getLsbD 0 || csrUserRead csr.toNat) = true) :
    ∃ t, csrOp i sw rd ra csr false f s = .next t ∧ (rd ≠ 0 → plainRead t.t rd = csrRead s csr.toNat) ∧ onlyWrites s t rd := by
  let u : Use := { a := ra, d := [rd], mixed := fun _ => !csrListed csr.toNat, priv := !csrUserRead csr.toNat }
  have hi : Issues i u s s (plainVals s.t u) := by
    refine issues_plain hs (by simp [ha]) ?_ hw (by simp [u, hl]) rfl fun hu => ?_
    · intro r hr
      simp only [Use.reads, u, Option.toList_none, List.append_nil, List.mem_append, Option.mem_toList, List.mem_singleton] at hr
      obtain hr | rfl := hr
      exacts [hra r hr, hrd]
    · have hu' : csrUserRead csr.toNat = false := by simpa [u] using hu
      simpa [hu'] using hp
  unfold csrOp
  refine issue_writes hs hi rfl rfl hrd ?_
  have hput : putReg (advanced s s) rd (csrRead s csr.toNat) = .ok ((advanced s s).setT (plainWrite (advanced s s).t rd (csrRead s csr.toNat))) :=
    putReg_plain _ _ hrd
  simp only [csrRead_advanced, result, hput]
  rfl

/-- A register that user mode may not name takes PRIV there. -/
theorem csrOp_priv {i : Instr} {rd : Reg} {ra : Option Reg} {csr : BitVec 12} {f : Word → Word → CsrValue} {s : State} (sw : Bool)
    {writes : Bool} (hs : Calm s) (ha : s.t.active = true) (hr : ∀ r ∈ ra.toList ++ [rd], plainCode s.t r = true)
    (hw : i.wellFormed = true) (hl : csrListed csr.toNat = true) (hp : s.t.status.getLsbD 0 = false)
    (hu : (if writes then csrUserWrite csr.toNat else csrUserRead csr.toNat) = false) :
    csrOp i sw rd ra csr writes f s = trapped s .priv (i.word.zeroExtend 64) := by
  unfold csrOp
  exact issue_priv sw _ hs ha (by simpa [Use.reads] using hr) hw (by simp [hl]) rfl (by simp [hu]) hp

/-- A register that the table does not list is no register. -/
theorem csrOp_unlisted {i : Instr} {rd : Reg} {ra : Option Reg} {csr : BitVec 12} {f : Word → Word → CsrValue} {s : State} (sw : Bool)
    {writes : Bool} (hs : Calm s) (ha : s.t.active = true) (hr : ∀ r ∈ ra.toList ++ [rd], plainCode s.t r = true)
    (hl : csrListed csr.toNat = false) : csrOp i sw rd ra csr writes f s = trapped s .illop (i.word.zeroExtend 64) := by
  unfold csrOp
  refine issue_static sw _ (by simp [ha]) (readyToIssue_plain hs (by simpa [Use.reads] using hr)) ?_
  simp [staticCheck, Task.badPrefix, hs.no_prefix, hl]

/-! ## The three that write -/

/-- What CSRW, CSRS and CSRC give csrWrite. -/
def csrValue (i : Instr) (f : Word → Word → Word) (old v : Word) : CsrValue := { v := f old v, clear := csrOnes i v }

theorem exec_csrr (rd : Reg) (csr : BitVec 12) (sw : Bool) (s : State) :
    exec (.csrr rd csr sw) s = csrOp (.csrr rd csr sw) sw rd none csr false (fun _ _ => { v := 0, clear := 0 }) s := rfl

theorem exec_csrs (rd ra : Reg) (csr : BitVec 12) (sw : Bool) (s : State) : exec (.csrs rd ra csr sw) s =
    csrOp (.csrs rd ra csr sw) sw rd (some ra) csr (decide (ra ≠ 0)) (fun old v => { v := old ||| v, clear := v }) s := rfl

theorem exec_csrc (rd ra : Reg) (csr : BitVec 12) (sw : Bool) (s : State) : exec (.csrc rd ra csr sw) s =
    csrOp (.csrc rd ra csr sw) sw rd (some ra) csr (decide (ra ≠ 0)) (fun old v => { v := old &&& ~~~v, clear := 0 }) s := rfl

section
variable {i : Instr} {sw : Bool} {rd ra : Reg} {csr : BitVec 12} {f : Word → Word → Word} (h : csrNew i = some (sw, rd, ra, csr, f))
include h

theorem exec_csrNew (hra : ra ≠ 0 ∨ i = .csrw rd ra csr sw) (s : State) :
    exec i s = csrOp i sw rd (some ra) csr true (csrValue i f) s := by
  cases i <;> simp only [csrNew, reduceCtorEq, Option.some.injEq, Prod.mk.injEq] at h
  all_goals obtain ⟨rfl, rfl, rfl, rfl, rfl⟩ := h
  case csrw => rfl
  case csrs =>
    rw [exec_csrs, decide_eq_true (hra.resolve_right nofun)]
    rfl
  case csrc =>
    rw [exec_csrc, decide_eq_true (hra.resolve_right nofun)]
    rfl

theorem wellFormed_csrNew : i.wellFormed = true := by
  cases i <;> simp only [csrNew, reduceCtorEq] at h
  all_goals rfl

end

/-! ## The tables name listed registers -/

theorem csrListed_of_mask {n : Nat} {m : Word} (h : csrMask n = some m) : csrListed n = true := by
  unfold csrMask at h
  split at h
  case h_25 => cases h
  all_goals rfl

theorem csrListed_of_takes {n : Nat} {old new v : Word} (h : csrTakes n old new = some v) : csrListed n = true := by
  unfold csrTakes at h
  split at h
  case h_6 =>
    split at h
    · next hr => simp [csrListed]; omega
    · cases h
  all_goals rfl

theorem csrListed_of_clears {n : Nat} {old ones v : Word} (h : csrClears n old ones = some v) : csrListed n = true := by
  unfold csrClears at h
  split at h
  case h_4 => cases h
  all_goals rfl

theorem csrListed_of_readOnly {n : Nat} (h : csrReadOnly n = true) : csrListed n = true := by
  have hn : n ∈ [0x020, 0x021, 0x022, 0x023, 0x024, 0x025, 0x033, 0x042, 0x043, 0x070, 0x071, 0x072, 0x073, 0x074, 0x0A1] :=
    List.contains_iff_mem.1 h
  fin_cases hn <;> rfl

/-! ## The obligation -/

theorem userWrite_of_eq {csr : BitVec 12} {n : BitVec 12} (h : csr = n) (hn : csrUserWrite n.toNat = true) : csrUserWrite csr.toNat = true :=
  h ▸ hn

theorem csrMask_ne {n : Nat} {m : Word} (h : csrMask n = some m) : n ≠ 0x000 ∧ n ≠ 0x0A0 := by
  constructor <;> rintro rfl <;> cases h

theorem csrTakes_ne {n : Nat} {old new v : Word} (h : csrTakes n old new = some v) : n ≠ 0x0A0 := by
  rintro rfl
  cases h

theorem csrClears_ne {n : Nat} {old ones v : Word} (h : csrClears n old ones = some v) : n ≠ 0x000 ∧ n ≠ 0x0A0 := by
  constructor <;> rintro rfl <;> cases h

section
variable {i : Instr} {sw : Bool} {rd ra : Reg} {csr : BitVec 12} {f : Word → Word → Word} {s : State}
  (h : csrNew i = some (sw, rd, ra, csr, f)) (hs : Calm s) (ha : s.t.active = true) (hr : ∀ r ∈ [ra, rd], plainCode s.t r = true)
  (hra : ra ≠ 0 ∨ i = .csrw rd ra csr sw)
include h hs ha hr hra

theorem exec_csrNew_done (hl : csrListed csr.toNat = true) (hp : s.t.status.getLsbD 0 = true ∨ csrUserWrite csr.toNat = true) :
    ∃ t, exec i s = .next t ∧ CsrDone s t rd csr.toNat (csrValue i f (csrRead s csr.toNat) (plainRead s.t ra)) := by
  rw [exec_csrNew h hra]
  exact csrOp_writes sw hs ha hr (wellFormed_csrNew h) hl hp

theorem exec_csrNew_readOnly (hp : s.t.status.getLsbD 0 = true) (ho : csrReadOnly csr.toNat = true) :
    ∃ t, exec i s = .next t ∧ (rd ≠ 0 → plainRead t.t rd = csrRead s csr.toNat) ∧ onlyWrites s t rd := by
  have hrd : plainCode s.t rd = true := hr rd (by simp)
  have hl := csrListed_of_readOnly ho
  rw [exec_csrNew h hra]
  unfold csrOp
  refine issue_writes hs (issues_plain hs (by simp [ha]) (by simpa [Use.reads] using hr) (wellFormed_csrNew h) (by simp [hl]) rfl fun _ => hp)
    rfl rfl hrd ?_
  have hput : putReg (advanced s s) rd (csrRead s csr.toNat) = .ok ((advanced s s).setT (plainWrite (advanced s s).t rd (csrRead s csr.toNat))) :=
    putReg_plain _ _ hrd
  simp only [csrRead_advanced, result, hput, csrWrite_readOnly ho, if_true]

end

/-- CSRS and CSRC of z only read. -/
theorem exec_csrs_zero {i : Instr} {sw : Bool} {rd : Reg} {csr : BitVec 12} {s : State} (hi : i = .csrs rd 0 csr sw ∨ i = .csrc rd 0 csr sw)
    (hs : Calm s) (ha : s.t.active = true) (hrd : plainCode s.t rd = true) (hl : csrListed csr.toNat = true)
    (hp : (s.t.status.getLsbD 0 || csrUserRead csr.toNat) = true) :
    ∃ t, exec i s = .next t ∧ (rd ≠ 0 → plainRead t.t rd = csrRead s csr.toNat) ∧ onlyWrites s t rd := by
  have h0 : ∀ r ∈ some (0 : Reg), plainCode s.t r = true := by rintro r ⟨⟩; rfl
  obtain rfl | rfl := hi
  · rw [exec_csrs]
    exact csrOp_reads sw hs ha h0 hrd rfl hl hp
  · rw [exec_csrc]
    exact csrOp_reads sw hs ha h0 hrd rfl hl hp

/-- Settles O21: the write of rd, the write of the register and completion each leave the other special registers alone, and the
register's own write is its row of the tables. -/
theorem csrsReadAndWriteByTheirFields : Obligations.CsrsReadAndWriteByTheirFields := by
  refine ⟨fun i sw rd ra csr f m s h hm hs ha hp hr hra => ?_, fun i sw rd ra csr f s h hs ha hr hra => ⟨fun hp v hv => ?_, fun hp v hv => ?_,
    exec_csrNew_readOnly h hs ha hr hra, fun hp hl h10 h60 => ?_, fun hl => ?_⟩,
    fun i rd csr sw s hi hs ha hrd hl hp => exec_csrs_zero hi hs ha hrd hl hp,
    fun rd csr sw s hs ha hrd => ⟨fun hl hp => ?_, fun hl => ?_, fun hl hp hu => ?_, rfl, rfl, rfl, rfl, rfl, rfl⟩⟩
  · obtain ⟨t, ht, hd⟩ := exec_csrNew_done h hs ha hr hra (csrListed_of_mask hm) (hp.imp_right fun hc => userWrite_of_eq hc rfl)
    obtain ⟨h0, hA⟩ := csrMask_ne hm
    obtain ⟨s2, -, hleft⟩ := hd.left h0 hA
    exact ⟨t, ht, hd.pc, hd.old, hleft.trans (csrRead_csrWrite_masked hm s2 _), hd.others, hd.codes, hd.tiles, hd.mask, hd.frames, hd.bytes⟩
  · obtain ⟨t, ht, hd⟩ := exec_csrNew_done h hs ha hr hra (csrListed_of_takes hv) (.inl hp)
    refine ⟨t, ht, hd.pc, hd.old, ?_, hd.others, hd.codes, hd.tiles, hd.mask, hd.frames, hd.bytes⟩
    by_cases h0 : csr.toNat = 0
    · rw [h0] at hv
      cases hv
      have hst := hd.status h0
      rw [h0] at hst ⊢
      exact hst
    · obtain ⟨s2, hread, hleft⟩ := hd.left h0 (csrTakes_ne hv)
      rw [← hread] at hv hleft
      exact hleft.trans (csrRead_csrWrite_takes hv h0)
  · obtain ⟨t, ht, hd⟩ := exec_csrNew_done h hs ha hr hra (csrListed_of_clears hv) (hp.imp_right fun hc => userWrite_of_eq hc rfl)
    obtain ⟨h0, hA⟩ := csrClears_ne hv
    obtain ⟨s2, hread, hleft⟩ := hd.left h0 hA
    rw [← hread] at hv hleft
    exact ⟨t, ht, hd.pc, hd.old, hleft.trans (csrRead_csrWrite_clears hv), hd.others, hd.codes, hd.tiles, hd.mask, hd.frames, hd.bytes⟩
  · rw [exec_csrNew h hra]
    refine csrOp_priv sw hs ha (by simpa using hr) (wellFormed_csrNew h) hl hp ?_
    have h1 : csr.toNat ≠ 0x010 := fun hc => h10 (BitVec.eq_of_toNat_eq hc)
    have h2 : csr.toNat ≠ 0x060 := fun hc => h60 (BitVec.eq_of_toNat_eq hc)
    simp [csrUserWrite, h1, h2]
  · rw [exec_csrNew h hra]
    exact csrOp_unlisted sw hs ha (by simpa using hr) hl
  · rw [exec_csrr]
    exact csrOp_reads sw hs ha (by simp) hrd rfl hl hp
  · rw [exec_csrr]
    exact csrOp_unlisted sw hs ha (by simpa using hrd) hl
  · rw [exec_csrr]
    exact csrOp_priv sw hs ha (by simpa using hrd) rfl hl hp hu

end Sys2Proof.Machine
end

section
/-! Jumps and the words that a spill writes (R64, R83, R265). -/
namespace Sys2Proof.Machine

/-! ## Jumps -/

theorem untraced_traceCore (k : Core) (slot kind extra : Nat) (addr : Pc) (time : Word) :
    untraced (traceCore k slot kind extra addr time) = untraced k := by
  unfold traceCore
  split <;> rfl

/-- t is s with another PC, and perhaps a record of the jump in its core's trace. -/
structure Jumped (s t : State) (pc : Pc) : Prop where
  task : t.t = { s.t with pc := pc }
  device : t = { s with slot := { s.slot with t := t.t }, cores := t.cores }
  cores : ∀ c, untraced (t.coreAt c) = untraced (s.coreAt c)

/-- A slot that follows no leader goes to the target itself. -/
theorem jumpTo_jumped {s : State} (pc : Pc) (h : s.t.leader = none) : Jumped s (jumpTo s pc) pc := by
  have hl : (ledTo s.t).getD pc = pc := by simp [ledTo, Task.follows, h]
  unfold jumpTo
  dsimp only
  rw [hl]
  split
  · refine ⟨rfl, rfl, fun c => ?_⟩
    simp only [trace, State.coreAt_setCore]
    split
    · next hc => rw [untraced_traceCore, hc]; rfl
    · rfl
  · exact ⟨rfl, rfl, fun _ => rfl⟩

/-- PC + 4·sext(disp) (R83). -/
theorem jumpTarget_eq (pc : Pc) (disp : BitVec 25) : jumpTarget pc disp = pcPlus pc disp.toInt := by
  have h : disp.signExtend 48 = BitVec.ofInt 48 disp.toInt := rfl
  rw [jumpTarget, pcPlus, h, BitVec.ofInt_mul, BitVec.shiftLeft_eq_mul_twoPow, BitVec.mul_comm]
  rfl

/-- What is left of a device by a change of the slot in force and of the traces of the cores, and then by completion. -/
theorem Completed.traced {s s2 t : State} (hc : Completed s2 t) (hd : s2 = { s with slot := s2.slot, cores := s2.cores })
    (hk : ∀ c, untraced (s2.coreAt c) = untraced (s.coreAt c)) : sameDeviceTraced s t := by
  refine ⟨?_, fun c => ?_⟩
  · have h := hc.device
    rw [hd] at h
    exact h
  · have h : untraced (t.coreAt c) = untraced (s2.coreAt c) := by rw [untraced, hc.ports c]; rfl
    rw [h, hk]

/-! ## Words of memory -/

theorem readByte_congr {s t : State} (h : t.mem = s.mem) (a : Nat) : readByte t a = readByte s a := by rw [readByte, h]; rfl

theorem readWord_eq {s t : State} {a : Nat} (h : ∀ b, a ≤ b → b < a + 8 → readByte s b = readByte t b) : readWord s a = readWord t a := by
  rw [readWord, readNat, readBytes_eq s t a 8 h]
  rfl

theorem readWord_congr {s t : State} (h : t.mem = s.mem) (a : Nat) : readWord t a = readWord s a :=
  readWord_eq fun b _ _ => readByte_congr h b

theorem writeBytes_append (s : State) (a : Nat) (xs ys : List Byte) :
    writeBytes s a (xs ++ ys) = writeBytes (writeBytes s a xs) (a + xs.length) ys := by
  induction xs generalizing s a with
  | nil => rfl
  | cons x xs ih => simp only [List.cons_append, writeBytes, ih, List.length_cons, Nat.add_assoc, Nat.add_comm 1]

/-- The bytes of words, little-endian (R6). -/
def bytesOfWords (ws : List Word) : List Byte := (ws.map (fun w => bytesOf 8 w.toNat)).flatten

theorem bytesOfWords_length (ws : List Word) : (bytesOfWords ws).length = 8 * ws.length := by
  induction ws with
  | nil => rfl
  | cons w ws ih =>
    have hc : bytesOfWords (w :: ws) = bytesOf 8 w.toNat ++ bytesOfWords ws := rfl
    rw [hc, List.length_append, bytesOf_length, ih, List.length_cons]
    omega

theorem readWord_writeBytes_words (s : State) (a : Nat) (ws : List Word) {i : Nat} (hi : i < ws.length) :
    readWord (writeBytes s a (bytesOfWords ws)) (a + 8 * i) = ws[i] := by
  induction ws generalizing s a i with
  | nil => simp at hi
  | cons w ws ih =>
    have hc : writeBytes s a (bytesOfWords (w :: ws)) = writeBytes (writeBytes s a (bytesOf 8 w.toNat)) (a + 8) (bytesOfWords ws) :=
      (writeBytes_append s a (bytesOf 8 w.toNat) (bytesOfWords ws)).trans (by rw [bytesOf_length])
    rw [hc]
    cases i with
    | zero =>
      have hout : readWord (writeBytes (writeBytes s a (bytesOf 8 w.toNat)) (a + 8) (bytesOfWords ws)) a = readWord (writeWord s a w) a :=
        readWord_eq fun b _ hb => readByte_writeBytes_outside _ _ _ _ (.inl hb)
      exact hout.trans (readWord_writeWord s a w)
    | succ i =>
      have ha : a + 8 * (i + 1) = a + 8 + 8 * i := by omega
      rw [ha, ih _ _ (Nat.lt_of_succ_lt_succ hi)]
      rfl

theorem readWord_writeWords (s : State) (a : Nat) (ws : List Word) {i : Nat} (hi : i < ws.length) :
    readWord (writeWords s a ws) (a + 8 * i) = ws[i] := readWord_writeBytes_words _ a ws hi

theorem readByte_writeWords_outside (s : State) (a : Nat) (ws : List Word) {b : Nat} (h : b < a ∨ a + 8 * ws.length ≤ b) :
    readByte (writeWords s a ws) b = readByte s b :=
  readByte_writeBytes_outside _ a b (bytesOfWords ws) (by rwa [bytesOfWords_length])

theorem writeWords_slot (s : State) (a : Nat) (ws : List Word) : (writeWords s a ws).slot = s.slot := by
  rw [writeWords, writeBytes_other]
  rfl

/-- The memory after a write depends on the memory before it only. -/
theorem writeBytes_mem {s t : State} (h : s.mem = t.mem) (a : Nat) (bs : List Byte) : (writeBytes s a bs).mem = (writeBytes t a bs).mem := by
  induction bs generalizing s t a with
  | nil => exact h
  | cons b bs ih => exact ih (by rw [writeByte, writeByte, h]) (a + 1)

theorem writeWords_mem {s t : State} (h : s.mem = t.mem) (a : Nat) (ws : List Word) : (writeWords s a ws).mem = (writeWords t a ws).mem :=
  writeBytes_mem (s := healWords s a (8 * ws.length)) (t := healWords t a (8 * ws.length)) h a _

/-! ## What a home does after a write, for a slot that waits for nothing -/

/-- t is s but for other slots, watches and gates. -/
structure Stirred (s t : State) : Prop where
  slot : t.slot = s.slot
  cur : t.cur = s.cur
  mem : t.mem = s.mem

theorem Stirred.refl (s : State) : Stirred s s := ⟨rfl, rfl, rfl⟩

theorem Stirred.trans {s t u : State} (h : Stirred s t) (h' : Stirred t u) : Stirred s u :=
  ⟨h'.slot.trans h.slot, h'.cur.trans h.cur, h'.mem.trans h.mem⟩

/-- A fold of steps that stir. -/
theorem foldl_stirred {α : Type} (p : State → Prop) {f : State → α → State} (hf : ∀ s x, p s → Stirred s (f s x) ∧ p (f s x))
    (l : List α) {s : State} (h : p s) : Stirred s (l.foldl f s) := by
  induction l generalizing s with
  | nil => exact .refl s
  | cons x l ih =>
    obtain ⟨h1, h2⟩ := hf s x h
    exact h1.trans (ih h2)

theorem fireWatches_stirred {s : State} (h : s.t.wait = none) : Stirred s (fireWatches s) := by
  unfold fireWatches
  refine foldl_stirred (fun a => a.t.wait = none) (fun a w ha => ?_) s.watches h
  dsimp only
  split
  · next k hk =>
    have hne : w.slot ≠ a.cur := by
      intro he
      rw [he, State.slotAt, if_pos rfl] at hk
      exact absurd (ha.symm.trans hk) nofun
    split
    · have hslot : (a.updTaskOf w.slot (fun t => { t with met := true, wait := some (metWait a k) })).slot = a.slot := by
        simp [State.updTaskOf, State.updSlot, State.setSlot, hne]
      refine ⟨⟨hslot, ?_, ?_⟩, ?_⟩
      · simp [State.updTaskOf, State.updSlot, State.setSlot, hne]
      · simp [State.updTaskOf, State.updSlot, State.setSlot, hne]
      · rw [State.t, hslot]; exact ha
    · exact ⟨.refl a, ha⟩
  · exact ⟨.refl a, ha⟩

theorem answerFarCounters_stirred (s : State) : Stirred s (answerFarCounters s) := by
  unfold answerFarCounters
  dsimp only
  split <;> exact ⟨rfl, rfl, rfl⟩

theorem fireGates_stirred (s : State) : Stirred s (fireGates s) := by
  refine foldl_stirred (fun _ => True) (fun a c _ => ⟨?_, trivial⟩) _ trivial
  unfold fireGatesOf
  dsimp only
  split
  · exact .refl a
  · split <;> exact ⟨rfl, rfl, rfl⟩

theorem afterWrite_stirred {s : State} (h : s.t.wait = none) : Stirred s (afterWrite s) :=
  (fireWatches_stirred h).trans ((answerFarCounters_stirred _).trans (fireGates_stirred _))

end Sys2Proof.Machine
end

section
/-! The window stack: spills, fills and the entries that they move (R62 to R65). -/
namespace Sys2Proof.Machine

/-! ## Entries of the window -/

theorem zeroWin_frame (t : Task) (e n : Nat) : ∃ w, zeroWin t e n = { t with win := w } := by
  induction n generalizing t e with
  | zero => exact ⟨_, rfl⟩
  | succ n ih =>
    obtain ⟨w, h⟩ := ih (setWin t e 0) (e + 1)
    exact ⟨w, by rw [zeroWin, h]; rfl⟩

theorem getWin_zeroWin_outside (t : Task) (e n j : Nat) (h : ∀ i, i < n → j % 128 ≠ (e + i) % 128) : getWin (zeroWin t e n) j = getWin t j := by
  induction n generalizing t e with
  | zero => rfl
  | succ n ih =>
    have hrest : ∀ i, i < n → j % 128 ≠ (e + 1 + i) % 128 := fun i hi => by
      have h1 := h (i + 1) (by omega)
      omega
    have h0 : j % 128 ≠ e % 128 := h 0 (by omega)
    rw [zeroWin, ih _ _ hrest, getWin_setWin, if_neg h0]

theorem getWin_zeroWin_inside (t : Task) (e n i : Nat) (hi : i < n) (hn : n ≤ 128) : getWin (zeroWin t e n) (e + i) = 0 := by
  induction n generalizing t e i with
  | zero => omega
  | succ n ih =>
    rw [zeroWin]
    cases i with
    | zero =>
      have hrest : ∀ k, k < n → e % 128 ≠ (e + 1 + k) % 128 := fun k hk => by omega
      change getWin (zeroWin (setWin t e 0) (e + 1) n) e = 0
      rw [getWin_zeroWin_outside _ _ _ _ hrest, getWin_setWin, if_pos rfl]
    | succ i =>
      have he : e + (i + 1) = e + 1 + i := by omega
      rw [he]
      exact ih _ _ _ (by omega) (by omega)

/-- A run of entries that a fill writes. -/
def fillWin (t : Task) (b n : Nat) (v : Nat → Word) : Task := (List.range n).foldl (fun t i => setWin t (b + i) (v i)) t

theorem fillWin_succ (t : Task) (b n : Nat) (v : Nat → Word) : fillWin t b (n + 1) v = setWin (fillWin t b n v) (b + n) (v n) := by
  rw [fillWin, List.range_succ, List.foldl_append]
  rfl

theorem fillWin_frame (t : Task) (b n : Nat) (v : Nat → Word) : ∃ w, fillWin t b n v = { t with win := w } := by
  induction n with
  | zero => exact ⟨_, rfl⟩
  | succ n ih =>
    obtain ⟨w, h⟩ := ih
    exact ⟨_, by rw [fillWin_succ, h]; rfl⟩

/-- The window after a fill depends on the window before it only. -/
theorem fillWin_win {t u : Task} (h : t.win = u.win) (b n : Nat) (v : Nat → Word) : (fillWin t b n v).win = (fillWin u b n v).win := by
  induction n with
  | zero => exact h
  | succ n ih => rw [fillWin_succ, fillWin_succ, setWin, setWin, ih]

theorem getWin_fillWin_outside (t : Task) (b n j : Nat) (v : Nat → Word) (h : ∀ i, i < n → j % 128 ≠ (b + i) % 128) :
    getWin (fillWin t b n v) j = getWin t j := by
  induction n with
  | zero => rfl
  | succ n ih => rw [fillWin_succ, getWin_setWin, if_neg (h n (by omega)), ih fun i hi => h i (by omega)]

theorem getWin_fillWin_inside (t : Task) (b n i : Nat) (v : Nat → Word) (hi : i < n) (hn : n ≤ 128) :
    getWin (fillWin t b n v) (b + i) = v i := by
  induction n with
  | zero => omega
  | succ n ih =>
    rw [fillWin_succ, getWin_setWin]
    by_cases he : i = n
    · rw [he, if_pos rfl]
    · rw [if_neg (by omega)]
      exact ih (by omega) (by omega)

/-! ## A spill -/

/-- The words that a spill writes: the entries of the oldest frame below the next, and its descriptor (R64). -/
def spillWords (t : Task) (f g : Frame) : List Word :=
  (List.range (entriesUp f.base g.base)).map (fun i => getWin t (f.base + i)) ++ [descriptor f]

theorem spillWords_length (t : Task) (f g : Frame) : (spillWords t f g).length = entriesUp f.base g.base + 1 := by
  simp [spillWords]

/-- The task after a spill. -/
def spillTask (t : Task) (f g : Frame) : Task :=
  { t with frames := t.frames.dropLast, spilled := t.spilled + 1, spillp := BitVec.ofNat 64 (t.spillPtr + 8 * (entriesUp f.base g.base + 1)) }

theorem dropLast_of_reverse {f g : Frame} {rest l : List Frame} (h : l.reverse = f :: g :: rest) : (g :: rest).reverse = l.dropLast := by
  have hl : l = (f :: g :: rest).reverse := by rw [← h, List.reverse_reverse]
  rw [hl]
  simp

/-- Two frames are there to be told apart, and the current one stays (R63). -/
theorem frames_of_reverse {f g : Frame} {rest : List Frame} {t : Task} (h : t.frames.reverse = f :: g :: rest) :
    ∃ more, t.frames.dropLast = t.frame :: more := by
  cases hl : t.frames with
  | nil => rw [hl] at h; cases h
  | cons a l =>
    cases l with
    | nil => rw [hl] at h; cases h
    | cons b l => exact ⟨(b :: l).dropLast, by rw [Task.frame, hl]; rfl⟩

theorem spillOldest_none {s : State} {f g : Frame} {rest : List Frame} (h : s.t.frames.reverse = f :: g :: rest)
    (hfull : s.t.spillLimit < s.t.spillPtr + 8 * (entriesUp f.base g.base + 1)) : spillOldest s = none := by
  unfold spillOldest
  simp only [h]
  exact if_pos hfull

/-- t is s with its oldest frame spilled. -/
structure Spills (s t : State) (f g : Frame) : Prop where
  slot : t.slot = { s.slot with t := spillTask s.t f g }
  mem : t.mem = (writeWords s (tcmAddr s.core s.t.spillPtr) (spillWords s.t f g)).mem

theorem spillOldest_some {s : State} {f g : Frame} {rest : List Frame} (h : s.t.frames.reverse = f :: g :: rest)
    (hroom : s.t.spillPtr + 8 * (entriesUp f.base g.base + 1) ≤ s.t.spillLimit) (hw : s.t.wait = none) :
    ∃ s1, spillOldest s = some s1 ∧ Spills s s1 f g := by
  have hslot := writeWords_slot s (tcmAddr s.core s.t.spillPtr) (spillWords s.t f g)
  unfold spillOldest
  simp only [h]
  rw [if_neg (by omega), dropLast_of_reverse h]
  refine ⟨_, rfl, ?_⟩
  unfold spillWords at hslot
  generalize hW : writeWords s (tcmAddr s.core s.t.spillPtr)
    ((List.range (entriesUp f.base g.base)).map (fun i => getWin s.t (f.base + i)) ++ [descriptor f]) = W at hslot ⊢
  have hs := afterWrite_stirred (s := W.setT { W.t with
    frames := s.t.frames.dropLast, spilled := s.t.spilled + 1,
    spillp := BitVec.ofNat 64 (s.t.spillPtr + 8 * (entriesUp f.base g.base + 1)) }) (by rw [State.t_setT, State.t, hslot]; exact hw)
  refine ⟨?_, hs.mem.trans (congrArg State.mem hW.symm : W.mem = _)⟩
  rw [hs.slot, State.setT, State.t, hslot]
  rfl

/-- One spill is enough when the frames fit after it (R63). -/
theorem spillFor_one {s s1 : State} {fuel size extra frames : Nat}
    (hno : ¬ (spanBelow s.t.frames + size + extra ≤ 128 ∧ s.t.frames.length + frames ≤ 64)) (h : spillOldest s = some s1)
    (hfit : spanBelow s1.t.frames + size + extra ≤ 128 ∧ s1.t.frames.length + frames ≤ 64) :
    spillFor (fuel + 2) s size extra frames = some s1 := by
  rw [spillFor, if_neg hno, h]
  exact if_pos hfit

theorem spillFor_none {s : State} {fuel size extra frames : Nat}
    (hno : ¬ (spanBelow s.t.frames + size + extra ≤ 128 ∧ s.t.frames.length + frames ≤ 64)) (h : spillOldest s = none) :
    spillFor (fuel + 1) s size extra frames = none := by
  rw [spillFor, if_neg hno, h]

theorem spillFor_fits {s : State} {fuel size extra frames : Nat}
    (h : spanBelow s.t.frames + size + extra ≤ 128 ∧ s.t.frames.length + frames ≤ 64) : spillFor (fuel + 1) s size extra frames = some s := by
  rw [spillFor, if_pos h]

/-! ## What a spill has written -/

theorem spillLimit_lt (t : Task) : t.spillLimit < 2 ^ 17 := Nat.mod_lt _ (by decide)

theorem descriptor_toNat {f : Frame} (h : f.size ≤ 48) :
    (descriptor f).toNat = f.size * 2 ^ 48 + (if f.kind = .bottom then 0 else f.ret.toNat / 4 * 4) + kindCode f.kind := by
  have hret := f.ret.isLt
  have hk : kindCode f.kind < 3 := by cases f.kind <;> decide
  rw [descriptor, BitVec.toNat_ofNat, Nat.mod_eq_of_lt]
  split <;> omega

/-- The descriptor reads back field by field (R64). -/
theorem descriptor_fields {f : Frame} (h : f.size ≤ 48) :
    bitsOf (descriptor f) 54 10 = 0 ∧ bitsOf (descriptor f) 48 6 = f.size
      ∧ bitsOf (descriptor f) 2 46 = (if f.kind = .bottom then 0 else f.ret.toNat / 4)
      ∧ bitsOf (descriptor f) 0 2 = (match f.kind with | .call => 0 | .bottom => 1 | .nested => 2) := by
  have hret := f.ret.isLt
  unfold bitsOf
  rw [descriptor_toNat h]
  cases f.kind <;> simp only [kindCode, reduceCtorEq, if_true, if_false] <;> refine ⟨?_, ?_, ?_, ?_⟩ <;> omega

/-- What a spilled frame has left in memory and in the task. -/
theorem spilledOldest_of {s t : State} {f g : Frame} (hf : f.size ≤ 48)
    (hroom : s.t.spillPtr + 8 * (entriesUp f.base g.base + 1) ≤ s.t.spillLimit)
    (hmem : t.mem = (writeWords s (tcmAddr s.core s.t.spillPtr) (spillWords s.t f g)).mem)
    (hsp : t.t.spilled = s.t.spilled + 1) (hptr : t.t.spillp = BitVec.ofNat 64 (s.t.spillPtr + 8 * (entriesUp f.base g.base + 1))) :
    spilledOldest s t f g := by
  have hlim := spillLimit_lt s.t
  have hlen := spillWords_length s.t f g
  have hread (i : Nat) (hi : i < (spillWords s.t f g).length) :
      readWord t (tcmAddr s.core (s.t.spillPtr + 8 * i)) = (spillWords s.t f g)[i] := by
    have ha : tcmAddr s.core (s.t.spillPtr + 8 * i) = tcmAddr s.core s.t.spillPtr + 8 * i := by simp only [tcmAddr]; omega
    rw [readWord_congr hmem, ha, readWord_writeWords _ _ _ hi]
  have hd : readWord t (tcmAddr s.core (s.t.spillPtr + 8 * entriesUp f.base g.base)) = descriptor f := by
    rw [hread _ (by omega)]
    simp [spillWords]
  obtain ⟨h1, h2, h3, h4⟩ := descriptor_fields hf
  refine ⟨hsp, ?_, fun i hi => ?_, ?_, ?_, ?_, ?_, fun a ha => ?_⟩
  · rw [Task.spillPtr, hptr, BitVec.toNat_ofNat, Nat.mod_eq_of_lt (a := s.t.spillPtr + _) (by omega)]
    exact Nat.mod_eq_of_lt (by omega)
  · rw [hread i (by omega)]
    simp [spillWords, hi, getWin]
  · rw [hd]; exact h1
  · rw [hd]; exact h2
  · rw [hd]; exact h3
  · rw [hd]; exact h4
  · rw [readByte_congr hmem]
    exact readByte_writeWords_outside _ _ _ (by rw [hlen]; exact ha)

end Sys2Proof.Machine
end

section
/-! CALL, CALLR, RET, ENTER and SHRINK (R62, R63, R328, R343, R369, R380). -/
namespace Sys2Proof.Machine

/-! ## The instructions -/

theorem exec_call (disp : BitVec 25) (sw : Bool) (s : State) : exec (.call disp sw) s =
    issue (.call disp sw) sw { control := true } (fun _ a => callTo (jumpTarget s.t.pc disp) a) s := rfl

theorem exec_callr (ra : Reg) (sw : Bool) (s : State) : exec (.callr ra sw) s = issue (.callr ra sw) sw { a := some ra, control := true }
    (fun v a => if jumpBad a.t v.a then .error (.trap .align v.a) else callTo (v.a.truncate 48) a) s := rfl

theorem exec_ret (sw : Bool) (s : State) : exec (.ret sw) s = issue (.ret sw) sw { control := true } (fun _ a => returnCall a) s := rfl

theorem exec_enter (k : BitVec 6) (sw : Bool) (s : State) :
    exec (.enter k sw) s = issue (.enter k sw) sw { control := true } (fun _ a => enter k.toNat a) s := rfl

theorem exec_shrink (k : BitVec 6) (sw : Bool) (s : State) : exec (.shrink k sw) s =
    issue (.shrink k sw) sw { control := true } (fun _ a => .ok (a.setT (shrinkFrame a.t k.toNat))) s := rfl

/-- A control instruction without operands issues from every calm slot. -/
theorem control_issues {i : Instr} {s : State} (hs : Calm s) (hw : i.wellFormed = true) :
    Issues i { control := true } s s (plainVals s.t { control := true }) :=
  issues_plain hs (Bool.or_true _) (by simp [Use.reads]) hw rfl rfl (by simp)

/-- Where it may take STACK, the trap is taken in the state at issue. -/
theorem control_traps {i : Instr} {u : Use} {sw : Bool} {s : State} {body : Vals → State → Eff}
    (hi : Issues i u s s (plainVals s.t u)) (ho : u.own = false) (hb : body (plainVals s.t u) (advanced s s) = .error (.trap .stack 0)) :
    issue i sw u body s = trapped s .stack 0 := by
  rw [issue_trap hi sw ho hb, noteTrap_other (c := .stack) _ _ _ nofun nofun]
  rfl

/-! ## Calls -/

/-- The frame that a call pushes (R62). -/
def callFrame (t : Task) (ret : Pc) : Frame := { base := (t.frame.base + t.frame.size - 8) % 128, size := 8, ret := ret, kind := .call }

theorem pushCall_resident {s : State} (ret : Pc) (hd : s.t.depth < 65535) (hr : s.t.resident ≤ 128) (hl : s.t.frames.length < 64) :
    pushCall s ret = some (s.setT { s.t with frames := callFrame s.t ret :: s.t.frames }) := by
  unfold pushCall
  rw [if_neg (by omega), spillFor_fits ⟨hr, hl⟩]
  rfl

section
variable {s : State} {f g : Frame} {rest : List Frame} (hrev : s.t.frames.reverse = f :: g :: rest) (hl : s.t.frames.length = 64)
include hrev hl

theorem pushCall_spills (ret : Pc) (hd : s.t.depth < 65535) (hfit : spanBelow s.t.frames.dropLast + s.t.frame.size ≤ 128)
    (hw : s.t.wait = none) (hroom : s.t.spillPtr + 8 * (entriesUp f.base g.base + 1) ≤ s.t.spillLimit) :
    ∃ s1, pushCall s ret = some (s1.setT { s1.t with frames := callFrame s.t ret :: s.t.frames.dropLast }) ∧ Spills s s1 f g := by
  obtain ⟨s1, h1, hsp⟩ := spillOldest_some hrev hroom hw
  obtain ⟨more, hmore⟩ := frames_of_reverse hrev
  have ht : s1.t = spillTask s.t f g := by rw [State.t, hsp.slot]
  have hframes : s1.t.frames = s.t.frames.dropLast := by rw [ht]; rfl
  have hframe : s1.t.frame = s.t.frame := by rw [Task.frame, hframes, hmore]; rfl
  refine ⟨s1, ?_, hsp⟩
  unfold pushCall
  rw [if_neg (by omega), spillFor_one (by omega) h1 ⟨by rw [hframes]; exact hfit, by rw [hframes, List.length_dropLast]; omega⟩]
  simp only [hframe, hframes]
  rfl

theorem pushCall_full (ret : Pc) (hd : s.t.depth < 65535) (hfull : s.t.spillLimit < s.t.spillPtr + 8 * (entriesUp f.base g.base + 1)) :
    pushCall s ret = none := by
  unfold pushCall
  rw [if_neg (by omega), spillFor_none (by omega) (spillOldest_none hrev hfull)]

end

/-- CALL and CALLR issue, and then push their frame and go to their target. -/
theorem calls_issue {i : Instr} {rs : List Reg} {target : Pc} {s : State} (h : calls s i = some (rs, target)) (hs : Calm s)
    (hr : ∀ r ∈ rs, plainCode s.t r = true) :
    ∃ (u : Use) (sw : Bool) (body : Vals → State → Eff), exec i s = issue i sw u body s ∧ Issues i u s s (plainVals s.t u) ∧ u.ret = false
      ∧ u.keepPfx = false ∧ u.own = false ∧ body (plainVals s.t u) (advanced s s) = callTo target (advanced s s) := by
  unfold calls at h
  split at h
  · next disp sw =>
    cases h
    exact ⟨_, sw, _, exec_call disp sw s, control_issues hs rfl, rfl, rfl, rfl, congrArg (callTo · _) (jumpTarget_eq _ _)⟩
  · next ra sw =>
    split at h
    · next ha =>
      cases h
      refine ⟨_, sw, _, exec_callr ra sw s, issues_plain hs (Bool.or_true _) (by simpa [Use.reads] using hr) rfl rfl rfl (by simp), rfl, rfl,
        rfl, if_neg ?_⟩
      have hv : (plainVals s.t { a := some ra, control := true }).a = plainRead s.t ra := rfl
      simp [jumpBad, hv, ha]
    · cases h
  · cases h

theorem callTo_goes {s s1 : State} (target : Pc) (hq : s.t.frames.length < 64 ∨ spillQuiet s = true) (hp : pushCall s s.t.pc = some s1) :
    callTo target s = .ok (jumpTo s1 target) := by
  have h : (decide (s.t.frames.length ≥ 64) && !spillQuiet s) = false := by
    obtain h | h := hq
    · simp [Nat.not_le.2 h]
    · simp [h]
  unfold callTo
  rw [h, hp]
  rfl

theorem callTo_full {s : State} (target : Pc) (hq : spillQuiet s = true) (hp : pushCall s s.t.pc = none) :
    callTo target s = .error (.trap .stack 0) := by
  unfold callTo
  rw [hq, hp]
  simp

theorem spillQuiet_calm {s : State} (hs : Calm s) (hb : spillBlocked s = false) : spillQuiet (advanced s s) = true := by
  have h1 : spillBlocked (advanced s s) = spillBlocked s := rfl
  have h2 : (advanced s s).t.pend = [] := hs.none_pending
  simp [spillQuiet, h1, h2, hb]

/-! ## Jumps of a calm slot, completed -/

/-- What completion leaves of a jump. -/
theorem jumped_completes {i : Instr} {u : Use} {sw : Bool} {s s1 : State} {target : Pc} {body : Vals → State → Eff} (hs : Calm s)
    (hi : Issues i u s s (plainVals s.t u)) (hr : u.ret = false) (hk : u.keepPfx = false)
    (hb : body (plainVals s.t u) (advanced s s) = .ok (jumpTo s1 target)) (hl : s1.t.leader = none) (hw : s1.t.wait = none) :
    ∃ s2 t, issue i sw u body s = .next t ∧ Jumped s1 s2 target ∧ Completed s2 t := by
  have hj := jumpTo_jumped target hl
  obtain ⟨t, ht, hc⟩ := issue_completed (sw := sw) hs hi hr hk hb (by rw [hj.task]; exact hw)
  exact ⟨_, t, ht, hj, hc⟩

section
variable {s s1 s2 t : State} {target : Pc} (hj : Jumped s1 s2 target) (hc : Completed s2 t)
include hj hc

theorem Jumped.pc : t.t.pc = target := by rw [hc.pc, hj.task]
theorem Jumped.frames : t.t.frames = s1.t.frames := by rw [hc.frames, hj.task]
theorem Jumped.spilled : t.t.spilled = s1.t.spilled := by rw [hc.frame.2, hj.task]
theorem Jumped.spillp : t.t.spillp = s1.t.spillp := by obtain ⟨wt, ht⟩ := hc.task; rw [ht, hj.task]
theorem Jumped.win : t.t.win = s1.t.win := by rw [hc.win, hj.task]
theorem Jumped.globals : t.t.globals = s1.t.globals := by rw [hc.globals, hj.task]
theorem Jumped.mem : t.mem = s1.mem := by rw [hc.mem, hj.device]
theorem Jumped.tiles : sameTiles s1 t := by have h := hc.tiles; rwa [sameTiles, hj.task] at h
theorem Jumped.mask : sameMask s1 t := by have h := hc.mask; rwa [sameMask, hj.task] at h
theorem Jumped.special : sameSpecial s1 t := by have h := hc.special; rwa [sameSpecial, hj.task] at h

/-- The device, where only the slot in force had changed before the jump. -/
theorem Jumped.traced (hd : s1 = { s with slot := s1.slot }) : sameDeviceTraced s t := by
  refine hc.traced ?_ fun c => (hj.cores c).trans ?_
  · have h := hj.device
    rw [hd] at h
    rw [h]
  · rw [hd]; rfl

end

theorem exec_call_resident {i : Instr} {rs : List Reg} {target : Pc} {s : State} (h : calls s i = some (rs, target)) (hs : Calm s)
    (hr : ∀ r ∈ rs, plainCode s.t r = true) (hsz : 8 ≤ s.t.frame.size) (hsz' : s.t.frame.size ≤ 48) (hres : s.t.resident ≤ 128)
    (hl : s.t.frames.length < 64) (hd : s.t.depth < 65535) :
    ∃ t, exec i s = .next t ∧ t.t.pc = target
      ∧ t.t.frames = { base := (s.t.frame.base + s.t.frame.size - 8) % 128, size := 8, ret := s.t.pc + 4, kind := .call } :: s.t.frames
      ∧ (∀ j : Nat, j < 8 → plainRead t.t (BitVec.ofNat 6 (8 + j)) = plainRead s.t (BitVec.ofNat 6 (8 + (s.t.frame.size - 8) + j)))
      ∧ t.t.globals = s.t.globals ∧ t.t.win = s.t.win ∧ sameSpecial s t ∧ sameTiles s t ∧ sameMask s t ∧ sameBytes s t
      ∧ sameDeviceTraced s t := by
  obtain ⟨u, sw, body, hex, hi, hret, hk, -, hb⟩ := calls_issue h hs hr
  have hp := pushCall_resident (s := advanced s s) (s.t.pc + 4) hd hres hl
  rw [callTo_goes (s := advanced s s) target (.inl hl) hp] at hb
  obtain ⟨s2, t, ht, hj, hc⟩ := jumped_completes (sw := sw) hs hi hret hk hb hs.no_leader hs.awake
  have hframes : t.t.frames = callFrame s.t (s.t.pc + 4) :: s.t.frames := hj.frames hc
  have hwin : t.t.win = s.t.win := hj.win hc
  refine ⟨t, hex.trans ht, hj.pc hc, hframes, fun j hj' => ?_, hj.globals hc, hwin, hj.special hc, hj.tiles hc, hj.mask hc,
    fun a => readByte_congr (hj.mem hc) a, hj.traced hc rfl⟩
  have hframe : t.t.frame = callFrame s.t (s.t.pc + 4) := by rw [Task.frame, hframes]; rfl
  have he : (callFrame s.t (s.t.pc + 4)).base + j = (s.t.frame.base + s.t.frame.size - 8) % 128 + j := rfl
  rw [Nat.add_assoc, plainRead_windowed _ (by omega), plainRead_windowed _ (by omega), hwin, hframe, he]
  congr 1
  omega

theorem exec_call_spills {i : Instr} {rs : List Reg} {target : Pc} {f g : Frame} {rest : List Frame} {s : State}
    (h : calls s i = some (rs, target)) (hs : Calm s) (hr : ∀ r ∈ rs, plainCode s.t r = true) (hrev : s.t.frames.reverse = f :: g :: rest)
    (hl : s.t.frames.length = 64) (hf : f.size ≤ 48) (hfit : spanBelow s.t.frames.dropLast + s.t.frame.size ≤ 128) (hd : s.t.depth < 65535)
    (hblock : spillBlocked s = false) (hroom : s.t.spillPtr + 8 * (entriesUp f.base g.base + 1) ≤ s.t.spillLimit) :
    ∃ t, exec i s = .next t ∧ t.t.pc = target ∧ spilledOldest s t f g ∧ t.t.win = s.t.win ∧ t.t.globals = s.t.globals
      ∧ t.t.frames = { base := (s.t.frame.base + s.t.frame.size - 8) % 128, size := 8, ret := s.t.pc + 4, kind := .call }
          :: s.t.frames.dropLast := by
  obtain ⟨u, sw, body, hex, hi, hret, hk, -, hb⟩ := calls_issue h hs hr
  obtain ⟨s1, hp, hsp⟩ := pushCall_spills (s := advanced s s) hrev hl (s.t.pc + 4) hd hfit hs.awake hroom
  have ht1 : s1.t = spillTask (advanced s s).t f g := by rw [State.t, hsp.slot]
  rw [callTo_goes (s := advanced s s) target (.inr (spillQuiet_calm hs hblock)) hp] at hb
  obtain ⟨s2, t, ht, hj, hc⟩ := jumped_completes (sw := sw) hs hi hret hk hb
    (by rw [State.t_setT, ht1]; exact hs.no_leader) (by rw [State.t_setT, ht1]; exact hs.awake)
  have hmem := (hj.mem hc).trans (hsp.mem.trans (writeWords_mem (s := advanced s s) (t := s) rfl _ _))
  refine ⟨t, hex.trans ht, hj.pc hc, spilledOldest_of hf hroom hmem ?_ ?_, ?_, ?_, hj.frames hc⟩
  · rw [hj.spilled hc, State.t_setT, ht1]; rfl
  · rw [hj.spillp hc, State.t_setT, ht1]; rfl
  · rw [hj.win hc, State.t_setT, ht1]; rfl
  · rw [hj.globals hc, State.t_setT, ht1]; rfl

theorem exec_call_full {i : Instr} {rs : List Reg} {target : Pc} {f g : Frame} {rest : List Frame} {s : State}
    (h : calls s i = some (rs, target)) (hs : Calm s) (hr : ∀ r ∈ rs, plainCode s.t r = true) (hrev : s.t.frames.reverse = f :: g :: rest)
    (hl : s.t.frames.length = 64) (hd : s.t.depth < 65535) (hblock : spillBlocked s = false)
    (hfull : s.t.spillLimit < s.t.spillPtr + 8 * (entriesUp f.base g.base + 1)) : exec i s = trapped s .stack 0 := by
  obtain ⟨u, sw, body, hex, hi, -, -, ho, hb⟩ := calls_issue h hs hr
  have hp := pushCall_full (s := advanced s s) hrev hl (s.t.pc + 4) hd hfull
  rw [callTo_full (s := advanced s s) target (spillQuiet_calm hs hblock) hp] at hb
  exact hex.trans (control_traps hi ho hb)

end Sys2Proof.Machine
end

section
/-! RET (R63 to R65, R369). -/
namespace Sys2Proof.Machine

/-! ## A return to a resident frame -/

theorem popFrame_resident {s : State} {f g : Frame} {rest : List Frame} (h : s.t.frames = f :: g :: rest) :
    popFrame s = some (s.setT { s.t with frames := g :: rest, pc := f.ret }) := by
  unfold popFrame
  rw [h]

/-- Without followers a strand is released at once (R124). -/
theorem releaseStrand_alone {s : State} (h : s.t.followers = []) :
    ∃ m d, releaseStrand s = .ok (s.setT { s.t with followers := [], member := m, strandDepth := d }) := by
  unfold releaseStrand
  by_cases h0 : s.t.strandDepth = 0
  · refine ⟨s.t.member, s.t.strandDepth, ?_⟩
    rw [if_pos h0, ← h]
    rfl
  · refine ⟨0, 0, ?_⟩
    simp [h0, h]

theorem returnCall_resident {s : State} {f g : Frame} {rest : List Frame} (h : s.t.frames = f :: g :: rest) (hk : f.kind = .call)
    (hf : s.t.followers = []) :
    ∃ m d, returnCall s =
        .ok (jumpTo (s.setT { s.t with followers := [], member := m, strandDepth := d, frames := g :: rest, pc := f.ret }) f.ret)
      ∧ (s.t.strandDepth < s.t.depth → m = s.t.member) := by
  have hframe : s.t.frame = f := by rw [Task.frame, h]; rfl
  have h1 : ¬ s.t.frame.kind ≠ .call := by rw [hframe, hk]; exact fun hne => hne rfl
  have h2 : (decide (s.t.frames.length ≤ 1) && spillBlocked s) = false := by simp [h]
  unfold returnCall
  rw [if_neg h1, h2, popFrame_resident h]
  simp only [Bool.false_eq_true, if_false]
  by_cases hd : s.t.depth ≤ s.t.strandDepth
  · obtain ⟨m, d, hrel⟩ := releaseStrand_alone hf
    refine ⟨m, d, ?_, fun hlt => absurd hd (Nat.not_le.2 hlt)⟩
    rw [if_pos hd, hrel]
    have hp := popFrame_resident (s := s.setT { s.t with followers := [], member := m, strandDepth := d }) h
    simp only [hp]
    rfl
  · refine ⟨s.t.member, s.t.strandDepth, ?_, fun _ => rfl⟩
    rw [if_neg hd, ← hf]
    rfl

theorem exec_ret_resident {sw : Bool} {f g : Frame} {rest : List Frame} {s : State} (hs : Calm s) (h : s.t.frames = f :: g :: rest)
    (hk : f.kind = .call) :
    ∃ t, exec (.ret sw) s = .next t ∧ t.t.pc = f.ret ∧ t.t.frames = g :: rest ∧ t.t.spilled = s.t.spilled ∧ t.t.win = s.t.win
      ∧ t.t.globals = s.t.globals ∧ sameTiles s t ∧ sameMask s t ∧ sameBytes s t ∧ sameDeviceTraced s t
      ∧ (s.t.strandDepth < s.t.depth → sameSpecial s t) := by
  obtain ⟨m, d, hb, hm⟩ := returnCall_resident (s := advanced s s) h hk hs.no_followers
  obtain ⟨s2, t, ht, hj, hc⟩ := jumped_completes (sw := sw) (body := fun _ a => returnCall a) hs (control_issues (i := .ret sw) hs rfl) rfl rfl hb
    hs.no_leader hs.awake
  refine ⟨t, (exec_ret sw s).trans ht, hj.pc hc, hj.frames hc, hj.spilled hc, hj.win hc, hj.globals hc, hj.tiles hc, hj.mask hc,
    fun a => readByte_congr (hj.mem hc) a, hj.traced hc rfl, fun hlt => ?_⟩
  obtain rfl := hm hlt
  exact hj.special hc

theorem exec_ret_no_call {sw : Bool} {s : State} (hs : Calm s) (hk : s.t.frame.kind ≠ .call) : exec (.ret sw) s = trapped s .stack 0 := by
  rw [exec_ret]
  exact control_traps (control_issues (i := .ret sw) hs rfl) rfl (if_pos hk)

/-! ## A return to a spilled frame -/

theorem natOf_lt (bs : List Byte) : natOf bs < 256 ^ bs.length := by
  induction bs with
  | nil => simp [natOf]
  | cons b bs ih =>
    have hb := b.isLt
    rw [natOf, List.length_cons, Nat.pow_succ]
    omega

theorem readBytes_length (s : State) (a n : Nat) : (readBytes s a n).length = n := by
  induction n generalizing a with
  | zero => rfl
  | succ n ih => rw [readBytes, List.length_cons, ih]

theorem readWord_toNat (s : State) (a : Nat) : (readWord s a).toNat = readNat s a 8 := by
  have h := natOf_lt (readBytes s a 8)
  rw [readBytes_length] at h
  exact Nat.mod_eq_of_lt h

/-- The frame that a descriptor stands for, below a call frame of a base (R64). -/
def describedFrame (d : Word) (above : Nat) : Frame :=
  { base := (above + (128 - (bitsOf d 48 6 - 8))) % 128, size := bitsOf d 48 6, ret := BitVec.ofNat 48 (bitsOf d 2 46 * 4),
    kind := if bitsOf d 0 2 = 0 then .call else if bitsOf d 0 2 = 1 then .bottom else .nested }

section
variable {s : State} {d : Word} (hd : d = readWord s (tcmAddr s.core (s.t.spillPtr - 8)))
include hd

theorem readDescriptor_none (above : Nat)
    (h : s.t.spillPtr < s.t.spillBase + 8 ∨ bitsOf d 0 2 = 3 ∨ bitsOf d 48 6 < 8 ∨ 48 < bitsOf d 48 6
      ∨ s.t.spillPtr < s.t.spillBase + 8 * (bitsOf d 48 6 - 8 + 1)) : readDescriptor s s.t.spillPtr above .call = none := by
  have hd' : readNat s (tcmAddr s.core (s.t.spillPtr - 8)) 8 = d.toNat := by rw [hd, readWord_toNat]
  unfold bitsOf at h
  unfold readDescriptor
  rw [hd']
  simp only [reduceCtorEq, if_false, Bool.or_eq_true, decide_eq_true_eq]
  split
  · rfl
  · exact if_pos (by omega)

theorem readDescriptor_some (above : Nat) (hlo : s.t.spillBase + 8 * (bitsOf d 48 6 - 8 + 1) ≤ s.t.spillPtr) (hk : bitsOf d 0 2 ≠ 3)
    (h8 : 8 ≤ bitsOf d 48 6) (h48 : bitsOf d 48 6 ≤ 48) :
    readDescriptor s s.t.spillPtr above .call = some (describedFrame d above, bitsOf d 48 6 - 8) := by
  have hd' : readNat s (tcmAddr s.core (s.t.spillPtr - 8)) 8 = d.toNat := by rw [hd, readWord_toNat]
  unfold describedFrame
  unfold bitsOf at hlo hk h8 h48 ⊢
  unfold readDescriptor
  rw [hd']
  simp only [reduceCtorEq, if_false, Bool.or_eq_true, decide_eq_true_eq]
  rw [if_neg (by omega), if_neg (by omega)]
  simp only [Nat.pow_zero, Nat.div_one]
  rfl

end

/-- The words that a fill reads (R64). -/
def filledWord (s : State) (n i : Nat) : Word := readWord s (tcmAddr s.core (s.t.spillPtr - 8 * (n + 1) + 8 * i))

/-- t is s with a frame filled above n entries of the spill area. -/
structure Fills (s t : State) (f : Frame) (n : Nat) : Prop where
  task : ∃ w, t.t = { s.t with
    win := w, frames := [f], spilled := s.t.spilled - 1, spillp := BitVec.ofNat 64 (s.t.spillPtr - 8 * (n + 1)) }
  win : t.t.win = (fillWin s.t f.base n (filledWord s n)).win
  mem : t.mem = s.mem

theorem fillFrame_some {s : State} {above n : Nat} {f : Frame} (h : readDescriptor s s.t.spillPtr above .call = some (f, n)) :
    ∃ s1, fillFrame s above .call = some s1 ∧ Fills s s1 f n := by
  obtain ⟨w, hw⟩ := fillWin_frame s.t f.base n (filledWord s n)
  unfold fillFrame
  rw [h]
  refine ⟨_, rfl, ⟨w, ?_⟩, rfl, rfl⟩
  unfold fillWin filledWord at hw
  simp only [State.t_setT, hw]

section
variable {s : State} {f : Frame} (h : s.t.frames = [f]) (hk : f.kind = .call) (hb : spillBlocked s = false)
include h hk hb

theorem returnCall_malformed (hfill : fillFrame s f.base .call = none) : returnCall s = .error (.trap .stack 0) := by
  have hframe : s.t.frame = f := by rw [Task.frame, h]; rfl
  have h1 : ¬ s.t.frame.kind ≠ .call := by rw [hframe, hk]; exact fun hne => hne rfl
  have hp : popFrame s = none := by
    unfold popFrame
    rw [h]
    simp only [hk, hfill, Option.map_none]
  unfold returnCall
  rw [if_neg h1, hb, Bool.and_false, hp]
  rfl

theorem returnCall_fills {s1 : State} (hfill : fillFrame s f.base .call = some s1) (hd : s.t.strandDepth < s.t.depth) :
    returnCall s = .ok (jumpTo (s1.setT { s1.t with pc := f.ret }) f.ret) := by
  have hframe : s.t.frame = f := by rw [Task.frame, h]; rfl
  have h1 : ¬ s.t.frame.kind ≠ .call := by rw [hframe, hk]; exact fun hne => hne rfl
  have hp : popFrame s = some (s1.setT { s1.t with pc := f.ret }) := by
    unfold popFrame
    rw [h]
    simp only [hk, hfill, Option.map_some]
  unfold returnCall
  rw [if_neg h1, hb, Bool.and_false, hp]
  simp only [Bool.false_eq_true, if_false]
  rw [if_neg (Nat.not_le.2 hd)]
  rfl

end

theorem exec_ret_malformed {sw : Bool} {f : Frame} {s : State} {d : Word} (hd : d = readWord s (tcmAddr s.core (s.t.spillPtr - 8)))
    (hs : Calm s) (h : s.t.frames = [f]) (hk : f.kind = .call) (hb : spillBlocked s = false)
    (hbad : s.t.spillPtr < s.t.spillBase + 8 ∨ bitsOf d 0 2 = 3 ∨ bitsOf d 48 6 < 8 ∨ 48 < bitsOf d 48 6
      ∨ s.t.spillPtr < s.t.spillBase + 8 * (bitsOf d 48 6 - 8 + 1)) : exec (.ret sw) s = trapped s .stack 0 := by
  have hfill : fillFrame (advanced s s) f.base .call = none := by
    unfold fillFrame
    rw [readDescriptor_none (s := advanced s s) hd f.base hbad]
  rw [exec_ret]
  exact control_traps (control_issues (i := .ret sw) hs rfl) rfl (returnCall_malformed (s := advanced s s) h hk hb hfill)

theorem exec_ret_fills {sw : Bool} {f : Frame} {s : State} {d : Word} {n : Nat} (hd : d = readWord s (tcmAddr s.core (s.t.spillPtr - 8)))
    (hn : n = bitsOf d 48 6 - 8) (hs : Calm s) (h : s.t.frames = [f]) (hk : f.kind = .call) (hb : spillBlocked s = false)
    (hdep : s.t.strandDepth < s.t.depth) (hlo : s.t.spillBase + 8 * (n + 1) ≤ s.t.spillPtr) (h3 : bitsOf d 0 2 ≠ 3)
    (h8 : 8 ≤ bitsOf d 48 6) (h48 : bitsOf d 48 6 ≤ 48) :
    ∃ t, exec (.ret sw) s = .next t ∧ t.t.pc = f.ret ∧ t.t.spilled = s.t.spilled - 1 ∧ t.t.spillPtr = s.t.spillPtr - 8 * (n + 1)
      ∧ t.t.frames = [describedFrame d f.base]
      ∧ (∀ i : Nat, i < n → plainRead t.t (BitVec.ofNat 6 (8 + i)) = readWord s (tcmAddr s.core (s.t.spillPtr - 8 * (n + 1) + 8 * i)))
      ∧ (∀ i : Nat, i < 8 → plainRead t.t (BitVec.ofNat 6 (8 + n + i)) = plainRead s.t (BitVec.ofNat 6 (8 + i)))
      ∧ t.t.globals = s.t.globals ∧ sameBytes s t := by
  have hptr : s.t.spillPtr < 2 ^ 17 := Nat.mod_lt _ (by decide)
  have hdesc := readDescriptor_some (s := advanced s s) hd f.base (hn ▸ hlo) h3 h8 h48
  rw [← hn] at hdesc
  obtain ⟨s1, hfill, hfills⟩ := fillFrame_some hdesc
  obtain ⟨w, ht1⟩ := hfills.task
  obtain ⟨s2, t, ht, hj, hc⟩ := jumped_completes (sw := sw) (body := fun _ a => returnCall a) hs (control_issues (i := .ret sw) hs rfl) rfl rfl
    (returnCall_fills (s := advanced s s) h hk hb hfill hdep) (by rw [State.t_setT, ht1]; exact hs.no_leader)
    (by rw [State.t_setT, ht1]; exact hs.awake)
  have hframes : t.t.frames = [describedFrame d f.base] := by rw [hj.frames hc, State.t_setT, ht1]
  have hframe : t.t.frame = describedFrame d f.base := by rw [Task.frame, hframes]; rfl
  have hwin : t.t.win = (fillWin s.t (describedFrame d f.base).base n (filledWord s n)).win :=
    (hj.win hc).trans (hfills.win.trans (fillWin_win (t := (advanced s s).t) (u := s.t) rfl _ _ _))
  have hread (j : Nat) (hj48 : j < 48) : plainRead t.t (BitVec.ofNat 6 (8 + j)) =
      getWin (fillWin s.t (describedFrame d f.base).base n (filledWord s n)) ((describedFrame d f.base).base + j) := by
    rw [plainRead_windowed _ hj48, hwin, hframe]
    rfl
  have hsframe : s.t.frame = f := by rw [Task.frame, h]; rfl
  refine ⟨t, (exec_ret sw s).trans ht, hj.pc hc, ?_, ?_, hframes, fun i hi => ?_, fun i hi => ?_, ?_,
    fun a => readByte_congr ((hj.mem hc).trans hfills.mem) a⟩
  · rw [hj.spilled hc, State.t_setT, ht1]; rfl
  · have hsp : t.t.spillp = BitVec.ofNat 64 (s.t.spillPtr - 8 * (n + 1)) := by rw [hj.spillp hc, State.t_setT, ht1]; rfl
    rw [Task.spillPtr, hsp, BitVec.toNat_ofNat, Nat.mod_eq_of_lt (a := s.t.spillPtr - _) (by omega)]
    exact Nat.mod_eq_of_lt (by omega)
  · rw [hread i (by omega)]
    exact getWin_fillWin_inside _ _ _ _ _ hi (by omega)
  · have hbase : (describedFrame d f.base).base = (f.base + (128 - n)) % 128 := by rw [hn]; rfl
    rw [Nat.add_assoc, hread _ (by omega), getWin_fillWin_outside _ _ _ _ _ (fun k hk' => by omega), plainRead_windowed _ (by omega), hsframe,
      getWin, hbase]
    congr 1
    omega
  · rw [hj.globals hc, State.t_setT, ht1]; rfl

end Sys2Proof.Machine
end

section
/-! ENTER and SHRINK (R63, R343, R380), and the statement on calls, returns and frames. -/
namespace Sys2Proof.Machine

/-! ## ENTER -/

/-- t is s with its current frame resized to k entries; w is its window (R343). -/
structure Entered (s t : State) (k : Nat) (w : Vector Word 128) : Prop where
  eq : t = s.setT { s.t with win := w, frames := { s.t.frame with size := k } :: s.t.frames.drop 1 }
  zero : ∀ j, s.t.frame.size ≤ j → j < k → w[(s.t.frame.base + j) % 128]! = 0
  kept : ∀ j, j < s.t.frame.size → j < k → w[(s.t.frame.base + j) % 128]! = s.t.win[(s.t.frame.base + j) % 128]!

/-- Registers that come into the frame read as zero, and the others keep their values. -/
theorem enterFrame_some {s s1 : State} {k : Nat} (h : spillFor 65 s k 0 0 = some s1) (hk : k ≤ 48) :
    ∃ t w, enterFrame s k = some t ∧ Entered s1 t k w := by
  unfold enterFrame
  rw [h]
  by_cases hgt : k > s1.t.frame.size
  · obtain ⟨w, hw⟩ := zeroWin_frame s1.t (s1.t.frame.base + s1.t.frame.size) (k - s1.t.frame.size)
    have hget (j : Nat) : w[j % 128]! = getWin (zeroWin s1.t (s1.t.frame.base + s1.t.frame.size) (k - s1.t.frame.size)) j := by rw [hw]; rfl
    refine ⟨_, w, rfl, ?_, fun j hj hjk => ?_, fun j hj hjk => ?_⟩
    · simp only [if_pos hgt, hw]
    · have he : s1.t.frame.base + j = s1.t.frame.base + s1.t.frame.size + (j - s1.t.frame.size) := by omega
      rw [hget, he]
      exact getWin_zeroWin_inside _ _ _ _ (by omega) (by omega)
    · rw [hget, getWin_zeroWin_outside _ _ _ _ fun i hi => by omega]
      rfl
  · refine ⟨_, s1.t.win, rfl, ?_, fun j hj hjk => by omega, fun j hj hjk => rfl⟩
    simp only [if_neg hgt]

theorem enter_ok {s s1 : State} {k : Nat} (hp : s.t.pend = []) (hq : s.t.resident + (k - s.t.frame.size) ≤ 128 ∨ spillQuiet s = true)
    (h : enterFrame s k = some s1) : enter k s = .ok s1 := by
  have h2 : (decide (s.t.resident + (k - s.t.frame.size) > 128) && !spillQuiet s) = false := by
    obtain hq | hq := hq
    · simp [Nat.not_lt.2 hq]
    · simp [hq]
  have h1 : windowQuiet s.t (s.t.frame.base + s.t.frame.size) (k - s.t.frame.size) = true := by simp [windowQuiet, hp]
  unfold enter
  simp only [h1, h2, h, Bool.not_true, Bool.false_eq_true, if_false]

theorem enter_full {s : State} {k : Nat} (hp : s.t.pend = []) (hq : spillQuiet s = true) (h : enterFrame s k = none) :
    enter k s = .error (.trap .stack 0) := by
  have h1 : windowQuiet s.t (s.t.frame.base + s.t.frame.size) (k - s.t.frame.size) = true := by simp [windowQuiet, hp]
  unfold enter
  simp only [h1, hq, h, Bool.not_true, Bool.and_false, Bool.false_eq_true, if_false]

theorem frameSizeOk_of {k : BitVec 6} (h : 8 ≤ k.toNat) (h' : k.toNat ≤ 48) : frameSizeOk k = true := by
  simp [frameSizeOk, h, h']

/-- What completion leaves of an ENTER. -/
theorem exec_enter_completes {k : BitVec 6} {sw : Bool} {s s1 : State} (hs : Calm s) (h8 : 8 ≤ k.toNat) (h48 : k.toNat ≤ 48)
    (hq : s.t.resident + (k.toNat - s.t.frame.size) ≤ 128 ∨ spillQuiet (advanced s s) = true)
    (hfor : spillFor 65 (advanced s s) k.toNat 0 0 = some s1) (hw : s1.t.wait = none) :
    ∃ s2 w t, exec (.enter k sw) s = .next t ∧ Entered s1 s2 k.toNat w ∧ Completed s2 t := by
  obtain ⟨s2, w, he, hent⟩ := enterFrame_some hfor h48
  have hb := enter_ok (s := advanced s s) hs.none_pending hq he
  obtain ⟨t, ht, hc⟩ := issue_completed (sw := sw) (body := fun _ a => enter k.toNat a) hs
    (control_issues (i := .enter k sw) hs (frameSizeOk_of h8 h48)) rfl rfl hb (by rw [hent.eq]; exact hw)
  exact ⟨s2, w, t, (exec_enter k sw s).trans ht, hent, hc⟩

section
variable {s1 s2 t : State} {k : Nat} {w : Vector Word 128} (he : Entered s1 s2 k w) (hc : Completed s2 t)
include he hc

theorem Entered.frames : t.t.frames = { s1.t.frame with size := k } :: s1.t.frames.drop 1 := by rw [hc.frames, he.eq]; rfl
theorem Entered.spilled : t.t.spilled = s1.t.spilled := by rw [hc.frame.2, he.eq]; rfl
theorem Entered.spillp : t.t.spillp = s1.t.spillp := by obtain ⟨wt, ht⟩ := hc.task; rw [ht, he.eq]; rfl
theorem Entered.pc : t.t.pc = s1.t.pc := by rw [hc.pc, he.eq]; rfl
theorem Entered.globals : t.t.globals = s1.t.globals := by rw [hc.globals, he.eq]; rfl
theorem Entered.mem : t.mem = s1.mem := by rw [hc.mem, he.eq]; rfl

/-- A register of the resized frame. -/
theorem Entered.read {j : Nat} (hj : j < 48) : plainRead t.t (BitVec.ofNat 6 (8 + j)) = w[(s1.t.frame.base + j) % 128]! := by
  rw [hc.codes, plainRead_windowed _ hj, he.eq]
  rfl

end

theorem exec_enter_resident {k : BitVec 6} {sw : Bool} {f : Frame} {rest : List Frame} {s : State} (hs : Calm s) (h8 : 8 ≤ k.toNat)
    (h48 : k.toNat ≤ 48) (h : s.t.frames = f :: rest) (hl : rest.length < 64) (hres : s.t.resident ≤ 128)
    (hfit : spanBelow s.t.frames + k.toNat ≤ 128) :
    ∃ t, exec (.enter k sw) s = .next t ∧ t.t.pc = s.t.pc + 4 ∧ t.t.frames = { f with size := k.toNat } :: rest
      ∧ (∀ j : Nat, f.size ≤ j → j < k.toNat → plainRead t.t (BitVec.ofNat 6 (8 + j)) = 0)
      ∧ (∀ j : Nat, j < f.size → j < k.toNat → plainRead t.t (BitVec.ofNat 6 (8 + j)) = plainRead s.t (BitVec.ofNat 6 (8 + j)))
      ∧ t.t.globals = s.t.globals ∧ sameSpecial s t ∧ sameTiles s t ∧ sameMask s t ∧ sameBytes s t ∧ sameDevice s t := by
  have hframe : s.t.frame = f := by rw [Task.frame, h]; rfl
  have hlen : s.t.frames.length ≤ 64 := by rw [h, List.length_cons]; exact hl
  have hq : s.t.resident + (k.toNat - s.t.frame.size) ≤ 128 := by
    unfold Task.resident at hres ⊢
    omega
  have hfor := spillFor_fits (fuel := 64) (s := advanced s s) (size := k.toNat) (extra := 0) (frames := 0) ⟨hfit, hlen⟩
  obtain ⟨s2, w, t, ht, he, hc⟩ := exec_enter_completes (sw := sw) hs h8 h48 (.inl hq) hfor hs.awake
  have hframes := he.frames hc
  have hbase : (advanced s s).t.frame = f := hframe
  have hdrop : (advanced s s).t.frames.drop 1 = rest := by rw [show (advanced s s).t.frames = f :: rest from h]; rfl
  refine ⟨t, ht, he.pc hc, by rw [hframes, hbase, hdrop], fun j hj hjk => ?_, fun j hj hjk => ?_, he.globals hc, ?_, ?_, ?_,
    fun a => readByte_congr (he.mem hc) a, ?_⟩
  · rw [he.read hc (by omega)]
    exact he.zero j (by rw [hbase]; exact hj) hjk
  · rw [he.read hc (by omega), plainRead_windowed _ (by omega)]
    exact he.kept j (by rw [hbase]; exact hj) hjk
  · have h' := hc.special; rw [he.eq] at h'; exact h'
  · have h' := hc.tiles; rw [he.eq] at h'; exact h'
  · have h' := hc.mask; rw [he.eq] at h'; exact h'
  · have h' := hc.same; rw [he.eq] at h'; exact h'

section
variable {k : BitVec 6} {sw : Bool} {f g : Frame} {rest : List Frame} {s : State} (hs : Calm s) (h8 : 8 ≤ k.toNat) (h48 : k.toNat ≤ 48)
  (hrev : s.t.frames.reverse = f :: g :: rest) (hover : 128 < spanBelow s.t.frames + k.toNat) (hblock : spillBlocked s = false)
include hs h8 h48 hrev hover hblock

theorem exec_enter_spills (hl : s.t.frames.length ≤ 64) (hf : f.size ≤ 48) (hfit : spanBelow s.t.frames.dropLast + k.toNat ≤ 128)
    (hsz : s.t.frame.size ≤ k.toNat) (hroom : s.t.spillPtr + 8 * (entriesUp f.base g.base + 1) ≤ s.t.spillLimit) :
    ∃ t, exec (.enter k sw) s = .next t ∧ t.t.pc = s.t.pc + 4 ∧ spilledOldest s t f g ∧ t.t.globals = s.t.globals
      ∧ t.t.frames = { s.t.frame with size := k.toNat } :: s.t.frames.dropLast.drop 1
      ∧ (∀ j : Nat, s.t.frame.size ≤ j → j < k.toNat → plainRead t.t (BitVec.ofNat 6 (8 + j)) = 0)
      ∧ (∀ j : Nat, j < s.t.frame.size → plainRead t.t (BitVec.ofNat 6 (8 + j)) = plainRead s.t (BitVec.ofNat 6 (8 + j))) := by
  obtain ⟨s1, h1, hsp⟩ := spillOldest_some (s := advanced s s) hrev hroom hs.awake
  obtain ⟨more, hmore⟩ := frames_of_reverse hrev
  have ht1 : s1.t = spillTask (advanced s s).t f g := by rw [State.t, hsp.slot]
  have hframes1 : s1.t.frames = s.t.frames.dropLast := by rw [ht1]; rfl
  have hframe1 : s1.t.frame = s.t.frame := by rw [Task.frame, hframes1, hmore]; rfl
  have hno : ¬ (spanBelow (advanced s s).t.frames + k.toNat + 0 ≤ 128 ∧ (advanced s s).t.frames.length + 0 ≤ 64) :=
    fun hfits => absurd hfits.1 (Nat.not_le.2 hover)
  have hfor := spillFor_one (fuel := 63) hno h1
    ⟨by rw [hframes1]; exact hfit, by rw [hframes1, List.length_dropLast]; omega⟩
  obtain ⟨s2, w, t, ht, he, hc⟩ := exec_enter_completes (sw := sw) hs h8 h48 (.inr (spillQuiet_calm hs hblock)) hfor (by rw [ht1]; exact hs.awake)
  have hmem := (he.mem hc).trans (hsp.mem.trans (writeWords_mem (s := advanced s s) (t := s) rfl _ _))
  refine ⟨t, ht, ?_, spilledOldest_of hf hroom hmem ?_ ?_, ?_, ?_, fun j hj hjk => ?_, fun j hj => ?_⟩
  · rw [he.pc hc, ht1]; rfl
  · rw [he.spilled hc, ht1]; rfl
  · rw [he.spillp hc, ht1]; rfl
  · rw [he.globals hc, ht1]; rfl
  · rw [he.frames hc, hframe1, hframes1]
  · rw [he.read hc (by omega)]
    exact he.zero j (by rw [hframe1]; exact hj) hjk
  · have hwin : s1.t.win = s.t.win := by rw [ht1]; rfl
    rw [he.read hc (by omega), plainRead_windowed _ (by omega), he.kept j (by rw [hframe1]; exact hj) (by omega), hframe1, hwin]

theorem exec_enter_full (hfull : s.t.spillLimit < s.t.spillPtr + 8 * (entriesUp f.base g.base + 1)) :
    exec (.enter k sw) s = trapped s .stack 0 := by
  have hno : ¬ (spanBelow (advanced s s).t.frames + k.toNat + 0 ≤ 128 ∧ (advanced s s).t.frames.length + 0 ≤ 64) :=
    fun hfits => absurd hfits.1 (Nat.not_le.2 hover)
  have hnone : enterFrame (advanced s s) k.toNat = none := by
    unfold enterFrame
    rw [spillFor_none hno (spillOldest_none (s := advanced s s) hrev hfull)]
  rw [exec_enter]
  exact control_traps (control_issues (i := .enter k sw) hs (frameSizeOk_of h8 h48)) rfl
    (enter_full (s := advanced s s) hs.none_pending (spillQuiet_calm hs hblock) hnone)

end

/-! ## SHRINK -/

theorem shrinkFrame_eq {t : Task} {f : Frame} {rest : List Frame} (h : t.frames = f :: rest) (k : Nat) :
    shrinkFrame t k = { t with frames := { f with size := min k f.size } :: rest } := by
  have hframe : t.frame = f := by rw [Task.frame, h]; rfl
  unfold shrinkFrame
  rw [hframe, h]
  split
  · next hlt => rw [Nat.min_eq_left (Nat.le_of_lt hlt)]; rfl
  · next hge => rw [Nat.min_eq_right (Nat.not_lt.1 hge), ← h]

theorem exec_shrink_completes {k : BitVec 6} {sw : Bool} {f : Frame} {rest : List Frame} {s : State} (hs : Calm s) (h8 : 8 ≤ k.toNat)
    (h48 : k.toNat ≤ 48) (h : s.t.frames = f :: rest) :
    ∃ t, exec (.shrink k sw) s = .next t ∧ t.t.pc = s.t.pc + 4 ∧ t.t.frames = { f with size := min k.toNat f.size } :: rest
      ∧ t.t.win = s.t.win ∧ t.t.globals = s.t.globals ∧ sameSpecial s t ∧ sameTiles s t ∧ sameMask s t ∧ sameBytes s t
      ∧ sameDevice s t := by
  have hb : (Except.ok ((advanced s s).setT (shrinkFrame (advanced s s).t k.toNat)) : Eff) =
      .ok ((advanced s s).setT { (advanced s s).t with frames := { f with size := min k.toNat f.size } :: rest }) := by
    rw [shrinkFrame_eq (t := (advanced s s).t) h]
  obtain ⟨t, ht, hc⟩ := issue_completed (sw := sw) (body := fun _ a => .ok (a.setT (shrinkFrame a.t k.toNat))) hs
    (control_issues (i := .shrink k sw) hs (frameSizeOk_of h8 h48)) rfl rfl hb hs.awake
  exact ⟨t, (exec_shrink k sw s).trans ht, hc.pc, hc.frames, hc.win, hc.globals, hc.special, hc.tiles, hc.mask,
    fun a => readByte_congr hc.mem a, hc.same⟩

/-! ## The obligation -/

/-- Settles O6: each clause is what one instruction makes of the window stack, with at most one spill or fill, and its completion. -/
theorem callsAndReturnsMoveFrames : Obligations.CallsAndReturnsMoveFrames := by
  refine ⟨fun i rs target s h hs hr _ hsz hsz' hres hl hd => exec_call_resident h hs hr hsz hsz' hres hl hd,
    fun i rs target f g rest s h hs hr hrev hl hf hfit hd hb =>
      ⟨exec_call_spills h hs hr hrev hl hf hfit hd hb, exec_call_full h hs hr hrev hl hd hb⟩,
    ⟨fun sw f g rest s hs h hk => exec_ret_resident hs h hk,
      fun sw f s hs h hk hb hd => ⟨exec_ret_malformed rfl hs h hk hb, exec_ret_fills rfl rfl hs h hk hb hd⟩,
      fun sw s hs hk => exec_ret_no_call hs hk⟩,
    fun k sw f rest s hs h8 h48 h _ hl hres hfit => exec_enter_resident hs h8 h48 h hl hres hfit,
    fun k sw f g rest s hs h8 h48 hrev hl hf _ hover hfit hsz hb =>
      ⟨exec_enter_spills hs h8 h48 hrev hover hb hl hf hfit hsz, exec_enter_full hs h8 h48 hrev hover hb⟩,
    fun k sw f rest s hs h8 h48 h => exec_shrink_completes hs h8 h48 h⟩

end Sys2Proof.Machine
end

section
/-! What reset leaves (R69, R71, R72, R75, R143, R181, R297). -/
namespace Sys2Proof.Machine

theorem slotAt_reset (n : Nat) : (State.reset).slotAt n = Slot.reset := by
  unfold State.slotAt
  split <;> rfl

theorem accOf_reset (c i : Nat) : (accOf ((State.reset).clusterAt c) i).owner = none ∧ (accOf ((State.reset).clusterAt c) i).valid = false := by
  unfold accOf
  split <;> exact ⟨rfl, rfl⟩

theorem getElem!_replicate_zero (k i : Nat) : (Vector.replicate k (0 : Word))[i]! = 0 := by
  by_cases h : i < k
  · simp [getElem!_pos, h]
  · simp [h]
    rfl

/-- Every code of a task at reset reads zero. -/
theorem plainRead_reset (r : Reg) : plainRead Task.reset r = 0 := by
  obtain h | ⟨h, h7⟩ | ⟨h, h56⟩ | h :
      r.toNat = 0 ∨ (0 < r.toNat ∧ r.toNat < 8) ∨ (8 ≤ r.toNat ∧ r.toNat < 56) ∨ 56 ≤ r.toNat := by omega
  · exact plainRead_zero _ _ h
  · rw [plainRead_glob _ _ h h7]
    exact getElem!_replicate_zero 7 _
  · rw [plainRead_win _ _ h h56]
    exact getElem!_replicate_zero 128 _
  · rw [plainRead_high _ _ h]
    unfold streamOf
    split
    · split <;> rfl
    · rfl

/-- Settles O60: every part of the reset state is its reset value, since its maps are empty. -/
theorem resetState : Obligations.ResetState := by
  refine ⟨fun n => ?_, rfl, rfl, rfl, rfl, rfl, rfl, fun _ => rfl, plainRead_reset, fun _ => ⟨rfl, rfl⟩, fun _ => ⟨rfl, rfl⟩,
    accOf_reset, fun _ _ => ⟨rfl, rfl⟩, rfl, rfl⟩
  rw [slotAt_reset]
  exact ⟨rfl, rfl⟩

end Sys2Proof.Machine
end
section
/-! Words of the reference chapters (R87 to R98, R101). -/
namespace Sys2Proof.Machine

/-- Settles O55, by evaluation of the decoder on each word. -/
theorem printedWordsDecode : Obligations.PrintedWordsDecode := by
  unfold Obligations.PrintedWordsDecode
  decide

end Sys2Proof.Machine
end

section
/-! What the shared operations of a home and of a core leave alone: reads at an address, the checks of watches and gates after a write, and
the choice of the slot in force. -/
namespace Sys2Proof.Machine

/-! ## Reads -/

/-- A cluster without the lines of its read-only cache (R142). -/
def uncached (k : Cluster) : Cluster := { k with rolines := [] }

/-- t is s after reads: translations, errors met and lines of read-only caches may have come, and nothing else has changed. -/
structure Peeked (s t : State) : Prop where
  device : t = { s with tlb := t.tlb, faint := t.faint, errors := t.errors, flaws := t.flaws, clusters := t.clusters }
  clusters : ∀ c, uncached (t.clusterAt c) = uncached (s.clusterAt c)

theorem Peeked.refl (s : State) : Peeked s s := ⟨rfl, fun _ => rfl⟩

theorem Peeked.trans {s t u : State} (h : Peeked s t) (h' : Peeked t u) : Peeked s u := by
  refine ⟨?_, fun c => (h'.clusters c).trans (h.clusters c)⟩
  have hd := h'.device
  rw [h.device] at hd
  exact hd

section
variable {s t : State} (h : Peeked s t)
include h

theorem Peeked.slot : t.slot = s.slot := by rw [h.device]
theorem Peeked.cur : t.cur = s.cur := by rw [h.device]
theorem Peeked.mem : t.mem = s.mem := by rw [h.device]
theorem Peeked.dies : t.dies = s.dies := by rw [h.device]
theorem Peeked.cores : t.cores = s.cores := by rw [h.device]
theorem Peeked.inflight : t.inflight = s.inflight := by rw [h.device]
theorem Peeked.task : t.t = s.t := by rw [State.t, h.slot]
theorem Peeked.core : t.core = s.core := by rw [State.core, h.cur]; rfl
theorem Peeked.die : t.die = s.die := by rw [State.die, h.cur]; rfl
theorem Peeked.cluster : t.cluster = s.cluster := by rw [State.cluster, h.cur]; rfl
theorem Peeked.coreAt (c : Nat) : t.coreAt c = s.coreAt c := by rw [State.coreAt, h.cores]; rfl
theorem Peeked.dieAt (d : Nat) : t.dieAt d = s.dieAt d := by rw [State.dieAt, h.dies]; rfl
theorem Peeked.asker : t.asker = s.asker := by rw [State.asker, h.core, h.task]; rfl
theorem Peeked.gates (c : Nat) : (t.clusterAt c).gates = (s.clusterAt c).gates := by
  have hg : (uncached (t.clusterAt c)).gates = (uncached (s.clusterAt c)).gates := by rw [h.clusters]
  exact hg

/-- What would hold up a request is as it was. -/
theorem Peeked.requestBlocked (pa n : Nat) : requestBlocked t pa n = requestBlocked s pa n := by rw [h.device]; rfl

end

theorem noteRead_peeked (s : State) (f : Nat → EccEvent) (a n : Nat) : Peeked s (noteRead s f a n) := ⟨rfl, fun _ => rfl⟩

theorem foldl_noteRead_peeked {α : Type} (f : α → Nat → EccEvent) (a n : α → Nat) (l : List α) (s : State) :
    Peeked s (l.foldl (fun s x => noteRead s (f x) (a x) (n x)) s) := by
  induction l generalizing s with
  | nil => exact .refl s
  | cons x l ih => exact (noteRead_peeked s (f x) (a x) (n x)).trans (ih _)

theorem noteWalk_peeked (s : State) (core ctx va : Nat) : Peeked s (noteWalk s core ctx va) := by
  unfold noteWalk
  dsimp only
  split
  · exact .refl s
  · exact foldl_noteRead_peeked _ _ _ _ _

theorem translate_peeked {s s' : State} {core ctx va pa fl : Nat} (h : translate s core ctx va = some (s', pa, fl)) : Peeked s s' := by
  unfold translate at h
  dsimp only at h
  split at h
  · exact absurd h nofun
  · next a e hfound =>
    have ha : Peeked s a := by
      split at hfound
      · injection hfound with hfound; injection hfound with ha _; rw [← ha]; exact ⟨rfl, fun _ => rfl⟩
      · next w _ =>
        obtain ⟨e', _, hx⟩ := Option.map_eq_some_iff.1 hfound
        injection hx with ha _
        rw [← ha]
        exact Peeked.trans (t := { s with tlb := fillTlbs s.tlb core e' }) ⟨rfl, fun _ => rfl⟩ (noteWalk_peeked _ _ _ _)
    split at h
    · injection h with h; injection h with hs _; rw [← hs]; exact ha
    · exact absurd h nofun

theorem translateFor_peeked {s s' : State} {who : Asker} {va pa fl : Nat} {w : Bool} (h : translateFor s who va w = .ok (s', pa, fl)) :
    Peeked s s' := by
  unfold translateFor at h
  split at h
  · exact absurd h nofun
  · next htr =>
    split at h
    · exact absurd h nofun
    · injection h with h; injection h with hs _; rw [← hs]; exact translate_peeked htr

/-- The checks of an address read the page tables and fill the TLBs, and that is all (R133, R149). -/
theorem locate_peeked {s s' : State} {who : Asker} {k : Access} {a : Word} {size align : Nat} {sc : Option (BitVec 2)} {q : BitVec 2}
    {p : Place} (h : locate s who k a size align sc q = .ok (s', p)) : Peeked s s' := by
  unfold locate at h
  split at h
  · exact absurd h nofun
  split at h
  · exact absurd h nofun
  split at h
  · exact absurd h nofun
  split at h
  · injection h with h; injection h with hs _; rw [← hs]; exact .refl s
  split at h
  case h_1 | h_2 | h_3 =>
    split at h
    · exact absurd h nofun
    · next htr => injection h with h; injection h with hs _; rw [← hs]; exact translateFor_peeked htr
  all_goals injection h with h; injection h with hs _; rw [← hs]; exact .refl s

theorem roRead_peeked (s : State) (cluster ctx va pa n : Nat) : Peeked s (roRead s cluster ctx va pa n).1 := by
  unfold roRead roLine
  dsimp only
  split
  · dsimp only
    unfold useFlaw
    split
    · exact ⟨rfl, fun _ => rfl⟩
    · exact .refl s
  · refine ⟨rfl, fun c => ?_⟩
    dsimp only
    rw [State.clusterAt_setCluster]
    split
    · next hc => rw [hc]; rfl
    · rfl

theorem readPlace_peeked {s s' : State} {p : Place} {a : Word} {size v : Nat} (h : readPlace s p a size = .ok (s', v)) : Peeked s s' := by
  unfold readPlace at h
  split at h
  · split at h
    · exact absurd h nofun
    · injection h with h; injection h with hs _; rw [← hs]; exact noteRead_peeked _ _ _ _
  · next va pa =>
    split at h
    · exact absurd h nofun
    · injection h with h; have hp := roRead_peeked s s.cluster s.asker.ctx va pa size; rw [h] at hp; exact hp
  · split at h
    · exact absurd h nofun
    · injection h with h; injection h with hs _; rw [← hs]; exact .refl s
  · dsimp only at h
    split at h
    · exact absurd h nofun
    split at h
    · injection h with h; injection h with hs _; rw [← hs]; exact .refl s
    · split at h <;> exact absurd h nofun

theorem readAtIssue_peeked {s s' : State} {k : Access} {a : Word} {size align v : Nat} (h : readAtIssue s k a size align = .ok (s', v)) :
    Peeked s s' := by
  unfold readAtIssue at h
  split at h
  · exact absurd h nofun
  · next hl =>
    split at h
    · exact absurd h nofun
    · exact (locate_peeked hl).trans (readPlace_peeked h)

/-! ## The slots, and the one in force -/

theorem slotAt_cur (s : State) : s.slotAt s.cur = s.slot := if_pos rfl

theorem slotAt_updSlot (s : State) (n m : Nat) (f : Slot → Slot) :
    (s.updSlot n f).slotAt m = if m = n then f (s.slotAt n) else s.slotAt m := State.slotAt_setSlot s n m _

theorem updSlot_device (s : State) (n : Nat) (f : Slot → Slot) :
    s.updSlot n f = { s with slot := (s.updSlot n f).slot, others := (s.updSlot n f).others } := by
  unfold State.updSlot State.setSlot
  split <;> rfl

@[simp] theorem updSlot_mem (s : State) (n : Nat) (f : Slot → Slot) : (s.updSlot n f).mem = s.mem := by rw [updSlot_device]
@[simp] theorem updSlot_cur (s : State) (n : Nat) (f : Slot → Slot) : (s.updSlot n f).cur = s.cur := by rw [updSlot_device]

theorem updSlot_dieAt (s : State) (n : Nat) (f : Slot → Slot) (d : Nat) : (s.updSlot n f).dieAt d = s.dieAt d := by
  rw [updSlot_device]
  rfl

/-- The slot in force is the slot of its number. -/
theorem slot_eq_of_slotAt {s t : State} (hc : t.cur = s.cur) (h : t.slotAt s.cur = s.slotAt s.cur) : t.slot = s.slot := by
  have ht := slotAt_cur t
  rw [hc, h, slotAt_cur] at ht
  exact ht.symm

/-- Which slot is in force matters to no slot's state. -/
@[simp] theorem slotAt_makeHot (s : State) (n m : Nat) : (s.makeHot n).slotAt m = s.slotAt m := by
  unfold State.makeHot
  split
  · rfl
  · next hn =>
    unfold State.slotAt
    dsimp only
    by_cases hm : m = n
    · rw [if_pos hm, if_neg (hm ▸ hn), hm]
    · rw [if_neg hm, SMap.get_erase, if_neg hm, SMap.get_set]

theorem makeHot_device (s : State) (n : Nat) :
    s.makeHot n = { s with cur := n, slot := (s.makeHot n).slot, others := (s.makeHot n).others } := by
  unfold State.makeHot
  split
  · next h => rw [h]
  · rfl

@[simp] theorem makeHot_mem (s : State) (n : Nat) : (s.makeHot n).mem = s.mem := by rw [makeHot_device]
@[simp] theorem makeHot_cur (s : State) (n : Nat) : (s.makeHot n).cur = n := by rw [makeHot_device]
@[simp] theorem makeHot_slot (s : State) (n : Nat) : (s.makeHot n).slot = s.slotAt n := by
  have h := slotAt_cur (s.makeHot n)
  rw [makeHot_cur, slotAt_makeHot] at h
  exact h.symm

theorem slotAt_setT_cur (s : State) (t : Task) : (s.setT t).slotAt s.cur = { s.slot with t := t } := if_pos rfl

theorem slotAt_setT_other {s : State} (t : Task) {n : Nat} (h : n ≠ s.cur) : (s.setT t).slotAt n = s.slotAt n :=
  (if_neg h).trans (if_neg h).symm

/-- An operation on the slot of a number is seen there. -/
theorem withSlot_slotAt (s : State) (n : Nat) (f : State → State) (m : Nat) : (withSlot s n f).slotAt m = (f (s.makeHot n)).slotAt m :=
  slotAt_makeHot _ _ _

/-- An operation that leaves its slot in force is seen in that slot. -/
theorem withSlot_slot {s : State} {n : Nat} {f : State → State} (h : (f (s.makeHot n)).cur = n) :
    (withSlot s n f).slotAt n = (f (s.makeHot n)).slot := by
  rw [withSlot_slotAt, ← slotAt_cur, h]

theorem withSlot_mem (s : State) (n : Nat) (f : State → State) : (withSlot s n f).mem = (f (s.makeHot n)).mem := makeHot_mem _ _

/-! ## What a home does after a write (R118, R130) -/

/-- t is s but for waits that are met, gates that have fired, and watches of other devices that have been answered. -/
structure Woken (s t : State) : Prop where
  device : t = { s with
    slot := t.slot, others := t.others, clusters := t.clusters, inflight := t.inflight, farWatches := t.farWatches, answered := t.answered }
  slots : ∀ n, ∃ wt met, t.slotAt n = { s.slotAt n with t := { (s.slotAt n).t with wait := wt, met := met } }
  idle : ∀ n, (s.slotAt n).t.wait = none → t.slotAt n = s.slotAt n

theorem Woken.refl (s : State) : Woken s s := ⟨rfl, fun _ => ⟨_, _, rfl⟩, fun _ _ => rfl⟩

theorem Woken.trans {s t u : State} (h : Woken s t) (h' : Woken t u) : Woken s u := by
  refine ⟨?_, fun n => ?_, fun n hn => ?_⟩
  · have hd := h'.device
    rw [h.device] at hd
    exact hd
  · obtain ⟨_, _, h1⟩ := h.slots n
    obtain ⟨wt, met, h2⟩ := h'.slots n
    exact ⟨wt, met, by rw [h2, h1]⟩
  · have h1 := h.idle n hn
    rw [h'.idle n (by rw [h1]; exact hn), h1]

theorem foldl_woken {α : Type} {f : State → α → State} (hf : ∀ s x, Woken s (f s x)) (l : List α) (s : State) : Woken s (l.foldl f s) := by
  induction l generalizing s with
  | nil => exact .refl s
  | cons x l ih => exact (hf s x).trans (ih _)

theorem fireWatches_woken (s : State) : Woken s (fireWatches s) := by
  refine foldl_woken (fun a w => ?_) s.watches s
  dsimp only
  split
  · next k hk =>
    split
    · refine ⟨?_, fun n => ?_, fun n hn => ?_⟩
      · rw [State.updTaskOf, updSlot_device]
      · rw [State.updTaskOf, slotAt_updSlot]
        split
        · next he => exact ⟨_, _, by rw [he]⟩
        · exact ⟨_, _, rfl⟩
      · have hne : n ≠ w.slot := fun he => by subst he; exact absurd (hk.symm.trans hn) nofun
        rw [State.updTaskOf, slotAt_updSlot, if_neg hne]
    · exact .refl a
  · exact .refl a

theorem answerFarCounters_woken (s : State) : Woken s (answerFarCounters s) := by
  unfold answerFarCounters
  dsimp only
  split
  · exact ⟨rfl, fun _ => ⟨_, _, rfl⟩, fun _ _ => rfl⟩
  · exact .refl s

theorem fireGates_woken (s : State) : Woken s (fireGates s) := by
  refine foldl_woken (fun a c => ?_) _ s
  unfold fireGatesOf
  dsimp only
  split
  · exact .refl a
  · split
    · exact .refl a
    · exact ⟨rfl, fun _ => ⟨_, _, rfl⟩, fun _ _ => rfl⟩

theorem afterWrite_woken (s : State) : Woken s (afterWrite s) :=
  (fireWatches_woken s).trans ((answerFarCounters_woken _).trans (fireGates_woken _))

section
variable {s t : State} (h : Woken s t)
include h

theorem Woken.mem : t.mem = s.mem := by rw [h.device]
theorem Woken.cur : t.cur = s.cur := by rw [h.device]
theorem Woken.cores : t.cores = s.cores := by rw [h.device]
theorem Woken.dies : t.dies = s.dies := by rw [h.device]
theorem Woken.coreAt (c : Nat) : t.coreAt c = s.coreAt c := by rw [State.coreAt, h.cores]; rfl
theorem Woken.dieAt (d : Nat) : t.dieAt d = s.dieAt d := by rw [State.dieAt, h.dies]; rfl

/-- A slot in force that waits for nothing stays as it is. -/
theorem Woken.slot (hw : s.t.wait = none) : t.slot = s.slot :=
  slot_eq_of_slotAt h.cur (h.idle s.cur (by rw [slotAt_cur]; exact hw))

end

/-! ## Words written -/

theorem writeBytes_mem_only (s : State) (a n : Nat) (bs : List Byte) :
    writeBytes (healWords s a n) a bs = { s with
      mem := (writeBytes (healWords s a n) a bs).mem, faint := (healWords s a n).faint, spoiled := (healWords s a n).spoiled } := by
  rw [writeBytes_other]
  rfl

theorem writeWords_mem_only (s : State) (a : Nat) (ws : List Word) : writeWords s a ws =
    { s with mem := (writeWords s a ws).mem, faint := (healWords s a (8 * ws.length)).faint, spoiled := (healWords s a (8 * ws.length)).spoiled } :=
  writeBytes_mem_only s a _ _

theorem readWords_length (s : State) (a n : Nat) : (readWords s a n).length = n := by
  induction n generalizing a with
  | zero => rfl
  | succ n ih => rw [readWords, List.length_cons, ih]

theorem getElem_readWords (s : State) (a n : Nat) {i : Nat} (h : i < (readWords s a n).length) :
    (readWords s a n)[i] = readWord s (a + 8 * i) := by
  induction n generalizing a i with
  | zero => simp [readWords] at h
  | succ n ih =>
    cases i with
    | zero => rfl
    | succ i =>
      have hi : i < (readWords s (a + 8) n).length := by rw [readWords, List.length_cons] at h; omega
      have ha : a + 8 * (i + 1) = a + 8 + 8 * i := by omega
      rw [ha, ← ih (a + 8) hi]
      rfl

theorem readWords_congr {s t : State} (h : t.mem = s.mem) (a n : Nat) : readWords t a n = readWords s a n := by
  induction n generalizing a with
  | zero => rfl
  | succ n ih => rw [readWords, readWords, ih, readWord_congr h]

/-- Words written read back. -/
theorem readWords_writeWords (s : State) (a : Nat) (ws : List Word) : readWords (writeWords s a ws) a ws.length = ws := by
  refine List.ext_getElem (readWords_length _ _ _) fun i h1 h2 => ?_
  rw [getElem_readWords, readWord_writeWords s a ws h2]

/-! ## Completion without a strand -/

/-- A slot that follows none and forwards to none completes its instruction: a marked one may park on its outstanding results (R86, R121). -/
theorem complete_unforwarded {s0 s : State} (word : IWord) (sw : Bool) {u : Use} (hl : s0.t.follows = false)
    (hf : (forwardTo s0.t).filter (fun n => s.t.followers.contains n) = []) (hr : u.ret = false) (hk : u.keepPfx = false) :
    Completed s (complete word sw u s0 s)
      ∧ ((complete word sw u s0 s).t.wait = s.t.wait ∨ s.t.wait = none ∧ (complete word sw u s0 s).t.wait = some .marker) := by
  unfold complete
  simp only [hf, hl, hr, hk, forward, List.foldl_nil, Bool.false_and, Bool.or_false, Bool.false_eq_true, if_false]
  split
  · next h =>
    simp only [Bool.and_eq_true, Option.isNone_iff_eq_none] at h
    obtain ⟨_, hw⟩ := h
    exact ⟨⟨⟨_, rfl⟩, ⟨_, rfl⟩, rfl, fun _ => rfl⟩, .inr ⟨hw, rfl⟩⟩
  · exact ⟨⟨⟨_, rfl⟩, ⟨_, rfl⟩, rfl, fun _ => rfl⟩, .inl rfl⟩

end Sys2Proof.Machine
end

section
/-! The step of a slot that issues: the fetch of its word, and what the read-only cache gives it (R103, R121, R142, R148). -/
namespace Sys2Proof.Machine

/-! ## Runs of bytes as numbers -/

theorem natOf_append (xs ys : List Byte) : natOf (xs ++ ys) = natOf xs + 256 ^ xs.length * natOf ys := by
  induction xs with
  | nil => simp [natOf]
  | cons x xs ih => rw [List.cons_append, natOf, ih, natOf, List.length_cons, Nat.pow_succ]; ring

theorem readBytes_append (s : State) (a n m : Nat) : readBytes s a (n + m) = readBytes s a n ++ readBytes s (a + n) m := by
  induction n generalizing a with
  | zero => simp [readBytes]
  | succ n ih => rw [Nat.add_right_comm, readBytes, ih, readBytes, List.cons_append, Nat.add_assoc, Nat.add_comm 1]

theorem readNat_append (s : State) (a n m : Nat) : readNat s a (n + m) = readNat s a n + 256 ^ n * readNat s (a + n) m := by
  rw [readNat, readBytes_append, natOf_append, readBytes_length]
  rfl

theorem readNat_lt (s : State) (a n : Nat) : readNat s a n < 256 ^ n := by
  have h := natOf_lt (readBytes s a n)
  rwa [readBytes_length] at h

/-- The bytes in the middle of a run (R6). -/
theorem readNat_middle (s : State) (a k m r : Nat) : readNat s a (k + (m + r)) / 256 ^ k % 256 ^ m = readNat s (a + k) m := by
  rw [readNat_append, Nat.add_mul_div_left _ _ (Nat.pow_pos (by decide)), Nat.div_eq_of_lt (readNat_lt s a k), Nat.zero_add, readNat_append,
    Nat.add_mul_mod_self_left, Nat.mod_eq_of_lt (readNat_lt s _ m)]

theorem readNat_congr {s t : State} (h : t.mem = s.mem) (a n : Nat) : readNat t a n = readNat s a n := by
  rw [readNat, readBytes_eq t s a n fun b _ _ => readByte_congr h b]
  rfl

theorem wordOfBytes_eq (b0 b1 b2 b3 : Byte) : wordOfBytes b0 b1 b2 b3 = BitVec.ofNat 32 (natOf [b0, b1, b2, b3]) := by
  apply BitVec.eq_of_toNat_eq
  have h0 := b0.isLt
  have h1 := b1.isLt
  have h2 := b2.isLt
  have h3 := b3.isLt
  rw [wordOfBytes, BitVec.toNat_append, BitVec.toNat_append, BitVec.toNat_append, BitVec.toNat_ofNat,
    ← Nat.shiftLeft_add_eq_or_of_lt h2, ← Nat.shiftLeft_add_eq_or_of_lt h1, ← Nat.shiftLeft_add_eq_or_of_lt h0]
  simp only [natOf, Nat.shiftLeft_eq]
  omega

/-- What four bytes of memory decode to is what their word decodes to. -/
theorem decode_readBytes {s : State} {a : Nat} {i : Instr} {rest : List Byte} (h : decode (readBytes s a 4) = .ok (i, rest)) :
    decodeWord (BitVec.ofNat 32 (readNat s a 4)) = .ok i := by
  have hw : BitVec.ofNat 32 (readNat s a 4) =
      wordOfBytes (readByte s a) (readByte s (a + 1)) (readByte s (a + 1 + 1)) (readByte s (a + 1 + 1 + 1)) := (wordOfBytes_eq _ _ _ _).symm
  rw [hw]
  simp only [readBytes, decode] at h
  split at h
  · next j hj =>
    injection h with h
    injection h with h _
    exact h ▸ hj
  · exact absurd h nofun

/-! ## What changes no byte -/

theorem fetchPlace_peeked {s s' : State} {who : Asker} {pc : Pc} {pa : Nat} (h : fetchPlace s who pc = .ok (s', pa)) : Peeked s s' := by
  unfold fetchPlace at h
  split at h
  · exact absurd h nofun
  · split at h
    · exact absurd h nofun
    · next htr =>
      split at h
      · exact absurd h nofun
      · injection h with h; injection h with hs _; rw [← hs]; exact translate_peeked htr

@[simp] theorem holdTimers_mem (s : State) (ns : Nat) : (holdTimers s ns).mem = s.mem := by
  unfold holdTimers
  split <;> rfl

@[simp] theorem tick_mem (s : State) : (tick s).mem = s.mem := by
  unfold tick holdClocks
  dsimp only
  split <;> simp [mapSlots]

/-! ## The read-only cache -/

/-- A line that is not held comes from memory (R142). -/
theorem roRead_miss {s : State} {cluster ctx va pa n r : Nat} (h : roHit s cluster ctx va = false) (hv : va % 128 = pa % 128)
    (hn : pa % 128 + (n + r) = 128) : (roRead s cluster ctx va pa n).2 = readNat s pa n := by
  have hline : (roLine s cluster ctx va pa).2 = readNat s (pa / 128 * 128) 128 := by
    have hnone : (s.clusterAt cluster).rolines.find? (fun l => l.1 = ctx && l.2.1 = va / 128) = none := by
      rw [List.find?_eq_none]
      simpa [roHit] using h
    unfold roLine
    dsimp only
    rw [hnone]
  have h256 (k : Nat) : 2 ^ (8 * k) = 256 ^ k := Nat.pow_mul 2 8 k
  have hpa : pa / 128 * 128 + pa % 128 = pa := by omega
  have hmid := readNat_middle s (pa / 128 * 128) (pa % 128) n r
  rw [hn, hpa] at hmid
  rw [roRead, hline, hv, h256, h256]
  exact hmid

/-! ## The step -/

theorem useFlaw_none {s : State} {f : Flaw} (c : Nat) (h : s.flaws.contains f = false) : useFlaw s f c = s := by
  rw [useFlaw, h]
  rfl

/-- A running slot that nothing holds up goes on to its next instruction. -/
theorem slotTurn_issues {s : State} (hphase : s.slot.phase = .running) (hheld : slotHeld s s.cur = false) (hhalt : s.slot.haltReq = false)
    (hirq : interruptCause s s.cur = none) (hwait : s.t.wait = none) (hquantum : quantumDue s s.cur = false)
    (hmatch : execMatch s.slot = none) : slotTurn s = issueNext s := by
  unfold slotTurn
  simp only [hphase, hheld, hhalt, hirq, hwait, hquantum, hmatch, reduceCtorEq, decide_false, Bool.or_self, Option.isSome_none,
    Bool.false_eq_true, if_false]

/-- With nothing scheduled on a device that runs, the slot in force has its turn. -/
theorem move_issue {s : State} (hagenda : s.agenda = []) (hboot : s.boot = .ready) (hfatal : s.fatal = none) (hturn : s.turn = .issue) :
    move s = slotTurn { s with turn := .background } := by
  have hrun : (decide (s.boot ≠ .ready) || s.fatal.isSome) = false := by simp [hboot, hfatal]
  unfold move
  rw [hagenda, hrun, hturn]
  rfl

/-- Nothing comes before the next instruction of the slot in force. -/
theorem step_issues {s : State} (h : IssuesNext (tick s)) : step s = issueNext { (tick s) with turn := .background } := by
  obtain ⟨hagenda, hboot, hfatal, hturn, hphase, hheld, hhalt, hirq, hwait, hquantum, hmatch, -⟩ := h
  rw [step, move_issue hagenda hboot hfatal hturn]
  exact slotTurn_issues hphase hheld hhalt hirq hwait hquantum hmatch

theorem runWord_ok {w : IWord} {i : Instr} (h : decodeWord w = .ok i) (s : State) : runWord w s = exec i s := by
  rw [runWord, h]

theorem runWord_error {w : IWord} {e : Reject} (h : decodeWord w = .error e) (s : State) : runWord w s = exec (.illopEncoding w) s := by
  rw [runWord, h]
  rfl

section
variable {s : State} (hf : s.flaws.contains (.slot s.cur) = false) (hl : s.t.leader = none ∨ s.t.handlers ≠ 0)
include hf hl

/-- A slot that follows no leader's stream runs the word that it fetches, or takes the trap of the fetch. -/
theorem issueNext_runs {s1 : State} {w : IWord} (h : fetchWord s = .ok (s1, w)) : issueNext s = runWord w s1 := by
  have hown : ¬ (s.t.leader.isSome && decide (s.t.handlers = 0)) = true := by obtain hl | hl := hl <;> simp [hl]
  unfold issueNext
  dsimp only
  rw [useFlaw_none _ hf, if_neg hown, h]

theorem issueNext_refused {c : Cause} {v : Word} (h : fetchWord s = .error (.trap c v)) : issueNext s = refusedAt s c v := by
  have hown : ¬ (s.t.leader.isSome && decide (s.t.handlers = 0)) = true := by obtain hl | hl := hl <;> simp [hl]
  unfold issueNext
  dsimp only
  rw [useFlaw_none _ hf, if_neg hown, h, refusedAt, trapped]

end

theorem fetchWord_ok {s s1 : State} {pa : Nat} (h : fetchPlace s s.asker s.t.pc = .ok (s1, pa)) (ho : owned s1 pa 4 = false) :
    fetchWord s = .ok ((roRead s1 s1.cluster s1.asker.ctx s.t.pc.toNat pa 4).1,
      BitVec.ofNat 32 (roRead s1 s1.cluster s1.asker.ctx s.t.pc.toNat pa 4).2) := by
  unfold fetchWord
  simp only [h, ho, Bool.false_and, Bool.false_eq_true, if_false]

theorem fetchWord_error {s : State} {c : Cause} (h : fetchPlace s s.asker s.t.pc = .error c) :
    fetchWord s = .error (.trap c (s.t.pc.zeroExtend 64)) := by
  unfold fetchWord
  simp only [h]

/-- A follower runs the oldest word forwarded to it (R121). -/
theorem issueNext_follows {s : State} {f : Fwd} {rest : List Fwd} (hf : s.flaws.contains (.slot s.cur) = false)
    (hl : s.t.leader.isSome = true) (hh : s.t.handlers = 0) (hfwd : s.t.fwd = f :: rest) :
    issueNext s = runWord f.word (s.setT { s.t with pc := f.pc }) := by
  unfold issueNext
  rw [useFlaw_none _ hf]
  simp only [hl, hh, hfwd, decide_true, Bool.and_self, if_true]

/-- Settles O57: the step is the slot's turn, whose fetch gives the word that it runs. -/
theorem stepRunsTheDecodedInstruction : Obligations.StepRunsTheDecodedInstruction := by
  intro s h
  have hstep := step_issues h
  have hflaw : ({ (tick s) with turn := .background } : State).flaws.contains (.slot (tick s).cur) = false := h.no_flaw
  have hmem : ({ (tick s) with turn := .background } : State).mem = s.mem := tick_mem s
  have hcur : ({ (tick s) with turn := .background } : State).cur = (tick s).cur := rfl
  rw [← hcur] at hflaw
  generalize ({ (tick s) with turn := .background } : State) = s1 at hstep hmem hflaw ⊢
  dsimp only
  refine ⟨fun hl => ?_, fun f rest i hl hh hfwd hdec => ?_⟩
  · rw [hstep]
    refine ⟨fun c hc => issueNext_refused hflaw hl (fetchWord_error hc), fun s2 pa hp ho => ?_⟩
    rw [issueNext_runs hflaw hl (fetchWord_ok hp ho)]
    refine ⟨fun i hi => runWord_ok hi _, fun e he => runWord_error he _, fun hmiss halign hline => ?_⟩
    have hval : (roRead s2 s2.cluster s2.asker.ctx s1.t.pc.toNat pa 4).2 = readNat s pa 4 :=
      (roRead_miss (r := 124 - pa % 128) hmiss hline (by omega)).trans (readNat_congr ((fetchPlace_peeked hp).mem.trans hmem) pa 4)
    refine ⟨hval, fun i rest hdec => runWord_ok ?_ _⟩
    rw [hval]
    exact decode_readBytes hdec
  · rw [hstep, issueNext_follows hflaw hl hh hfwd]
    exact runWord_ok hdec _

end Sys2Proof.Machine
end

section
/-! The mask group (R122), and what an inactive slot passes over (R121). -/
namespace Sys2Proof.Machine

/-! ## Records of the trace -/

/-- t is s but for the trace of its cores (R265). -/
structure TraceOnly (s t : State) : Prop where
  device : t = { s with cores := t.cores }
  cores : ∀ c, untraced (t.coreAt c) = untraced (s.coreAt c)

theorem TraceOnly.refl (s : State) : TraceOnly s s := ⟨rfl, fun _ => rfl⟩

theorem trace_traceOnly (s : State) (kind extra : Nat) (addr : Pc) : TraceOnly s (trace s kind extra addr) := by
  refine ⟨rfl, fun c => ?_⟩
  simp only [trace, State.coreAt_setCore]
  split
  · next hc => rw [untraced_traceCore, hc]
  · rfl

theorem traceMask_traceOnly (s0 s : State) (pc : Pc) : TraceOnly s (traceMask s0 s pc) := by
  unfold traceMask
  split
  · exact trace_traceOnly _ _ _ _
  · exact .refl s

/-! ## The instructions -/

theorem exec_mif (ra : Reg) (sw : Bool) (s : State) : exec (.mif ra sw) s =
    issue (.mif ra sw) sw { a := some ra, control := true } (fun v a => pushMask (v.a ≠ 0) s.t.pc a) s := rfl

theorem exec_melse (sw : Bool) (s : State) : exec (.melse sw) s =
    issue (.melse sw) sw { control := true } (fun _ a => flipMask s.t.pc a) s := rfl

theorem exec_mend (sw : Bool) (s : State) : exec (.mend sw) s =
    issue (.mend sw) sw { control := true } (fun _ a => popMask s.t.pc a) s := rfl

/-- A new mask of the slot in force, recorded. -/
def remasked (s : State) (m : List MaskEntry) (active : Bool) (pc : Pc) : State :=
  traceMask s (s.setT { s.t with mask := m, active := active }) pc

theorem pushMask_room {s : State} (cond : Bool) (pc : Pc) (h : s.t.mask.length < 8) :
    pushMask cond pc s = .ok (remasked s ({ parent := s.t.active, cond := cond } :: s.t.mask) (s.t.active && cond) pc) := if_neg (Nat.not_le.2 h)

theorem pushMask_full {s : State} (cond : Bool) (pc : Pc) (h : 8 ≤ s.t.mask.length) : pushMask cond pc s = .error (.trap .stack 0) := if_pos h

theorem flipMask_cons {s : State} {e : MaskEntry} {rest : List MaskEntry} (pc : Pc) (h : s.t.mask = e :: rest) :
    flipMask pc s = .ok (remasked s ({ e with cond := !e.cond } :: rest) (e.parent && !e.cond) pc) := by
  unfold flipMask
  rw [h]
  rfl

theorem flipMask_nil {s : State} (pc : Pc) (h : s.t.mask = []) : flipMask pc s = .error (.trap .stack 0) := by
  unfold flipMask
  rw [h]

theorem popMask_cons {s : State} {e : MaskEntry} {rest : List MaskEntry} (pc : Pc) (h : s.t.mask = e :: rest) :
    popMask pc s = .ok (remasked s rest e.parent pc) := by
  unfold popMask
  rw [h]
  rfl

theorem popMask_nil {s : State} (pc : Pc) (h : s.t.mask = []) : popMask pc s = .error (.trap .stack 0) := by
  unfold popMask
  rw [h]

/-- An instruction that changes the mask changes nothing else but the trace. -/
theorem issue_remasks {i : Instr} {sw : Bool} {u : Use} {s : State} {m : List MaskEntry} {active : Bool} {body : Vals → State → Eff}
    (hs : Calm s) (hi : Issues i u s s (plainVals s.t u)) (hr : u.ret = false) (hk : u.keepPfx = false)
    (hb : body (plainVals s.t u) (advanced s s) = .ok (remasked (advanced s s) m active s.t.pc)) :
    ∃ t, issue i sw u body s = .next t ∧ t.t.pc = s.t.pc + 4 ∧ t.t.mask = m ∧ t.t.active = active ∧ keepsData s t ∧ sameFrames s t
      ∧ sameDeviceTraced s t := by
  obtain ⟨hdev, hcores⟩ := traceMask_traceOnly (advanced s s) ((advanced s s).setT { (advanced s s).t with mask := m, active := active }) s.t.pc
  have htask : (remasked (advanced s s) m active s.t.pc).t = { (advanced s s).t with mask := m, active := active } := by
    rw [remasked, hdev]; rfl
  obtain ⟨t, ht, hc⟩ := issue_completed (sw := sw) hs hi hr hk hb (by rw [htask]; exact hs.awake)
  obtain ⟨hmask, hactive⟩ := hc.mask
  have hspecial := hc.special
  have htiles := hc.tiles
  have hflags := hc.flags
  have hframes := hc.frame
  rw [sameSpecial, htask] at hspecial
  rw [sameTiles, htask] at htiles
  rw [sameFlags, htask] at hflags
  rw [sameFrames, htask] at hframes
  refine ⟨t, ht, by rw [hc.pc, htask]; rfl, by rw [hmask, htask], by rw [hactive, htask],
    ⟨fun r => ?_, hspecial, htiles, hflags, fun a => readByte_congr (hc.mem.trans ?_) a⟩, hframes, hc.traced ?_ hcores⟩
  · rw [hc.codes, htask]
    exact plainRead_congr r rfl rfl rfl rfl rfl
  · rw [remasked, hdev]; rfl
  · rw [remasked, hdev]; rfl

/-! ## An inactive slot -/

/-- An inactive slot with no followers passes over what is no control instruction. -/
theorem issue_inactive {i : Instr} {sw : Bool} {u : Use} {s : State} (body : Vals → State → Eff) (hs : Calm s) (ha : s.t.active = false)
    (hc : u.control = false) (hr : u.ret = false) (hk : u.keepPfx = false) :
    ∃ t, issue i sw u body s = .next t ∧ Completed (advanced s s) t := by
  have hskip : (!s.t.active && !u.control) = true := by simp [ha, hc]
  have hroom : forwardRoom s = true := by simp [forwardRoom, forwardTo, hs.no_followers]
  have hw : (advanced s s).t.wait = none := hs.awake
  refine ⟨_, ?_, conclude_completed hs i.word sw u hr hk hw⟩
  rw [conclude_completes (by simp [hw]) (by simp [hw])]
  unfold issue
  simp only [hskip, hroom, if_true]
  rfl

/-! ## The obligation -/

/-- Settles O7: each mask instruction is one change of the mask, or its trap; a computing instruction of an inactive slot only moves the
PC on. -/
theorem maskGroupKeepsItsStack : Obligations.MaskGroupKeepsItsStack := by
  refine ⟨⟨fun ra sw s hs hra => ?_, fun sw e rest s hs he => ?_, fun sw s hs he => ?_⟩, fun i c s hi ha hs => ?_⟩
  · have hiss : Issues (.mif ra sw) { a := some ra, control := true } s s (plainVals s.t { a := some ra, control := true }) :=
      issues_plain hs (Bool.or_true _) (by simpa [Use.reads] using hra) rfl rfl rfl (by simp)
    rw [exec_mif]
    exact ⟨fun h => issue_remasks hs hiss rfl rfl (pushMask_room (s := advanced s s) _ _ h),
      fun h => control_traps hiss rfl (pushMask_full (s := advanced s s) _ _ h)⟩
  · rw [exec_melse, exec_mend]
    exact ⟨issue_remasks hs (control_issues hs rfl) rfl rfl (flipMask_cons (s := advanced s s) _ he),
      issue_remasks hs (control_issues hs rfl) rfl rfl (popMask_cons (s := advanced s s) _ he)⟩
  · rw [exec_melse, exec_mend]
    exact ⟨control_traps (control_issues hs rfl) rfl (flipMask_nil (s := advanced s s) _ he),
      control_traps (control_issues hs rfl) rfl (popMask_nil (s := advanced s s) _ he)⟩
  · obtain ⟨a, b, x, hu⟩ := computes_use hi
    rw [exec_computes hi]
    obtain ⟨t, ht, hc⟩ := issue_inactive (i := i) (sw := c.sw) (u := c.use) (fun v s1 => putReg s1 c.rd (c.value s.t.pc v)) hs ha
      (by rw [hu]) (by rw [hu]) (by rw [hu])
    exact ⟨t, ht, hc.pc, ⟨fun r => (hc.codes r).trans (plainRead_advanced s r), hc.special, hc.tiles, hc.flags, hc.bytes⟩, hc.mask, hc.frame,
      hc.same⟩

end Sys2Proof.Machine
end

section
/-! The port of a work queue (R105, R128, R274 to R276). -/
namespace Sys2Proof.Machine

/-! ## The queue's state -/

theorem wqAt_setWq (s : State) (die q : Nat) (x : WorkQueue) : wqAt (setWq s die q x) die q = x := by
  simp [wqAt, setWq]

/-- A queue's state does not count the discarded records. -/
theorem discards_setWq (s : State) (die q : Nat) (x : WorkQueue) : ((setWq s die q x).dieAt die).discards = (s.dieAt die).discards := by
  simp [setWq]

theorem wqAt_congr {s t : State} (h : t.dies = s.dies) (die q : Nat) : wqAt t die q = wqAt s die q := by
  rw [wqAt, State.dieAt, h]
  rfl

theorem wqInterrupt_frame (s : State) (x : WorkQueue) :
    wqInterrupt s x = { s with hostIrq := if wqIe x then s.hostIrq ++ [wqVector x] else s.hostIrq } := by
  unfold wqInterrupt
  split <;> rfl

@[simp] theorem wqAt_wqInterrupt (s : State) (x : WorkQueue) (die q : Nat) : wqAt (wqInterrupt s x) die q = wqAt s die q := by
  rw [wqInterrupt_frame]; rfl

@[simp] theorem wqInterrupt_mem (s : State) (x : WorkQueue) : (wqInterrupt s x).mem = s.mem := by rw [wqInterrupt_frame]

@[simp] theorem dieAt_wqInterrupt (s : State) (x : WorkQueue) (die : Nat) : (wqInterrupt s x).dieAt die = s.dieAt die := by
  rw [wqInterrupt_frame]; rfl

/-- A queue that fails halts at its record, and tells the host where ie is set (log 73). -/
theorem wqAt_wqFail (s : State) (die q code : Nat) :
    wqAt (wqFail s die q code) die q = { wqAt s die q with error := true, code := code, firstRead := none } := by
  unfold wqFail
  dsimp only
  rw [wqAt_wqInterrupt, wqAt_setWq]

theorem wqFail_mem (s : State) (die q code : Nat) : (wqFail s die q code).mem = s.mem := by
  unfold wqFail
  dsimp only
  rw [wqInterrupt_mem]
  rfl

theorem wqFail_hostIrq (s : State) (die q code : Nat) :
    (wqFail s die q code).hostIrq = if wqIe (wqAt s die q) then s.hostIrq ++ [wqVector (wqAt s die q)] else s.hostIrq := by
  unfold wqFail
  dsimp only
  rw [wqInterrupt_frame]
  rfl

/-! ## Reads of the port -/

theorem wqPlace_peeked {s s' : State} {die : Nat} {x : WorkQueue} {k : Access} {a : Word} {size align pa : Nat}
    (h : wqPlace s die x k a size align = some (s', pa)) : Peeked s s' := by
  unfold wqPlace at h
  split at h
  · split at h
    · next hl =>
      split at h
      · exact absurd h nofun
      · injection h with h; injection h with hs _; rw [← hs]; exact locate_peeked hl
    · exact absurd h nofun
  · exact absurd h nofun

theorem wqRead_peeked {s s' : State} {die : Nat} {x : WorkQueue} {ws : List Word} {busy : Bool} (h : wqRead s die x = some (s', ws, busy)) :
    Peeked s s' := by
  obtain ⟨⟨s1, pa⟩, hp, hx⟩ := Option.map_eq_some_iff.1 h
  injection hx with hs _
  rw [← hs]
  exact (wqPlace_peeked hp).trans (noteRead_peeked _ _ _ _)

theorem Peeked.wqAt {s t : State} (h : Peeked s t) (die q : Nat) : wqAt t die q = wqAt s die q := wqAt_congr h.dies die q

/-! ## One record -/

/-- What the count of a decided record leaves (R276). -/
structure Counted (s t : State) (die q out : Nat) (r : List Word) : Prop where
  cons : (wqAt t die q).cons = (wqAt s die q).cons + 1
  accepted : (wqAt t die q).accepted = (wqAt s die q).accepted + (if out = 1 then 1 else 0)
  backlog : (wqAt t die q).backlog = (wqAt s die q).backlog ++ (if out = 1 then [r] else [])
  refused : (wqAt t die q).refused = (wqAt s die q).refused + (if out = 1 ∨ out = 5 then 0 else 1)
  discards : (t.dieAt die).discards = (s.dieAt die).discards + (if out = 5 then 1 else 0)
  mem : t.mem = s.mem

theorem wqCount_counted (s : State) (die q out : Nat) (r : List Word) : Counted s (wqCount s die q out r) die q out r := by
  unfold wqCount
  by_cases h1 : out = 1
  · subst h1
    constructor <;> simp [wqAt_setWq, discards_setWq]
    rfl
  · by_cases h5 : out = 5
    · subst h5
      constructor <;> simp [wqAt_setWq, discards_setWq, countDiscard]
      rfl
    · constructor <;> simp [h1, h5, wqAt_setWq, discards_setWq]
      rfl

theorem wqOutcome_invalid {s : State} {die q : Nat} {r : List Word} (h : recordValid r = false) : wqOutcome s die q r = 5 := by
  simp [wqOutcome, h]

theorem wqOutcome_unbound {s : State} {die q : Nat} {r : List Word} (h : recordValid r = true) (hb : wqBinds s die q (recPrio r) = []) :
    wqOutcome s die q r = 2 := by
  simp [wqOutcome, h, hb]

theorem wqOutcome_lt (s : State) (die q : Nat) (r : List Word) : wqOutcome s die q r < 256 := by
  unfold wqOutcome
  split
  · decide
  split
  · decide
  split
  · decide
  split <;> decide

/-! ## The step of the port -/

/-- The record at cons, its lap bit put away (R276). -/
def portRecord (ws : List Word) : List Word := (wordAt ws 0 &&& 0x7FFFFFFFFFFFFFFF) :: ws.drop 1

section
variable {s : State} {die q : Nat} (he : (wqAt s die q).error = false) (hp : (wqAt s die q).prod ≠ (wqAt s die q).cons)
include he hp

theorem wqStep_waits :
    ¬ ((wqAt s die q).error || decide ((wqAt s die q).prod = (wqAt s die q).cons)) = true := by simp [he, hp]

/-- A producer ahead of the ring, or a place that faults, halts the queue. -/
theorem wqStep_fails (h : 2 ^ wqLogN (wqAt s die q) < wqWaiting (wqAt s die q) ∨ wqRead s die (wqAt s die q) = none) :
    wqStep s die q = wqFail s die q (if 2 ^ wqLogN (wqAt s die q) < wqWaiting (wqAt s die q) then 2 else 3) := by
  unfold wqStep
  dsimp only
  rw [if_neg (wqStep_waits he hp)]
  by_cases hn : 2 ^ wqLogN (wqAt s die q) < wqWaiting (wqAt s die q)
  · rw [if_pos hn, if_pos hn]
  · rw [if_neg hn, if_neg hn, h.resolve_left hn]

variable {s1 : State} {ws : List Word} (hn : wqWaiting (wqAt s die q) ≤ 2 ^ wqLogN (wqAt s die q))
include hn

/-- A record that an engine owns, or whose lap bit has not come, is not decided yet; the first read of it may be noted. -/
theorem wqStep_early {busy : Bool} (hr : wqRead s die (wqAt s die q) = some (s1, ws, busy))
    (hb : busy = true ∨ (wordAt ws 0).getLsbD 63 ≠ wqLap (wqAt s die q)) :
    ∃ first, wqAt (wqStep s die q) die q = { wqAt s die q with firstRead := first } ∧ (wqStep s die q).mem = s.mem := by
  have hpk := wqRead_peeked hr
  unfold wqStep
  dsimp only
  rw [if_neg (wqStep_waits he hp), if_neg (Nat.not_lt.2 hn), hr]
  dsimp only
  split
  · exact ⟨_, hpk.wqAt die q, hpk.mem⟩
  · next hbusy =>
    rw [if_pos (hb.resolve_left hbusy)]
    split
    · exact ⟨_, hpk.wqAt die q, hpk.mem⟩
    · exact ⟨_, wqAt_setWq _ _ _ _, hpk.mem⟩

variable (hr : wqRead s die (wqAt s die q) = some (s1, ws, false)) (hl : (wordAt ws 0).getLsbD 63 = wqLap (wqAt s die q))
include hr hl

/-- With no place for outcomes a record is only counted. -/
theorem wqStep_counts (ho : (wqAt s die q).outaddr = 0) :
    wqStep s die q = wqCount s1 die q (wqOutcome s1 die q (portRecord ws)) (portRecord ws) := by
  unfold wqStep
  dsimp only
  rw [if_neg (wqStep_waits he hp), if_neg (Nat.not_lt.2 hn), hr]
  dsimp only
  rw [if_neg Bool.false_ne_true, if_neg (not_not.2 hl), if_pos ho]
  rfl

/-- Otherwise its outcome is stored first. -/
theorem wqStep_stores {s2 : State} {pa : Nat} (ho : (wqAt s die q).outaddr ≠ 0)
    (hpl : wqPlace s1 die (wqAt s die q) .store (wqByte (wqAt s die q)) 1 1 = some (s2, pa)) (hown : owned s2 pa 1 = false) :
    wqStep s die q = wqCount (afterWrite (writeNat s2 pa 1 (wqOutcome s1 die q (portRecord ws)))) die q
      (wqOutcome s1 die q (portRecord ws)) (portRecord ws) := by
  unfold wqStep
  dsimp only
  rw [if_neg (wqStep_waits he hp), if_neg (Nat.not_lt.2 hn), hr]
  dsimp only
  rw [if_neg Bool.false_ne_true, if_neg (not_not.2 hl), if_neg ho, hpl]
  dsimp only
  rw [hown, if_neg Bool.false_ne_true]
  rfl

end

theorem readByte_writeNat_one (s : State) (pa : Nat) {v : Nat} (hv : v < 256) : (readByte (writeNat s pa 1 v) pa).toNat = v := by
  have h := readByte_writeBytes_inside (healWords s pa 1) pa 0 (bytesOf 1 v) (by simp)
  rw [Nat.add_zero] at h
  rw [writeNat, h]
  simp [bytesOf, Nat.mod_eq_of_lt hv]

theorem writeNat_dies (s : State) (a n v : Nat) : (writeNat s a n v).dies = s.dies := by
  rw [writeNat, writeBytes_mem_only]

/-! ## The obligation -/

theorem exec_wqDecide (die q : Nat) (s : State) : exec (.wqDecide die q) s = .next (wqStep s die q) := rfl

/-- The lap bit has come late, or has still not come (R276). -/
theorem exec_wqLapTimeout {die q : Nat} {s s1 : State} {ws : List Word} (he : (wqAt s die q).error = false)
    (hp : (wqAt s die q).prod ≠ (wqAt s die q).cons) (hlate : wqLate s (wqAt s die q) = true)
    (hr : wqRead s die (wqAt s die q) = some (s1, ws, false)) : exec (.wqLapTimeout die q) s =
      .next (if (wordAt ws 0).getLsbD 63 ≠ wqLap (wqAt s die q) then wqFail s die q 1 else s) := by
  have hgo : ¬ ((wqAt s die q).error || decide ((wqAt s die q).prod = (wqAt s die q).cons) || !wqLate s (wqAt s die q)) = true := by
    simp [he, hp, hlate]
  change execWqLapTimeout die q s = _
  unfold execWqLapTimeout
  dsimp only
  rw [if_neg hgo, hr]

/-- Settles O50: each clause is one branch of the port's step, which reads, counts and stores in this order. -/
theorem workQueuePort : Obligations.WorkQueuePort := by
  refine ⟨fun die q prod s => ⟨_, rfl, wqAt_setWq _ _ _ _, fun _ => rfl⟩, fun die q s => ⟨_, rfl, wqAt_setWq _ _ _ _, fun _ => rfl⟩,
    fun die q s he hp => ⟨fun h => ?_, fun s1 ws busy hn hr hb => ?_, fun s1 ws hn hr hl => ⟨fun hv => wqOutcome_invalid hv,
      fun hv hb => wqOutcome_unbound hv hb, fun ho => ?_, fun s2 pa ho hpl hown => ?_⟩⟩, fun die q s s1 ws he hp hlate hr => ?_⟩
  · rw [exec_wqDecide, wqStep_fails he hp h]
    refine ⟨_, rfl, ?_, ?_, ?_, wqFail_hostIrq _ _ _ _, fun a => readByte_congr (wqFail_mem _ _ _ _) a⟩ <;> rw [wqAt_wqFail]
  · obtain ⟨first, hx, hmem⟩ := wqStep_early he hp hn hr hb
    refine ⟨_, exec_wqDecide _ _ _, by rw [hx], by rw [hx]; exact he, fun a => readByte_congr hmem a⟩
  · have hpk := wqRead_peeked hr
    obtain ⟨hcons, hacc, hback, href, hdisc, hmem⟩ := wqCount_counted s1 die q (wqOutcome s1 die q (portRecord ws)) (portRecord ws)
    rw [exec_wqDecide, wqStep_counts he hp hn hr hl ho]
    rw [hpk.wqAt] at hcons hacc hback href
    rw [hpk.dieAt] at hdisc
    exact ⟨_, rfl, hcons, fun a => readByte_congr (hmem.trans hpk.mem) a, hacc, hback, href, hdisc⟩
  · have hpk := (wqRead_peeked hr).trans (wqPlace_peeked hpl)
    have hw := afterWrite_woken (writeNat s2 pa 1 (wqOutcome s1 die q (portRecord ws)))
    have hc := wqCount_counted (afterWrite (writeNat s2 pa 1 (wqOutcome s1 die q (portRecord ws)))) die q (wqOutcome s1 die q (portRecord ws))
      (portRecord ws)
    have hbyte (a : Nat) := readByte_congr (hc.mem.trans hw.mem) a
    rw [exec_wqDecide, wqStep_stores he hp hn hr hl ho hpl hown]
    refine ⟨_, rfl, ?_, ?_, fun a ha => ?_⟩
    · rw [hc.cons, wqAt_congr (hw.dies.trans ((writeNat_dies _ _ _ _).trans hpk.dies))]
    · rw [hbyte]
      exact readByte_writeNat_one _ _ (wqOutcome_lt _ _ _ _)
    · rw [hbyte, readByte_writeNat_outside _ _ _ _ _ ha, readByte_congr hpk.mem]
  · rw [exec_wqLapTimeout he hp hlate hr]
    by_cases hl : (wordAt ws 0).getLsbD 63 ≠ wqLap (wqAt s die q)
    · rw [if_pos hl]
      refine ⟨_, rfl, fun a => readByte_congr (wqFail_mem _ _ _ _) a, ?_, fun _ => ?_⟩ <;> rw [wqAt_wqFail]
      exact ⟨fun _ => hl, fun _ => rfl⟩
    · rw [if_neg hl]
      refine ⟨_, rfl, fun _ => rfl, ?_, fun h => absurd h hl⟩
      rw [he]
      exact ⟨fun h => absurd h nofun, fun h => absurd h hl⟩

end Sys2Proof.Machine
end

section
/-! Idle slots take records, and the rings that records wait in (R105 to R111, R119). -/
namespace Sys2Proof.Machine

/-! ## A slot starts a record -/

/-- The task of a record before its payload is laid into the window (R13, R108). -/
def recordTask (b r : List Word) (now : Nat) : Task :=
  { Task.reset with
    pc := recPc r, status := 2, tvec := wordAt b 7 &&& 0xFFFFFFFFFFFC, iemask := BitVec.ofNat 64 (bindIemask b),
    ctxid := BitVec.ofNat 64 (bindCtx b), prio := BitVec.ofNat 64 (recPrio r), stealdom := BitVec.ofNat 64 (bindSteal b),
    spillb := wordAt b 4 &&& 0x1FFF80001FFF8, spillp := wordAt b 4 &&& 0x1FFF8,
    runs := [{ record := r, given := true, ibRead := 0 }], qstart := now, bind := b }

theorem freshTask_eq (b r : List Word) (now : Nat) :
    freshTask b r now = fillWin (recordTask b r now) 0 6 (fun i => (recPayload r).getD i 0) := by
  simp only [freshTask, fillWin, Nat.zero_add]
  rfl

/-- The payload changes the window alone. -/
theorem freshTask_window (b r : List Word) (now : Nat) :
    ∃ w, freshTask b r now = { recordTask b r now with win := w } := by
  rw [freshTask_eq]
  exact fillWin_frame _ _ _ _

/-- The first registers of the window of a task's bottom frame are its payload. -/
theorem plainRead_freshTask (b r : List Word) (now : Nat) {j : Nat} (hj : j < 6) :
    plainRead (freshTask b r now) (BitVec.ofNat 6 (8 + j)) = (recPayload r).getD j 0 := by
  have hframe : (freshTask b r now).frame.base = 0 := by
    obtain ⟨w, hw⟩ := freshTask_window b r now
    rw [hw]
    rfl
  rw [plainRead_windowed _ (by omega), hframe, freshTask_eq]
  exact getWin_fillWin_inside _ 0 6 j _ hj (by omega)

/-- What a slot runs once it has started a record under its bind record. -/
structure RunsRecord (b r : List Word) (x : Slot) : Prop where
  phase : x.phase = .running
  pc : x.t.pc = recPc r
  prio : x.t.prio = BitVec.ofNat 64 (recPrio r)
  status : x.t.status = 2
  ctxid : x.t.ctxid = BitVec.ofNat 64 (bindCtx b)
  runs : x.t.runs = [{ record := r, given := true, ibRead := 0 }]
  payload : ∀ j : Nat, j < 6 → plainRead x.t (BitVec.ofNat 6 (8 + j)) = (recPayload r).getD j 0

theorem startTask_runs (s : State) (n : Nat) (r : List Word) : RunsRecord (bindOf s n) r ((startTask s n r).slotAt n) := by
  obtain ⟨w, hw⟩ := freshTask_window (bindOf s n) r s.tstamp.toNat
  have hpayload : ∀ j, j < 6 → _ := fun _ => plainRead_freshTask (bindOf s n) r s.tstamp.toNat
  rw [hw] at hpayload
  rw [startTask, slotAt_updSlot, if_pos rfl, hw]
  exact ⟨rfl, rfl, rfl, rfl, rfl, rfl, hpayload⟩

/-- What else a slot holds stays as it is. -/
theorem startTask_keeps (s : State) (n : Nat) (r : List Word) :
    ((startTask s n r).slotAt n).saved = (s.slotAt n).saved ∧ ((startTask s n r).slotAt n).saving = (s.slotAt n).saving := by
  rw [startTask, slotAt_updSlot, if_pos rfl]
  exact ⟨rfl, rfl⟩

theorem startTask_mem (s : State) (n : Nat) (r : List Word) : (startTask s n r).mem = s.mem := by rw [startTask, updSlot_mem]

theorem startTask_cores (s : State) (n : Nat) (r : List Word) : (startTask s n r).cores = s.cores := by rw [startTask, updSlot_device]

theorem runTaken_valid {r : List Word} (h : recordValid r = true) (s : State) (n : Nat) : runTaken s n r = startTask s n r := if_pos h

theorem exec_takeRecord (slot : Nat) (s : State) : exec (.takeRecord slot) s = .next (searchSlot s slot) := rfl

theorem exec_idleSearchRetry (slot : Nat) (s : State) : exec (.idleSearchRetry slot) s
    = .next (if (s.slotAt slot).searched then searchSlot (s.updSlot slot (fun x => { x with searched := false })) slot else s) := rfl

theorem exec_dequeTheft (slot core : Nat) (s : State) : exec (.dequeTheft slot core) s
    = .next (if maySteal s slot && victimOf s slot = some core then theftAt s slot core else s) := rfl

theorem exec_inboxDelivery (core : Nat) (s : State) : exec (.inboxDelivery core) s = execInboxDelivery core s := rfl

theorem exec_backstopWrite (core : Nat) (s : State) : exec (.backstopWrite core) s = execBackstopWrite core s := rfl

theorem exec_backstopRefill (core : Nat) (s : State) : exec (.backstopRefill core) s = execBackstopRefill core s := rfl

theorem exec_spawnQueueDispatch (die : Nat) (s : State) : exec (.spawnQueueDispatch die) s = execSpawnQueueDispatch die s := rfl

/-- The search of a slot whose first three sources offer a record. -/
theorem searchSlot_offer {s s1 : State} {n : Nat} {r : List Word} (h : maySearch s n = true) (ho : firstOffer s n = some (r, s1)) :
    searchSlot s n = runTaken s1 n r := by
  simp [searchSlot, h, ho]

theorem exec_takeRecord_starts {slot : Nat} {r : List Word} {s s1 : State} (h : maySearch s slot = true)
    (ho : firstOffer s slot = some (r, s1)) (hr : recordValid r = true) : exec (.takeRecord slot) s = .next (startTask s1 slot r) := by
  rw [exec_takeRecord, searchSlot_offer h ho, runTaken_valid hr]

theorem exec_idleSearchRetry_starts {slot : Nat} {r : List Word} {s s1 : State} (hs : (s.slotAt slot).searched = true)
    (h : maySearch (s.updSlot slot (fun x => { x with searched := false })) slot = true)
    (ho : firstOffer (s.updSlot slot (fun x => { x with searched := false })) slot = some (r, s1)) (hr : recordValid r = true) :
    exec (.idleSearchRetry slot) s = .next (startTask s1 slot r) := by
  rw [exec_idleSearchRetry, if_pos hs, searchSlot_offer h ho, runTaken_valid hr]

/-! ## Theft -/

/-- The thief starts the oldest record of the victim's deque, whose top goes on. -/
theorem dequeTheft_starts {slot core : Nat} {r : List Word} {s : State} (h : maySteal s slot = true) (hv : victimOf s slot = some core)
    (ho : dqOldest s core = some r) (hr : recordValid r = true) :
    exec (.dequeTheft slot core) s
      = .next (startTask ((dqSteal s core slot).updSlot slot (fun x => { x with lastTried := some core })) slot r) := by
  have htheft : theftAt s slot core = runTaken ((dqSteal s core slot).updSlot slot (fun x => { x with lastTried := some core })) slot r := by
    rw [theftAt, ho]
  rw [exec_dequeTheft, if_pos (by simp [h, hv]), htheft, runTaken_valid hr]

theorem dqSteal_coreAt (s : State) (core n : Nat) : (dqSteal s core n).coreAt core =
    { s.coreAt core with dqtop := BitVec.ofNat 64 (((s.coreAt core).dqtop.toNat + 1) % 2 ^ 32) } := by
  rw [dqSteal, State.coreAt_setCore, if_pos rfl]

/-! ## The inbox ring -/

/-- A record that is written into the ring: its words lie at the tail, which goes on. -/
theorem ibPush_writes (s : State) (core : Nat) {r : List Word} (hr : r.length = 8) :
    ((ibPush s core r).coreAt core).ibtail = BitVec.ofNat 64 (((s.coreAt core).ibtail.toNat + 1) % 4294967296)
    ∧ ((ibPush s core r).coreAt core).backstop = (s.coreAt core).backstop
    ∧ readWords (ibPush s core r) (ibAddr core (s.coreAt core) (s.coreAt core).ibtail.toNat) 8 = r
    ∧ sameOutside s (ibPush s core r) (ibAddr core (s.coreAt core) (s.coreAt core).ibtail.toNat) 64 := by
  have hcore : (ibPush s core r).coreAt core
      = { s.coreAt core with ibtail := BitVec.ofNat 64 (((s.coreAt core).ibtail.toNat + 1) % 2 ^ 32) }.portWaits := by
    rw [ibPush, (afterWrite_woken _).coreAt, writeWords_mem_only]
    exact (State.coreAt_setCore _ _ _ _).trans (if_pos rfl)
  refine ⟨by rw [hcore]; rfl, by rw [hcore]; rfl, ?_, fun a ha => ?_⟩
  · rw [ibPush, readWords_congr (afterWrite_woken _).mem]
    have h := readWords_writeWords (s.setCore core
      { s.coreAt core with ibtail := BitVec.ofNat 64 (((s.coreAt core).ibtail.toNat + 1) % 2 ^ 32) }.portWaits)
      (ibAddr core (s.coreAt core) (s.coreAt core).ibtail.toNat) r
    rw [hr] at h
    exact h
  · rw [ibPush, readByte_congr (afterWrite_woken _).mem, readByte_writeWords_outside]
    · rfl
    · omega

theorem clearPlaced_admitted {s : State} {m : RecordMsg} (h : coreAdmits s m.core m.record = true) : clearPlaced s m = s := if_pos h

theorem takeInflight_sound {p : RecordMsg → Bool} {l rest : List RecordMsg} {m : RecordMsg} (h : takeInflight p l = some (m, rest)) :
    p m = true := by
  induction l generalizing rest with
  | nil => exact absurd h nofun
  | cons x l ih =>
    rw [takeInflight] at h
    split at h
    · next hp => injection h with h; injection h with hx _; exact hx ▸ hp
    · obtain ⟨⟨m', rest'⟩, h', hm⟩ := Option.map_eq_some_iff.1 h
      injection hm with hm _
      subst hm
      exact ih h'

/-- A record on its way that the core admits arrives at its port. -/
theorem inboxDelivery_arrives {core : Nat} {m : RecordMsg} {rest : List RecordMsg} {s : State}
    (h : takeInflight (recordMoves s core) s.inflight = some (m, rest)) (ha : coreAdmits s core m.record = true) :
    m.core = core ∧ exec (.inboxDelivery core) s = .next (ibArrive { s with inflight := rest } m) := by
  have hm := takeInflight_sound h
  have hcore : m.core = core := by simp [recordMoves] at hm; exact hm.1
  refine ⟨hcore, ?_⟩
  have hclear : clearPlaced { s with inflight := rest } m = { s with inflight := rest } := clearPlaced_admitted (by rw [hcore]; exact ha)
  rw [exec_inboxDelivery, execInboxDelivery, h]
  dsimp only
  rw [hclear]

/-- An admitted record enters a ring that has room, and waits at the port of a full one. -/
theorem ibArrive_room {s : State} {m : RecordMsg} (ha : coreAdmits s m.core m.record = true) (hf : ibFull (s.coreAt m.core) = false)
    (hp : (s.coreAt m.core).port = []) (hb : (s.coreAt m.core).backstop = []) : ibArrive s m = ibPush s m.core m.record := by
  simp [ibArrive, ha, hf, hp, hb]

theorem ibArrive_full {s : State} {m : RecordMsg} (ha : coreAdmits s m.core m.record = true) (hf : ibFull (s.coreAt m.core) = true) :
    ibArrive s m = s.setCore m.core { s.coreAt m.core with port := (s.coreAt m.core).port ++ [(s.tstamp.toNat, m)] }.portWaits := by
  simp [ibArrive, ha, hf]

/-! ## The backstop ring -/

theorem backstopWrite_moves {core since : Nat} {m : RecordMsg} {rest : List (Nat × RecordMsg)} {s : State}
    (hp : (s.coreAt core).port = (since, m) :: rest) (hf : ibFull (s.coreAt core) = true) (ht : since + 1000 ≤ s.tstamp.toNat)
    (hb : (s.coreAt core).backstop.length < 64) :
    exec (.backstopWrite core) s
      = .next (s.setCore core { s.coreAt core with port := rest, backstop := (s.coreAt core).backstop ++ [m.record] }) := by
  have hold : portOld s (s.coreAt core) = true := by simp [portOld, hp, hf, ht]
  simp [exec_backstopWrite, execBackstopWrite, hp, hold, Nat.not_le.2 hb]

theorem backstopRefill_moves {core : Nat} {r : List Word} {rest : List (List Word)} {s : State}
    (hb : (s.coreAt core).backstop = r :: rest) (hf : ibFull (s.coreAt core) = false) :
    exec (.backstopRefill core) s = .next (ibPush (s.setCore core { s.coreAt core with backstop := rest }) core r) := by
  simp [exec_backstopRefill, execBackstopRefill, hb, hf]

/-! ## The dispatcher of the spawn queue -/

theorem spawnQueueDispatch_sends {die i slot ctx : Nat} {r : List Word} {s : State}
    (h : dispatchChoice s die = some (i, slot, r, ctx)) :
    ∃ s1, s1 = (s.setDie die { s.dieAt die with spawnq := (s.dieAt die).spawnq.eraseIdx i }).updSlot slot (fun x => { x with served := true })
      ∧ exec (.spawnQueueDispatch die) s
        = .next { s1 with inflight := s1.inflight ++ [{ core := coreOf slot, record := r, slot := none, ctx := ctx }] } := by
  refine ⟨_, rfl, ?_⟩
  rw [exec_spawnQueueDispatch, execSpawnQueueDispatch, h]

/-! ## The obligation -/

/-- Settles O30: each step of the scheduler by the equation that says which record it moves, and the start of a task. -/
theorem idleSlotsTakeRecords : Obligations.IdleSlotsTakeRecords := by
  refine ⟨?_, ?_, ?_, ?_, ?_, ?_, ?_⟩
  case refine_1 =>
    intro slot r s s1 h ho hr
    have hruns := startTask_runs s1 slot r
    exact ⟨_, exec_takeRecord_starts h ho hr, hruns.phase, hruns.pc, hruns.prio, hruns.status, hruns.ctxid, hruns.runs, hruns.payload,
      fun a => readByte_congr (startTask_mem _ _ _) a⟩
  case refine_2 =>
    intro slot r s s1 hs h ho hr
    have hruns := startTask_runs s1 slot r
    exact ⟨_, exec_idleSearchRetry_starts hs h ho hr, hruns.phase, hruns.pc, fun a => readByte_congr (startTask_mem _ _ _) a⟩
  case refine_3 =>
    intro slot core r s h hv ho hr
    have hruns := startTask_runs ((dqSteal s core slot).updSlot slot (fun x => { x with lastTried := some core })) slot r
    have hcore : (startTask ((dqSteal s core slot).updSlot slot (fun x => { x with lastTried := some core })) slot r).coreAt core
        = (dqSteal s core slot).coreAt core := by
      rw [State.coreAt, startTask_cores, updSlot_device]
      rfl
    refine ⟨_, dequeTheft_starts h hv ho hr, hruns.phase, hruns.pc, ?_, ?_, fun a => readByte_congr ?_ a⟩
    · rw [hcore, dqSteal_coreAt]; rfl
    · rw [hcore, dqSteal_coreAt]
    · rw [startTask_mem, updSlot_mem]; rfl
  case refine_4 =>
    intro core m rest s h hl ha hp hb
    obtain ⟨hm, hex⟩ := inboxDelivery_arrives h ha
    subst hm
    refine ⟨fun hf => ?_, fun hf => ?_⟩
    · obtain ⟨htail, -, hwords, hout⟩ := ibPush_writes { s with inflight := rest } m.core hl
      rw [ibArrive_room (s := { s with inflight := rest }) ha hf hp hb] at hex
      exact ⟨_, hex, htail, hwords, hout⟩
    · rw [ibArrive_full (s := { s with inflight := rest }) ha hf] at hex
      refine ⟨_, hex, ?_, ?_, rfl, fun a => rfl⟩
      · rw [State.coreAt_setCore, if_pos rfl]
        exact congrArg (· ++ [(s.tstamp.toNat, m)]) hp
      · rw [State.coreAt_setCore, if_pos rfl]
        have hf' : ibFull { s.coreAt m.core with port := (s.coreAt m.core).port ++ [(s.tstamp.toNat, m)] } = true := hf
        change (_ || (ibFull { s.coreAt m.core with port := (s.coreAt m.core).port ++ [(s.tstamp.toNat, m)] } && _)) = true
        rw [hf']
        simp
  case refine_5 =>
    intro core since m rest s hp hf ht hb
    refine ⟨_, backstopWrite_moves hp hf ht hb, ?_, ?_, fun a => rfl⟩ <;> rw [State.coreAt_setCore, if_pos rfl]
  case refine_6 =>
    intro core r rest s hb hl hf
    obtain ⟨htail, hback, hwords, -⟩ := ibPush_writes (s.setCore core { s.coreAt core with backstop := rest }) core hl
    rw [State.coreAt_setCore, if_pos rfl] at htail hback hwords
    exact ⟨_, backstopRefill_moves hb hf, hback, htail, hwords⟩
  case refine_7 =>
    intro die i slot ctx r s h
    obtain ⟨s1, hs1, hex⟩ := spawnQueueDispatch_sends h
    refine ⟨_, hex, ?_, ?_, ?_, fun a => readByte_congr ?_ a⟩
    · rw [hs1, updSlot_device]; rfl
    · change (s1.slotAt slot).reserve = _
      rw [hs1, slotAt_updSlot, if_pos rfl]
      rfl
    · change (s1.dieAt die).spawnq = _
      rw [hs1, State.dieAt, updSlot_device]
      change ((s.setDie die _).dieAt die).spawnq = _
      rw [State.dieAt_setDie, if_pos rfl]
    · change s1.mem = s.mem
      rw [hs1, updSlot_mem]
      rfl

end Sys2Proof.Machine
end

section
/-! The end of a quantum, the save of a task, and the start of a strand (R117, R120, R129, R385, R410). -/
namespace Sys2Proof.Machine

/-! ## A record that a source gives -/

/-- t is s but for the place of a ring, a queue or a deque from which a slot has taken a record (R107). -/
structure Offered (s t : State) : Prop where
  device : t = { s with slot := t.slot, others := t.others, cores := t.cores, dies := t.dies, faint := t.faint, errors := t.errors }
  slots : ∀ n, ∃ rv q, t.slotAt n = { s.slotAt n with reserve := rv, lastQueue := q }

theorem updSlot_reserve_offered (s : State) (n : Nat) : Offered s (s.updSlot n (fun x => { x with reserve := none })) := by
  refine ⟨by rw [updSlot_device], fun m => ?_⟩
  rw [slotAt_updSlot]
  split
  · next h => exact ⟨_, _, by rw [h]⟩
  · exact ⟨_, _, rfl⟩

theorem Offered.trans {s t u : State} (h : Offered s t) (h' : Offered t u) : Offered s u := by
  refine ⟨?_, fun n => ?_⟩
  · have hd := h'.device
    rw [h.device] at hd
    exact hd
  · obtain ⟨_, _, h1⟩ := h.slots n
    obtain ⟨rv, q, h2⟩ := h'.slots n
    exact ⟨rv, q, by rw [h2, h1]⟩

theorem ibTake_offered (s : State) (n : Nat) : Offered s (ibTake s n) := ⟨rfl, fun _ => ⟨_, _, rfl⟩⟩

theorem dqPop_offered (s : State) (n : Nat) : Offered s (dqPop s n) := ⟨rfl, fun _ => ⟨_, _, rfl⟩⟩

theorem takeInbox_offered (s : State) (n : Nat) (r : List Word) : Offered s (takeInbox s n r) := by
  unfold takeInbox
  dsimp only
  split
  · exact ibTake_offered s n
  · split
    · exact (ibTake_offered s n).trans (updSlot_reserve_offered _ _)
    · exact ibTake_offered s n

theorem takeQueue_offered (s : State) (n : Nat) (o : Nat × Nat × List Word) : Offered s (takeQueue s n o) := by
  unfold takeQueue
  dsimp only
  refine ⟨by rw [updSlot_device]; rfl, fun m => ?_⟩
  rw [slotAt_updSlot]
  split
  · next h => exact ⟨_, _, by rw [h]; rfl⟩
  · exact ⟨_, _, rfl⟩

theorem offerUnder_offered {s s1 : State} {n : Nat} {b : List Word} {p : List Word → Bool} {r : List Word}
    (h : offerUnder s n b p = some (r, s1)) : Offered s s1 := by
  unfold offerUnder at h
  split at h
  · injection h with h; injection h with _ hs; exact hs ▸ takeInbox_offered _ _ _
  · split at h
    · exact absurd h nofun
    · split at h
      · injection h with h; injection h with _ hs; exact hs ▸ dqPop_offered _ _
      · obtain ⟨o, _, ho⟩ := Option.map_eq_some_iff.1 h
        injection ho with _ hs
        exact hs ▸ takeQueue_offered _ _ _

section
variable {s t : State} (h : Offered s t)
include h

theorem Offered.mem : t.mem = s.mem := by rw [h.device]
theorem Offered.cur : t.cur = s.cur := by rw [h.device]
theorem Offered.held : t.held = s.held := by rw [h.device]

/-- The task in force is as it was. -/
theorem Offered.task : t.t = s.t := by
  obtain ⟨_, _, hx⟩ := h.slots s.cur
  rw [State.t, ← slotAt_cur, h.cur, hx, slotAt_cur]

end

/-! ## The save begins -/

theorem withdrawLatest_idle {s : State} (h : s.held = []) : withdrawLatest s = s := by
  simp [withdrawLatest, h]

/-- A slot that waits for nothing, with no access at a home, withdraws only what stands at other devices. -/
theorem withdrawWait_setAside {s : State} (hw : s.t.wait = none) (hh : s.held = []) : SetAside s (withdrawWait s) := by
  have he : withdrawWait s = pullFar (pullHere s) := by simp [withdrawWait, hw, withdrawLatest_idle hh, pullQualified]
  rw [he]
  exact (pullHere_setAside s).trans (pullFar_setAside _)

/-- Accesses set aside are answers no longer due. -/
theorem outstandingReads_pullQualified {s : State} {n : Nat} (hh : s.held = []) (h : outstandingReads s n = false) :
    outstandingReads (pullQualified s) n = false := by
  have hhere : pullHere s = s := by simp [pullHere, hh]
  rw [pullQualified, hhere]
  unfold pullFar
  dsimp only
  split
  · exact h
  · obtain ⟨hhome, hreplies⟩ := Bool.or_eq_false_iff.1 h
    obtain ⟨hheld, hremote⟩ := Bool.or_eq_false_iff.1 hhome
    refine Bool.or_eq_false_iff.2 ⟨Bool.or_eq_false_iff.2 ⟨hheld, List.any_eq_false.2 fun r hr => ?_⟩, hreplies⟩
    obtain ⟨r', hr', rfl⟩ := List.mem_map.1 hr
    have hnot := List.any_eq_false.1 hremote r' (List.mem_filter.1 hr').1
    split <;> exact hnot

/-- What a slot holds whose task is being saved. -/
structure Saving (t : Task) (x : Slot) (y : Task) : Prop where
  phase : x.phase = .idle
  saved : x.saved = some y
  saving : x.saving = true
  pc : y.pc = t.pc
  globals : y.globals = t.globals
  win : y.win = t.win
  tiles : y.tiles = t.tiles

theorem beginSave_saves {s : State} (hw : s.t.wait = none) (hh : s.held = []) :
    (∃ y, Saving s.t (beginSave s).slot y) ∧ (beginSave s).cur = s.cur ∧ (beginSave s).mem = s.mem := by
  have hwait := withdrawWait_setAside hw hh
  have hdrop := dropAhead_setAside (withdrawWait s)
  rw [hwait.cur] at hdrop
  have hall := hwait.trans hdrop
  obtain ⟨_, _, _, _, _, _, _, ht⟩ := hall.task
  have hpc : (dropAhead (withdrawWait s) s.cur).t.pc = s.t.pc := by rw [ht]
  have hglobals : (dropAhead (withdrawWait s) s.cur).t.globals = s.t.globals := by rw [ht]
  have hwin : (dropAhead (withdrawWait s) s.cur).t.win = s.t.win := by rw [ht]
  have htiles : (dropAhead (withdrawWait s) s.cur).t.tiles = s.t.tiles := by rw [ht]
  exact ⟨⟨_, rfl, rfl, rfl, hpc, hglobals, hwin, htiles⟩, hall.cur, hall.mem⟩

/-! ## The check at the end of a quantum -/

theorem exec_quantumExpiry (slot : Nat) (s : State) :
    exec (.quantumExpiry slot) s = .next (if quantumDue s slot then withSlot s slot quantumCheck else s) := rfl

/-- A task for which no record waits goes on with a new quantum. -/
theorem quantumCheck_goesOn {s : State} (h : waitingRecord s s.cur = none) :
    quantumCheck s = s.setT { s.t with yielded := false, qstart := s.tstamp.toNat } := by
  simp [quantumCheck, h]

theorem prio_of_quantumDue {s : State} {n : Nat} (h : quantumDue s n = true) : 4 ≤ (s.slotAt n).t.prio.toNat := by
  simp only [quantumDue, Bool.and_eq_true, decide_eq_true_eq] at h
  obtain ⟨⟨⟨⟨_, hprio⟩, _⟩, _⟩, _⟩ := h
  exact hprio

theorem phase_of_quantumDue {s : State} {n : Nat} (h : quantumDue s n = true) : (s.slotAt n).phase = .running := by
  simp only [quantumDue, Bool.and_eq_true, decide_eq_true_eq] at h
  obtain ⟨⟨⟨⟨⟨⟨hphase, _⟩, _⟩, _⟩, _⟩, _⟩, _⟩ := h
  exact hphase

/-- A task for which a record waits, and which may be saved at once, is saved. -/
theorem quantumCheck_saves {s s1 : State} {r : List Word} (hp : 4 ≤ s.t.prio.toNat) (hn : s.t.nested = false) (hi : s.t.inStrand = false)
    (hs : s.slot.saved = none) (h : waitingRecord s s.cur = some (r, s1)) (hh : s.held = []) (ho : outstandingReads s s.cur = false) :
    quantumCheck s = { beginSave s1 with slot := { (beginSave s1).slot with chosen := some r } } := by
  simp [quantumCheck, Nat.not_lt.2 hp, hn, hi, hs, h, outstandingReads_pullQualified hh ho]

/-! ## The save is done -/

/-- The words of a saved task. -/
def imageWords (s : State) (n : Nat) (x : Slot) : List Word := (List.range 1024).map (fun i => imageWord s n x (8 * i))

theorem imageWords_length (s : State) (n : Nat) (x : Slot) : (imageWords s n x).length = 1024 := by simp [imageWords]

/-- A word of a task in its save area (R129, R257). -/
theorem readWord_saveImage (s : State) (n : Nat) (x : Slot) (a : Nat) {i : Nat} (hi : i < 1024) :
    readWord (saveImage s n x a) (a + 8 * i) = imageWord s n x (8 * i) := by
  have h := readWord_writeWords s a (imageWords s n x) (by rw [imageWords_length]; exact hi)
  exact h.trans (by simp [imageWords])

theorem readByte_saveImage_outside (s : State) (n : Nat) (x : Slot) (a : Nat) {b : Nat} (h : b < a ∨ a + 8192 ≤ b) :
    readByte (saveImage s n x a) b = readByte s b := by
  have hout := readByte_writeWords_outside s a (imageWords s n x) (b := b)
  rw [imageWords_length] at hout
  exact hout h

theorem imageWord_pc (s : State) (n : Nat) (x : Slot) : imageWord s n x (8 * 647) = x.t.pc.zeroExtend 64 := by
  simp [imageWord]

theorem imageWord_global (s : State) (n : Nat) (x : Slot) {j : Nat} (hj : j < 7) : imageWord s n x (8 * (640 + j)) = x.t.globals[j]! := by
  have h1 : ¬ 8 * (640 + j) < 0x1000 := by omega
  have h2 : ¬ 8 * (640 + j) < 0x1400 := by omega
  have h3 : 8 * (640 + j) < 0x1438 := by omega
  have h4 : (8 * (640 + j) - 0x1400) / 8 = j := by omega
  unfold imageWord
  dsimp only
  rw [if_neg h1, if_neg h2, if_pos h3, h4]

theorem exec_quantumSaveDone (slot : Nat) (s : State) : exec (.quantumSaveDone slot) s = execQuantumSaveDone slot s := rfl

/-- The state that has saved the task of a slot. -/
def savedState (s : State) (slot : Nat) (x : Task) : State :=
  (afterWrite (saveImage s slot { s.slotAt slot with t := x } (sramAddr (dieOf slot) (bindSave x.bind)))).updSlot slot
    (fun y => { y with saving := false, saved := some { x with ipend := 0 }, chosen := none })

theorem savedState_mem (s : State) (slot : Nat) (x : Task) :
    (savedState s slot x).mem = (saveImage s slot { s.slotAt slot with t := x } (sramAddr (dieOf slot) (bindSave x.bind))).mem := by
  rw [savedState, updSlot_mem, (afterWrite_woken _).mem]

theorem quantumSaveDone_starts {slot : Nat} {x : Task} {r : List Word} {s : State} (hsaving : (s.slotAt slot).saving = true)
    (hsaved : (s.slotAt slot).saved = some x) (hchosen : (s.slotAt slot).chosen = some r) (hr : recordValid r = true)
    (hheld : slotHeld s slot = false) : exec (.quantumSaveDone slot) s = .next (startTask (savedState s slot x) slot r) := by
  simp [exec_quantumSaveDone, execQuantumSaveDone, hsaving, hsaved, hchosen, hheld, runTaken_valid hr, savedState]

/-! ## A strand starts -/

theorem leader_not_mem_strandSlots {slot count : Nat} (hc : count ≤ 16) : slot ∉ strandSlots slot count := by
  intro h
  obtain ⟨i, hi, he⟩ := List.mem_map.1 h
  have hi := List.mem_range.1 hi
  simp only [clusterOf] at he
  omega

/-- What a follower of a strand runs at its start. -/
structure Follows (leader : Nat) (src : Task) (x : Slot) : Prop where
  phase : x.phase = .running
  leader : x.t.leader = some leader
  pc : x.t.pc = src.pc
  globals : x.t.globals = src.globals

theorem startFollower_slotAt_other (leader : Nat) (src : Task) (count : Nat) (s : State) (p : Nat × Nat) {n : Nat} (h : n ≠ p.1) :
    (startFollower leader src count s p).slotAt n = s.slotAt n := by
  rw [startFollower, slotAt_updSlot, if_neg h]

theorem startFollower_follows (leader : Nat) (src : Task) (count : Nat) (s : State) (p : Nat × Nat) :
    Follows leader src ((startFollower leader src count s p).slotAt p.1) := by
  rw [startFollower, slotAt_updSlot, if_pos rfl]
  exact ⟨rfl, rfl, rfl, rfl⟩

theorem foldl_startFollower_device (leader : Nat) (src : Task) (count : Nat) (l : List (Nat × Nat)) (s : State) :
    (l.foldl (startFollower leader src count) s).mem = s.mem ∧ (l.foldl (startFollower leader src count) s).cur = s.cur := by
  induction l generalizing s with
  | nil => exact ⟨rfl, rfl⟩
  | cons p l ih =>
    obtain ⟨hmem, hcur⟩ := ih (startFollower leader src count s p)
    exact ⟨hmem.trans (updSlot_mem _ _ _), hcur.trans (updSlot_cur _ _ _)⟩

theorem foldl_startFollower_other (leader : Nat) (src : Task) (count : Nat) {n : Nat} {l : List (Nat × Nat)} (h : n ∉ l.map Prod.fst)
    (s : State) : (l.foldl (startFollower leader src count) s).slotAt n = s.slotAt n := by
  induction l generalizing s with
  | nil => rfl
  | cons p l ih =>
    rw [List.map_cons, List.mem_cons, not_or] at h
    obtain ⟨hp, hl⟩ := h
    rw [List.foldl_cons, ih hl, startFollower_slotAt_other _ _ _ _ _ hp]

theorem foldl_startFollower_follows (leader : Nat) (src : Task) (count : Nat) {n : Nat} {l : List (Nat × Nat)} (h : n ∈ l.map Prod.fst)
    (s : State) : Follows leader src ((l.foldl (startFollower leader src count) s).slotAt n) := by
  induction l generalizing s with
  | nil => exact absurd h nofun
  | cons p l ih =>
    by_cases hl : n ∈ l.map Prod.fst
    · exact ih hl _
    · have hn : n = p.1 := by simpa [hl] using h
      rw [List.foldl_cons, foldl_startFollower_other _ _ _ hl, hn]
      exact startFollower_follows _ _ _ _ _

/-- The parked instruction of a slot in no strand completes: the PC goes on. -/
theorem completeWait_alone {s : State} (hl : s.t.leader = none) (hf : s.t.followers = []) :
    (completeWait s).t.pc = s.t.pc + 4 ∧ (completeWait s).t.globals = s.t.globals ∧ (completeWait s).cur = s.cur
      ∧ (completeWait s).mem = s.mem := by
  obtain ⟨hc, -⟩ := complete_unforwarded (s0 := s) (s := (dropWatch s s.cur).setT { s.t with wait := none, met := false, pc := s.t.pc + 4 })
    s.t.waitWord (s.t.waitWord.getLsbD 0) (u := {}) (by simp [Task.follows, hl]) (by simp [forwardTo, hf]) rfl rfl
  exact ⟨hc.pc, hc.globals, hc.cur, hc.mem⟩

theorem exec_strandForm (slot : Nat) (s : State) : exec (.strandForm slot) s
    = .next (if (s.slotAt slot).halted || (s.slotAt slot).stopped then s else withSlot s slot strandStep) := rfl

theorem strandStep_forms {s : State} {count : Nat} (hw : s.t.wait = some (.strand count)) (ht : strandTurn s s.cur = true)
    (hi : ∀ n ∈ strandSlots s.cur count, strandIdle s s.cur n = true) : strandStep s = formStrand s count := by
  have hall : (strandSlots s.cur count).all (strandIdle s s.cur) = true := List.all_eq_true.2 hi
  simp [strandStep, hw, ht, hall]

/-- What a strand's leader and its followers hold at its start. -/
theorem formStrand_starts {s : State} {count : Nat} (hl : s.t.leader = none) (hf : s.t.followers = []) (hc : count ≤ 16) :
    ((formStrand s count).slotAt s.cur).t.followers = strandSlots s.cur count
    ∧ ((formStrand s count).slotAt s.cur).t.pc = s.t.pc + 4
    ∧ (∀ n ∈ strandSlots s.cur count, Follows s.cur (completeWait s).t ((formStrand s count).slotAt n))
    ∧ (formStrand s count).mem = s.mem := by
  obtain ⟨hpc, -, hcur, hmem⟩ := completeWait_alone hl hf
  have hmap : ((strandSlots s.cur count).zipIdx).map Prod.fst = strandSlots s.cur count := List.zipIdx_map_fst _ _
  have hself := leader_not_mem_strandSlots (slot := s.cur) hc
  obtain ⟨hmem', hcur'⟩ := foldl_startFollower_device s.cur (completeWait s).t count (strandSlots s.cur count).zipIdx (completeWait s)
  have hleader := foldl_startFollower_other s.cur (completeWait s).t count (l := (strandSlots s.cur count).zipIdx) (hmap ▸ hself) (completeWait s)
  have hfollow (n : Nat) (hn : n ∈ strandSlots s.cur count) :=
    foldl_startFollower_follows s.cur (completeWait s).t count (l := (strandSlots s.cur count).zipIdx) (hmap ▸ hn) (completeWait s)
  unfold formStrand
  dsimp only
  rw [hcur]
  generalize ((strandSlots s.cur count).zipIdx).foldl (startFollower s.cur (completeWait s).t count) (completeWait s) = s2 at *
  rw [hcur] at hcur'
  have hs2 : s2.slot = (completeWait s).slot := by
    rw [← slotAt_cur, ← slotAt_cur, hcur', hcur, hleader]
  refine ⟨?_, ?_, fun n hn => ?_, hmem'.trans hmem⟩
  · rw [← hcur', slotAt_setT_cur]
  · rw [← hcur', slotAt_setT_cur]
    change s2.slot.t.pc = _
    rw [hs2]
    exact hpc
  · have hne : n ≠ s.cur := fun he => hself (he ▸ hn)
    rw [slotAt_setT_other _ (hcur'.symm ▸ hne)]
    exact hfollow n hn

/-! ## The obligation -/

/-- Settles O31: the check at the end of a quantum, the save area written and the record started, and the strand's followers in turn. -/
theorem quantaAndStrands : Obligations.QuantaAndStrands := by
  refine ⟨fun slot s hdue => ⟨fun hnone => ?_, fun r s1 hsome hn hi hs hh hw ho => ?_⟩, ?_, ?_⟩
  case refine_1 =>
    have hgo := quantumCheck_goesOn (s := s.makeHot slot) (by rw [makeHot_cur]; exact hnone)
    have hslot : (withSlot s slot quantumCheck).slotAt slot = { s.slotAt slot with
        t := { (s.slotAt slot).t with yielded := false, qstart := s.tstamp.toNat } } := by
      rw [withSlot_slot (by rw [hgo]; exact makeHot_cur s slot), hgo, ← makeHot_slot, makeHot_device]
      rfl
    refine ⟨_, by rw [exec_quantumExpiry, if_pos hdue], ?_, ?_, ?_, ?_, fun a => readByte_congr ?_ a⟩
    · rw [hslot]; exact phase_of_quantumDue hdue
    · rw [hslot]
    · rw [hslot]
    · rw [hslot]
    · rw [withSlot_mem, hgo]; exact makeHot_mem s slot
  case refine_2 =>
    have hcur := makeHot_cur s slot
    have hoff := offerUnder_offered hsome
    have hprio : 4 ≤ (s.makeHot slot).t.prio.toNat := by
      rw [State.t, makeHot_slot]
      exact prio_of_quantumDue hdue
    have hsave := quantumCheck_saves hprio hn hi hs (by rw [hcur]; exact hsome) hh (by rw [hcur]; exact ho)
    obtain ⟨⟨x, hx⟩, hc, hm⟩ := beginSave_saves (s := s1) (by rw [hoff.task]; exact hw) (hoff.held.trans hh)
    rw [hoff.task] at hx
    have hslot : (withSlot s slot quantumCheck).slotAt slot = { (beginSave s1).slot with chosen := some r } := by
      rw [withSlot_slot (by rw [hsave]; exact hc.trans (hoff.cur.trans hcur)), hsave]
    refine ⟨_, x, by rw [exec_quantumExpiry, if_pos hdue], ?_, ?_, ?_, ?_, hx.pc, hx.globals, hx.win, hx.tiles, fun a => readByte_congr ?_ a⟩
    · rw [hslot]; exact hx.phase
    · rw [hslot]; exact hx.saved
    · rw [hslot]; exact hx.saving
    · rw [hslot]
    · rw [withSlot_mem, hsave]
      exact hm.trans (hoff.mem.trans (makeHot_mem s slot))
  case refine_3 =>
    intro slot x r s hsaving hsaved hchosen hr hheld
    have hruns := startTask_runs (savedState s slot x) slot r
    obtain ⟨hkeep, hkeep'⟩ := startTask_keeps (savedState s slot x) slot r
    have hmem := (startTask_mem (savedState s slot x) slot r).trans (savedState_mem s slot x)
    have hslot : (savedState s slot x).slotAt slot = _ := (slotAt_updSlot _ slot slot _).trans (if_pos rfl)
    refine ⟨_, quantumSaveDone_starts hsaving hsaved hchosen hr hheld, ?_, hruns.phase, hruns.pc, ?_, ?_, fun j hj => ?_, fun a ha => ?_⟩
    · rw [hkeep', hslot]
    · rw [hkeep, hslot]
    · rw [readWord_congr hmem]
      exact (readWord_saveImage s slot _ _ (i := 647) (by omega)).trans (imageWord_pc _ _ _)
    · have haddr : sramAddr (dieOf slot) (bindSave x.bind) + 0x1400 + 8 * j = sramAddr (dieOf slot) (bindSave x.bind) + 8 * (640 + j) := by omega
      rw [readWord_congr hmem, haddr]
      exact (readWord_saveImage s slot _ _ (i := 640 + j) (by omega)).trans (imageWord_global _ _ _ hj)
    · rw [readByte_congr hmem]
      exact readByte_saveImage_outside s slot _ _ ha
  case refine_4 =>
    intro slot count s hw h2 h16 hheld hphase hl hf hturn hidle
    have hcur := makeHot_cur s slot
    have ht : (s.makeHot slot).t = (s.slotAt slot).t := by rw [State.t, makeHot_slot]
    have hturn' : strandTurn (s.makeHot slot) slot = true := by rw [makeHot_device]; exact hturn
    have hform := strandStep_forms (s := s.makeHot slot) (ht ▸ hw) (by rw [hcur]; exact hturn') (by rw [hcur]; exact hidle)
    obtain ⟨hfs, hpc, hfol, hmem⟩ := formStrand_starts (s := s.makeHot slot) (count := count) (ht ▸ hl) (ht ▸ hf) h16
    obtain ⟨hpc', hglob, -, -⟩ := completeWait_alone (s := s.makeHot slot) (ht ▸ hl) (ht ▸ hf)
    rw [hcur] at hfs hpc hfol
    rw [ht] at hpc hpc' hglob
    have hrun : ((s.slotAt slot).halted || (s.slotAt slot).stopped) = false := by
      simp only [slotHeld, Bool.or_eq_false_iff] at hheld
      simp [hheld]
    refine ⟨_, by rw [exec_strandForm, hrun, if_neg (by simp)], ?_, ?_, fun n hn => ?_, fun a => readByte_congr ?_ a⟩
    · rw [withSlot_slotAt, hform]; exact hfs
    · rw [withSlot_slotAt, hform]; exact hpc
    · obtain ⟨hph, hld, hp, hg⟩ := hfol n hn
      rw [withSlot_slotAt, hform]
      exact ⟨hph, hld, hp.trans hpc', hg.trans hglob⟩
    · rw [withSlot_mem, hform]; exact hmem.trans (makeHot_mem s slot)

end Sys2Proof.Machine
end

section
/-! Gates on a counter, and the records of tiles (R118, R119, R390, R395). -/
namespace Sys2Proof.Machine

/-! ## An effect that ends with its result -/

/-- An effect that writes one plain code in a state whose task is as at issue: the code has the value, the rest of the task goes on, and the
device is as the effect left it. -/
theorem issue_results {i : Instr} {sw : Bool} {u : Use} {rd : Reg} {w : Word} {s s2 : State} {body : Vals → State → Eff} (hs : Calm s)
    (hi : Issues i u s s (plainVals s.t u)) (hr : u.ret = false) (hk : u.keepPfx = false) (hrd : plainCode s.t rd = true)
    (ht : s2.t = (advanced s s).t) (hb : body (plainVals s.t u) (advanced s s) = result s2 rd w) :
    ∃ t, issue i sw u body s = .next t ∧ t.t.pc = s.t.pc + 4 ∧ (rd ≠ 0 → plainRead t.t rd = w) ∧ sameCodesBut s t rd
      ∧ t = { s2 with slot := t.slot, cores := t.cores } := by
  have hrd2 : plainCode s2.t rd = true := by rw [ht, plainCode_advanced]; exact hrd
  rw [result, putReg_plain s2 w hrd2] at hb
  have hsame := plainRead_plainWrite_same s2.t rd w
  have hother := fun r => plainRead_plainWrite_other s2.t rd r w
  obtain ⟨g, win, a, b, hpw⟩ := plainWrite_frame s2.t rd w
  obtain ⟨t, hex, hc⟩ := issue_completed (sw := sw) hs hi hr hk hb (by rw [State.t_setT, hpw, ht]; exact hs.awake)
  rw [hpw] at hsame hother hc
  refine ⟨t, hex, ?_, fun h0 => ?_, fun r hne => ?_, hc.device⟩
  · rw [hc.pc, State.t_setT, ht]; rfl
  · rw [hc.codes]
    exact hsame h0 (register_or_stream hrd2)
  · rw [hc.codes]
    refine (hother r hne).trans ?_
    rw [ht]
    exact plainRead_advanced s r

/-- Whether stores are outstanding depends on what the task awaits, has set aside, and the handlers that it is in. -/
theorem released_setT {s : State} {t : Task} (hp : t.pend = s.t.pend) (hh : t.pulled = s.t.pulled) (hf : t.pulledFar = s.t.pulledFar)
    (hl : t.handlers = s.t.handlers) : released (s.setT t) = released s := by
  have ht : ((s.setT t).slotAt (s.setT t).cur).t = t := by rw [slotAt_cur]; rfl
  have hs : (s.slotAt s.cur).t = s.t := by rw [slotAt_cur, State.t]
  unfold released outstandingStores
  dsimp only
  rw [ht, hs, hp, hh, hf, hl]
  rfl

theorem released_advanced (s : State) : released (advanced s s) = released s := released_setT rfl rfl rfl rfl

/-! ## TGATE -/

theorem exec_tgate (rd ra rb : Reg) (sw : Bool) (s : State) : exec (.tgate rd ra rb sw) s
    = issue (.tgate rd ra rb sw) sw { a := some ra, b := some rb, c := some rd, d := [rd] } (tgateAt rd) s := rfl

/-- A gate whose record and counter pass their checks is decided at the counter's home. -/
theorem tgateAt_decides {rd : Reg} {v : Vals} {s s0 s1 s2 : State} {p : Place} {pa fl x : Nat} (hrel : released s = true)
    (hrec : locate s s.asker .record v.a 64 64 none 0 = .ok (s0, p)) (hctr : locate s0 s.asker .ringRead v.b 8 8 none 0 = .ok (s1, .mem pa fl))
    (hdata : dataMatch s.slot [(v.a, false), (v.b, false)] = none) (hread : readAtIssue s1 .record v.a 64 64 = .ok (s2, x)) :
    Peeked s s2 ∧ tgateAt rd v s = gateAt rd pa v.c (wordsOf x 8) s2 := by
  have h0 := locate_peeked hrec
  have h1 := h0.trans (locate_peeked hctr)
  have hcheck : checkData s1 [(v.a, false), (v.b, false)] = .ok () := by simp only [checkData, h1.slot, hdata]
  refine ⟨h1.trans (readAtIssue_peeked hread), ?_⟩
  simp only [tgateAt, hrel, hrec, h0.asker, hctr, hcheck, hread, Bool.not_true, Bool.false_eq_true, if_false]

section
variable {s t : State} (h : Peeked s t)
include h

theorem gateAt_full {rd : Reg} {pa : Nat} {target : Word} {r : List Word} (hfull : 64 ≤ (s.clusterAt s.cluster).gates.length) :
    gateAt rd pa target r t = result t rd 1 := by
  rw [gateAt, h.cluster, if_pos (by rw [h.gates]; exact hfull)]

theorem gateAt_met {rd : Reg} {pa : Nat} {target : Word} {r : List Word} (hroom : (s.clusterAt s.cluster).gates.length < 64)
    (hb : requestBlocked s pa 8 = false) (hmet : target.toNat ≤ readNat s pa 8) :
    gateAt rd pa target r t = result { noteMine t pa 8 with
      inflight := s.inflight ++ [{ core := s.core, record := r, slot := none, ctx := s.asker.ctx }] } rd 0 := by
  have hle : target ≤ readWord t pa := by rw [readWord_congr h.mem, BitVec.le_def, readWord_toNat]; exact hmet
  rw [gateAt, h.cluster, if_neg (by rw [h.gates]; omega), h.requestBlocked, hb, if_neg (by simp), if_pos hle, ← h.inflight, ← h.core, ← h.asker]
  rfl

theorem gateAt_waits {rd : Reg} {pa : Nat} {target : Word} {r : List Word} (hroom : (s.clusterAt s.cluster).gates.length < 64)
    (hb : requestBlocked s pa 8 = false) (hwait : readNat s pa 8 < target.toNat) :
    gateAt rd pa target r t = result ((noteMine t pa 8).setCluster s.cluster { t.clusterAt s.cluster with
      gates := (s.clusterAt s.cluster).gates ++ [{ record := r, addr := pa, target := target, core := s.core, ctx := s.asker.ctx }] }) rd 0 := by
  have hle : ¬ target ≤ readWord t pa := by rw [readWord_congr h.mem, BitVec.le_def, readWord_toNat]; omega
  have hroom' : ¬ 64 ≤ (t.clusterAt t.cluster).gates.length := by rw [h.gates, h.cluster]; omega
  rw [← h.gates, ← h.core, ← h.asker, ← h.cluster, gateAt, if_neg hroom', h.requestBlocked, hb, if_neg (by simp), if_neg hle]
  rfl

end

/-! ## The records of tiles -/

theorem checkTiles_peeked {s t : State} {a : Word} {n : Nat} (h : checkTiles s a n = .ok t) : Peeked s t := by
  induction n generalizing s a with
  | zero => injection h with h; exact h ▸ .refl s
  | succ n ih =>
    rw [checkTiles] at h
    split at h
    · exact absurd h nofun
    · next hl => exact (locate_peeked hl).trans (ih h)

theorem readTiles_peeked {s t : State} {a : Word} {n : Nat} {rs : List (List Word)} (h : readTiles s a n = .ok (t, rs)) : Peeked s t := by
  induction n generalizing s a rs with
  | zero => injection h with h; injection h with hs _; exact hs ▸ .refl s
  | succ n ih =>
    rw [readTiles] at h
    split at h
    · split at h
      · exact absurd h nofun
      · next hrest => injection h with h; injection h with hs _; subst hs; exact ih hrest
    · exact absurd h nofun
    · next hread =>
      split at h
      · exact absurd h nofun
      · next hrest => injection h with h; injection h with hs _; subst hs; exact (readAtIssue_peeked hread).trans (ih hrest)

/-- t is s with n records placed on slots or queued on a die (R119). -/
structure Spawned (die n : Nat) (s t : State) : Prop where
  device : t = { s with slot := t.slot, others := t.others, dies := t.dies, inflight := t.inflight }
  task : t.t = s.t
  count : t.inflight.length + (t.dieAt die).spawnq.length = s.inflight.length + (s.dieAt die).spawnq.length + n

theorem Spawned.trans {die m n : Nat} {s t u : State} (h : Spawned die m s t) (h' : Spawned die n t u) : Spawned die (m + n) s u := by
  refine ⟨?_, h'.task.trans h.task, by rw [h'.count, h.count, Nat.add_assoc]⟩
  have hd := h'.device
  rw [h.device] at hd
  exact hd

/-- A reservation is no matter of the task. -/
theorem updSlot_reserve_task (s : State) (n : Nat) (r : Option Reserve) : (s.updSlot n (fun x => { x with reserve := r })).t = s.t := by
  unfold State.t State.updSlot State.setSlot
  split
  · next h => rw [State.slotAt, if_pos h]
  · rfl

/-- A record is either placed on a slot, which is reserved for it, or put at the end of the die's spawn queue. -/
theorem placeRecord_cases (core ctx dom : Nat) (s : State) (r : List Word) :
    (∃ n, placeRecord core ctx dom s r
      = { (s.updSlot n (fun x => { x with reserve := some (.tspawn r) })).setDie (core / 512)
            { s.dieAt (core / 512) with lastPlace := some (clusterOf n) } with
          inflight := s.inflight ++ [{ core := coreOf n, record := r, slot := none, ctx := ctx }] })
    ∨ placeRecord core ctx dom s r = s.setDie (core / 512) { s.dieAt (core / 512) with
        spawnq := (s.dieAt (core / 512)).spawnq ++ [(r, dom, core, ctx)] } := by
  unfold placeRecord
  dsimp only
  split
  · next n _ =>
    refine .inl ⟨n, ?_⟩
    have hdie := updSlot_dieAt s n (fun x => { x with reserve := some (.tspawn r) }) (core / 512)
    have hinflight : (s.updSlot n (fun x => { x with reserve := some (.tspawn r) })).inflight = s.inflight := by rw [updSlot_device]
    rw [hdie, ← hinflight]
    rfl
  · exact .inr rfl

theorem placeRecord_spawned (core ctx dom : Nat) (s : State) (r : List Word) : Spawned (core / 512) 1 s (placeRecord core ctx dom s r) := by
  obtain ⟨n, hp⟩ | hp := placeRecord_cases core ctx dom s r
  · rw [hp]
    refine ⟨by rw [updSlot_device]; rfl, updSlot_reserve_task s n _, ?_⟩
    change (s.inflight ++ [_]).length + ((State.setDie _ (core / 512) _).dieAt (core / 512)).spawnq.length = _
    rw [State.dieAt_setDie, if_pos rfl, List.length_append, List.length_singleton]
    dsimp only
    omega
  · rw [hp]
    refine ⟨rfl, rfl, ?_⟩
    rw [State.dieAt_setDie, if_pos rfl]
    simp only [List.length_append, List.length_singleton]
    exact (Nat.add_assoc _ _ _).symm

theorem foldl_placeRecord_spawned (core ctx dom : Nat) (l : List (List Word)) (s : State) :
    Spawned (core / 512) l.length s (l.foldl (placeRecord core ctx dom) s) := by
  induction l generalizing s with
  | nil => exact ⟨rfl, rfl, rfl⟩
  | cons r l ih =>
    rw [List.length_cons, Nat.add_comm]
    exact (placeRecord_spawned core ctx dom s r).trans (ih _)

theorem exec_tspawn (rd ra rb : Reg) (sw : Bool) (s : State) : exec (.tspawn rd ra rb sw) s
    = issue (.tspawn rd ra rb sw) sw (use2 rd ra rb) (fun v s => tspawnAt rd v.a v.b s) s := rfl

/-- The records of 1 to 32 rows. -/
def goodTile (r : List Word) : Bool := decide (1 ≤ rowCount r) && decide (rowCount r ≤ 32)

/-- A TSPAWN whose records pass their checks, with room for those that count, places or queues them. -/
theorem tspawnAt_spawns {rd : Reg} {a count : Word} {s s1 s2 : State} {rs : List (List Word)} (hrel : released s = true)
    (hc : checkTiles s a (min count.toNat 1024) = .ok s1) (hr : readTiles s1 a (min count.toNat 1024) = .ok (s2, rs))
    (hroom : rs.countP goodTile = 0 ∨ (s2.dieAt s2.die).spawnq.length + rs.countP goodTile ≤ 1024) :
    tspawnAt rd a count s = result ((rs.filter goodTile).foldl (placeRecord s2.core s2.asker.ctx s2.t.stealdom.toNat) s2) rd
      (BitVec.ofNat 64 (rs.countP (fun r => decide (32 < rowCount r)) * 4294967296 + rs.countP goodTile)) := by
  rw [List.countP_eq_length_filter, List.countP_eq_length_filter]
  rw [List.countP_eq_length_filter] at hroom
  have hpark : ((rs.filter goodTile).length ≠ 0 && (s2.dieAt s2.die).spawnq.length + (rs.filter goodTile).length > 1024) = false := by
    rw [Bool.and_eq_false_iff, decide_eq_false_iff_not, decide_eq_false_iff_not]
    omega
  simp only [tspawnAt, hrel, hc, hr, Bool.not_true, Bool.false_eq_true, if_false]
  exact if_neg (Bool.not_eq_true _ ▸ hpark)

/-! ## The obligation -/

/-- Settles O29: the checks of a gate only read, so that it is decided on the counter as it was; each record of a tile is placed or queued
once. -/
theorem gatesAndTileRecords : Obligations.GatesAndTileRecords := by
  refine ⟨?_, ?_⟩
  case refine_1 =>
    intro rd ra rb sw v pa fl p s s0 s1 s2 hs ha hplain hrel hrec hctr hdata hread
    have hi : Issues (.tgate rd ra rb sw) { a := some ra, b := some rb, c := some rd, d := [rd] } s s _ :=
      issues_plain hs (by simp [ha]) (by simpa [Use.reads] using hplain) rfl rfl rfl (by simp)
    have hrd : plainCode s.t rd = true := hplain rd (by simp)
    obtain ⟨hpk, hdec⟩ := tgateAt_decides (rd := rd) (v := plainVals s.t { a := some ra, b := some rb, c := some rd, d := [rd] })
      (s := advanced s s) (released_advanced s ▸ hrel) hrec hctr hdata hread
    change _ = gateAt rd pa (plainRead s.t rd) (wordsOf v 8) s2 at hdec
    have htask : s2.t = (advanced s s).t := hpk.task
    rw [exec_tgate]
    refine ⟨fun hfull => ?_, fun hroom hb => ?_⟩
    · rw [gateAt_full hpk hfull] at hdec
      obtain ⟨t, hex, hpc, hval, hcodes, hdev⟩ := issue_results (sw := sw) hs hi rfl rfl hrd htask hdec
      refine ⟨t, hex, hpc, hval, hcodes, ?_, ?_, fun a => readByte_congr ?_ a⟩
      · rw [hdev]; exact hpk.gates _
      · rw [hdev]; exact hpk.inflight
      · rw [hdev]; exact hpk.mem
    · by_cases hmet : (plainRead s.t rd).toNat ≤ readNat s pa 8
      · rw [gateAt_met hpk hroom hb hmet] at hdec
        obtain ⟨t, hex, hpc, hval, hcodes, hdev⟩ := issue_results (sw := sw) hs hi rfl rfl hrd (by exact htask) hdec
        refine ⟨t, hex, hpc, hval, hcodes, fun a => readByte_congr ?_ a, fun _ => ⟨?_, ?_⟩, fun hlt => absurd hmet (Nat.not_le.2 hlt)⟩
        · rw [hdev]; exact hpk.mem
        · rw [hdev]; rfl
        · rw [hdev]; exact hpk.gates _
      · have hlt := Nat.not_le.1 hmet
        rw [gateAt_waits hpk hroom hb hlt] at hdec
        obtain ⟨t, hex, hpc, hval, hcodes, hdev⟩ := issue_results (sw := sw) hs hi rfl rfl hrd (by exact htask) hdec
        refine ⟨t, hex, hpc, hval, hcodes, fun a => readByte_congr ?_ a, fun h => absurd h hmet, fun _ => ⟨?_, ?_⟩⟩
        · rw [hdev]; exact hpk.mem
        · rw [hdev]; exact hpk.inflight
        · rw [hdev, State.clusterAt]
          exact congrArg Cluster.gates ((State.clusterAt_setCluster _ _ _ _).trans (if_pos rfl))
  case refine_2 =>
    intro rd ra rb sw rs s s1 s2 hs ha hplain hrel hchecks hreads good hroom
    rw [exec_tspawn]
    have hi : Issues (.tspawn rd ra rb sw) (use2 rd ra rb) s s _ :=
      issues_plain hs (by simp [ha]) (by simpa [Use.reads, use2] using hplain) rfl rfl rfl (by simp [use2])
    have hpk := (checkTiles_peeked hchecks).trans (readTiles_peeked hreads)
    have hspawn := tspawnAt_spawns (rd := rd) (s := advanced s s) (released_advanced s ▸ hrel) hchecks hreads (by rw [hpk.die]; exact hroom)
    have hdie : s2.core / 512 = s.die := by
      rw [hpk.core]
      simp only [State.core, State.die, coreOf, dieOf, Nat.div_div_eq_div_mul]
      rfl
    have hplaced := foldl_placeRecord_spawned s2.core s2.asker.ctx s2.t.stealdom.toNat (rs.filter goodTile) s2
    rw [hdie, ← List.countP_eq_length_filter] at hplaced
    obtain ⟨t, hex, hpc, hval, hcodes, hdev⟩ := issue_results (sw := sw) (body := fun v s => tspawnAt rd v.a v.b s) hs hi rfl rfl
      (hplain rd (by simp)) (hplaced.task.trans hpk.task) hspawn
    refine ⟨t, hex, hpc, hval, ?_, hcodes, fun a => readByte_congr ?_ a⟩
    · rw [hdev]
      exact hplaced.count
    · rw [hdev, hplaced.device]

end Sys2Proof.Machine
end

section
/-! What the effects of the task instructions rest on: addresses at the next instruction, completion and parking, nested starts, and slots that
become idle (R62, R64, R113, R124, R133, R371). -/
namespace Sys2Proof.Machine

/-! ## The checks of an address do not look at the task -/

theorem walkLevel_setT (s : State) (t : Task) (core ctx va fuel level pa : Nat) :
    walkLevel (s.setT t) core ctx va fuel level pa = walkLevel s core ctx va fuel level pa := by
  induction fuel generalizing level pa with
  | zero => rfl
  | succ fuel ih =>
    have hread (a : Nat) : readNat (s.setT t) a 8 = readNat s a 8 := readNat_congr rfl a 8
    simp only [walkLevel, hread, ih]

theorem walkEntries_setT (s : State) (t : Task) (va fuel level pa : Nat) :
    walkEntries (s.setT t) va fuel level pa = walkEntries s va fuel level pa := by
  induction fuel generalizing level pa with
  | zero => rfl
  | succ fuel ih =>
    have hread (a : Nat) : readNat (s.setT t) a 8 = readNat s a 8 := readNat_congr rfl a 8
    simp only [walkEntries, hread, ih]

theorem foldl_noteRead_setT (f : Nat → EccEvent) (l : List Nat) (s : State) (t : Task) :
    l.foldl (fun a p => noteRead a f p 8) (s.setT t) = (l.foldl (fun a p => noteRead a f p 8) s).setT t := by
  induction l generalizing s with
  | nil => rfl
  | cons p l ih => exact ih (noteRead s f p 8)

theorem noteWalk_setT (s : State) (t : Task) (core ctx va : Nat) : noteWalk (s.setT t) core ctx va = (noteWalk s core ctx va).setT t := by
  unfold noteWalk
  dsimp only
  rw [walkEntries_setT, foldl_noteRead_setT]
  exact (apply_ite (fun a : State => a.setT t) _ _ _).symm

/-- A task taken into the state that a read leaves. -/
def withTask {α : Type} (t : Task) (r : State × α) : State × α := (r.1.setT t, r.2)

theorem translate_setT (s : State) (t : Task) (core ctx va : Nat) :
    translate (s.setT t) core ctx va = (translate s core ctx va).map (withTask t) := by
  have hfind : tlbFind (s.setT t) core ctx va = tlbFind s core ctx va := rfl
  have hwalk : walk (s.setT t) core ctx va = walk s core ctx va := by
    unfold walk
    dsimp only
    rw [walkLevel_setT]
    rfl
  have hnote (l : List TlbEntry) : noteWalk { s.setT t with tlb := l } core ctx va = (noteWalk { s with tlb := l } core ctx va).setT t :=
    noteWalk_setT { s with tlb := l } t core ctx va
  unfold translate
  rw [hfind, hwalk]
  cases tlbFind s core ctx va with
  | some e =>
    dsimp only
    split <;> rfl
  | none =>
    cases walk s core ctx va with
    | none => rfl
    | some e =>
      dsimp only [Option.map]
      rw [hnote]
      split <;> rfl

theorem translateFor_setT (s : State) (t : Task) (who : Asker) (va : Nat) (w : Bool) :
    translateFor (s.setT t) who va w = (translateFor s who va w).map (withTask t) := by
  unfold translateFor
  rw [translate_setT]
  cases translate s who.core who.ctx va with
  | none => rfl
  | some r =>
    dsimp only [Option.map, withTask]
    split <;> rfl

/-- An address names the same place whatever the task in force (R133). -/
theorem locate_setT (s : State) (t : Task) (who : Asker) (k : Access) (a : Word) (size align : Nat) (sc : Option (BitVec 2)) (q : BitVec 2) :
    locate (s.setT t) who k a size align sc q = (locate s who k a size align sc q).map (withTask t) := by
  unfold locate
  rw [State.setT_devid]
  split
  · rfl
  split
  · rfl
  split
  · rfl
  split
  · rfl
  split
  case h_1 | h_2 | h_3 =>
    rw [translateFor_setT]
    cases translateFor s who (bitsOf a 0 45) _ <;> rfl
  all_goals rfl

/-- The place that an address names is also named at the next instruction. -/
theorem locate_advanced {s s' : State} {k : Access} {a : Word} {size align : Nat} {sc : Option (BitVec 2)} {q : BitVec 2} {p : Place}
    (h : locate s s.asker k a size align sc q = .ok (s', p)) :
    locate (advanced s s) (advanced s s).asker k a size align sc q = .ok (s'.setT (advanced s s).t, p) :=
  (locate_setT s _ s.asker k a size align sc q).trans (by rw [h]; rfl)

/-! ## An instruction that completes or parks with the task as it was -/

/-- The task goes on at the next instruction, and nothing else of what a program sees of it has changed. -/
structure GoesOn (s t : State) : Prop where
  pc : t.t.pc = s.t.pc + 4
  codes : sameCodes s t
  special : sameSpecial s t
  tiles : sameTiles s t
  flags : sameFlags s t
  mask : sameMask s t
  frames : sameFrames s t

/-- An effect that has left the task as it was at issue. -/
theorem Completed.goesOn {s s2 t : State} (h : Completed s2 t) (ht : s2.t = (advanced s s).t) : GoesOn s t := by
  refine ⟨by rw [h.pc, ht]; rfl, fun r => ?_, ?_, ?_, ?_, ?_, ?_⟩
  · rw [h.codes, ht, plainRead_advanced]
  · have hs := h.special; unfold sameSpecial at hs ⊢; rw [ht] at hs; exact hs
  · have hs := h.tiles; unfold sameTiles at hs ⊢; rw [ht] at hs; exact hs
  · have hs := h.flags; unfold sameFlags at hs ⊢; rw [ht] at hs; exact hs
  · have hs := h.mask; unfold sameMask at hs ⊢; rw [ht] at hs; exact hs
  · have hs := h.frame; unfold sameFrames at hs ⊢; rw [ht] at hs; exact hs

theorem GoesOn.data {s t : State} (h : GoesOn s t) (hm : t.mem = s.mem) : keepsData s t :=
  ⟨h.codes, h.special, h.tiles, h.flags, fun a => readByte_congr hm a⟩

/-- An instruction that is forwarded to none completes, and then waits at most for its own results (R86, R121). -/
theorem issue_completed_unforwarded {i : Instr} {sw : Bool} {u : Use} {v : Vals} {s s1 s2 : State} {body : Vals → State → Eff}
    (hi : Issues i u s s1 v) (hl : s.t.follows = false) (hf : (forwardTo s.t).filter (fun n => s2.t.followers.contains n) = [])
    (hr : u.ret = false) (hk : u.keepPfx = false) (hb : body v (advanced s s1) = .ok s2) (hw : s2.t.wait = none) :
    ∃ t, issue i sw u body s = .next t ∧ Completed s2 t ∧ (t.t.wait = none ∨ t.t.wait = some .marker) := by
  obtain ⟨hc, hwait⟩ := complete_unforwarded (s0 := s) (s := s2) i.word sw (u := u) hl hf hr hk
  obtain ⟨cs, hissued, hports⟩ := issued_frame sw (complete i.word sw u s s2)
  have hex := issue_ok hi sw hb
  rw [conclude_completes (by simp [hw]) (by simp [hw]), hissued] at hex
  refine ⟨_, hex, ⟨hc.task, hc.slot, ?_, fun c => (hports c).trans (hc.ports c)⟩, ?_⟩
  · have hdev := hc.device
    generalize complete i.word sw u s s2 = c at *
    rw [hdev]
  · obtain hwait | ⟨-, hwait⟩ := hwait
    · exact .inl (hwait.trans hw)
    · exact .inr hwait

/-- t is s with the slot in force parked at a PC (R130). -/
structure Parks (s : State) (pc : Pc) (w : Wait) (t : State) : Prop where
  task : ∃ word m, t.t = { s.t with pc := pc, waitWord := word, wait := some w, met := m }
  device : t = { s with slot := t.slot, cores := t.cores, watches := t.watches }

theorem parkOn_parks (s : State) (w : Wait) : ∃ m, (parkOn s w).t = { s.t with wait := some w, met := m }
    ∧ parkOn s w = { s with slot := (parkOn s w).slot, watches := (parkOn s w).watches } := by
  unfold parkOn
  cases watchHome s w with
  | none => exact ⟨_, rfl, rfl⟩
  | some h => exact ⟨_, rfl, rfl⟩

theorem issue_parks {i : Instr} {sw : Bool} {u : Use} {v : Vals} {s s2 : State} {w : Wait} {body : Vals → State → Eff}
    (hi : Issues i u s s v) (hb : body v (advanced s s) = .error (.park s2 w)) :
    ∃ t, issue i sw u body s = .next t ∧ Parks s2 s.t.pc w t := by
  obtain ⟨m, htask, hdev⟩ := parkOn_parks (s2.setT { s2.t with pc := s.t.pc, waitWord := i.word }) w
  have hex : issue i sw u body s = .next (stopped i.word sw u s s (.park s2 w)) := by rw [issue_of_issues hi sw body, hb]
  refine ⟨_, hex, ⟨i.word, m, htask⟩, ?_⟩
  rw [stopped, issued, hdev]
  rfl

section
variable {s t : State} {p : Pc} {w : Wait} (h : Parks s p w t)
include h

theorem Parks.pc : t.t.pc = p := by obtain ⟨_, _, ht⟩ := h.task; rw [ht]
theorem Parks.wait : t.t.wait = some w := by obtain ⟨_, _, ht⟩ := h.task; rw [ht]
theorem Parks.followers : t.t.followers = s.t.followers := by obtain ⟨_, _, ht⟩ := h.task; rw [ht]
theorem Parks.mem : t.mem = s.mem := by rw [h.device]

end

/-- An instruction that parks with the task as it was at issue has kept what a program sees. -/
theorem Parks.data {s s2 t : State} {pc : Pc} {w : Wait} (h : Parks s2 pc w t) (ht : s2.t = (advanced s s).t) (hm : s2.mem = s.mem) :
    keepsData s t := by
  obtain ⟨word, m, htask⟩ := h.task
  rw [ht] at htask
  refine ⟨fun r => plainRead_congr r ?_ ?_ ?_ ?_ ?_, ?_, ?_, ?_, fun a => readByte_congr (h.mem.trans hm) a⟩
  case refine_6 => unfold sameSpecial; rw [htask]; simp [advanced]
  case refine_7 => rw [sameTiles, htask]; rfl
  case refine_8 => rw [sameFlags, htask]; rfl
  all_goals (rw [htask]; rfl)

/-! ## Nested starts -/

/-- t's task is s's but for the frames that have been spilled from the window. -/
def SpilledTask (s t : State) : Prop := ∃ fs n p, t.t = { s.t with frames := fs, spilled := n, spillp := p }

theorem SpilledTask.trans {s t u : State} (h : SpilledTask s t) (h' : SpilledTask t u) : SpilledTask s u := by
  obtain ⟨_, _, _, h1⟩ := h
  obtain ⟨fs, n, p, h2⟩ := h'
  exact ⟨fs, n, p, by rw [h2, h1]⟩

theorem SpilledTask.wait {s t : State} (h : SpilledTask s t) : t.t.wait = s.t.wait := by obtain ⟨_, _, _, ht⟩ := h; rw [ht]

theorem spillOldest_task {s s1 : State} (h : spillOldest s = some s1) (hw : s.t.wait = none) : SpilledTask s s1 := by
  cases hf : s.t.frames.reverse with
  | nil => simp [spillOldest, hf] at h
  | cons f rest =>
    cases rest with
    | nil => simp [spillOldest, hf] at h
    | cons g rest =>
      have hroom : s.t.spillPtr + 8 * (entriesUp f.base g.base + 1) ≤ s.t.spillLimit := by
        refine Nat.le_of_not_lt fun hfull => ?_
        rw [spillOldest_none hf hfull] at h
        exact absurd h nofun
      obtain ⟨s2, hs2, hsp⟩ := spillOldest_some hf hroom hw
      rw [h] at hs2
      injection hs2 with hs2
      subst hs2
      exact ⟨_, _, _, by rw [State.t, hsp.slot]; rfl⟩

theorem spillFor_task {fuel size extra frames : Nat} {s s1 : State} (h : spillFor fuel s size extra frames = some s1)
    (hw : s.t.wait = none) : SpilledTask s s1 := by
  induction fuel generalizing s with
  | zero => exact absurd h nofun
  | succ fuel ih =>
    rw [spillFor] at h
    split at h
    · injection h with h; subst h; exact ⟨_, _, _, rfl⟩
    · split at h
      · exact absurd h nofun
      · next ho =>
        have ht := spillOldest_task ho hw
        exact ht.trans (ih h (ht.wait.trans hw))

/-- What a slot runs once a nested run of a record has started (R62, R113). -/
structure RunsNested (s : State) (ret : Pc) (r : List Word) (t : State) : Prop where
  wait : t.t.wait = none
  pc : t.t.pc = recPc r
  runs : t.t.runs = { record := r, given := true, ibRead := 0 } :: s.t.runs
  frame : ∃ b, t.t.frame = { base := b, size := 8, ret := ret, kind := .nested }
  payload : ∀ j : Nat, j < 6 → plainRead t.t (BitVec.ofNat 6 (8 + j)) = r.getD (2 + j) 0

/-- The frame of a nested run, above the current one. -/
def nestedFrame (t : Task) (ret : Pc) : Frame := { base := (t.frame.base + t.frame.size) % 128, size := 8, ret := ret, kind := .nested }

/-- A task with a nested frame that holds a payload. -/
def nestedTask (t : Task) (ret : Pc) (payload : List Word) : Task :=
  fillWin { t with frames := nestedFrame t ret :: t.frames } (nestedFrame t ret).base 8 (fun i => payload.getD i 0)

theorem nestedTask_window (t : Task) (ret : Pc) (payload : List Word) :
    ∃ w, nestedTask t ret payload = { t with frames := nestedFrame t ret :: t.frames, win := w } := fillWin_frame _ _ _ _

theorem nestedTask_frame (t : Task) (ret : Pc) (payload : List Word) : (nestedTask t ret payload).frame = nestedFrame t ret := by
  obtain ⟨w, hw⟩ := nestedTask_window t ret payload
  rw [hw]
  rfl

theorem plainRead_nestedTask (t : Task) (ret : Pc) (payload : List Word) {j : Nat} (hj : j < 8) :
    plainRead (nestedTask t ret payload) (BitVec.ofNat 6 (8 + j)) = payload.getD j 0 := by
  rw [plainRead_windowed _ (by omega), nestedTask_frame]
  exact getWin_fillWin_inside _ (nestedFrame t ret).base 8 j _ hj (by omega)

theorem pushNested_some {s s2 : State} {ret : Pc} {payload : List Word} (h : pushNested s ret payload = some s2) :
    ∃ s1, spillFor 65 s s.t.frame.size 8 1 = some s1 ∧ s2 = s1.setT (nestedTask s1.t ret payload) := by
  unfold pushNested at h
  split at h
  · exact absurd h nofun
  · split at h
    · exact absurd h nofun
    · next s1 hs1 =>
      injection h with h
      exact ⟨s1, hs1, h.symm⟩

theorem pushNested_resident {s : State} (ret : Pc) (payload : List Word) (hd : s.t.depth < 65535) (hr : s.t.resident ≤ 120)
    (hl : s.t.frames.length < 64) : pushNested s ret payload = some (s.setT (nestedTask s.t ret payload)) := by
  unfold pushNested
  rw [if_neg (by omega), spillFor_fits ⟨by unfold Task.resident at hr; omega, hl⟩]
  rfl

theorem startNested_runs {s s2 : State} {ret : Pc} {r : List Word} (h : startNested s ret r = some s2) (hw : s.t.wait = none) :
    RunsNested s ret r s2 := by
  obtain ⟨s3, hpush, hs2⟩ := Option.map_eq_some_iff.1 h
  obtain ⟨s1, hspill, hs3⟩ := pushNested_some hpush
  obtain ⟨_, _, _, ht⟩ := spillFor_task hspill hw
  obtain ⟨w, hnest⟩ := nestedTask_window s1.t ret (recPayload r)
  have hdrop (j : Nat) : (recPayload r).getD j 0 = r.getD (2 + j) 0 := by simp [recPayload, List.getD]
  have hread (j : Nat) (hj : j < 6) := plainRead_nestedTask s1.t ret (recPayload r) (j := j) (by omega)
  subst hs2 hs3
  rw [hnest] at hread
  rw [State.t_setT, hnest]
  refine ⟨?_, rfl, ?_, ⟨_, rfl⟩, fun j hj => (hread j hj).trans (hdrop j)⟩
  · change s1.t.wait = none
    rw [ht]; exact hw
  · change _ :: s1.t.runs = _
    rw [ht]

/-! ## A slot that becomes idle (R371) -/

/-- t is s after a slot, of no population, has given up its task. -/
structure Idled (n : Nat) (s t : State) : Prop where
  device : t = { s with
    slot := t.slot, others := t.others, clusters := t.clusters, dies := t.dies, held := t.held, remote := t.remote, replies := t.replies,
    watches := t.watches }
  others : ∀ m, m ≠ n → t.slotAt m = s.slotAt m
  phase : (t.slotAt n).phase = .idle
  task : (t.slotAt n).t = (s.slotAt n).t.idle
  stores : ∀ m, m ≠ n → outstandingStores s m = false → outstandingStores t m = false

theorem Idled.cur {n : Nat} {s t : State} (h : Idled n s t) : t.cur = s.cur := by rw [h.device]
theorem Idled.mem {n : Nat} {s t : State} (h : Idled n s t) : t.mem = s.mem := by rw [h.device]

/-- Outside a population, what a slot gives up leaves memory and every slot as they are; the devices that hold its maps are told. -/
theorem giveUp_device {s : State} {n : Nat} (h : (s.slotAt n).t.popOf = none) :
    giveUp s n = { s with clusters := (giveUp s n).clusters, dies := (giveUp s n).dies, remote := (giveUp s n).remote }
    ∧ ∃ l, (giveUp s n).remote = s.remote ++ l ∧ ∀ r ∈ l, r.eng.isNone = false := by
  unfold giveUp leavePopulation
  dsimp only
  split
  · refine ⟨rfl, _, rfl, fun r hr => ?_⟩
    obtain ⟨d, _, rfl⟩ := List.mem_map.1 hr
    rfl
  · next hp => exact absurd (h.symm.trans hp) nofun

/-- The accesses of other slots stay as they are. -/
theorem mem_forgetResults_held {s : State} {n : Nat} {h : Held} (hm : h ∈ (forgetResults s n).held) (hn : h.slot ≠ n) : h ∈ s.held := by
  obtain ⟨g, hg, rfl⟩ := List.mem_map.1 hm
  have hslot : g.slot ≠ n := by simpa only [apply_ite Held.slot, ite_self] using hn
  simpa [hslot] using hg

theorem mem_forgetResults_remote {s : State} {n : Nat} {r : Remote} (hm : r ∈ (forgetResults s n).remote) (hn : r.slot ≠ n) :
    r ∈ s.remote := by
  obtain ⟨g, hg, rfl⟩ := List.mem_map.1 hm
  have hslot : g.slot ≠ n := by simpa only [apply_ite Remote.slot, ite_self] using hn
  simpa [hslot] using hg

/-- The slot with its task gone. -/
def idledSlot (x : Slot) : Slot := { x with phase := .idle, t := x.t.idle, searched := false, served := false }

theorem idleTask_eq (s : State) (n : Nat) : idleTask s n = (forgetResults (dropWatch (giveUp s n) n) n).updSlot n idledSlot := rfl

/-- A write to a slot is no access. -/
theorem updSlot_accesses (s : State) (n : Nat) (f : Slot → Slot) :
    (s.updSlot n f).held = s.held ∧ (s.updSlot n f).remote = s.remote := by
  rw [updSlot_device]
  exact ⟨rfl, rfl⟩

/-- A slot has no store outstanding when another state has its accesses, at most, and its task. -/
theorem outstandingStores_mono {s t : State} {m : Nat} (ht : (t.slotAt m).t = (s.slotAt m).t) (hh : ∀ g ∈ t.held, g.slot = m → g ∈ s.held)
    (hr : ∀ g ∈ t.remote, g.slot = m → g.eng.isNone = true → g ∈ s.remote) (h : outstandingStores s m = false) :
    outstandingStores t m = false := by
  unfold outstandingStores at h ⊢
  dsimp only at h ⊢
  rw [ht]
  simp only [Bool.or_eq_false_iff] at h ⊢
  obtain ⟨⟨⟨⟨hheld, hremote⟩, hpend⟩, hpulled⟩, hfar⟩ := h
  refine ⟨⟨⟨⟨List.any_eq_false.2 fun g hg hp => ?_, List.any_eq_false.2 fun g hg hp => ?_⟩, hpend⟩, hpulled⟩, hfar⟩
  · have hp' := hp
    simp only [Bool.and_eq_true, decide_eq_true_eq] at hp'
    obtain ⟨⟨hslot, _⟩, _⟩ := hp'
    exact List.any_eq_false.1 hheld g (hh g hg hslot) hp
  · have hp' := hp
    rw [Bool.and_eq_true, Bool.and_eq_true, decide_eq_true_eq] at hp'
    obtain ⟨⟨hslot, heng⟩, _⟩ := hp'
    exact List.any_eq_false.1 hremote g (hr g hg hslot heng) hp

theorem idleTask_idled {s : State} {n : Nat} (h : (s.slotAt n).t.popOf = none) : Idled n s (idleTask s n) := by
  obtain ⟨hdev, l, hremote, hl⟩ := giveUp_device h
  rw [idleTask_eq]
  generalize giveUp s n = g at *
  obtain ⟨hheld', hremote'⟩ := updSlot_accesses (forgetResults (dropWatch g n) n) n idledSlot
  have hheld : g.held = s.held := by rw [hdev]
  have hslots (m : Nat) : (forgetResults (dropWatch g n) n).slotAt m = s.slotAt m := by
    change g.slotAt m = _
    rw [hdev]
    rfl
  have hother (m : Nat) (hm : m ≠ n) : ((forgetResults (dropWatch g n) n).updSlot n idledSlot).slotAt m = s.slotAt m := by
    rw [slotAt_updSlot, if_neg hm, hslots]
  have hself : ((forgetResults (dropWatch g n) n).updSlot n idledSlot).slotAt n = idledSlot (s.slotAt n) := by
    rw [slotAt_updSlot, if_pos rfl, hslots]
  refine ⟨?_, hother, by rw [hself]; rfl, by rw [hself]; rfl, fun m hm => ?_⟩
  · rw [updSlot_device, forgetResults, dropWatch, hdev]
  · refine outstandingStores_mono (by rw [hother m hm]) (fun a ha hslot => ?_) (fun a ha hslot heng => ?_)
    · rw [hheld'] at ha
      exact hheld ▸ mem_forgetResults_held ha (by omega)
    · rw [hremote'] at ha
      have ha' : a ∈ g.remote := mem_forgetResults_remote ha (by omega)
      rw [hremote, List.mem_append] at ha'
      exact ha'.resolve_right fun hin => absurd (heng.symm.trans (hl a hin)) nofun

end Sys2Proof.Machine
end

section
/-! FORK, JOIN, SPAWN, RETIRE, YIELD, STRAND and UNSTRAND (R113 to R117, R120, R351, R353, R370, R382, R385, R386, R410). -/
namespace Sys2Proof.Machine

theorem exec_fork (ra : Reg) (sw : Bool) (s : State) :
    exec (.fork ra sw) s = issue (.fork ra sw) sw { a := some ra } (fun v s => forkAt v.a s) s := rfl

theorem exec_join (ra rb : Reg) (sw : Bool) (s : State) :
    exec (.join ra rb sw) s = issue (.join ra rb sw) sw { a := some ra, b := some rb } (fun v a => joinAt s.t.pc v.a v.b a) s := rfl

theorem exec_spawn (ra rb : Reg) (sw : Bool) (s : State) :
    exec (.spawn ra rb sw) s = issue (.spawn ra rb sw) sw { a := some ra, b := some rb } (fun v s => spawnAt v.a v.b s) s := rfl

theorem exec_retire (sw : Bool) (s : State) :
    exec (.retire sw) s = issue (.retire sw) sw { control := true } (fun _ s => retireAt s) s := rfl

/-- What YIELD and UNSTRAND do once they issue. -/
def yieldAt (s : State) : Eff :=
  if s.t.prio.toNat < 4 || s.t.nested || s.t.inStrand then .ok s else .ok (s.setT { s.t with yielded := true })
def unstrandAt (s : State) : Eff := if strandNop s.t then .ok s else releaseStrand s

theorem exec_yield (sw : Bool) (s : State) : exec (.yield sw) s = issue (.yield sw) sw {} (fun _ s => yieldAt s) s := rfl

theorem exec_strand (ra : Reg) (sw : Bool) (s : State) :
    exec (.strand ra sw) s = issue (.strand ra sw) sw { a := some ra, control := true } (fun v s => strandAt v.a s) s := rfl

theorem exec_unstrand (sw : Bool) (s : State) :
    exec (.unstrand sw) s = issue (.unstrand sw) sw { control := true } (fun _ s => unstrandAt s) s := rfl

/-- A slot in no strand. -/
theorem inStrand_calm {s : State} (hs : Calm s) : (advanced s s).t.inStrand = false := by
  have hl : (advanced s s).t.leader = none := hs.no_leader
  have hf : (advanced s s).t.followers = [] := hs.no_followers
  simp [Task.inStrand, hl, hf]

/-! ## FORK -/

/-- FORK reads its record, and then pushes it, discards it or runs it (R351). -/
def forkRecord (s : State) (r : List Word) : Eff :=
  if dqCount (s.coreAt s.core) < dqMask (s.coreAt s.core) then .ok (dqPush s s.core r)
  else if s.t.inStrand then .error (.park s .dequeRoom)
  else if !recordValid r then .ok (countDiscard s s.die)
  else if nestBlocked s then .error .stall
  else match startNested s s.t.pc r with
    | none => .error (.trap .stack 0)
    | some s2 => .ok s2

theorem forkAt_reads {a : Word} {v : Nat} {s s1 : State} (hrel : released s = true) (hal : a.toNat % 64 = 0) (hown : ownTcm s a = true)
    (hread : readAtIssue s .record a 64 64 = .ok (s1, v)) : forkAt a s = forkRecord s1 (wordsOf v 8) := by
  simp only [forkAt, hrel, hal, hown, hread, Bool.not_true, Bool.false_eq_true, if_false, ne_eq, not_true_eq_false]
  rfl

/-- A push writes the record at the bottom of the deque, which goes on. -/
theorem dqPush_pushes {s : State} {core : Nat} {r : List Word} (hr : r.length = 8) (hw : s.t.wait = none) :
    (dqPush s core r).t = s.t
    ∧ (dqPush s core r).coreAt core = { s.coreAt core with dqbot := BitVec.ofNat 64 (((s.coreAt core).dqbot.toNat + 1) % 4294967296) }
    ∧ readWords (dqPush s core r) (dqAddr core (s.coreAt core) (s.coreAt core).dqbot.toNat) 8 = r
    ∧ sameOutside s (dqPush s core r) (dqAddr core (s.coreAt core) (s.coreAt core).dqbot.toNat) 64 := by
  obtain ⟨s1, hs1⟩ : ∃ s1, s1 = s.setCore core { s.coreAt core with dqbot := BitVec.ofNat 64 (((s.coreAt core).dqbot.toNat + 1) % 2 ^ 32) } :=
    ⟨_, rfl⟩
  have hpush : dqPush s core r = afterWrite (writeWords s1 (dqAddr core (s.coreAt core) (s.coreAt core).dqbot.toNat) r) := by rw [hs1]; rfl
  have hslot : s1.slot = s.slot := by rw [hs1]; rfl
  have hcore : s1.coreAt core = { s.coreAt core with dqbot := BitVec.ofNat 64 (((s.coreAt core).dqbot.toNat + 1) % 4294967296) } := by
    rw [hs1, State.coreAt_setCore, if_pos rfl]
    rfl
  have hmem : s1.mem = s.mem := by rw [hs1]; rfl
  have hwoken := afterWrite_woken (writeWords s1 (dqAddr core (s.coreAt core) (s.coreAt core).dqbot.toNat) r)
  rw [hpush]
  refine ⟨?_, ?_, ?_, fun a ha => ?_⟩
  · rw [State.t, hwoken.slot (by rw [State.t, writeWords_slot, hslot]; exact hw), writeWords_slot, hslot]
  · rw [hwoken.coreAt, writeWords_mem_only]
    exact hcore
  · rw [readWords_congr hwoken.mem]
    have h := readWords_writeWords s1 (dqAddr core (s.coreAt core) (s.coreAt core).dqbot.toNat) r
    rw [hr] at h
    exact h
  · rw [readByte_congr hwoken.mem, readByte_writeWords_outside _ _ _ (by rw [hr]; exact ha), readByte_congr hmem]

theorem countDiscard_discards (s : State) (die : Nat) : ((countDiscard s die).dieAt die).discards = (s.dieAt die).discards + 1 := by
  rw [countDiscard, State.dieAt_setDie, if_pos rfl]

section
variable {s t : State} (h : Completed s t)
include h

/-- A completed instruction leaves the deques, the dies and the phase as its effect has left them. -/
theorem Completed.dqbot (c : Nat) : (t.coreAt c).dqbot = (s.coreAt c).dqbot := by
  have hp : (portless (t.coreAt c)).dqbot = (portless (s.coreAt c)).dqbot := by rw [h.ports]
  exact hp

theorem Completed.dqtop (c : Nat) : (t.coreAt c).dqtop = (s.coreAt c).dqtop := by
  have hp : (portless (t.coreAt c)).dqtop = (portless (s.coreAt c)).dqtop := by rw [h.ports]
  exact hp

theorem Completed.dieAt (d : Nat) : t.dieAt d = s.dieAt d := by rw [h.device]; rfl
theorem Completed.phase : t.slot.phase = s.slot.phase := by obtain ⟨_, hx⟩ := h.slot; rw [hx]
theorem Completed.inflight : t.inflight = s.inflight := by rw [h.device]
theorem Completed.runs : t.t.runs = s.t.runs := by obtain ⟨_, ht⟩ := h.task; rw [ht]
theorem Completed.followers : t.t.followers = s.t.followers := by obtain ⟨_, ht⟩ := h.task; rw [ht]
theorem Completed.member : t.t.member = s.t.member := by obtain ⟨_, ht⟩ := h.task; rw [ht]
theorem Completed.strandDepth : t.t.strandDepth = s.t.strandDepth := by obtain ⟨_, ht⟩ := h.task; rw [ht]
theorem Completed.yielded : t.t.yielded = s.t.yielded := by obtain ⟨_, ht⟩ := h.task; rw [ht]

/-- A slot other than the one in force is as the effect has left it. -/
theorem Completed.slotAt_other {n : Nat} (hn : n ≠ s.cur) : t.slotAt n = s.slotAt n := by
  have hd := h.device
  generalize t.slot = x, t.cores = cs at hd
  subst hd
  rw [State.slotAt, State.slotAt, if_neg hn, if_neg hn]

end

/-- A completed nested start. -/
theorem RunsNested.completed {s s2 t : State} {ret : Pc} {r : List Word} (h : RunsNested s ret r s2) (hc : Completed s2 t) :
    t.t.pc = recPc r ∧ t.t.runs = { record := r, given := true, ibRead := 0 } :: s.t.runs ∧ t.t.frame.kind = .nested ∧ t.t.frame.ret = ret
      ∧ t.t.frame.size = 8 ∧ (∀ j : Nat, j < 6 → plainRead t.t (BitVec.ofNat 6 (8 + j)) = r.getD (2 + j) 0) := by
  obtain ⟨b, hb⟩ := h.frame
  have hframe : t.t.frame = { base := b, size := 8, ret := ret, kind := .nested } := by
    rw [← hb, Task.frame, Task.frame, hc.frames]
  exact ⟨hc.pc.trans h.pc, hc.runs.trans h.runs, by rw [hframe], by rw [hframe], by rw [hframe], fun j hj => (hc.codes _).trans (h.payload j hj)⟩

section
variable {ra : Reg} {v : Nat} {s s1 : State} (hs : Calm s) (ha : s.t.active = true) (hra : plainCode s.t ra = true)
  (hrel : released s = true) (hal : (plainRead s.t ra).toNat % 64 = 0) (hown : ownTcm s (plainRead s.t ra) = true)
  (hread : readAtIssue (advanced s s) .record (plainRead s.t ra) 64 64 = .ok (s1, v))
include hs ha hra hrel hal hown hread

/-- A FORK whose record is read does what forkRecord says, and completes. -/
theorem fork_completes (sw : Bool) {s2 : State} (hrec : forkRecord s1 (wordsOf v 8) = .ok s2) (hw : s2.t.wait = none) :
    ∃ t, exec (.fork ra sw) s = .next t ∧ Completed s2 t := by
  have hi : Issues (.fork ra sw) { a := some ra } s s _ :=
    issues_plain hs (by simp [ha]) (by simpa [Use.reads] using hra) rfl rfl rfl (by simp)
  have hfork := forkAt_reads (s := advanced s s) ((released_advanced s).trans hrel) hal hown hread
  rw [exec_fork]
  exact issue_completed (body := fun v s => forkAt v.a s) hs hi rfl rfl (hfork.trans hrec) hw

/-- A deque with room takes the record. -/
theorem fork_pushes (sw : Bool) (hroom : dqCount (s.coreAt s.core) < dqMask (s.coreAt s.core)) :
    ∃ t, exec (.fork ra sw) s = .next t ∧ t.t.pc = s.t.pc + 4
      ∧ (t.coreAt s.core).dqbot = BitVec.ofNat 64 (((s.coreAt s.core).dqbot.toNat + 1) % 4294967296)
      ∧ (t.coreAt s.core).dqtop = (s.coreAt s.core).dqtop
      ∧ readWords t (dqAddr s.core (s.coreAt s.core) (s.coreAt s.core).dqbot.toNat) 8 = wordsOf v 8
      ∧ sameOutside s t (dqAddr s.core (s.coreAt s.core) (s.coreAt s.core).dqbot.toNat) 64
      ∧ sameCodes s t ∧ sameSpecial s t ∧ sameFrames s t := by
  have hpk := readAtIssue_peeked hread
  have hk : s1.coreAt s.core = s.coreAt s.core := hpk.coreAt _
  have hcore : s1.core = s.core := hpk.core
  have hwait : s1.t.wait = none := by rw [hpk.task]; exact hs.awake
  obtain ⟨ht, hpush, hwords, hout⟩ := dqPush_pushes (core := s.core) (r := wordsOf v 8) rfl hwait
  have hrec : forkRecord s1 (wordsOf v 8) = .ok (dqPush s1 s.core (wordsOf v 8)) := by rw [forkRecord, hcore, hk, if_pos hroom]
  obtain ⟨t, hex, hc⟩ := fork_completes hs ha hra hrel hal hown hread sw hrec (by rw [ht]; exact hwait)
  have hgoes := hc.goesOn (ht.trans hpk.task)
  rw [hk] at hpush hwords hout
  refine ⟨t, hex, hgoes.pc, ?_, ?_, ?_, fun b hb => ?_, hgoes.codes, hgoes.special, hgoes.frames⟩
  · rw [hc.dqbot, hpush]
  · rw [hc.dqtop, hpush]
  · rw [readWords_congr hc.mem]; exact hwords
  · rw [readByte_congr hc.mem, hout b hb, readByte_congr hpk.mem]; rfl

/-- A full deque has the record run at once, as a nested run. -/
theorem fork_nests (sw : Bool) (hfull : dqMask (s.coreAt s.core) ≤ dqCount (s.coreAt s.core)) (hvalid : recordValid (wordsOf v 8) = true)
    (hblock : nestBlocked s1 = false) {s2 : State} (hstart : startNested s1 (s.t.pc + 4) (wordsOf v 8) = some s2) :
    ∃ t, exec (.fork ra sw) s = .next t ∧ t.t.pc = recPc (wordsOf v 8)
      ∧ t.t.runs = { record := wordsOf v 8, given := true, ibRead := 0 } :: s.t.runs
      ∧ t.t.frame.kind = .nested ∧ t.t.frame.ret = s.t.pc + 4 ∧ t.t.frame.size = 8
      ∧ (∀ j : Nat, j < 6 → plainRead t.t (BitVec.ofNat 6 (8 + j)) = (wordsOf v 8).getD (2 + j) 0) := by
  have hpk := readAtIssue_peeked hread
  have hk : s1.coreAt s.core = s.coreAt s.core := hpk.coreAt _
  have hcore : s1.core = s.core := hpk.core
  have hwait : s1.t.wait = none := by rw [hpk.task]; exact hs.awake
  have hpc : s1.t.pc = s.t.pc + 4 := by rw [hpk.task]; rfl
  have hstrand : s1.t.inStrand = false := by rw [hpk.task]; exact inStrand_calm hs
  have hrec : forkRecord s1 (wordsOf v 8) = .ok s2 := by
    rw [forkRecord, hcore, hk, if_neg (Nat.not_lt.2 hfull), hpc, hstart]
    simp [hstrand, hvalid, hblock]
  have hruns := startNested_runs hstart hwait
  obtain ⟨t, hex, hc⟩ := fork_completes hs ha hra hrel hal hown hread sw hrec hruns.wait
  have hdone := hruns.completed hc
  rw [hpk.task] at hdone
  exact ⟨t, hex, hdone⟩

/-- A full deque has an invalid record discarded and counted. -/
theorem fork_discards (sw : Bool) (hfull : dqMask (s.coreAt s.core) ≤ dqCount (s.coreAt s.core))
    (hvalid : recordValid (wordsOf v 8) = false) :
    ∃ t, exec (.fork ra sw) s = .next t ∧ t.t.pc = s.t.pc + 4 ∧ (t.dieAt s.die).discards = (s.dieAt s.die).discards + 1
      ∧ (t.coreAt s.core).dqbot = (s.coreAt s.core).dqbot ∧ keepsData s t := by
  have hpk := readAtIssue_peeked hread
  have hk : s1.coreAt s.core = s.coreAt s.core := hpk.coreAt _
  have hcore : s1.core = s.core := hpk.core
  have hdie : s1.die = s.die := hpk.die
  have hwait : s1.t.wait = none := by rw [hpk.task]; exact hs.awake
  have hstrand : s1.t.inStrand = false := by rw [hpk.task]; exact inStrand_calm hs
  have hrec : forkRecord s1 (wordsOf v 8) = .ok (countDiscard s1 s.die) := by
    rw [forkRecord, hcore, hk, if_neg (Nat.not_lt.2 hfull), hdie]
    simp [hstrand, hvalid]
  obtain ⟨t, hex, hc⟩ := fork_completes hs ha hra hrel hal hown hread sw hrec hwait
  have hgoes := hc.goesOn hpk.task
  refine ⟨t, hex, hgoes.pc, ?_, ?_, hgoes.data (hc.mem.trans hpk.mem)⟩
  · rw [hc.dieAt, countDiscard_discards, hpk.dieAt]; rfl
  · rw [hc.dqbot]; exact congrArg Core.dqbot hk

end

/-! ## JOIN -/

theorem dqNewest_congr {s t : State} {c : Nat} (hc : t.coreAt c = s.coreAt c) (hm : t.mem = s.mem) : dqNewest t c = dqNewest s c := by
  simp only [dqNewest, hc, readWords_congr hm]

/-- A pop takes the newest record, which lies below the bottom of the deque. -/
theorem dqPop_coreAt (s : State) : ((dqPop s s.cur).coreAt s.core).dqbot
    = BitVec.ofNat 64 ((4294967295 + (s.coreAt s.core).dqbot.toNat) % 4294967296) := by
  unfold dqPop
  dsimp only
  change (State.coreAt (State.setCore _ s.core _) s.core).dqbot = _
  rw [State.coreAt_setCore, if_pos rfl]
  rfl

theorem nestBlocked_resident {s : State} (hp : s.t.pend = []) (hr : s.t.resident ≤ 120) (hl : s.t.frames.length < 64) :
    nestBlocked s = false := by
  have h1 : ¬ s.t.resident + 8 > 128 := by omega
  have h2 : ¬ s.t.frames.length ≥ 64 := by omega
  simp [nestBlocked, windowQuiet, hp, h1, h2]

theorem canNest_resident {s : State} (hd : s.t.depth < 65535) (hr : s.t.resident ≤ 120) (hl : s.t.frames.length < 64) : canNest s = true := by
  rw [canNest, pushNested_resident _ _ hd hr hl]
  rfl

theorem startNested_resident {s : State} (ret : Pc) (r : List Word) (hd : s.t.depth < 65535) (hr : s.t.resident ≤ 120)
    (hl : s.t.frames.length < 64) : ∃ s2, startNested s ret r = some s2 ∧ s2.mem = s.mem ∧ s2.cores = s.cores := by
  rw [startNested, pushNested_resident _ _ hd hr hl]
  generalize nestedTask s.t ret (recPayload r) = t
  exact ⟨_, rfl, rfl, rfl⟩

section
variable {s : State} {pc : Pc} {park : State → Eff} (hstrand : s.t.inStrand = false)
include hstrand

theorem joinRest_parks (hnone : dqNewest s s.core = none) : joinRest pc park s = park s := by
  simp [joinRest, hstrand, hnone]

variable {r : List Word} (hsome : dqNewest s s.core = some r) (hp : s.t.pend = []) (hd : s.t.depth < 65535) (hr : s.t.resident ≤ 120)
  (hl : s.t.frames.length < 64)
include hsome hp hd hr hl

theorem joinRest_nests (hv : recordValid r = true) : ∃ s2, joinRest pc park s = .ok s2
    ∧ startNested (dqPop s s.cur) pc r = some s2 ∧ s2.mem = s.mem ∧ s2.cores = (dqPop s s.cur).cores := by
  obtain ⟨s2, hstart, hmem, hcores⟩ := startNested_resident (s := dqPop s s.cur) pc r hd hr hl
  refine ⟨s2, ?_, hstart, hmem, hcores⟩
  simp [joinRest, hstrand, hsome, nestBlocked_resident hp hr hl, canNest_resident hd hr hl, hv, hstart]

theorem joinRest_discards (hv : recordValid r = false) : joinRest pc park s
    = .ok ((countDiscard (dqPop s s.cur) s.die).setT { s.t with pc := pc }) := by
  simp only [joinRest, hstrand, hsome, nestBlocked_resident hp hr hl, canNest_resident hd hr hl, hv, Bool.not_true, Bool.not_false,
    Bool.false_eq_true, if_true, if_false]
  rfl

end

section
variable {ra rb : Reg} {pa fl : Nat} {s s2 : State} (hs : Calm s) (ha : s.t.active = true)
  (hplain : ∀ r ∈ [ra, rb], plainCode s.t r = true) (hal : (plainRead s.t ra).toNat % 8 = 0)
  (hplace : locate s s.asker .counterRead (plainRead s.t ra) 8 8 none 0 = .ok (s2, .mem pa fl))
  (hdata : dataMatch s.slot [(plainRead s.t ra, false)] = none) (hblock : requestBlocked s pa 8 = false)
include hs ha hplain

theorem join_issues (sw : Bool) :
    Issues (.join ra rb sw) { a := some ra, b := some rb } s s (plainVals s.t { a := some ra, b := some rb }) :=
  issues_plain hs (by simp [ha]) (by simpa [Use.reads] using hplain) rfl rfl rfl (by simp)

omit hs ha hplain in
include hal hplace hdata hblock in
/-- The counter of a JOIN is read where its address leads, at its home; reading changes nothing that the rest of the JOIN looks at (R353). -/
theorem joinAt_reads : ∃ n, Peeked (advanced s s) n ∧ joinAt s.t.pc (plainRead s.t ra) (plainRead s.t rb) (advanced s s)
    = if (plainRead s.t rb).toNat ≤ readNat s pa 8 then .ok n
      else joinRest s.t.pc (fun s' => .error (.park s' (.join pa (plainRead s.t rb)))) n := by
  have hloc := locate_advanced hplace
  have hpk := locate_peeked hloc
  have hcheck : checkData (advanced s s) [(plainRead s.t ra, false)] = .ok () := by
    have hd : dataMatch (advanced s s).slot [(plainRead s.t ra, false)] = none := hdata
    simp only [checkData, hd]
  have hcounter : counterPlace (plainRead s.t ra) (advanced s s) = .ok (s2.setT (advanced s s).t, .mem pa fl) := by
    simp only [counterPlace, hloc, hcheck]
  have hb : requestBlocked (s2.setT (advanced s s).t) pa 8 = false := (hpk.requestBlocked pa 8).trans hblock
  have hread : readWord (s2.setT (advanced s s).t) pa = readWord s pa := readWord_congr hpk.mem pa
  refine ⟨noteMine (s2.setT (advanced s s).t) pa 8, hpk.trans (noteRead_peeked _ _ _ _), ?_⟩
  simp only [joinAt, hal, hcounter, hb, hread, BitVec.le_def, readWord_toNat, Bool.false_eq_true, if_false, ne_eq, not_true_eq_false]

variable (sw : Bool)
include hal hplace hdata hblock

/-- A counter that has reached the target ends the JOIN. -/
theorem join_met (hmet : (plainRead s.t rb).toNat ≤ readNat s pa 8) :
    ∃ t, exec (.join ra rb sw) s = .next t ∧ t.t.pc = s.t.pc + 4 ∧ keepsData s t ∧ sameMask s t ∧ sameFrames s t := by
  rw [exec_join]
  obtain ⟨n, hpk, hjoin⟩ := joinAt_reads (rb := rb) hal hplace hdata hblock
  rw [if_pos hmet] at hjoin
  obtain ⟨t, hex, hc⟩ := issue_completed (sw := sw) (body := fun v a => joinAt s.t.pc v.a v.b a) hs (join_issues hs ha hplain sw) rfl rfl
    hjoin (by rw [hpk.task]; exact hs.awake)
  have hgoes := hc.goesOn hpk.task
  exact ⟨t, hex, hgoes.pc, hgoes.data (hc.mem.trans hpk.mem), hgoes.mask, hgoes.frames⟩

variable (hless : readNat s pa 8 < (plainRead s.t rb).toNat)
include hless

/-- With no record in the deque, the JOIN parks on its counter. -/
theorem join_waits (hnone : dqNewest s s.core = none) :
    ∃ t, exec (.join ra rb sw) s = .next t ∧ t.t.pc = s.t.pc ∧ t.t.wait = some (.join pa (plainRead s.t rb)) ∧ keepsData s t := by
  rw [exec_join]
  obtain ⟨n, hpk, hjoin⟩ := joinAt_reads (rb := rb) hal hplace hdata hblock
  have hnone' : dqNewest n n.core = none := by
    rw [hpk.core]
    exact (dqNewest_congr (hpk.coreAt s.core) hpk.mem).trans hnone
  rw [if_neg (Nat.not_le.2 hless), joinRest_parks (by rw [hpk.task]; exact inStrand_calm hs) hnone'] at hjoin
  obtain ⟨t, hex, hpark⟩ := issue_parks (sw := sw) (body := fun v a => joinAt s.t.pc v.a v.b a) (join_issues hs ha hplain sw) hjoin
  exact ⟨t, hex, hpark.pc, hpark.wait, hpark.data hpk.task hpk.mem⟩

variable {r : List Word} (hsome : dqNewest s s.core = some r) (hr : s.t.resident ≤ 120) (hl : s.t.frames.length < 64) (hd : s.t.depth < 65535)
include hsome hr hl hd

/-- With a valid record in the deque, the JOIN runs the newest one as a nested run, which returns to the JOIN. -/
theorem join_nests (hv : recordValid r = true) :
    ∃ t, exec (.join ra rb sw) s = .next t ∧ t.t.pc = recPc r ∧ t.t.runs = { record := r, given := true, ibRead := 0 } :: s.t.runs
      ∧ t.t.frame.kind = .nested ∧ t.t.frame.ret = s.t.pc ∧ t.t.frame.size = 8
      ∧ (∀ j : Nat, j < 6 → plainRead t.t (BitVec.ofNat 6 (8 + j)) = r.getD (2 + j) 0)
      ∧ (t.coreAt s.core).dqbot = BitVec.ofNat 64 ((4294967295 + (s.coreAt s.core).dqbot.toNat) % 4294967296) ∧ sameBytes s t := by
  rw [exec_join]
  obtain ⟨n, hpk, hjoin⟩ := joinAt_reads (rb := rb) hal hplace hdata hblock
  have htask : n.t = (advanced s s).t := hpk.task
  have hsome' : dqNewest n n.core = some r := by
    rw [hpk.core]
    exact (dqNewest_congr (hpk.coreAt s.core) hpk.mem).trans hsome
  obtain ⟨s3, hrest, hstart, hmem, hcores⟩ := joinRest_nests (s := n) (pc := s.t.pc)
    (park := fun s' => .error (.park s' (.join pa (plainRead s.t rb)))) (by rw [htask]; exact inStrand_calm hs) hsome'
    (by rw [htask]; exact hs.none_pending) (by rw [htask]; exact hd) (by rw [htask]; exact hr) (by rw [htask]; exact hl) hv
  rw [if_neg (Nat.not_le.2 hless), hrest] at hjoin
  have hruns := startNested_runs hstart (by rw [(dqPop_offered n n.cur).task, htask]; exact hs.awake)
  obtain ⟨t, hex, hc⟩ := issue_completed (sw := sw) (body := fun v a => joinAt s.t.pc v.a v.b a) hs (join_issues hs ha hplain sw) rfl rfl
    hjoin hruns.wait
  obtain ⟨hpc, hrun, hkind, hret, hsize, hpay⟩ := hruns.completed hc
  rw [(dqPop_offered n n.cur).task, htask] at hrun
  have hbot := dqPop_coreAt n
  have hcore : n.core = s.core := hpk.core
  rw [hcore, hpk.coreAt] at hbot
  refine ⟨t, hex, hpc, hrun, hkind, hret, hsize, hpay, ?_, fun b => readByte_congr (hc.mem.trans (hmem.trans hpk.mem)) b⟩
  rw [hc.dqbot, State.coreAt, hcores]
  exact hbot

/-- An invalid record is discarded and counted, and the JOIN starts again. -/
theorem join_discards (hv : recordValid r = false) :
    ∃ t, exec (.join ra rb sw) s = .next t ∧ t.t.pc = s.t.pc ∧ t.t.wait ≠ some (.join pa (plainRead s.t rb)) ∧ t.t.runs = s.t.runs
      ∧ (t.dieAt s.die).discards = (s.dieAt s.die).discards + 1
      ∧ (t.coreAt s.core).dqbot = BitVec.ofNat 64 ((4294967295 + (s.coreAt s.core).dqbot.toNat) % 4294967296) ∧ keepsData s t := by
  rw [exec_join]
  obtain ⟨n, hpk, hjoin⟩ := joinAt_reads (rb := rb) hal hplace hdata hblock
  have htask : n.t = (advanced s s).t := hpk.task
  have hsome' : dqNewest n n.core = some r := by
    rw [hpk.core]
    exact (dqNewest_congr (hpk.coreAt s.core) hpk.mem).trans hsome
  have hrest := joinRest_discards (s := n) (pc := s.t.pc) (park := fun s' => .error (.park s' (.join pa (plainRead s.t rb))))
    (by rw [htask]; exact inStrand_calm hs) hsome' (by rw [htask]; exact hs.none_pending) (by rw [htask]; exact hd)
    (by rw [htask]; exact hr) (by rw [htask]; exact hl) hv
  rw [if_neg (Nat.not_le.2 hless), hrest, htask] at hjoin
  obtain ⟨t, hex, hc, hwait⟩ := issue_completed_unforwarded (sw := sw) (body := fun v a => joinAt s.t.pc v.a v.b a)
    (join_issues hs ha hplain sw) (by simp [Task.follows, hs.no_leader]) (by simp [forwardTo, hs.no_followers]) rfl rfl hjoin hs.awake
  have hbot := dqPop_coreAt n
  have hcore : n.core = s.core := hpk.core
  have hdie : n.die = s.die := hpk.die
  rw [hcore, hpk.coreAt] at hbot
  refine ⟨t, hex, hc.pc, ?_, hc.runs, ?_, ?_, ?_⟩
  · obtain h | h := hwait <;> rw [h] <;> exact nofun
  · rw [hc.dieAt, ← hdie]
    exact (countDiscard_discards (dqPop n n.cur) n.die).trans (by rw [hdie]; exact congrArg (fun d : Die => d.discards + 1) (hpk.dieAt s.die))
  · rw [hc.dqbot]; exact hbot
  · exact ⟨fun q => (hc.codes q).trans (plainRead_congr q rfl rfl rfl rfl rfl), hc.special, hc.tiles, hc.flags,
      fun b => readByte_congr (hc.mem.trans hpk.mem) b⟩

end

/-! ## SPAWN, YIELD, STRAND and UNSTRAND -/

/-- SPAWN sends the record at its address to a core of this device (R382). -/
theorem spawn_sends {ra rb : Reg} {v : Nat} {s s1 : State} (sw : Bool) (hs : Calm s) (ha : s.t.active = true)
    (hplain : ∀ r ∈ [ra, rb], plainCode s.t r = true) (hrel : released s = true)
    (hread : readAtIssue (advanced s s) .record (plainRead s.t ra) 64 64 = .ok (s1, v))
    (hdest : (plainRead s.t rb).getLsbD 31 = false ∨ bitsOf (plainRead s.t rb) 16 12 = s.devid.toNat)
    (hout : outstandingCore s1 s.core < 64) :
    ∃ t, exec (.spawn ra rb sw) s = .next t ∧ t.t.pc = s.t.pc + 4
      ∧ t.inflight = s.inflight ++ [{ core := bitsOf (plainRead s.t rb) 0 12, record := wordsOf v 8, slot := some s.cur, ctx := s.asker.ctx }]
      ∧ keepsData s t ∧ sameMask s t ∧ sameFrames s t := by
  rw [exec_spawn]
  have hi : Issues (.spawn ra rb sw) { a := some ra, b := some rb } s s _ :=
    issues_plain hs (by simp [ha]) (by simpa [Use.reads] using hplain) rfl rfl rfl (by simp)
  have hpk := readAtIssue_peeked hread
  have hcore : s1.core = s.core := hpk.core
  have hdevid : s1.devid = s.devid := by rw [hpk.device]; rfl
  have hhere : ((plainRead s.t rb).getLsbD 31 && bitsOf (plainRead s.t rb) 16 12 ≠ s1.devid.toNat) = false := by
    rw [hdevid]
    obtain h | h := hdest
    · rw [h, Bool.false_and]
    · simp [h]
  have hspawn : spawnAt (plainRead s.t ra) (plainRead s.t rb) (advanced s s) = .ok { s1 with
      inflight := s.inflight ++ [{ core := bitsOf (plainRead s.t rb) 0 12, record := wordsOf v 8, slot := some s.cur, ctx := s.asker.ctx }] } := by
    have hin : s1.inflight = s.inflight := hpk.inflight
    have hcur : s1.cur = s.cur := hpk.cur
    have hask : s1.asker = s.asker := hpk.asker
    simp only [spawnAt, released_advanced, hrel, hread, sendRecord, hcore, Nat.not_le.2 hout, Bool.not_true, Bool.false_eq_true, if_false,
      hin, hcur, hask]
    exact if_neg (by rw [hhere]; simp)
  obtain ⟨t, hex, hc⟩ := issue_completed (sw := sw) (body := fun v s => spawnAt v.a v.b s) hs hi rfl rfl hspawn
    (by change s1.t.wait = none; rw [hpk.task]; exact hs.awake)
  have hgoes := hc.goesOn hpk.task
  exact ⟨t, hex, hgoes.pc, hc.inflight, hgoes.data (hc.mem.trans hpk.mem), hgoes.mask, hgoes.frames⟩

theorem yieldAt_calm {s : State} (hs : Calm s) : yieldAt (advanced s s)
    = .ok (s.setT { s.t with pc := s.t.pc + 4, yielded := s.t.yielded || (decide (4 ≤ s.t.prio.toNat) && !s.t.nested) }) := by
  have hprio : (advanced s s).t.prio = s.t.prio := rfl
  have hnest : (advanced s s).t.nested = s.t.nested := rfl
  rw [yieldAt, inStrand_calm hs, hprio, hnest]
  by_cases h4 : s.t.prio.toNat < 4
  · simp [h4, Nat.not_le.2 h4]; rfl
  · cases hn : s.t.nested
    · simp [h4, Nat.not_lt.1 h4]; rfl
    · simp [h4]; rfl

/-- YIELD asks for the end of the quantum, of a task that is no nested run and has a quantum (R410). -/
theorem yield_asks (sw : Bool) {s : State} (hs : Calm s) (ha : s.t.active = true) :
    ∃ t, exec (.yield sw) s = .next t ∧ t.t.pc = s.t.pc + 4
      ∧ t.t.yielded = (s.t.yielded || (decide (4 ≤ s.t.prio.toNat) && !s.t.nested)) ∧ keepsData s t ∧ sameMask s t ∧ sameFrames s t
      ∧ sameDevice s t := by
  rw [exec_yield]
  have hi : Issues (.yield sw) {} s s _ := issues_plain hs (by simp [ha]) (by simp [Use.reads]) rfl rfl rfl (by simp)
  obtain ⟨t, hex, hc⟩ := issue_completed (sw := sw) (body := fun _ s => yieldAt s) hs hi rfl rfl (yieldAt_calm hs) hs.awake
  exact ⟨t, hex, hc.pc, hc.yielded,
    ⟨fun q => (hc.codes q).trans (plainRead_congr q rfl rfl rfl rfl rfl), hc.special, hc.tiles, hc.flags, hc.bytes⟩, hc.mask, hc.frame, hc.same⟩

theorem strandNop_calm {s : State} (hs : Calm s) : strandNop (advanced s s).t = decide (s.t.handlers ≠ 0) := by
  have hl : (advanced s s).t.leader = none := hs.no_leader
  have hh : (advanced s s).t.handlers = s.t.handlers := rfl
  simp [strandNop, hl, hh]

/-- A task that has never led a strand has none to release. -/
theorem releaseStrand_none {s : State} (h : s.t.strandDepth = 0) : releaseStrand s = .ok s := if_pos h

/-- In a handler, and outside a strand, UNSTRAND does nothing (R386). -/
theorem unstrand_passes (sw : Bool) {s : State} (hs : Calm s) (h : s.t.handlers ≠ 0 ∨ s.t.strandDepth = 0) :
    ∃ t, exec (.unstrand sw) s = .next t ∧ t.t.pc = s.t.pc + 4 ∧ keepsData s t ∧ sameMask s t ∧ sameFrames s t ∧ sameDevice s t := by
  rw [exec_unstrand]
  have hbody : unstrandAt (advanced s s) = .ok (advanced s s) := by
    rw [unstrandAt, strandNop_calm hs]
    by_cases hh : s.t.handlers = 0
    · rw [if_neg (by simp [hh])]
      exact releaseStrand_none (h.resolve_left (not_not_intro hh))
    · rw [if_pos (by simp [hh])]
  obtain ⟨t, hex, hc⟩ := issue_completed (sw := sw) (body := fun _ s => unstrandAt s) hs (control_issues (i := .unstrand sw) hs rfl) rfl rfl hbody
    hs.awake
  have hgoes := hc.goesOn rfl
  exact ⟨t, hex, hgoes.pc, hgoes.data hc.mem, hgoes.mask, hgoes.frames, hc.same⟩

/-- A strand without followers left ends at once (R386). -/
theorem unstrand_ends (sw : Bool) {s : State} (hs : Calm s) (hh : s.t.handlers = 0) (hd : s.t.strandDepth ≠ 0) :
    ∃ t, exec (.unstrand sw) s = .next t ∧ t.t.pc = s.t.pc + 4 ∧ t.t.member = 0 ∧ t.t.strandDepth = 0 ∧ sameCodes s t ∧ sameBytes s t
      ∧ sameDevice s t := by
  rw [exec_unstrand]
  have hbody : unstrandAt (advanced s s)
      = .ok ((advanced s s).setT { (advanced s s).t with followers := [], member := 0, strandDepth := 0 }) := by
    have hf : (advanced s s).t.followers = [] := hs.no_followers
    have hd' : (advanced s s).t.strandDepth ≠ 0 := hd
    rw [unstrandAt, strandNop_calm hs, if_neg (by simp [hh]), releaseStrand, if_neg hd']
    simp [hf]
  obtain ⟨t, hex, hc⟩ := issue_completed (sw := sw) (body := fun _ s => unstrandAt s) hs (control_issues (i := .unstrand sw) hs rfl) rfl rfl hbody
    hs.awake
  exact ⟨t, hex, hc.pc, hc.member, hc.strandDepth, fun q => (hc.codes q).trans (plainRead_congr q rfl rfl rfl rfl rfl), hc.bytes, hc.same⟩

section
variable {ra : Reg} {s : State} (sw : Bool) (hs : Calm s) (hra : plainCode s.t ra = true) (hpop : s.t.popOf = none)
  (hrel : released s = true)
include hs hra

theorem strand_issues : Issues (.strand ra sw) { a := some ra, control := true } s s (plainVals s.t { a := some ra, control := true }) :=
  issues_plain hs (Bool.or_true _) (by simpa [Use.reads] using hra) rfl rfl rfl (by simp)

/-- In a handler STRAND does nothing (R385). -/
theorem strand_passes (hh : s.t.handlers ≠ 0) :
    ∃ t, exec (.strand ra sw) s = .next t ∧ t.t.pc = s.t.pc + 4 ∧ keepsData s t ∧ sameDevice s t := by
  rw [exec_strand]
  have hbody : strandAt (plainRead s.t ra) (advanced s s) = .ok (advanced s s) := by
    rw [strandAt, strandNop_calm hs, if_pos (by simp [hh])]
  obtain ⟨t, hex, hc⟩ := issue_completed (sw := sw) (body := fun v s => strandAt v.a s) hs (strand_issues sw hs hra) rfl rfl hbody hs.awake
  have hgoes := hc.goesOn rfl
  exact ⟨t, hex, hgoes.pc, hgoes.data hc.mem, hc.same⟩

include hpop hrel

omit hra in
/-- Outside a handler a STRAND releases the strand that the task leads, and then asks for its slots. -/
theorem strandAt_releases (hh : s.t.handlers = 0) {s1 : State} (h1 : releaseStrand (advanced s s) = .ok s1) :
    strandAt (plainRead s.t ra) (advanced s s)
    = if min (max (plainRead s.t ra).toNat 1) 16 = 1 then .ok (s1.setT { s1.t with member := 0 })
      else .error (.park s1 (.strand (min (max (plainRead s.t ra).toNat 1) 16))) := by
  have hp : (advanced s s).t.popOf = none := hpop
  simp only [strandAt, strandNop_calm hs, hh, hp, released_advanced, hrel, h1, ne_eq, not_true_eq_false, decide_false, Option.isSome_none,
    Bool.not_true, Bool.false_eq_true, if_false]

/-- A strand of one slot is no strand. -/
theorem strand_single (hh : s.t.handlers = 0) (hv : (plainRead s.t ra).toNat ≤ 1) :
    ∃ t, exec (.strand ra sw) s = .next t ∧ t.t.pc = s.t.pc + 4 ∧ t.t.member = 0 ∧ t.t.followers = [] ∧ sameCodes s t ∧ sameBytes s t := by
  rw [exec_strand]
  obtain ⟨m, d, hrelease⟩ := releaseStrand_alone (s := advanced s s) hs.no_followers
  have hbody := strandAt_releases hs hpop hrel (ra := ra) hh hrelease
  rw [if_pos (by omega)] at hbody
  obtain ⟨t, hex, hc⟩ := issue_completed (sw := sw) (body := fun v s => strandAt v.a s) hs (strand_issues sw hs hra) rfl rfl hbody hs.awake
  exact ⟨t, hex, hc.pc, hc.member, hc.followers, fun q => (hc.codes q).trans (plainRead_congr q rfl rfl rfl rfl rfl), hc.bytes⟩

/-- A strand of more slots is asked for, and waited for. -/
theorem strand_waits (hh : s.t.handlers = 0) (hd : s.t.strandDepth = 0) (hv : 1 < (plainRead s.t ra).toNat) :
    ∃ t, exec (.strand ra sw) s = .next t ∧ t.t.pc = s.t.pc ∧ t.t.wait = some (.strand (min (plainRead s.t ra).toNat 16))
      ∧ keepsData s t := by
  rw [exec_strand]
  have hbody := strandAt_releases hs hpop hrel (ra := ra) hh (releaseStrand_none (s := advanced s s) hd)
  have hmax : max (plainRead s.t ra).toNat 1 = (plainRead s.t ra).toNat := by omega
  rw [hmax, if_neg (by omega)] at hbody
  obtain ⟨t, hex, hpark⟩ := issue_parks (sw := sw) (body := fun v s => strandAt v.a s) (strand_issues sw hs hra) hbody
  exact ⟨t, hex, hpark.pc, hpark.wait, hpark.data rfl rfl⟩

end

end Sys2Proof.Machine
end

section
/-! RETIRE, and the release of a strand with its followers (R116, R124, R370). -/
namespace Sys2Proof.Machine

/-! ## The followers of a strand -/

/-- t is s after slots of no population that follow a leader have been released (R124). -/
structure Freed (ns : List Nat) (s t : State) : Prop where
  cur : t.cur = s.cur
  mem : t.mem = s.mem
  others : ∀ m, m ∉ ns → t.slotAt m = s.slotAt m
  each : ∀ m, t.slotAt m = s.slotAt m ∨ (t.slotAt m).phase = .idle
  idle : ∀ n ∈ ns, (s.slotAt n).t.leader.isSome = true → (t.slotAt n).phase = .idle
  stores : ∀ m, m ∉ ns → outstandingStores s m = false → outstandingStores t m = false

theorem releaseFollower_freed {s : State} {n : Nat} (hp : (s.slotAt n).t.popOf = none) :
    Freed [n] s (releaseFollower s n) ∧ ∀ m, (s.slotAt m).t.popOf = none → ((releaseFollower s n).slotAt m).t.popOf = none := by
  by_cases hl : (s.slotAt n).t.leader.isSome = true
  · have he : releaseFollower s n = idleTask s n := if_pos hl
    have hi := idleTask_idled hp
    rw [← he] at hi
    generalize releaseFollower s n = t at *
    refine ⟨⟨hi.cur, hi.mem, fun m hm => hi.others m (by simpa using hm), fun m => ?_, fun m hm _ => ?_,
      fun m hm => hi.stores m (by simpa using hm)⟩, fun m hm => ?_⟩
    · by_cases h : m = n
      · exact .inr (h ▸ hi.phase)
      · exact .inl (hi.others m h)
    · rw [List.mem_singleton.1 hm]; exact hi.phase
    · by_cases h : m = n
      · rw [h, hi.task]; rfl
      · rw [hi.others m h]; exact hm
  · have he : releaseFollower s n = s := if_neg hl
    rw [he]
    exact ⟨⟨rfl, rfl, fun _ _ => rfl, fun _ => .inl rfl, fun m hm h => absurd (List.mem_singleton.1 hm ▸ h) hl, fun _ _ h => h⟩, fun _ h => h⟩

theorem foldl_releaseFollower_freed {ns : List Nat} {s : State} (hp : ∀ n ∈ ns, (s.slotAt n).t.popOf = none) :
    Freed ns s (ns.foldl releaseFollower s) := by
  induction ns generalizing s with
  | nil => exact ⟨rfl, rfl, fun _ _ => rfl, fun _ => .inl rfl, fun _ h => absurd h nofun, fun _ _ h => h⟩
  | cons n ns ih =>
    obtain ⟨h1, hpop⟩ := releaseFollower_freed (hp n (by simp))
    have h2 := ih (s := releaseFollower s n) fun m hm => hpop m (hp m (by simp [hm]))
    refine ⟨h2.cur.trans h1.cur, h2.mem.trans h1.mem, fun m hm => ?_, fun m => ?_, fun m hm hl => ?_, fun m hm ho => ?_⟩
    · rw [List.mem_cons, not_or] at hm
      rw [List.foldl_cons, h2.others m hm.2, h1.others m (by simpa using hm.1)]
    · obtain h | h := h2.each m
      · rw [List.foldl_cons, h]; exact h1.each m
      · exact .inr h
    · by_cases hn : m = n
      · have hidle : ((releaseFollower s n).slotAt m).phase = .idle := h1.idle m (by simp [hn]) hl
        obtain h | h := h2.each m
        · rw [List.foldl_cons, h]; exact hidle
        · exact h
      · have hmem : m ∈ ns := by simpa [hn] using hm
        refine h2.idle m hmem ?_
        rw [h1.others m (by simpa using hn)]
        exact hl
    · rw [List.mem_cons, not_or] at hm
      exact h2.stores m hm.2 (h1.stores m (by simpa using hm.1) ho)

/-- The followers that are done. -/
def doneFollowers (s : State) : List Nat := s.t.followers.filter (followerDone s)

/-- The state in which the followers that are done have been released. -/
def freedState (s : State) : State := (doneFollowers s).foldl releaseFollower s

section
variable {s : State} (hd : s.t.strandDepth ≠ 0)
include hd

/-- A leader waits for the followers that are not done. -/
theorem releaseStrand_waits {left : List Nat} (hleft : s.t.followers.filter (fun n => !followerDone s n) = left) (hne : left ≠ []) :
    releaseStrand s = .error (.park ((freedState s).setT { (freedState s).t with followers := left }) .release) := by
  have hempty : left.isEmpty = false := by simpa [List.isEmpty_eq_false_iff] using hne
  simp only [releaseStrand, hd, if_false, hleft, hempty, Bool.false_eq_true]
  rfl

/-- A leader whose followers are all done leads none. -/
theorem releaseStrand_all (hall : ∀ n ∈ s.t.followers, followerDone s n = true) :
    releaseStrand s = .ok ((freedState s).setT { (freedState s).t with followers := [], member := 0, strandDepth := 0 }) := by
  have hleft : s.t.followers.filter (fun n => !followerDone s n) = [] := by simpa [List.filter_eq_nil_iff] using hall
  simp only [releaseStrand, hd, if_false, hleft, List.isEmpty_nil, if_true]
  rfl

end

/-! ## RETIRE -/

theorem retireCounter_none {s : State} {run : Run} {rest : List Run} (hr : s.t.runs = run :: rest)
    (hc : (if run.given then counterAddr s.devid run.record else none) = none) : retireCounter s = .ok (s, none) := by
  simp only [retireCounter, hr, hc]

theorem retireCounter_some {s s1 : State} {run : Run} {rest : List Run} {c : Word} {pa fl : Nat} (hr : s.t.runs = run :: rest)
    (hc : (if run.given then counterAddr s.devid run.record else none) = some c)
    (hl : locate s s.asker .counterAdd c 8 8 none 0 = .ok (s1, .mem pa fl)) (ha : inArmed s1 pa 8 = false) :
    retireCounter s = .ok (s1, some pa) := by
  simp only [retireCounter, hr, hc, hl, ha, Bool.false_eq_true, if_false]

/-- RETIRE of a run that is no follower's, of a slot with nothing set aside, ends the run once its checks have passed. -/
theorem retireAt_ends {s s1 : State} {c : Option Nat} (hl : s.t.leader = none) (hc : retireCounter s = .ok (s1, c)) (hp : s1.t.pulled = [])
    (hf : s1.t.pulledFar = []) (hn : s1.t.nested = true → spillBlocked s1 = false ∧ (popNested s1).isSome = true) :
    retireAt s = retireRun c s1 := by
  cases hnest : s1.t.nested with
  | false => simp [retireAt, hl, hc, hnest, Task.hasPulled, hp, hf]
  | true =>
    obtain ⟨hb, hpop⟩ := hn hnest
    have hsome : (popNested s1).isNone = false := by simpa [Option.isNone_iff_eq_none, Option.isSome_iff_ne_none] using hpop
    simp [retireAt, hl, hc, hnest, hb, hsome, Task.hasPulled, hp, hf]

/-- A task whose streams are plain again. -/
def plainStreams (s : State) : State := s.setT { s.t with sa := s.t.sa.plain, sb := s.t.sb.plain }

theorem retireRun_uncounted {s s1 : State} (h : releaseStrand s = .ok s1) (hrel : released s1 = true) :
    retireRun none s = endTask (plainStreams s1) := by
  simp only [retireRun, h, hrel, Bool.not_true, Bool.false_eq_true, if_false]
  rfl

theorem retireRun_counted {s s1 : State} {pa : Nat} (h : releaseStrand s = .ok s1) (hrel : released s1 = true)
    (hb : requestBlocked (plainStreams s1) pa 8 = false) : retireRun (some pa) s
      = endTask (afterWrite (writeWord (noteRead (plainStreams s1) .lost pa 8) pa (readWord (plainStreams s1) pa + 1))) := by
  have hb' : requestBlocked (s1.setT { s1.t with sa := s1.t.sa.plain, sb := s1.t.sb.plain }) pa 8 = false := hb
  simp only [retireRun, h, hrel, hb', Bool.not_true, Bool.false_eq_true, if_false]
  rfl

/-- What holds up the release of the strand holds up the RETIRE. -/
theorem retireRun_error {s : State} {e : Stop} (c : Option Nat) (h : releaseStrand s = .error e) : retireRun c s = .error e := by
  simp only [retireRun, h]

theorem endTask_single {s : State} (h : s.t.nested = false) : endTask s = .ok (idleTask s s.cur) := by simp [endTask, h]

/-- A RETIRE that ends a task of no population leaves its slot idle. -/
theorem retire_idles {sw : Bool} {v : Vals} {s s1 x : State} (hi : Issues (.retire sw) { control := true } s s1 v) (hl : s.t.leader = none)
    (hbody : retireAt (advanced s s1) = .ok (idleTask x x.cur)) (hp : x.t.popOf = none) :
    ∃ t, exec (.retire sw) s = .next t ∧ t.slot.phase = .idle ∧ t.t.followers = [] ∧ t.mem = x.mem
      ∧ ∀ n, n ≠ x.cur → t.slotAt n = x.slotAt n := by
  rw [exec_retire]
  have hidle := idleTask_idled (s := x) (n := x.cur) (by rw [slotAt_cur]; exact hp)
  have hcur : (idleTask x x.cur).cur = x.cur := hidle.cur
  have hslot : (idleTask x x.cur).slotAt x.cur = (idleTask x x.cur).slot := by rw [← slotAt_cur, hcur]
  have htask : (idleTask x x.cur).t = x.t.idle := by rw [State.t, ← hslot, hidle.task, slotAt_cur, State.t]
  obtain ⟨t, hex, hc, -⟩ := issue_completed_unforwarded (sw := sw) (body := fun _ s => retireAt s) hi (by simp [Task.follows, hl])
    (by rw [htask]; simp [Task.idle, Task.reset]) rfl rfl hbody (by rw [htask]; rfl)
  refine ⟨t, hex, ?_, ?_, ?_, fun n hn => ?_⟩
  · rw [hc.phase, ← hslot]; exact hidle.phase
  · rw [hc.followers, htask]; rfl
  · rw [hc.mem, hidle.mem]
  · rw [hc.slotAt_other (by rw [hcur]; exact hn)]
    exact hidle.others n hn

theorem Peeked.released {s t : State} (h : Peeked s t) : released t = released s := by
  rw [h.device]
  rfl

theorem writeWord_mem_only (s : State) (a : Nat) (v : Word) : writeWord s a v =
    { s with mem := (writeWord s a v).mem, faint := (healWords s a 8).faint, spoiled := (healWords s a 8).spoiled } :=
  writeBytes_mem_only s a 8 _

theorem nested_single {s : State} {run : Run} (h : s.t.runs = [run]) : s.t.nested = false := by simp [Task.nested, h]

section
variable {run : Run} {s : State} (sw : Bool) (hs : Calm s) (hruns : s.t.runs = [run]) (hpop : s.t.popOf = none) (hpulled : s.t.pulled = [])
  (hfar : s.t.pulledFar = []) (hrel : released s = true)
include hs hruns hpop hpulled hfar hrel

/-- A task without a completion counter ends with its RETIRE. -/
theorem retire_uncounted (hc : (if run.given then counterAddr s.devid run.record else none) = none) :
    ∃ t, exec (.retire sw) s = .next t ∧ t.slot.phase = .idle ∧ sameBytes s t := by
  have hcounter : retireCounter (advanced s s) = .ok (advanced s s, none) := retireCounter_none (s := advanced s s) hruns hc
  have hnest : (advanced s s).t.nested = false := nested_single (s := advanced s s) hruns
  obtain ⟨m, d, hrelease⟩ := releaseStrand_alone (s := advanced s s) hs.no_followers
  have hends := retireAt_ends (s := advanced s s) hs.no_leader hcounter hpulled hfar fun h => absurd (hnest.symm.trans h) nofun
  rw [retireRun_uncounted hrelease (by rw [released_setT (by rfl) (by rfl) (by rfl) (by rfl), released_advanced]; exact hrel)] at hends
  replace hends := hends.trans (endTask_single hnest)
  obtain ⟨t, hex, hidle, -, hmem, -⟩ := retire_idles (sw := sw) (control_issues hs rfl) hs.no_leader hends hpop
  exact ⟨t, hex, hidle, fun a => readByte_congr hmem a⟩

/-- The RETIRE of a task with a completion counter here raises the counter by one. -/
theorem retire_counts {c : Word} {s2 : State} {pa fl : Nat} (hc : (if run.given then counterAddr s.devid run.record else none) = some c)
    (hplace : locate s s.asker .counterAdd c 8 8 none 0 = .ok (s2, .mem pa fl)) (harmed : inArmed s pa 8 = false)
    (hblock : requestBlocked s pa 8 = false) :
    ∃ t, exec (.retire sw) s = .next t ∧ t.slot.phase = .idle ∧ readWord t pa = readWord s pa + 1 ∧ sameOutside s t pa 8 := by
  have hloc := locate_advanced hplace
  have hpk := locate_peeked hloc
  generalize s2.setT (advanced s s).t = n at hloc hpk
  have htask : n.t = (advanced s s).t := hpk.task
  have harmed' : inArmed n pa 8 = false := by rw [hpk.device]; exact harmed
  have hcounter : retireCounter (advanced s s) = .ok (n, some pa) := retireCounter_some (s := advanced s s) hruns hc hloc harmed'
  have hnest : n.t.nested = false := nested_single (s := n) (by rw [htask]; exact hruns)
  obtain ⟨m, d, hrelease⟩ := releaseStrand_alone (s := n) (by rw [htask]; exact hs.no_followers)
  generalize hs1 : n.setT { n.t with followers := [], member := m, strandDepth := d } = s1 at hrelease
  have hrel1 : released s1 = true := by
    rw [← hs1, released_setT (by rfl) (by rfl) (by rfl) (by rfl), hpk.released, released_advanced]
    exact hrel
  have hblock1 : requestBlocked (plainStreams s1) pa 8 = false := by
    rw [← hs1]
    exact (hpk.requestBlocked pa 8).trans hblock
  have hmem1 : (plainStreams s1).mem = s.mem := by rw [← hs1]; exact hpk.mem
  have hslot1 : (plainStreams s1).t = { n.t with followers := [], member := m, strandDepth := d, sa := n.t.sa.plain, sb := n.t.sb.plain } := by
    rw [← hs1]; rfl
  have hends := retireAt_ends (s := advanced s s) hs.no_leader hcounter (by rw [htask]; exact hpulled) (by rw [htask]; exact hfar)
    fun h => absurd (hnest.symm.trans h) nofun
  rw [retireRun_counted hrelease hrel1 hblock1] at hends
  generalize plainStreams s1 = p at *
  have hwrite : (writeWord (noteRead p .lost pa 8) pa (readWord p pa + 1)).t = p.t := by rw [writeWord_mem_only]; rfl
  have hwoken := afterWrite_woken (writeWord (noteRead p .lost pa 8) pa (readWord p pa + 1))
  have hslot := hwoken.slot (by rw [hwrite, hslot1]; change n.t.wait = none; rw [htask]; exact hs.awake)
  generalize afterWrite (writeWord (noteRead p .lost pa 8) pa (readWord p pa + 1)) = w at *
  have htask2 : w.t = p.t := by rw [State.t, hslot]; exact hwrite
  rw [endTask_single (by rw [htask2, hslot1]; exact hnest)] at hends
  obtain ⟨t, hex, hidle, -, hmem, -⟩ := retire_idles (sw := sw) (control_issues hs rfl) hs.no_leader hends
    (by rw [htask2, hslot1]; change n.t.popOf = none; rw [htask]; exact hpop)
  have hmem2 := hmem.trans hwoken.mem
  refine ⟨t, hex, hidle, ?_, fun a ha => ?_⟩
  · rw [readWord_congr hmem2, readWord_writeWord, readWord_congr hmem1]
  · rw [readByte_congr hmem2, readByte_writeWord_outside _ _ _ _ ha]
    exact readByte_congr hmem1 a

end

theorem popNested_resident {s : State} {f g : Frame} {rest : List Frame} (h : s.t.frames = f :: g :: rest) (hk : f.kind = .nested) :
    popNested s = some (s.setT { s.t with frames := g :: rest, pc := f.ret }) := by
  simp [popNested, h, dropToNested, hk]

/-- The RETIRE of a nested run whose frame is resident returns to the instruction that started it. -/
theorem retire_returns (sw : Bool) {run r2 : Run} {more : List Run} {f g : Frame} {rest : List Frame} {s : State} (hs : Calm s)
    (hruns : s.t.runs = run :: r2 :: more) (hpulled : s.t.pulled = []) (hfar : s.t.pulledFar = []) (hrel : released s = true)
    (hd : s.t.strandDepth = 0) (hblock : spillBlocked s = false) (hframes : s.t.frames = f :: g :: rest) (hk : f.kind = .nested)
    (hc : (if run.given then counterAddr s.devid run.record else none) = none) :
    ∃ t, exec (.retire sw) s = .next t ∧ t.slot.phase = s.slot.phase ∧ t.t.pc = f.ret ∧ t.t.frames = g :: rest ∧ t.t.runs = r2 :: more
      ∧ t.t.globals = s.t.globals ∧ t.t.win = s.t.win ∧ sameBytes s t := by
  rw [exec_retire]
  have hcounter : retireCounter (advanced s s) = .ok (advanced s s, none) := retireCounter_none (s := advanced s s) hruns hc
  have hpopped := popNested_resident (s := advanced s s) hframes hk
  have hpopped' := popNested_resident (s := plainStreams (advanced s s)) hframes hk
  have hnest : (plainStreams (advanced s s)).t.nested = true := by
    have hr : (plainStreams (advanced s s)).t.runs = run :: r2 :: more := hruns
    simp [Task.nested, hr]
  have hends := retireAt_ends (s := advanced s s) hs.no_leader hcounter hpulled hfar fun _ => ⟨hblock, by rw [hpopped]; rfl⟩
  rw [retireRun_uncounted (releaseStrand_none (s := advanced s s) hd) ((released_advanced s).trans hrel), endTask, if_pos hnest, hpopped'] at hends
  obtain ⟨t, hex, hdone⟩ := issue_completed (sw := sw) (body := fun _ s => retireAt s) hs (control_issues (i := .retire sw) hs rfl) rfl rfl hends
    hs.awake
  exact ⟨t, hex, hdone.phase, hdone.pc, hdone.frames, hdone.runs.trans (congrArg (List.drop 1) hruns), hdone.globals, hdone.win, hdone.bytes⟩

end Sys2Proof.Machine
end

section
/-! The end of a strand by UNSTRAND and RETIRE (R120, R124), and the obligation on the task instructions. -/
namespace Sys2Proof.Machine

/-! ## A leader releases its followers -/

/-- An instruction that names no operand reads none. -/
theorem Issues.same_state {i : Instr} {s s1 : State} {v : Vals} (h : Issues i { control := true } s s1 v) : s1 = s := by
  have hg := (gather_plain s { control := true } (by simp [Use.reads])).symm.trans h.reads
  injection hg with hs _
  exact hs.symm

/-- A leader outside handlers that is no follower of its own, with followers of no population. -/
structure Leads (s : State) : Prop where
  handlers : s.t.handlers = 0
  leader : s.t.leader = none
  depth : s.t.strandDepth ≠ 0
  self : s.cur ∉ s.t.followers
  pops : ∀ n ∈ s.t.followers, (s.slotAt n).t.popOf = none

/-- The state of a leader that has released all of its followers. -/
def strandEnded (s : State) : State :=
  (freedState s).setT { (freedState s).t with followers := [], member := 0, strandDepth := 0 }

/-- The state of a leader that waits for the followers that are not done. -/
def strandWaiting (s : State) : State :=
  (freedState s).setT { (freedState s).t with followers := s.t.followers.filter (fun n => !followerDone s n) }

section
variable {s : State} (h : Leads s)
include h

theorem Leads.not_nop : strandNop (advanced s s).t = false := by
  have hh : (advanced s s).t.handlers = 0 := h.handlers
  have hl : (advanced s s).t.leader = none := h.leader
  simp [strandNop, hh, hl]

theorem Leads.unstrandAt_eq : unstrandAt (advanced s s) = releaseStrand (advanced s s) := if_neg (by rw [h.not_nop]; simp)

theorem Leads.follower_ne {n : Nat} (hn : n ∈ s.t.followers) : n ≠ s.cur := fun he => h.self (he ▸ hn)

theorem Leads.slotAt_advanced {n : Nat} (hn : n ∈ s.t.followers) : (advanced s s).slotAt n = s.slotAt n :=
  slotAt_setT_other _ (h.follower_ne hn)

theorem Leads.done_advanced {n : Nat} (hn : n ∈ s.t.followers) : followerDone (advanced s s) n = followerDone s n := by
  rw [followerDone, followerDone, h.slotAt_advanced hn]

/-- The followers are as they were at issue when the leader releases those that are done. -/
theorem Leads.freed : Freed (doneFollowers (advanced s s)) (advanced s s) (freedState (advanced s s)) :=
  foldl_releaseFollower_freed fun n hn => by
    have hn' : n ∈ s.t.followers := List.mem_of_mem_filter hn
    rw [h.slotAt_advanced hn']
    exact h.pops n hn'

theorem Leads.self_not_done : (advanced s s).cur ∉ doneFollowers (advanced s s) :=
  fun hn => h.self (List.mem_of_mem_filter hn)

/-- The leader's own slot stays as it is. -/
theorem Leads.freed_slot : (freedState (advanced s s)).slot = (advanced s s).slot :=
  slot_eq_of_slotAt h.freed.cur (h.freed.others _ h.self_not_done)

theorem Leads.freed_task : (freedState (advanced s s)).t = (advanced s s).t := by rw [State.t, h.freed_slot, State.t]

/-- Followers that are done and follow a leader are idle then. -/
theorem Leads.freed_idle {n : Nat} (hn : n ∈ s.t.followers) (hd : followerDone s n = true) (hl : (s.slotAt n).t.leader.isSome = true) :
    ((freedState (advanced s s)).slotAt n).phase = .idle :=
  h.freed.idle n (List.mem_filter.2 ⟨hn, (h.done_advanced hn).trans hd⟩) (by rw [h.slotAt_advanced hn]; exact hl)

theorem Leads.ends (hall : ∀ n ∈ s.t.followers, followerDone s n = true) :
    releaseStrand (advanced s s) = .ok (strandEnded (advanced s s)) :=
  releaseStrand_all (s := advanced s s) h.depth fun n hn => (h.done_advanced hn).trans (hall n hn)

theorem Leads.ended_task : (strandEnded (advanced s s)).t = { (advanced s s).t with followers := [], member := 0, strandDepth := 0 } := by
  rw [← h.freed_task]
  rfl

theorem Leads.ended_slotAt {n : Nat} (hn : n ∈ s.t.followers) :
    (strandEnded (advanced s s)).slotAt n = (freedState (advanced s s)).slotAt n :=
  slotAt_setT_other _ (by rw [h.freed.cur]; exact h.follower_ne hn)

theorem Leads.ended_released (hrel : released s = true) : released (strandEnded (advanced s s)) = true := by
  have hnone : outstandingStores (advanced s s) (advanced s s).cur = false := by
    have hr := (released_advanced s).trans hrel
    simpa [released] using hr
  have hfree : released (freedState (advanced s s)) = true := by
    rw [released, h.freed.cur, h.freed.stores _ h.self_not_done hnone]
    rfl
  rw [strandEnded, released_setT (by rfl) (by rfl) (by rfl) (by rfl)]
  exact hfree

theorem Leads.waits (hsome : ∃ n ∈ s.t.followers, followerDone s n = false) :
    releaseStrand (advanced s s) = .error (.park (strandWaiting (advanced s s)) .release) := by
  obtain ⟨n, hn, hd⟩ := hsome
  refine releaseStrand_waits (s := advanced s s) h.depth rfl fun hnil => ?_
  have hin : n ∈ (advanced s s).t.followers.filter (fun n => !followerDone (advanced s s) n) :=
    List.mem_filter.2 ⟨hn, by rw [h.done_advanced hn, hd]; rfl⟩
  rw [hnil] at hin
  exact absurd hin nofun

theorem Leads.waiting_followers :
    (strandWaiting (advanced s s)).t.followers = s.t.followers.filter (fun n => !followerDone s n) :=
  List.filter_congr fun n hn => by rw [h.done_advanced hn]

theorem Leads.waiting_slotAt {n : Nat} (hn : n ∈ s.t.followers) :
    (strandWaiting (advanced s s)).slotAt n = (freedState (advanced s s)).slotAt n :=
  slotAt_setT_other _ (by rw [h.freed.cur]; exact h.follower_ne hn)

end

/-- A parked instruction leaves the other slots as its effect has left them. -/
theorem Parks.slotAt_other {s t : State} {p : Pc} {w : Wait} (h : Parks s p w t) {n : Nat} (hn : n ≠ s.cur) : t.slotAt n = s.slotAt n := by
  have hd := h.device
  generalize t.slot = x, t.cores = cs, t.watches = ws at hd
  subst hd
  rw [State.slotAt, State.slotAt, if_neg hn, if_neg hn]

/-- What the end of a strand has come to: the leader waits, or leads none. -/
structure StrandRelease (s t : State) : Prop where
  bytes : sameBytes s t
  idle : ∀ n ∈ s.t.followers, followerDone s n = true → (s.slotAt n).t.leader.isSome = true → (t.slotAt n).phase = .idle

section
variable {i : Instr} {sw : Bool} {s : State} {v : Vals} {body : Vals → State → Eff} (h : Leads s)
  (hi : Issues i { control := true } s s v)
include h hi

/-- An instruction that ends a strand waits while a follower is not done. -/
theorem strand_release_waits (hbody : body v (advanced s s) = .error (.park (strandWaiting (advanced s s)) .release)) :
    ∃ t, issue i sw { control := true } body s = .next t ∧ StrandRelease s t ∧ t.t.pc = s.t.pc ∧ t.t.wait = some .release
      ∧ t.t.followers = s.t.followers.filter (fun n => !followerDone s n) := by
  obtain ⟨t, hex, hpark⟩ := issue_parks (sw := sw) hi hbody
  refine ⟨t, hex, ⟨fun a => readByte_congr (hpark.mem.trans h.freed.mem) a, fun n hn hd hl => ?_⟩, hpark.pc, hpark.wait,
    hpark.followers.trans h.waiting_followers⟩
  have hcur : (strandWaiting (advanced s s)).cur = s.cur := h.freed.cur
  rw [hpark.slotAt_other (by rw [hcur]; exact h.follower_ne hn), h.waiting_slotAt hn]
  exact h.freed_idle hn hd hl

end

/-- UNSTRAND ends a strand whose followers are all done (R386). -/
theorem unstrand_releases {sw : Bool} {s : State} {v : Vals} (h : Leads s) (hi : Issues (.unstrand sw) { control := true } s s v)
    (hall : ∀ n ∈ s.t.followers, followerDone s n = true) :
    ∃ t, exec (.unstrand sw) s = .next t ∧ StrandRelease s t ∧ t.t.followers = [] ∧ t.t.pc = s.t.pc + 4 ∧ t.t.member = 0
      ∧ t.t.strandDepth = 0 := by
  rw [exec_unstrand]
  have htask := h.ended_task
  obtain ⟨t, hex, hc, -⟩ := issue_completed_unforwarded (sw := sw) (body := fun _ s => unstrandAt s) hi
    (by simp [Task.follows, h.leader]) (by rw [htask]; simp) rfl rfl (h.unstrandAt_eq.trans (h.ends hall)) (by rw [htask]; exact hi.awake)
  have hcur : (strandEnded (advanced s s)).cur = s.cur := h.freed.cur
  refine ⟨t, hex, ⟨fun a => readByte_congr (hc.mem.trans h.freed.mem) a, fun n hn hd hl => ?_⟩, ?_, ?_, ?_, ?_⟩
  · rw [hc.slotAt_other (by rw [hcur]; exact h.follower_ne hn), h.ended_slotAt hn]
    exact h.freed_idle hn hd hl
  · rw [hc.followers, htask]
  · rw [hc.pc, htask]; rfl
  · rw [hc.member, htask]
  · rw [hc.strandDepth, htask]

section
variable {sw : Bool} {run : Run} {s : State} {v : Vals} (h : Leads s) (hi : Issues (.retire sw) { control := true } s s v)
  (hruns : s.t.runs = [run]) (hc : (if run.given then counterAddr s.devid run.record else none) = none)
  (hpulled : s.t.pulled = []) (hfar : s.t.pulledFar = [])
include h hruns hc hpulled hfar

/-- The RETIRE of a leader without a completion counter comes to the release of its strand. -/
theorem Leads.retireAt_eq : retireAt (advanced s s) = retireRun none (advanced s s) :=
  retireAt_ends (s := advanced s s) h.leader (retireCounter_none (s := advanced s s) hruns hc) hpulled hfar
    fun hn => absurd ((nested_single (s := advanced s s) hruns).symm.trans hn) nofun

include hi

/-- RETIRE ends the task of a leader whose followers are all done (R124, R370). -/
theorem retire_releases (hpop : s.t.popOf = none) (hrel : released s = true) (hall : ∀ n ∈ s.t.followers, followerDone s n = true) :
    ∃ t, exec (.retire sw) s = .next t ∧ StrandRelease s t ∧ t.t.followers = [] ∧ t.slot.phase = .idle := by
  have htask := h.ended_task
  have hnest : (strandEnded (advanced s s)).t.nested = false := nested_single (by rw [htask]; exact hruns)
  have hends := h.retireAt_eq hruns hc hpulled hfar
  rw [retireRun_uncounted (h.ends hall) (h.ended_released hrel)] at hends
  replace hends := hends.trans (endTask_single hnest)
  obtain ⟨t, hex, hidle, hfol, hmem, hother⟩ := retire_idles (sw := sw) hi h.leader hends (by
    change (strandEnded (advanced s s)).t.popOf = none
    rw [htask]
    exact hpop)
  have hcur : (plainStreams (strandEnded (advanced s s))).cur = s.cur := h.freed.cur
  refine ⟨t, hex, ⟨fun a => readByte_congr (hmem.trans h.freed.mem) a, fun n hn hd hl => ?_⟩, hfol, hidle⟩
  have hne := h.follower_ne hn
  rw [hother n (by rw [hcur]; exact hne), plainStreams, slotAt_setT_other _ (by rw [← hcur] at hne; exact hne), h.ended_slotAt hn]
  exact h.freed_idle hn hd hl

end

/-! ## The obligation -/

/-- The clause on the end of a strand. -/
theorem strand_ends {i : Instr} {sw : Bool} {s : State} {v : Vals} (hcase : i = .unstrand sw ∨ i = .retire sw)
    (hi : Issues i { control := true } s s v) (h : Leads s)
    (hret : i = .retire sw → s.t.popOf = none ∧ s.t.pulled = [] ∧ s.t.pulledFar = [] ∧ released s = true
      ∧ ∃ run, s.t.runs = [run] ∧ (if run.given then counterAddr s.devid run.record else none) = none) :
    ∃ t, exec i s = .next t ∧ StrandRelease s t
      ∧ ((∃ n ∈ s.t.followers, followerDone s n = false) →
          t.t.pc = s.t.pc ∧ t.t.wait = some .release ∧ t.t.followers = s.t.followers.filter (fun n => !followerDone s n))
      ∧ ((∀ n ∈ s.t.followers, followerDone s n = true) → t.t.followers = []
          ∧ (i = .unstrand sw → t.t.pc = s.t.pc + 4 ∧ t.t.member = 0 ∧ t.t.strandDepth = 0) ∧ (i = .retire sw → t.slot.phase = .idle)) := by
  by_cases hall : ∀ n ∈ s.t.followers, followerDone s n = true
  · have hnot : ¬ ∃ n ∈ s.t.followers, followerDone s n = false := fun ⟨n, hn, hd⟩ => absurd ((hall n hn).symm.trans hd) nofun
    obtain rfl | rfl := hcase
    · obtain ⟨t, hex, hrel, hfol, hends⟩ := unstrand_releases h hi hall
      exact ⟨t, hex, hrel, fun hn => absurd hn hnot, fun _ => ⟨hfol, fun _ => hends, nofun⟩⟩
    · obtain ⟨hpop, hpulled, hfar, hstores, run, hruns, hc⟩ := hret rfl
      obtain ⟨t, hex, hrel, hfol, hidle⟩ := retire_releases h hi hruns hc hpulled hfar hpop hstores hall
      exact ⟨t, hex, hrel, fun hn => absurd hn hnot, fun _ => ⟨hfol, nofun, fun _ => hidle⟩⟩
  · have hsome : ∃ n ∈ s.t.followers, followerDone s n = false := by
      simpa only [not_forall, Bool.not_eq_true, exists_prop] using hall
    obtain rfl | rfl := hcase
    · obtain ⟨t, hex, hrel, hwaits⟩ := strand_release_waits (sw := sw) (body := fun _ s => unstrandAt s) h hi
        (h.unstrandAt_eq.trans (h.waits hsome))
      exact ⟨t, (exec_unstrand sw s).trans hex, hrel, fun _ => hwaits, fun hn => absurd hn hall⟩
    · obtain ⟨-, hpulled, hfar, -, run, hruns, hc⟩ := hret rfl
      obtain ⟨t, hex, hrel, hwaits⟩ := strand_release_waits (sw := sw) (body := fun _ s => retireAt s) h hi
        ((h.retireAt_eq hruns hc hpulled hfar).trans (retireRun_error none (h.waits hsome)))
      exact ⟨t, (exec_retire sw s).trans hex, hrel, fun _ => hwaits, fun hn => absurd hn hall⟩

/-- Settles O28: each instruction by the lemma on what it does in each of its cases. -/
theorem taskInstructions : Obligations.TaskInstructions := by
  refine ⟨?_, ?_, ?_, ?_, ?_, ?_, ?_, ?_⟩
  case refine_1 =>
    intro ra sw v s s1 hs ha hra hrel hal hown hread
    exact ⟨fork_pushes hs ha hra hrel hal hown hread sw,
      fun hfull hvalid hblock _ hstart => fork_nests hs ha hra hrel hal hown hread sw hfull hvalid hblock hstart,
      fork_discards hs ha hra hrel hal hown hread sw⟩
  case refine_2 =>
    intro ra rb sw pa fl s s2 hs ha hplain hal hplace hdata hblock
    exact ⟨join_met hs ha hplain hal hplace hdata hblock sw, join_waits hs ha hplain hal hplace hdata hblock sw,
      fun r hless hsome hr hl hd => ⟨join_nests hs ha hplain hal hplace hdata hblock sw hless hsome hr hl hd,
        join_discards hs ha hplain hal hplace hdata hblock sw hless hsome hr hl hd⟩⟩
  case refine_3 =>
    intro ra rb sw v s s1 hs ha hplain hrel hread hdest hout
    exact spawn_sends sw hs ha hplain hrel hread hdest hout
  case refine_4 =>
    intro sw run s hs hruns hpop hpulled hfar hrel
    exact ⟨retire_uncounted sw hs hruns hpop hpulled hfar hrel,
      fun c s2 pa fl hc hplace harmed hblock => retire_counts sw hs hruns hpop hpulled hfar hrel hc hplace harmed hblock⟩
  case refine_5 =>
    intro sw s hs ha
    exact ⟨yield_asks sw hs ha, unstrand_passes sw hs, unstrand_ends sw hs⟩
  case refine_6 =>
    intro ra sw s hs hra hpop hrel
    exact ⟨strand_passes sw hs hra, strand_single sw hs hra hpop hrel, strand_waits sw hs hra hpop hrel⟩
  case refine_7 =>
    intro sw run r2 more f g rest s hs hruns hpulled hfar hrel hd hblock hframes hk hc
    exact retire_returns sw hs hruns hpulled hfar hrel hd hblock hframes hk hc
  case refine_8 =>
    intro i sw s s1 v hcase hi hh hl hd hself hpops hret
    have hsame := hi.same_state
    subst hsame
    obtain ⟨t, hex, ⟨hbytes, hidle⟩, hwaits, hends⟩ := strand_ends hcase hi ⟨hh, hl, hd, hself, hpops⟩ hret
    exact ⟨t, hex, hbytes, hidle, hwaits, hends⟩

end Sys2Proof.Machine
end

section
/-! Addresses that fail a check: the checks in their order, and the trap of the access (R133, R148, R225). -/
namespace Sys2Proof.Machine

/-! ## The checks in their order -/

/-- Only a path 4 address names another device (R135). -/
theorem pathOk_not_remote {devid : BitVec 12} {k : Access} {a : Word} {size : Nat} {sc : Option (BitVec 2)} {q : BitVec 2} {tok : Tok}
    {remote : Bool} (h : pathOk devid k a size sc q = some (tok, remote)) (ht : tok.global = false) : remote = false := by
  unfold pathOk at h
  split at h
  · exact absurd h nofun
  · dsimp only at h
    obtain ⟨-, h⟩ := Option.ite_none_right_eq_some.1 h
    injection h with h
    injection h with htok hremote
    rw [← hremote, htok, ht, Bool.false_and]

theorem translateFor_unmapped {s : State} {who : Asker} {va : Nat} (w : Bool) (h : translate s who.core who.ctx va = none) :
    translateFor s who va w = .error .xlat := by
  rw [translateFor, h]

section
variable {s s' : State} {who : Asker} {va pa fl : Nat} {w : Bool} (h : translate s who.core who.ctx va = some (s', pa, fl))
include h

theorem translateFor_mapped :
    translateFor s who va w = if (w && !leafW fl) || (who.user && !leafU fl) then .error .prot else .ok (s', pa, fl) := by
  rw [translateFor, h]

/-- The leaf forbids the write, or the mode (R146, R148). -/
theorem translateFor_forbidden (hf : w = true ∧ leafW fl = false ∨ who.user = true ∧ leafU fl = false) :
    translateFor s who va w = .error .prot := by
  rw [translateFor_mapped h, if_pos]
  obtain ⟨hw, hl⟩ | ⟨hu, hl⟩ := hf
  · simp [hw, hl]
  · simp [hu, hl]

theorem translateFor_permitted (hw : w = true → leafW fl = true) (hu : who.user = true → leafU fl = true) :
    translateFor s who va w = .ok (s', pa, fl) := by
  rw [translateFor_mapped h, if_neg]
  simp only [Bool.or_eq_true, Bool.and_eq_true, Bool.not_eq_true', not_or, not_and, Bool.not_eq_false]
  exact ⟨hw, hu⟩

end

section
variable {s : State} {who : Asker} {k : Access} {a : Word} {size align : Nat} {sc : Option (BitVec 2)} {q : BitVec 2} {tok : Tok}
  {remote : Bool}

theorem locate_path (h : pathOk s.devid k a size sc q = none) : locate s who k a size align sc q = .error .path := by
  rw [locate, h]

variable (hp : pathOk s.devid k a size sc q = some (tok, remote))
include hp

theorem locate_priv (ht : tok = .regs) (hu : who.user = true) : locate s who k a size align sc q = .error .priv := by
  rw [locate, hp]
  simp [ht, hu]

theorem locate_align (hu : tok = .regs → who.user = false) (ha : a.toNat % align ≠ 0) :
    locate s who k a size align sc q = .error .align := by
  rw [locate, hp]
  have hmode : (decide (tok = .regs) && who.user) = false := by
    by_cases ht : tok = .regs
    · rw [hu ht, Bool.and_false]
    · rw [decide_eq_false ht, Bool.false_and]
  simp only [hmode, ha, Bool.false_eq_true, if_false, ne_eq, not_false_eq_true, if_true]

/-- An address of path 1 is translated, for reading. -/
theorem locate_readOnly (ht : tok = .ro) (ha : a.toNat % align = 0) : locate s who k a size align sc q =
    (translateFor s who (bitsOf a 0 45) false).map (fun r => (r.1, .ro (bitsOf a 0 45) r.2.1)) := by
  have hr : remote = false := pathOk_not_remote hp (by rw [ht]; rfl)
  subst ht hr
  rw [locate, hp]
  simp only [ha, ne_eq, not_true_eq_false, if_false, reduceCtorEq, decide_false, Bool.false_and, Bool.false_eq_true]
  cases translateFor s who (bitsOf a 0 45) false <;> rfl

/-- An address of path 0, or of region 3 of path 4 on this device, is translated, for writing where the access writes its bytes or its
granules. -/
theorem locate_translated (ht : tok = .generic ∨ tok = .gen4) (hr : remote = false) (ha : a.toNat % align = 0) :
    locate s who k a size align sc q =
      (translateFor s who (bitsOf a 0 45) (k.writes || q = 2)).map (fun r => (r.1, .mem r.2.1 r.2.2)) := by
  rw [locate, hp]
  obtain rfl | rfl := ht <;>
  · simp only [hr, ha, ne_eq, not_true_eq_false, if_false, reduceCtorEq, decide_false, Bool.false_and, Bool.false_eq_true]
    cases translateFor s who (bitsOf a 0 45) (k.writes || decide (q = 2)) <;> rfl

/-- The translation of every path that has one may fail. -/
theorem locate_unmapped (ht : tok = .generic ∨ tok = .ro ∨ tok = .gen4) (hr : remote = false) (ha : a.toNat % align = 0)
    (hx : translate s who.core who.ctx (bitsOf a 0 45) = none) : locate s who k a size align sc q = .error .xlat := by
  have hx' := fun w => translateFor_unmapped w hx
  obtain ht | ht | ht := ht
  · rw [locate_translated hp (.inl ht) hr ha, hx']; rfl
  · rw [locate_readOnly hp ht ha, hx']; rfl
  · rw [locate_translated hp (.inr ht) hr ha, hx']; rfl

end

/-! ## The refused access -/

/-- Why an access of the slot in force is refused: its address fails a check of R133, or it would write to an armed segment (R225). -/
inductive Refused (s : State) (k : Access) (a : Word) (size align : Nat) (sc : Option (BitVec 2)) (q : BitVec 2) (op : HomeOp) :
    Cause → Prop
  | check {c : Cause} (h : locate s s.asker k a size align sc q = .error c) : Refused s k a size align sc q op c
  | armed {s2 : State} {pa fl : Nat} (h : locate s s.asker k a size align sc q = .ok (s2, .mem pa fl)) (hw : opWrites op = true)
      (ha : inArmed s pa size = true) : Refused s k a size align sc q op .prot

/-- A plain code takes its result where it is held: no stream gives a place for it. -/
theorem claimDst_plain {s : State} {r : Reg} (h : plainCode s.t r = true) : claimDst s r = .ok (s, dstOf s.t r, []) := by
  obtain ⟨-, -, -, hstream, -⟩ := plain_facts h
  rw [claimDst]
  simp only [hstream, Bool.false_and, Bool.false_eq_true, if_false]

/-- An address is refused at the next instruction too. -/
theorem locate_advanced_error {s : State} {k : Access} {a : Word} {size align : Nat} {sc : Option (BitVec 2)} {q : BitVec 2} {c : Cause}
    (h : locate s s.asker k a size align sc q = .error c) :
    locate (advanced s s) (advanced s s).asker k a size align sc q = .error c :=
  (locate_setT s _ s.asker k a size align sc q).trans (by rw [h]; rfl)

theorem access_refused {s : State} {k : Access} {a : Word} {size align : Nat} {sc : Option (BitVec 2)} {q : BitVec 2} {op : HomeOp}
    {rd : Reg} {c : Cause} (hrd : plainCode s.t rd = true) (h : Refused s k a size align sc q op c) :
    access (advanced s s) k a size align sc q op rd = .error (.trap c a) := by
  rw [access, claimDst_plain (plainCode_advanced s rd ▸ hrd)]
  dsimp only
  rw [accessTo, accessRaw]
  cases h with
  | check h => rw [locate_advanced_error h]
  | @armed s2 pa fl h hw ha =>
    have harmed : inArmed (s2.setT (advanced s s).t) pa size = inArmed s pa size := by
      rw [(locate_peeked h).device]
      rfl
    rw [locate_advanced h]
    simp only [hw, harmed, ha, Bool.and_self, if_true]

/-- An instruction whose access is refused takes the trap with TVAL = the address. -/
theorem issue_refused {i : Instr} {sw : Bool} {u : Use} {v : Vals} {s : State} {body : Vals → State → Eff} {c : Cause} {a : Word}
    (hi : Issues i u s s v) (ho : u.own = false) (hh : u.handle = false) (hb : body v (advanced s s) = .error (.trap c a)) :
    issue i sw u body s = refusedAt s c a := by
  have hnote : noteTrap u s c a = noteTrap {} s c a := by rw [noteTrap, hh]; rfl
  rw [issue_trap hi sw ho hb, hnote]
  rfl

/-! ## Loads, stores and atomics -/

theorem memAddr_eq (ra : Word) (off : BitVec 11) (size : Nat) : memAddr ra off size = dataAddress ra off size := by
  rw [memAddr, dataAddress, BitVec.ofInt_mul, BitVec.ofInt_natCast]
  rfl

/-- A load is one issue of its address and its destination. -/
theorem exec_loads {i : Instr} {sw : Bool} {rt ra : Reg} {off : BitVec 11} {q : BitVec 2} {size : Nat} {sign : Bool}
    (h : loads i = some (sw, rt, ra, off, q, size, sign)) (s : State) : exec i s = load i sw rt ra off q size sign s := by
  cases i <;> simp only [loads, Option.some.injEq, Prod.mk.injEq, reduceCtorEq] at h
  all_goals obtain ⟨rfl, rfl, rfl, rfl, rfl, rfl, rfl⟩ := h; rfl

theorem wellFormed_loads {i : Instr} {sw : Bool} {rt ra : Reg} {off : BitVec 11} {q : BitVec 2} {size : Nat} {sign : Bool}
    (h : loads i = some (sw, rt, ra, off, q, size, sign)) (hq : q ≠ 3) : i.wellFormed = true := by
  cases i <;> simp only [loads, Option.some.injEq, Prod.mk.injEq, reduceCtorEq] at h
  all_goals obtain ⟨-, -, -, -, rfl, -, -⟩ := h; exact bne_iff_ne.2 hq

theorem exec_stores {i : Instr} {sw : Bool} {rt ra : Reg} {off : BitVec 11} {q : BitVec 2} {size : Nat}
    (h : stores i = some (sw, rt, ra, off, q, size)) (s : State) : exec i s = store i sw rt ra off q size s := by
  cases i <;> simp only [stores, Option.some.injEq, Prod.mk.injEq, reduceCtorEq] at h
  all_goals obtain ⟨rfl, rfl, rfl, rfl, rfl, rfl⟩ := h; rfl

theorem wellFormed_stores {i : Instr} {sw : Bool} {rt ra : Reg} {off : BitVec 11} {q : BitVec 2} {size : Nat}
    (h : stores i = some (sw, rt, ra, off, q, size)) (hq : q ≠ 3) : i.wellFormed = true := by
  cases i <;> simp only [stores, Option.some.injEq, Prod.mk.injEq, reduceCtorEq] at h
  all_goals obtain ⟨-, -, -, -, rfl, -⟩ := h; exact bne_iff_ne.2 hq

/-- An atomic is one issue of the operation of its number, at its width. -/
theorem exec_atomics {i : Instr} {sw : Bool} {rd ra rb : Reg} {sc : BitVec 2} {w : Nat} {f : Nat → Nat → Nat}
    (h : atomics i = some (sw, rd, ra, rb, sc, w, f)) (s : State) :
    i.wellFormed = true ∧ ∃ aop wd, amoWidth aop wd = w ∧ exec i s = amo i sw rd ra rb aop sc wd s := by
  cases i <;> simp only [atomics, Option.some.injEq, Prod.mk.injEq, reduceCtorEq] at h
  all_goals obtain ⟨rfl, rfl, rfl, rfl, rfl, rfl, -⟩ := h; exact ⟨rfl, _, _, rfl, rfl⟩

section
variable {i : Instr} {sw : Bool} {s : State} (hs : Calm s) (ha : s.t.active = true) (hwf : i.wellFormed = true)
include hs ha hwf

theorem load_refused {rt ra : Reg} {off : BitVec 11} {q : BitVec 2} {size : Nat} {sign : Bool} {c : Cause}
    (hr : ∀ r ∈ [ra, rt], plainCode s.t r = true)
    (h : Refused s .load (dataAddress (plainRead s.t ra) off size) size size none q (.load sign) c) :
    load i sw rt ra off q size sign s = refusedAt s c (dataAddress (plainRead s.t ra) off size) := by
  have hi := issues_plain (u := { a := some ra, d := [rt] }) hs (by simp [ha]) hr hwf rfl rfl nofun
  refine issue_refused hi rfl rfl ?_
  show loadAt rt (memAddr (plainRead s.t ra) off size) size sign q (advanced s s) = _
  rw [loadAt, memAddr_eq, access_refused (hr rt (by simp)) h]

theorem store_refused {rt ra : Reg} {off : BitVec 11} {q : BitVec 2} {size : Nat} {c : Cause}
    (hr : ∀ r ∈ [ra, rt], plainCode s.t r = true)
    (h : Refused s .store (dataAddress (plainRead s.t ra) off size) size size none q (.store ((plainRead s.t rt).zeroExtend 512)) c) :
    store i sw rt ra off q size s = refusedAt s c (dataAddress (plainRead s.t ra) off size) := by
  have hi := issues_plain (u := { a := some ra, c := some rt, store := true }) hs (by simp [ha]) hr hwf rfl rfl nofun
  refine issue_refused hi rfl rfl ?_
  show storeAt (memAddr (plainRead s.t ra) off size) size q (plainRead s.t rt) (advanced s s) = _
  rw [storeAt, memAddr_eq, access_refused rfl h]

theorem amo_refused {rd ra rb : Reg} {aop : Nat} {sc : BitVec 2} {wd : Bool} {c : Cause}
    (hr : ∀ r ∈ [ra, rb, rd], plainCode s.t r = true)
    (h : Refused s .atomic (plainRead s.t ra) (amoWidth aop wd) (amoWidth aop wd) (some sc) 0 (.amo aop (plainRead s.t rb)) c) :
    amo i sw rd ra rb aop sc wd s = refusedAt s c (plainRead s.t ra) := by
  have hi := issues_plain (u := { a := some ra, b := some rb, d := [rd] }) hs (by simp [ha]) hr hwf rfl rfl nofun
  exact issue_refused hi rfl rfl (access_refused (hr rd (by simp)) h)

end

/-! ## The obligation -/

/-- Settles O13: a refused access is refused in its issue, and each check is the first that fails. -/
theorem addressChecksInOrder : Obligations.AddressChecksInOrder := by
  refine ⟨⟨?_, ?_, ?_, ?_, ?_⟩, fun s who k a size align sc q => ⟨locate_path, fun tok remote hp => ⟨locate_priv hp, locate_align hp,
    locate_unmapped hp, fun ht ha s' pa fl hx => ?_, fun ht hr ha s' pa fl hx => ⟨fun hf => ?_, fun hw hu => ?_⟩⟩⟩⟩
  · intro i sw rt ra off q size sign c s hi hq hs ha hr hl
    exact exec_loads hi s ▸ load_refused hs ha (wellFormed_loads hi hq) hr (.check hl)
  · intro i sw rt ra off q size c s hi hq hs ha hr hl
    exact exec_stores hi s ▸ store_refused hs ha (wellFormed_stores hi hq) hr (.check hl)
  · intro i sw rt ra off q size pa fl s s2 hi hq hs ha hr hl harmed
    exact exec_stores hi s ▸ store_refused hs ha (wellFormed_stores hi hq) hr (.armed hl rfl harmed)
  · intro i sw rd ra rb sc w f pa fl s s2 hi hs ha hr hl harmed
    obtain ⟨hwf, aop, wd, rfl, hex⟩ := exec_atomics hi s
    exact hex ▸ amo_refused hs ha hwf hr (.armed hl rfl harmed)
  · intro i sw rd ra rb sc w f c s hi hs ha hr hl
    obtain ⟨hwf, aop, wd, rfl, hex⟩ := exec_atomics hi s
    exact hex ▸ amo_refused hs ha hwf hr (.check hl)
  · rw [locate_readOnly hp ht ha]
    split
    · next hf => rw [translateFor_forbidden hx (.inr hf)]; rfl
    · next hf => rw [translateFor_permitted hx (absurd · Bool.false_ne_true) fun hu => Bool.eq_true_of_not_eq_false fun hl => hf ⟨hu, hl⟩]; rfl
  · rw [locate_translated hp ht hr ha, translateFor_forbidden hx (by simpa using hf)]
    rfl
  · rw [locate_translated hp ht hr ha, translateFor_permitted hx (by simpa using hw) hu]
    rfl

end Sys2Proof.Machine
end

section
/-! Accesses that wait at homes and the replies of homes: what an access leaves in memory, its granules and its register (R22, R143, R144,
R155, R165, R225). -/
namespace Sys2Proof.Machine

/-! ## Granules -/

theorem foldl_setEmpty_device (l : List Nat) (s : State) : l.foldl setEmpty s = { s with empty := (l.foldl setEmpty s).empty } := by
  induction l generalizing s with
  | nil => rfl
  | cons g l ih => rw [List.foldl_cons, ih]; rfl

theorem foldl_setFull_device (l : List Nat) (s : State) : l.foldl setFull s = { s with empty := (l.foldl setFull s).empty } := by
  induction l generalizing s with
  | nil => rfl
  | cons g l ih => rw [List.foldl_cons, ih]; rfl

/-- Of a list of granules set empty, exactly those are empty besides the ones that were (R143). -/
theorem isFull_foldl_setEmpty (l : List Nat) (s : State) (g : Nat) :
    isFull (l.foldl setEmpty s) g = (isFull s g && l.all (fun x => decide (g / 16 ≠ x / 16))) := by
  induction l generalizing s with
  | nil => simp
  | cons x l ih => rw [List.foldl_cons, ih, isFull_setEmpty, List.all_cons, Bool.and_assoc]

theorem isFull_foldl_setFull (l : List Nat) (s : State) (g : Nat) :
    isFull (l.foldl setFull s) g = (isFull s g || l.any (fun x => decide (g / 16 = x / 16))) := by
  induction l generalizing s with
  | nil => simp
  | cons x l ih => rw [List.foldl_cons, ih, isFull_setFull, List.any_cons, Bool.or_assoc]

theorem allEmpty_foldl_setEmpty (s : State) (a n : Nat) : allEmpty ((granulesOf a n).foldl setEmpty s) a n := by
  intro g hg
  rw [isFull_foldl_setEmpty, Bool.and_eq_false_iff, List.all_eq_false]
  exact .inr ⟨g, hg, by simp⟩

theorem allFull_setFullRange (s : State) {a : Nat} (n : Nat) (h : hasGranules a = true) : allFull (setFullRange s a n) a n := by
  intro g hg
  rw [setFullRange, if_pos h, isFull_foldl_setFull, Bool.or_eq_true_iff, List.any_eq_true]
  exact .inr ⟨g, hg, by simp⟩

theorem setFullRange_device (s : State) (a n : Nat) : setFullRange s a n = { s with empty := (setFullRange s a n).empty } := by
  rw [setFullRange]
  split
  · exact foldl_setFull_device _ s
  · rfl

/-! ## A store at its home -/

/-- The bytes of a store written, and its granules full where it has a qualifier (R143); what watches them has not been looked at. -/
def stored (s : State) (a n : Nat) (q : BitVec 2) (v : Nat) : State :=
  if q = 0 then writeNat s a n v else setFullRange (writeNat s a n v) a n

theorem applyOp_store (s : State) (a n : Nat) (q : BitVec 2) (v : BitVec 512) :
    applyOp s a n q (.store v) = (afterWrite (stored s a n q v.toNat), 0) := rfl

theorem stored_device (s : State) (a n : Nat) (q : BitVec 2) (v : Nat) :
    stored s a n q v = { writeNat s a n v with empty := (stored s a n q v).empty } := by
  rw [stored]
  split
  · rfl
  · exact setFullRange_device _ a n

/-- t is s after a store at its home. -/
structure Stores (s : State) (a n : Nat) (q : BitVec 2) (v : Nat) (t : State) : Prop where
  bytes : readNat t a n = v % 256 ^ n
  outside : sameOutside s t a n
  full : q ≠ 0 → hasGranules a = true → allFull t a n
  held : t.held = s.held

/-- A step that changes neither bytes nor granules nor waiting accesses may follow. -/
theorem Stores.congr {s t u : State} {a n : Nat} {q : BitVec 2} {v : Nat} (h : Stores s a n q v t) (hm : u.mem = t.mem)
    (he : u.empty = t.empty) (hh : u.held = t.held) : Stores s a n q v u := by
  refine ⟨(readNat_congr hm a n).trans h.bytes, fun b hb => (readByte_congr hm b).trans (h.outside b hb), fun hq ha g hg => ?_,
    hh.trans h.held⟩
  rw [isFull, he]
  exact h.full hq ha g hg

theorem applyOp_stores (s : State) (a n : Nat) (q : BitVec 2) (v : BitVec 512) :
    Stores s a n q v.toNat (applyOp s a n q (.store v)).1 := by
  rw [applyOp_store]
  have hwoken := (afterWrite_woken (stored s a n q v.toNat)).device
  have hmem : (afterWrite (stored s a n q v.toNat)).mem = (writeNat s a n v.toNat).mem := by rw [hwoken, stored_device]
  refine ⟨?_, fun b hb => ?_, fun hq ha g hg => ?_, ?_⟩
  · rw [readNat_congr hmem, readNat_writeNat]
  · rw [readByte_congr hmem, readByte_writeNat_outside _ _ _ _ _ hb]
  · have hempty : (afterWrite (stored s a n q v.toNat)).empty = (setFullRange (writeNat s a n v.toNat) a n).empty := by
      rw [hwoken, stored, if_neg hq]
    have hfull := allFull_setFullRange (writeNat s a n v.toNat) n ha g hg
    rwa [isFull, ← hempty] at hfull
  · rw [hwoken, stored_device, writeNat, writeBytes_mem_only]

/-! ## A load at its home -/

/-- What a load at its home gives, and the state that it leaves. -/
structure Loads (s : State) (a n : Nat) (q : BitVec 2) (r : State × Nat) : Prop where
  value : r.2 = readNat s a n
  device : r.1 = { s with empty := r.1.empty, faint := r.1.faint, errors := r.1.errors }
  kept : q ≠ 2 → r.1.empty = s.empty
  emptied : q = 2 → allEmpty r.1 a n

theorem applyOp_loads (s : State) (f : Nat → EccEvent) (a n : Nat) (q : BitVec 2) (sign : Bool) :
    Loads s a n q (applyOp (noteRead s f a n) a n q (.load sign)) := by
  have hread : readNat (noteRead s f a n) a n = readNat s a n := readNat_congr (noteRead_mem s f a n) a n
  rw [applyOp]
  split
  · next hq =>
    refine ⟨hread, ?_, fun hne => absurd hq hne, fun _ => allEmpty_foldl_setEmpty _ a n⟩
    dsimp only
    rw [foldl_setEmpty_device]
    rfl
  · next hq => exact ⟨hread, rfl, fun _ => rfl, fun he => absurd he hq⟩

/-! ## An access that waited (R144, R155, R165) -/

/-- The access idx no longer waits at its home. -/
def leaveHome (s : State) (idx : Nat) : State := { s with held := s.held.eraseIdx idx }

theorem readNat_leaveHome (s : State) (idx a n : Nat) : readNat (leaveHome s idx) a n = readNat s a n :=
  readNat_congr (s := s) (t := leaveHome s idx) rfl a n

theorem exec_accessAtHome {idx : Nat} {h : Held} {s : State} (hh : s.held[idx]? = some h) : exec (.accessAtHome idx) s =
    .next (if homeReady s h (s.held.take idx) then performNow (leaveHome s idx) h else s) := by
  have hlt : idx < s.held.length := (List.getElem?_eq_some_iff.1 hh).1
  show execAccessAtHome idx s = _
  rw [execAccessAtHome, if_pos hlt, tryHeld, hh]
  rfl

theorem homeReady_of_not_mayGo {s : State} {idx : Nat} {h : Held} (hg : mayGo s idx h = false) :
    homeReady s h (s.held.take idx) = false := by
  rw [homeReady, show (heldReady s h && !behind s h (s.held.take idx)) = false from hg, Bool.false_and]

/-- An access of a slot here waits for nothing else. -/
theorem homeReady_of_mayGo {s : State} {idx : Nat} {h : Held} (hf : h.far = none) (hg : mayGo s idx h = true) :
    homeReady s h (s.held.take idx) = true := by
  rw [homeReady, show (heldReady s h && !behind s h (s.held.take idx)) = true from hg, outsideWaits, hf]
  rfl

/-- An access of a slot here is performed, and a result that it has leaves as a reply. -/
theorem performNow_near {s : State} {h : Held} {r : State × Nat} (hf : h.far = none)
    (hw : (opWrites h.op && inArmed s h.addr h.size) = false)
    (hr : applyOp (noteAccess s h.slot h.addr h.size h.op) h.addr h.size h.q h.op = r) :
    ∃ rs, performNow s h = { r.1 with replies := rs } ∧ (h.dst ≠ .none → rs = r.1.replies ++ [replyOf r.1 h r.2]) := by
  rw [performNow, hw, hf, if_neg Bool.false_ne_true]
  dsimp only
  rw [hr]
  split
  · next hd => exact ⟨_, rfl, fun h => absurd hd h⟩
  · exact ⟨_, rfl, fun _ => rfl⟩

/-- A store that finds its bytes in an armed segment writes nothing (R225). -/
theorem performNow_armed {s : State} {h : Held} (hf : h.far = none) (hw : opWrites h.op = true) (ha : inArmed s h.addr h.size = true)
    (hc : h.checked = false) : ∃ rs, performNow s h = { s with replies := rs } := by
  rw [performNow, hw, ha, Bool.and_self, if_pos rfl, refuseHeld, hf]
  dsimp only
  rw [hc, if_neg Bool.false_ne_true]
  split <;> exact ⟨_, rfl⟩

section
variable {idx : Nat} {h : Held} {s : State} (hh : s.held[idx]? = some h) (hf : h.far = none) (hg : mayGo s idx h = true)
include hh hf hg

theorem exec_accessAtHome_ready : exec (.accessAtHome idx) s = .next (performNow (leaveHome s idx) h) := by
  rw [exec_accessAtHome hh, homeReady_of_mayGo hf hg, if_pos rfl]

theorem accessAtHome_load {sign : Bool} (ho : h.op = .load sign) :
    ∃ t, exec (.accessAtHome idx) s = .next t ∧ t.held = s.held.eraseIdx idx ∧ sameBytes s t
      ∧ (h.q ≠ 2 → t.empty = s.empty) ∧ (h.q = 2 → allEmpty t h.addr h.size)
      ∧ (h.dst ≠ .none → t.replies = s.replies ++
          [{ slot := h.slot, home := orderHome s h.addr, dst := h.dst, sign := sign, size := h.size
             value := BitVec.ofNat 512 (readNat s h.addr h.size), seq := h.seq }]) := by
  have hl := applyOp_loads (leaveHome s idx) (.slotData · ((leaveHome s idx).slotAt h.slot).t.ctxid.toNat h.slot) h.addr h.size h.q sign
  generalize hr : applyOp (noteRead (leaveHome s idx) _ _ _) h.addr h.size h.q (.load sign) = r at hl
  obtain ⟨rs, hnow, hrs⟩ := performNow_near (r := r) (s := leaveHome s idx) hf (by rw [ho]; rfl) (by rw [ho]; exact hr)
  refine ⟨_, exec_accessAtHome_ready hh hf hg, ?_, fun a => readByte_congr ?_ a, fun hq => ?_, fun hq => ?_, fun hd => ?_⟩
  · rw [hnow, hl.device]; rfl
  · rw [hnow, hl.device]; rfl
  · rw [hnow]; exact hl.kept hq
  · rw [hnow]; exact hl.emptied hq
  · rw [hnow, hrs hd, replyOf, hl.value, readNat_leaveHome, ho, hl.device]; rfl

theorem accessAtHome_armed (ho : opWrites h.op = true) (ha : inArmed s h.addr h.size = true) (hc : h.checked = false) :
    ∃ t, exec (.accessAtHome idx) s = .next t ∧ t.held = s.held.eraseIdx idx ∧ sameBytes s t := by
  obtain ⟨rs, hnow⟩ := performNow_armed (s := leaveHome s idx) hf ho ha hc
  exact ⟨_, exec_accessAtHome_ready hh hf hg, by rw [hnow]; rfl, fun a => by rw [hnow]; rfl⟩

theorem accessAtHome_store {v : BitVec 512} (ho : h.op = .store v) (ha : inArmed s h.addr h.size = false) :
    ∃ t, exec (.accessAtHome idx) s = .next t ∧ t.held = s.held.eraseIdx idx ∧ readNat t h.addr h.size = v.toNat % 256 ^ h.size
      ∧ sameOutside s t h.addr h.size ∧ (h.q ≠ 0 → hasGranules h.addr = true → allFull t h.addr h.size) := by
  have hst := applyOp_stores (leaveHome s idx) h.addr h.size h.q v
  generalize hr : applyOp (leaveHome s idx) h.addr h.size h.q (.store v) = r at hst
  have harmed : inArmed (leaveHome s idx) h.addr h.size = false := ha
  obtain ⟨rs, hnow, -⟩ := performNow_near (r := r) (s := leaveHome s idx) hf (by rw [harmed, Bool.and_false]) (by rw [ho]; exact hr)
  have ht := hst.congr (u := { r.1 with replies := rs }) rfl rfl rfl
  rw [← hnow] at ht
  exact ⟨_, exec_accessAtHome_ready hh hf hg, ht.held, ht.bytes, ht.outside, ht.full⟩

end

/-! ## The reply of a home (R22) -/

/-- t is s after a result has reached a global register of slot n. -/
structure TakesGlobal (s : State) (n g : Nat) (w : Word) (t : State) : Prop where
  value : (t.slotAt n).t.globals[g]! = w
  pend : (t.slotAt n).t.pend = (s.slotAt n).t.pend.erase (.glob g)
  peerfail : (t.slotAt n).t.peerfail = (s.slotAt n).t.peerfail
  device : t = { s with slot := t.slot, others := t.others }

theorem deliver_takesGlobal (s : State) (n : Nat) {g : Nat} (sign : Bool) (size v : Nat) (hg : g < 7) :
    TakesGlobal s n g (loadValue sign size v) (deliver (clearPend s n (.glob g)) n (.glob g) sign size v) := by
  have hd : deliver (clearPend s n (.glob g)) n (.glob g) sign size v =
      (s.updTaskOf n (fun t => { t with pend := t.pend.erase (.glob g) })).updTaskOf n
        (fun t => { t with globals := t.globals.setIfInBounds g (loadValue sign size v) }) := rfl
  rw [hd, State.updTaskOf, State.updTaskOf]
  refine ⟨?_, ?_, ?_, ?_⟩
  · rw [slotAt_updSlot, if_pos rfl]
    simp [getElem!_pos, hg]
  · simp only [slotAt_updSlot, if_true]
  · simp only [slotAt_updSlot, if_true]
  · rw [updSlot_device, updSlot_device]

theorem exec_memoryReply_home {idx code : Nat} {value : BitVec 4096} {r : Reply} {s : State} (hr : s.replies[idx]? = some r)
    (hfirst : replyFirst s idx r = true) : exec (.memoryReply (s.remote.length + idx) code value) s =
      .next (deliver (clearPend { s with replies := s.replies.eraseIdx idx } r.slot r.dst) r.slot r.dst r.sign r.size r.value.toNat) := by
  show execMemoryReply (s.remote.length + idx) code value s = _
  rw [execMemoryReply, if_neg (by omega), Nat.add_sub_cancel_left, hr]
  dsimp only
  rw [hfirst]
  rfl

/-! ## The obligation -/

/-- Settles O53: a waiting access is performed by its home's operation, and its reply is delivered. -/
theorem homesPerformWaitingAccesses : Obligations.HomesPerformWaitingAccesses := by
  refine ⟨fun idx h s hh => ⟨fun hg => ?_, fun sign hg hf ho => accessAtHome_load hh hf hg ho,
    fun v hg hf ho ha hc => accessAtHome_armed hh hf hg (by rw [ho]; rfl) ha hc, fun v hg hf ho ha => accessAtHome_store hh hf hg ho ha,
    fun hw => ?_, fun hw => ?_⟩, fun idx code g value r s hr hd hg hfirst => ?_⟩
  · rw [exec_accessAtHome hh, homeReady_of_not_mayGo hg, if_neg Bool.false_ne_true]
  · show execFeReissue idx s = execAccessAtHome idx s
    rw [execFeReissue, execAccessAtHome, if_pos hw, if_pos (List.getElem?_eq_some_iff.1 hh).1]
  · show execFeReissue idx s = _
    rw [execFeReissue, if_neg (Nat.not_le.2 hw)]
  · have hex := exec_memoryReply_home (code := code) (value := value) hr hfirst
    rw [hd] at hex
    have ht := deliver_takesGlobal { s with replies := s.replies.eraseIdx idx } r.slot r.sign r.size r.value.toNat hg
    exact ⟨_, hex, by rw [ht.device], fun a => readByte_congr (by rw [ht.device]) a, ht.value, ht.pend⟩

end Sys2Proof.Machine
end

section
/-! Requests to other devices, whose replies end or delay them, and requests of other devices, which their homes here answer (R151 to R154,
R226). -/
namespace Sys2Proof.Machine

/-! ## Replies of other devices (R151 to R153) -/

/-- A load of a slot from another device, whose value goes to global g. -/
structure WantsGlobal (r : Remote) (g : Nat) : Prop where
  noEngine : r.eng = none
  free : r.hold = false
  load : r.acc.op = .load
  dst : r.dst = .glob g
  global : g < 7
  slot : r.slot < noSlot

/-- The requests that are left once request idx has ended. -/
def withoutRequest (s : State) (idx : Nat) (r : Remote) : State :=
  { s with remote := s.remote.take idx ++ sendNext r (s.remote.drop (idx + 1)) }

section
variable {idx code : Nat} {value : BitVec 4096} {r : Remote} {s : State} (hr : s.remote[idx]? = some r) (hm : mayReply s idx r = true)
include hr

theorem exec_memoryReply_far : exec (.memoryReply idx code value) s = .next (replyAt s idx code value) := by
  show execMemoryReply idx code value s = _
  rw [execMemoryReply, if_pos (List.getElem?_eq_some_iff.1 hr).1]

include hm

/-- A reply other than retry-later ends the request. -/
theorem replyAt_ends (hc : code ≠ 1) : replyAt s idx code value = endRequest (withoutRequest s idx r) r code value := by
  rw [replyAt, hr]
  dsimp only
  rw [hm, if_neg (by decide), if_neg hc]
  rfl

/-- The first retry-later parks the request for 1 µs, and what follows it in its queue waits (R152). -/
theorem replyAt_retryLater (hp : r.parked = none) (hw : r.withdrawn = none) : replyAt s idx 1 value =
    { s with remote := s.remote.take idx ++ { r with parked := some (s.tstamp.toNat, s.tstamp.toNat + 1000, 1000), queued := false }
               :: queueBehind r (s.remote.drop (idx + 1)) } := by
  rw [replyAt, hr]
  dsimp only
  rw [hm, if_neg (by decide), if_pos rfl, hp, hw]
  rfl

end

section
variable {r : Remote} {g : Nat} (h : WantsGlobal r g)
include h

theorem WantsGlobal.dropped {code : Nat} (hc : code ≠ 0) (hlt : code < 16) : isDrop r code = true := by
  simp [isDrop, hc, hlt, h.slot, h.dst, h.free, h.noEngine]

/-- A value reaches its register, whatever has ended the request. -/
theorem WantsGlobal.result (s : State) (v : Nat) :
    remoteResult s r v = deliver (clearPend s r.slot (.glob g)) r.slot (.glob g) r.sign r.acc.size v := by
  rw [remoteResult, h.dst]
  rfl

/-- The request ends with its value, or with 0 where it was not performed (R153). -/
theorem WantsGlobal.ends (s : State) (code : Nat) (value : BitVec 4096) : endRequest s r code value =
    remoteResult (if isDrop r code then setPeerFail s r.slot r.device else s) r (if code = 0 then value.toNat else 0) := by
  unfold endRequest
  rw [h.noEngine, h.free, h.load]
  dsimp only
  rw [if_neg (Nat.not_le.2 h.slot), Bool.false_and, if_neg Bool.false_ne_true, if_neg Bool.false_ne_true]
  cases code <;> rfl

theorem endRequest_performed (s : State) (value : BitVec 4096) :
    TakesGlobal s r.slot g (loadValue r.sign r.acc.size value.toNat) (endRequest s r 0 value) := by
  rw [h.ends, h.result]
  exact deliver_takesGlobal s r.slot r.sign r.acc.size value.toNat h.global

end

theorem loadValue_zero (sign : Bool) (size : Nat) : loadValue sign size 0 = 0 := by
  cases sign <;> simp [loadValue, sextTo, zextTo, BitVec.signExtend]

/-- t is s after a request of slot n to a device has been refused or dropped: 0 in global g, and the device's bit of PEERFAIL (R153,
R154). -/
structure FailsGlobal (s : State) (n device g : Nat) (t : State) : Prop where
  value : (t.slotAt n).t.globals[g]! = 0
  peerfail : (t.slotAt n).t.peerfail = (s.slotAt n).t.peerfail ||| (1 <<< peerBit (s.coreAt (coreOf n)) device)
  device : t = { s with slot := t.slot, others := t.others }

theorem endRequest_refused {r : Remote} {g : Nat} (h : WantsGlobal r g) (s : State) (value : BitVec 4096) :
    FailsGlobal s r.slot r.device g (endRequest s r 2 value) := by
  have ht := deliver_takesGlobal (setPeerFail s r.slot r.device) r.slot r.sign r.acc.size 0 h.global
  have hends : endRequest s r 2 value = remoteResult (setPeerFail s r.slot r.device) r 0 := by
    rw [h.ends, h.dropped (by decide) (by decide)]
    rfl
  rw [loadValue_zero, ← h.result, ← hends] at ht
  have hpeer := ht.peerfail
  have hdev := ht.device
  rw [setPeerFail, State.updTaskOf] at hpeer hdev
  rw [slotAt_updSlot, if_pos rfl] at hpeer
  rw [updSlot_device] at hdev
  exact ⟨ht.value, hpeer, hdev⟩

/-! ## The replay queue (R152, R153) -/

theorem exec_replayRetry {core i first next gap : Nat} {r : Remote} {s : State} (hd : firstDue (retryDue s core) s = some (i, r))
    (hp : r.parked = some (first, next, gap)) : exec (.replayRetry core) s =
      .next { s with remote := s.remote.set i { r.resent with parked := some (first, next + min 64000 (2 * gap), min 64000 (2 * gap)) } } := by
  show execReplayRetry core s = _
  rw [execReplayRetry, hd]
  dsimp only
  rw [hp]

/-- A request behind which none of its queue waits is dropped alone. -/
theorem exec_replayDrop {core i : Nat} {r : Remote} {s : State} (hd : firstDue (dropDue s core) s = some (i, r))
    (halone : (s.remote.drop (i + 1)).filter (fun q => q.replays && sameQueue q r) = []) :
    exec (.replayDrop core) s = .next (endRequest { s with remote := s.remote.eraseIdx i } r 2 0) := by
  have hlater : (s.remote.drop (i + 1)).filter (fun q => !(q.replays && sameQueue q r)) = s.remote.drop (i + 1) := by
    rw [List.filter_eq_self]
    intro q hq
    rw [Bool.not_eq_true']
    exact Bool.eq_false_iff.2 (List.filter_eq_nil_iff.1 halone q hq)
  show execReplayDrop core s = _
  rw [execReplayDrop, hd]
  dsimp only
  rw [halone, hlater, ← List.eraseIdx_eq_take_drop_succ]
  rfl

/-! ## Requests of other devices (R151) -/

/-- A unit that no command owns is owned by no command of another device, whenever it registered (R165). -/
theorem ownedFar_of_not_owned {s : State} {a n : Nat} (far : Option (Nat × Nat)) (stamp : Nat) (h : owned s a n = false) :
    ownedFar s far stamp a n = false := by
  unfold owned ownedBut at h
  unfold ownedFar ownedBefore ownedBut
  rw [List.any_eq_false] at h ⊢
  exact fun o ho => h o (List.mem_of_mem_filter (List.mem_of_mem_filter ho))

/-- A load or store of a slot of another device without a qualifier (R151). -/
structure PlainRequest (acc : RemoteAcc) : Prop where
  far : acc.src ≠ hostSrc
  noEngine : acc.eng = none
  plain : acc.q = 0
  memory : acc.op = .load ∨ acc.op = .store

section
variable {acc : RemoteAcc} {op : HomeOp} (hm : acc.op = .load ∨ acc.op = .store) (hop : farOp acc = some op)
include hm

theorem farKind_memory : (farKind acc).2 = 1 := by
  obtain ho | ho := hm <;> rw [farKind, ho]

include hop

theorem exec_remoteReceive_memory (s : State) : exec (.remoteReceive acc) s = .next (farAccess s acc op) := by
  show Host.Outcome.next (receive s acc) = _
  obtain ho | ho := hm <;> rw [receive, ho] <;> dsimp only <;> rw [hop]

theorem exec_remoteReceive_refused {s : State} {c : Cause}
    (hl : locate s (farAsker acc) (farKind acc).1 acc.addr acc.size 1 none acc.q = .error c) : exec (.remoteReceive acc) s =
      .next { s with answered := s.answered ++ [(if acc.part then 16 + codeOfCause c else if c = .xlat then 1 else 2, 0)] } := by
  rw [exec_remoteReceive_memory hm hop, farAccess, farKind_memory hm, Nat.max_self, hl]
  rfl

end

section
variable {acc : RemoteAcc} (h : PlainRequest acc) {s : State} {pa : Nat}
include h

/-- Where nothing waits and nothing owns its bytes it may be performed at once. -/
theorem PlainRequest.ready (op : HomeOp) (hheld : s.held = []) (hown : owned s pa acc.size = false) :
    homeReady s (farHeld s acc pa acc.size op) s.held = true := by
  have hfe : feReady s pa acc.size acc.q op = true := by rw [h.plain]; cases op <;> rfl
  have hnew : isNew acc = false := by obtain ho | ho := h.memory <;> rw [isNew, ho]
  have howner : (farHeld s acc pa acc.size op).owner = none := by simp [Held.owner, farHeld, h.noEngine]
  have hready : heldReady s (farHeld s acc pa acc.size op) = true := by
    rw [heldReady, howner]
    simp [farHeld, ownedFar_of_not_owned, hown, hfe, recordAhead]
  have hout : outsideWaits s (farHeld s acc pa acc.size op) [] = false := by simp [outsideWaits, farHeld, hnew]
  rw [hheld, homeReady, hready, hout]
  rfl

theorem PlainRequest.arrives (op : HomeOp) {s0 : State} {fl : Nat} (hheld : s.held = []) (hown : owned s pa acc.size = false)
    (hl : locate s0 (farAsker acc) (farKind acc).1 acc.addr acc.size 1 none acc.q = .ok (s, .mem pa fl)) :
    farAccess s0 acc op = performNow s (farHeld s acc pa acc.size op) := by
  have hqual : (farHeld s acc pa acc.size op).qualified = false := by
    rw [Held.qualified]
    cases op <;> simp [farHeld, h.plain]
  rw [farAccess, farKind_memory h.memory, Nat.max_self, hl]
  dsimp only
  rw [hqual, Bool.false_and, Bool.false_and, if_neg Bool.false_ne_true, arriveAt, h.ready op hheld hown, if_pos rfl]

/-- A load is answered with its value. -/
theorem PlainRequest.load : ∃ r, Loads s pa acc.size acc.q r
    ∧ performNow s (farHeld s acc pa acc.size (.load false)) = answer r.1 0 (BitVec.ofNat 4096 r.2) := by
  refine ⟨_, applyOp_loads s (.slotData · acc.ctx (farSlot acc)) pa acc.size acc.q false, ?_⟩
  simp [performNow, farHeld, opWrites, performFar, farSpoiled, h.noEngine, h.far, noteFar, opReads]

/-- A store is performed, and answered. -/
theorem PlainRequest.store (v : BitVec 512) (harmed : inArmed s pa acc.size = false) : ∃ t, Stores s pa acc.size acc.q v.toNat t
    ∧ performNow s (farHeld s acc pa acc.size (.store v)) = answer t 0 0 := by
  refine ⟨_, applyOp_stores s pa acc.size acc.q v, ?_⟩
  simp [performNow, farHeld, harmed, performFar, farSpoiled, h.noEngine, h.far, noteFar, opReads, opWrites, releaseFar, Held.owner, applyOp]

end

/-- The low bytes of a value that is cut to a width are its own, as far as they lie within it. -/
theorem setWidth_mod_bytes {w m n : Nat} (v : BitVec w) (h : 8 * n ≤ m) : (v.setWidth m).toNat % 256 ^ n = v.toNat % 256 ^ n := by
  have hdvd : 256 ^ n ∣ 2 ^ m := by
    rw [show (256 : Nat) = 2 ^ 8 from rfl, ← Nat.pow_mul]
    exact Nat.pow_dvd_pow 2 h
  rw [BitVec.toNat_setWidth, Nat.mod_mod_of_dvd _ hdvd]

section
variable {acc : RemoteAcc} (h : PlainRequest acc) {s s1 : State} {pa fl : Nat} (hheld : s.held = [])
  (hl : locate s (farAsker acc) (farKind acc).1 acc.addr acc.size 1 none acc.q = .ok (s1, .mem pa fl))
  (hown : owned s1 pa acc.size = false)
include h hheld hl hown

theorem PlainRequest.exec_load (ho : acc.op = .load) : ∃ t, exec (.remoteReceive acc) s = .next t
    ∧ t.answered = s.answered ++ [(0, BitVec.ofNat 4096 (readNat s pa acc.size))] ∧ sameBytes s t := by
  have hpeek := locate_peeked hl
  obtain ⟨r, hr, hnow⟩ := h.load (s := s1) (pa := pa)
  have hex := exec_remoteReceive_memory h.memory (by rw [farOp, ho]) s
  rw [h.arrives _ (by rw [hpeek.device]; exact hheld) hown hl, hnow] at hex
  have hmem : (answer r.1 0 (BitVec.ofNat 4096 r.2)).mem = s.mem := by rw [answer, hr.device]; exact hpeek.mem
  refine ⟨_, hex, ?_, fun a => readByte_congr hmem a⟩
  rw [hr.value, readNat_congr hpeek.mem, answer, hr.device, hpeek.device]

theorem PlainRequest.exec_store (ho : acc.op = .store) (harmed : inArmed s1 pa acc.size = false) (hsize : acc.size ≤ 64) :
    ∃ t, exec (.remoteReceive acc) s = .next t ∧ readNat t pa acc.size = acc.value.toNat % 256 ^ acc.size
      ∧ sameOutside s t pa acc.size := by
  have hpeek := locate_peeked hl
  obtain ⟨t, ht, hnow⟩ := h.store (s := s1) (pa := pa) (acc.value.truncate 512) harmed
  have hex := exec_remoteReceive_memory h.memory (by rw [farOp, ho]) s
  rw [h.arrives _ (by rw [hpeek.device]; exact hheld) hown hl, hnow] at hex
  have ht := ht.congr (u := answer t 0 0) rfl rfl rfl
  exact ⟨_, hex, ht.bytes.trans (setWidth_mod_bytes _ (by omega)), fun a ha => (ht.outside a ha).trans (readByte_congr hpeek.mem a)⟩

end

theorem exec_remoteReceive_record {acc : RemoteAcc} {core : Nat} (ho : acc.op = .record core) (s : State) :
    exec (.remoteReceive acc) s = .next (answer { s with
      inflight := s.inflight ++ [{ core := core % 4096, record := wordsOf acc.value.toNat 8, slot := none, ctx := acc.ctx }] } 0 0) := by
  show Host.Outcome.next (receive s acc) = _
  rw [receive, ho]

/-! ## The obligation -/

/-- Settles O54: a request ends with the delivery of its value or of 0, and one of another device arrives at its home. -/
theorem requestsBetweenDevices : Obligations.RequestsBetweenDevices := by
  refine ⟨fun idx g value r s hr hm he hh ho hd hg hslot hp => ?_, fun core i first next gap r s hd hp => ⟨_, exec_replayRetry hd hp, rfl⟩,
    fun core i g r s hd halone he hh ho hdst hg hslot => ?_, fun acc s hfar heng hheld _ =>
      ⟨fun s1 pa fl ho hq hl hown => ?_, fun s1 pa fl ho hq hl hown harmed hsize => ?_, fun c ho hl => ?_,
        fun core ho => ⟨_, exec_remoteReceive_record ho s, rfl, fun _ => rfl⟩⟩⟩
  · have hwants : WantsGlobal r g := ⟨he, hh, ho, hd, hg, hslot⟩
    refine ⟨?_, ?_, fun hw => ⟨_, exec_memoryReply_far hr, replyAt_retryLater hr hm hp hw⟩⟩
    · have ht := endRequest_performed hwants (withoutRequest s idx r) value
      rw [← replyAt_ends hr hm (by decide)] at ht
      exact ⟨_, exec_memoryReply_far hr, by rw [ht.device]; rfl, fun a => readByte_congr (by rw [ht.device]; rfl) a, ht.value, ht.peerfail⟩
    · have ht := endRequest_refused hwants (withoutRequest s idx r) value
      rw [← replyAt_ends hr hm (by decide)] at ht
      exact ⟨_, exec_memoryReply_far hr, by rw [ht.device]; rfl, fun a => readByte_congr (by rw [ht.device]; rfl) a, ht.value, ht.peerfail⟩
  · have ht := endRequest_refused ⟨he, hh, ho, hdst, hg, hslot⟩ { s with remote := s.remote.eraseIdx i } 0
    exact ⟨_, exec_replayDrop hd halone, by rw [ht.device], fun a => readByte_congr (by rw [ht.device]) a, ht.value, ht.peerfail⟩
  · have hplain : PlainRequest acc := ⟨hfar, heng, hq, .inl ho⟩
    exact hplain.exec_load hheld (by rw [farKind, ho]; exact hl) hown ho
  · have hplain : PlainRequest acc := ⟨hfar, heng, hq, .inr ho⟩
    exact hplain.exec_store hheld (by rw [farKind, ho]; exact hl) hown ho harmed hsize
  · obtain ⟨op, hop⟩ : ∃ op, farOp acc = some op := by obtain ho | ho := ho <;> exact ⟨_, by rw [farOp, ho]⟩
    exact ⟨_, exec_remoteReceive_refused ho hop hl, rfl⟩

end Sys2Proof.Machine
end

section
/-! Instructions whose effect ends with writes of plain codes, and the fences (R159 to R162, R349). -/
namespace Sys2Proof.Machine

/-! ## Effects that end with writes of plain codes -/

/-- t with the values that the codes of u have. -/
def withValues (t u : Task) : Task :=
  { t with globals := u.globals, win := u.win, sa := { t.sa with value := u.sa.value }, sb := { t.sb with value := u.sb.value } }

/-- u is t but for the values of its codes. -/
def SameButValues (t u : Task) : Prop := u = withValues t u

theorem plainWrite_sameButValues (t : Task) (r : Reg) (v : Word) : SameButValues t (plainWrite t r v) := by
  obtain ⟨_, _, _, _, h⟩ := plainWrite_frame t r v
  rw [h]
  rfl

theorem SameButValues.trans {t u v : Task} (h : SameButValues t u) (h' : SameButValues u v) : SameButValues t v := by
  rw [SameButValues, h] at h'
  exact h'

/-- The instruction after s, of outcome o, has left its task with the codes of x, its effect having left the device as s2. -/
structure Writes (s s2 : State) (x : Task) (o : Out) (t : State) : Prop where
  next : o = .next t
  pc : t.t.pc = s.t.pc + 4
  codes : ∀ r, plainRead t.t r = plainRead x r
  special : sameSpecial s t
  tiles : sameTiles s t
  flags : sameFlags s t
  mask : sameMask s t
  frames : sameFrames s t
  device : t = { s2 with slot := t.slot, cores := t.cores }
  ports : ∀ c, portless (t.coreAt c) = portless (s2.coreAt c)

theorem Completed.writes {s s2 t : State} {x : Task} {o : Out} (h : Completed (s2.setT x) t) (hx : SameButValues (advanced s s).t x)
    (ho : o = .next t) : Writes s s2 x o t := by
  have hcodes := h.codes
  rw [hx] at h
  exact ⟨ho, h.pc, hcodes, h.special, h.tiles, h.flags, h.mask, h.frame, h.device, h.ports⟩

/-- An effect that leaves its task with other values of its codes completes with them. -/
theorem issue_writesCodes {i : Instr} {sw : Bool} {u : Use} {x : Task} {s s2 : State} {body : Vals → State → Eff} (hs : Calm s)
    (hi : Issues i u s s (plainVals s.t u)) (hr : u.ret = false) (hk : u.keepPfx = false) (hx : SameButValues (advanced s s).t x)
    (hb : body (plainVals s.t u) (advanced s s) = .ok (s2.setT x)) : ∃ t, Writes s s2 x (issue i sw u body s) t :=
  (issue_completed hs hi hr hk hb ((congrArg Task.wait hx).trans hs.awake)).imp fun _ h => h.2.writes hx h.1

/-- The task of s as an instruction leaves it that gives rd a value. -/
def wrote (s : State) (rd : Reg) (w : Word) : Task := plainWrite (advanced s s).t rd w

theorem result_plain {s s2 : State} {rd : Reg} (w : Word) (hrd : plainCode s.t rd = true) (ht : s2.t = (advanced s s).t) :
    result s2 rd w = .ok (s2.setT (wrote s rd w)) :=
  (putReg_plain s2 w (ht ▸ hrd)).trans (congrArg (fun t => Except.ok (s2.setT (plainWrite t rd w))) ht)

section
variable {s s2 t : State} {x : Task} {o : Out} (h : Writes s s2 x o t)
include h

theorem Writes.mem : t.mem = s2.mem := by rw [h.device]

theorem Writes.bytes (hm : s2.mem = s.mem) : sameBytes s t := fun a => readByte_congr (h.mem.trans hm) a

end

/-- After the write of its result rd has it, and no other code changes. -/
theorem Writes.value {s s2 t : State} {rd : Reg} {w : Word} {o : Out} (h : Writes s s2 (wrote s rd w) o t)
    (hrd : plainCode s.t rd = true) (h0 : rd ≠ 0) : plainRead t.t rd = w :=
  (h.codes rd).trans (plainRead_plainWrite_same _ _ _ h0 (register_or_stream hrd))

theorem Writes.others {s s2 t : State} {rd : Reg} {w : Word} {o : Out} (h : Writes s s2 (wrote s rd w) o t) : sameCodesBut s t rd :=
  fun r hne => (h.codes r).trans ((plainRead_plainWrite_other _ _ _ _ hne).trans (plainRead_advanced s r))

/-- An effect that stalls leaves the slot at its instruction. -/
theorem issue_stalled {i : Instr} {sw : Bool} {u : Use} {v : Vals} {s s1 : State} {body : Vals → State → Eff} (hi : Issues i u s s1 v)
    (hb : body v (advanced s s1) = .error .stall) : issue i sw u body s = .next (stalled s) := by
  rw [issue_of_issues hi sw body, hb]
  rfl

/-! ## Words written at their home -/

/-- A word written at its home, and what watches it told. -/
def homeWritten (s : State) (a : Nat) (v : Word) : State := afterWrite (writeWord s a v)

section
variable {s : State} (a : Nat) (v : Word)

theorem homeWritten_mem : (homeWritten s a v).mem = (writeWord s a v).mem := (afterWrite_woken _).mem

theorem writeWord_slot : (writeWord s a v).slot = s.slot := by rw [writeWord_mem_only]

theorem homeWritten_task (hw : s.t.wait = none) : (homeWritten s a v).t = s.t :=
  congrArg Slot.t (((afterWrite_woken (writeWord s a v)).slot ((congrArg (·.t.wait) (writeWord_slot a v)).trans hw)).trans
    (writeWord_slot a v))

theorem homeWritten_same : readWord (homeWritten s a v) a = v :=
  (readWord_congr (homeWritten_mem a v) a).trans (readWord_writeWord s a v)

theorem homeWritten_outside {c : Nat} (hc : c < a ∨ a + 8 ≤ c) : readByte (homeWritten s a v) c = readByte s c :=
  (readByte_congr (homeWritten_mem a v) c).trans (readByte_writeWord_outside _ _ _ _ hc)

end

theorem homeWritten_other {s : State} {a b : Nat} (v : Word) (hab : a + 8 ≤ b ∨ b + 8 ≤ a) :
    readWord (homeWritten s b v) a = readWord s a :=
  readWord_eq fun _ h1 h2 => homeWritten_outside _ _ (hab.imp (Nat.lt_of_lt_of_le h2) (Nat.le_trans · h1))

theorem Peeked.owned_eq {s t : State} (h : Peeked s t) (a n : Nat) : owned t a n = owned s a n := by rw [h.device]; rfl

/-! ## Fences -/

/-- An instruction runs as the fence of these parts. -/
def RunsFence (x : Bool × Reg × BitVec 2 × Bool × Bool) (i : Instr) : Prop :=
  i.wellFormed = true ∧ ∀ s, exec i s = fence i x.1 x.2.1 x.2.2.1 x.2.2.2.1 x.2.2.2.2 s

/-- Each fence is one issue by its scope and what it waits for; no other instruction is a fence. -/
theorem fences_elim (i : Instr) : (fences i).elim True (RunsFence · i) := by
  revert i
  apply Instr.rec
  case fenceRel | fenceAcq | fenceAr => exact fun rd sc sw => ⟨rfl, fun s => rfl⟩
  all_goals
    repeat intro x
    exact trivial

theorem fences_runsFence {i : Instr} {x : Bool × Reg × BitVec 2 × Bool × Bool} (h : fences i = some x) : RunsFence x i := by
  have hi := fences_elim i
  rw [h] at hi
  exact hi

/-- The read-only cache after a fence: an acquire of device or system scope empties it (R162). -/
def fenced (s : State) (sc : BitVec 2) (acq : Bool) : State := if acq && (sc = 2 || sc = 3) then roEmpty s s.cluster else s

theorem fenced_task (s : State) (sc : BitVec 2) (acq : Bool) : (fenced s sc acq).t = s.t := (apply_ite State.t _ _ _).trans (ite_self _)

theorem fenced_mem (s : State) (sc : BitVec 2) (acq : Bool) : (fenced s sc acq).mem = s.mem := (apply_ite State.mem _ _ _).trans (ite_self _)

/-- Scope codes 2 and 3 are the device and the system. -/
theorem wideScope_iff (sc : BitVec 2) : (decide (sc = 2) || decide (sc = 3)) = true ↔ 2 ≤ sc.toNat := by
  revert sc
  decide

theorem fenced_near {s : State} {sc : BitVec 2} {acq : Bool} (h : acq = false ∨ sc.toNat < 2) : fenced s sc acq = s := by
  refine if_neg fun hc => ?_
  obtain ⟨hacq, hsc⟩ := Bool.and_eq_true_iff.1 hc
  exact h.elim (fun h => Bool.noConfusion (hacq.symm.trans h)) (Nat.not_lt.2 ((wideScope_iff sc).1 hsc))

theorem fenced_rolines {s : State} {sc : BitVec 2} {acq : Bool} (ha : acq = true) (h : 2 ≤ sc.toNat) :
    ((fenced s sc acq).clusterAt s.cluster).rolines = [] := by
  rw [fenced, if_pos (Bool.and_eq_true_iff.2 ⟨ha, (wideScope_iff sc).2 h⟩), roEmpty, State.clusterAt_setCluster, if_pos rfl]

/-- A fence waits for an access that it orders and that is not yet performed. -/
theorem fenceAt_waits {s : State} {rd : Reg} {sc : BitVec 2} {rel acq : Bool}
    (h : rel = true ∧ storesPending s sc = true ∨ acq = true ∧ readsPending s = true) : fenceAt rd sc rel acq s = .error .stall :=
  if_pos (Bool.or_eq_true_iff.2 (h.imp Bool.and_eq_true_iff.2 Bool.and_eq_true_iff.2))

/-- A fence with nothing to wait for gives rd PEERFAIL. -/
theorem fenceAt_goes {s : State} {rd : Reg} {sc : BitVec 2} {rel acq : Bool} (hrel : rel = true → storesPending s sc = false)
    (hacq : acq = true → readsPending s = false) : fenceAt rd sc rel acq s = result (fenced s sc acq) rd s.t.peerfail := by
  refine (if_neg fun h => ?_).trans (congrArg (result _ rd ·.peerfail) (fenced_task s sc acq))
  obtain h | h := Bool.or_eq_true_iff.1 h
  · exact Bool.noConfusion ((hrel (Bool.and_eq_true_iff.1 h).1).symm.trans (Bool.and_eq_true_iff.1 h).2)
  · exact Bool.noConfusion ((hacq (Bool.and_eq_true_iff.1 h).1).symm.trans (Bool.and_eq_true_iff.1 h).2)

section
variable {i : Instr} {sw : Bool} {rd : Reg} {sc : BitVec 2} {rel acq : Bool} {s : State}
  (hf : fences i = some (sw, rd, sc, rel, acq)) (hs : Calm s) (ha : s.t.active = true) (hrd : plainCode s.t rd = true)
include hf hs ha hrd

theorem fence_issues : Issues i { d := [rd] } s s (plainVals s.t { d := [rd] }) :=
  issues_plain hs ((Bool.or_false _).trans ha) (fun _ hr => List.mem_singleton.1 hr ▸ hrd) (fences_runsFence hf).1 rfl rfl Bool.noConfusion

theorem fence_waits (h : rel = true ∧ storesPending s sc = true ∨ acq = true ∧ readsPending s = true) :
    exec i s = .next (stalled s) :=
  ((fences_runsFence hf).2 s).trans (issue_stalled (fence_issues hf hs ha hrd) (fenceAt_waits (s := advanced s s) h))

theorem fence_goes (hrel : rel = true → storesPending s sc = false) (hacq : acq = true → readsPending s = false) :
    ∃ t, Writes s (fenced (advanced s s) sc acq) (wrote s rd s.t.peerfail) (exec i s) t := by
  rw [(fences_runsFence hf).2 s]
  exact issue_writesCodes (body := fun _ s => fenceAt rd sc rel acq s) hs (fence_issues hf hs ha hrd) rfl rfl
    (plainWrite_sameButValues _ _ _) ((fenceAt_goes (s := advanced s s) hrel hacq).trans (result_plain _ hrd (fenced_task _ _ _)))

end

section
variable {s t : State} {sc : BitVec 2} {acq : Bool} {x : Task} {o : Out} (h : Writes s (fenced (advanced s s) sc acq) x o t)
include h

/-- After an acquire of a wide scope the read-only cache is empty. -/
theorem Writes.rolines (hacq : acq = true) (hsc : 2 ≤ sc.toNat) : (t.clusterAt s.cluster).rolines = [] :=
  (congrArg (·.clusterAt s.cluster |>.rolines) h.device).trans (fenced_rolines (s := advanced s s) hacq hsc)

/-- Any other fence leaves the device alone. -/
theorem Writes.same (hnear : acq = false ∨ sc.toNat < 2) : sameDevice s t := by
  rw [fenced_near hnear] at h
  exact ⟨h.device, h.ports⟩

end

/-- Settles O24: a fence stalls on what it orders, and otherwise is the write of PEERFAIL, with the read-only cache emptied where its
scope asks for it. -/
theorem fencesWaitForTheirScope : Obligations.FencesWaitForTheirScope :=
  fun _ _ _ _ _ _ _ hf hs ha hrd => ⟨fence_waits hf hs ha hrd, fun hrel hacq =>
    (fence_goes hf hs ha hrd hrel hacq).imp fun _ h => ⟨h.next, h.pc, h.value hrd, h.others, h.special, h.tiles, h.flags, h.mask, h.frames,
      h.bytes (fenced_mem _ _ _), h.rolines, h.same⟩⟩

end Sys2Proof.Machine
end

section
/-! Counters: the add at the home, the wait at it, and what ends the wait (R22, R130, R173, R327, R337). -/
namespace Sys2Proof.Machine

/-! ## The checks of an address read the page tables only -/

/-- s with the translations of t, the errors of memory that it has met, and the slot in force and its core. -/
def looked (s t : State) : State := { errorsAside s t with slot := t.slot, cores := t.cores, tlb := t.tlb }

/-- t is s but for those. -/
def Looked (s t : State) : Prop := t = looked s t

theorem Looked.trans {s t u : State} (h : Looked s t) (h' : Looked t u) : Looked s u := by
  rw [Looked, h] at h'
  exact h'

theorem foldl_noteRead_looked (f : Nat → EccEvent) (n : Nat) (l : List Nat) (s : State) :
    Looked s (l.foldl (fun s p => noteRead s f p n) s) := by
  induction l generalizing s with
  | nil => rfl
  | cons p l ih => exact Looked.trans (t := noteRead s f p n) rfl (ih _)

theorem noteWalk_looked (s : State) (core ctx va : Nat) : Looked s (noteWalk s core ctx va) :=
  iteInduction (motive := Looked s) (fun _ => rfl) (fun _ => foldl_noteRead_looked _ _ _ _)

/-- A translation, where there is one, has only looked. -/
def SomeLooked {α : Type} (s : State) (r : Option (State × α)) : Prop := r.elim True (Looked s ·.1)

theorem translate_looked (s : State) (core ctx va : Nat) : SomeLooked s (translate s core ctx va) := by
  unfold translate
  dsimp only
  rcases tlbFind s core ctx va with _ | e
  · rcases walk s core ctx va with _ | e
    · exact trivial
    · exact iteInduction (motive := SomeLooked s)
        (fun _ => Looked.trans (t := { s with tlb := fillTlbs s.tlb core e }) rfl (noteWalk_looked _ _ _ _)) fun _ => trivial
  · exact iteInduction (motive := SomeLooked s) (fun _ => rfl) fun _ => trivial

/-- So have the checks of an address that have not failed. -/
def OkLooked {α : Type} (s : State) : Except Cause (State × α) → Prop
  | .error _ => True
  | .ok r => Looked s r.1

theorem translateFor_looked (s : State) (who : Asker) (va : Nat) (w : Bool) : OkLooked s (translateFor s who va w) := by
  unfold translateFor
  have h := translate_looked s who.core who.ctx va
  revert h
  rcases translate s who.core who.ctx va with _ | ⟨s', pa, fl⟩
  · exact fun _ => trivial
  · exact fun h => iteInduction (motive := OkLooked s) (fun _ => trivial) fun _ => h

theorem okLooked_place {s : State} {r : Except Cause (State × Nat × Nat)} {g : Nat → Nat → Place} (h : OkLooked s r) :
    OkLooked s (match r with | .error c => .error c | .ok (s', pa, fl) => .ok (s', g pa fl)) := by
  induction r
  exacts [trivial, h]

theorem locate_okLooked (s : State) (who : Asker) (k : Access) (a : Word) (size align : Nat) (sc : Option (BitVec 2)) (q : BitVec 2) :
    OkLooked s (locate s who k a size align sc q) := by
  unfold locate
  rcases pathOk s.devid k a size sc q with _ | ⟨tok, remote⟩
  · exact trivial
  refine iteInduction (motive := OkLooked s) (fun _ => trivial) fun _ => ?_
  refine iteInduction (motive := OkLooked s) (fun _ => trivial) fun _ => ?_
  refine iteInduction (motive := OkLooked s) (fun _ => rfl) fun _ => ?_
  induction tok
  case generic | gen4 => exact okLooked_place (translateFor_looked _ _ _ _)
  case ro => exact okLooked_place (translateFor_looked _ _ _ _)
  all_goals exact rfl

theorem locate_looked {s s' : State} {who : Asker} {k : Access} {a : Word} {size align : Nat} {sc : Option (BitVec 2)}
    {q : BitVec 2} {p : Place} (h : locate s who k a size align sc q = .ok (s', p)) : Looked s s' := by
  have hl := locate_okLooked s who k a size align sc q
  rw [h] at hl
  exact hl

theorem Completed.looked {s t : State} (h : Completed s t) : Looked s t := by
  rw [h.device]
  rfl

/-! ## An access that is performed in its step -/

/-- No data breakpoint watches an access. -/
theorem checkData_unwatched {s : State} {l : List (Word × Bool)} (h : dataMatch s.slot l = none) : checkData s l = .ok () := by
  rw [checkData, h]

/-- Nothing on its way comes before an access here. -/
theorem blockedHere_alone {s : State} {pa n : Nat} (hown : owned s pa n = false) (hheld : s.held = []) (hreplies : s.replies = [])
    (hrecords : s.inflight = []) : blockedHere s pa n = false := by
  have hown2 : ownWaits s pa n = false := by
    refine List.any_eq_false.2 fun p _ => ?_
    rw [hheld, replyWaits, hreplies]
    exact Bool.false_ne_true
  rw [blockedHere, hown, hown2, hheld, hrecords]
  rfl

/-- An access of a slot here goes to its home at once when nothing comes before it and its granules are as it asks for them. -/
theorem goesNow_alone {s : State} {h : Held} (hown : owned s h.addr h.size = false) (hfe : feReady s h.addr h.size h.q h.op = true)
    (hheld : s.held = []) (hrecords : s.inflight = []) : goesNow s h = true := by
  rw [goesNow, hheld, heldReady, ownedFar_of_not_owned _ _ hown, hfe, recordAhead, hrecords, List.any_nil, Bool.and_false]
  rfl

/-- Its operation is performed in the step, where a write meets no armed segment (R225). -/
theorem request_performed {s : State} {h : Held} (hnow : goesNow s h = true) (harmed : (opWrites h.op && inArmed s h.addr h.size) = false)
    (hdst : h.dst = .none) :
    request s h = ((applyOp (noteAccess s h.slot h.addr h.size h.op) h.addr h.size h.q h.op).1,
      some (applyOp (noteAccess s h.slot h.addr h.size h.op) h.addr h.size h.q h.op).2) := by
  have hgo : (goesNow s h && !(opWrites h.op && inArmed s h.addr h.size)) = true := by rw [hnow, harmed]; rfl
  have hreply : ¬ (decide (h.dst ≠ .none) && replyWaits s (coreOf h.slot) (orderHome s h.addr)) = true := by simp [hdst]
  exact (if_pos hgo).trans (if_neg hreply)

/-- An access here that passes its checks and that nothing comes before is sent to its home. -/
theorem accessRaw_requests {s n : State} {k : Access} {a : Word} {size align : Nat} {sc : Option (BitVec 2)} {q : BitVec 2} {op : HomeOp}
    {dst : Dst} {pa fl : Nat} (hloc : locate s s.asker k a size align sc q = .ok (n, .mem pa fl))
    (harmed : (opWrites op && inArmed n pa size) = false) (hdata : dataMatch s.slot [(a, opWrites op)] = none)
    (hblocked : blockedHere n pa size = false) (hroom : ¬ outstandingCore n n.core ≥ 64) :
    accessRaw s k a size align sc q op dst []
      = .ok (request (reserveDst n dst) { heldOf n pa size q op dst 1 with va := a }) := by
  unfold accessRaw
  rw [hloc, checkData_unwatched hdata]
  refine (if_neg (ne_true_of_eq_false harmed)).trans ((if_neg ?_).trans (if_neg hroom))
  rw [hblocked, Bool.and_false]
  exact Bool.false_ne_true

/-- An access without a result that has been performed. -/
theorem accessTo_performed {s s1 : State} {k : Access} {a : Word} {size align v : Nat} {sc : Option (BitVec 2)} {q : BitVec 2}
    {op : HomeOp} (h : accessRaw s k a size align sc q op .none [] = .ok (s1, some v)) :
    accessTo s k a size align sc q op .none [] = .ok s1 := by
  rw [accessTo, h]
  rfl

section
variable {s t : State} (h : Peeked s t)
include h

theorem Peeked.inArmed_eq (a n : Nat) : inArmed t a n = inArmed s a n := by rw [h.device]; rfl
theorem Peeked.feReady_eq (a n : Nat) (q : BitVec 2) (op : HomeOp) : feReady t a n q op = feReady s a n q op := by rw [h.device]; rfl
theorem Peeked.outstandingCore_eq : outstandingCore t t.core = outstandingCore s s.core := by rw [h.device]; rfl
theorem Peeked.held : t.held = s.held := by rw [h.device]
theorem Peeked.replies : t.replies = s.replies := by rw [h.device]
theorem Peeked.empty : t.empty = s.empty := by rw [h.device]

end

/-- An access without a result that can be performed in its step has done so (R133, R143). -/
theorem access_performed {s : State} {k : Access} {a : Word} {size align : Nat} {sc : Option (BitVec 2)} {q : BitVec 2} {op : HomeOp}
    {pa : Nat} (h : Reaches s k a size align sc q (opWrites op) pa) (hfe : feReady s pa size q op = true) :
    ∃ n, Peeked (advanced s s) n ∧ Looked (advanced s s) n
      ∧ access (advanced s s) k a size align sc q op 0 = .ok (applyOp (noteAccess n n.cur pa size op) pa size q op).1 := by
  obtain ⟨s2, fl, hlocated⟩ := h.located
  have hloc := locate_advanced hlocated
  have hpk := locate_peeked hloc
  refine ⟨_, hpk, locate_looked hloc, ?_⟩
  generalize s2.setT (advanced s s).t = n at hloc hpk
  have hown : owned n pa size = false := (hpk.owned_eq pa size).trans h.unowned
  have hheld : n.held = [] := hpk.held.trans h.alone
  have hrecords : n.inflight = [] := hpk.inflight.trans h.no_records
  have harmed : (opWrites op && inArmed n pa size) = false := by
    rw [hpk.inArmed_eq]
    cases hw : opWrites op
    exacts [rfl, h.unarmed hw]
  have hraw := accessRaw_requests (dst := .none) hloc harmed h.unwatched
    (blockedHere_alone hown hheld (hpk.replies.trans h.answered) hrecords) (hpk.outstandingCore_eq ▸ Nat.not_le.2 h.room)
  have hnow := goesNow_alone (h := { heldOf n pa size q op .none 1 with va := a }) hown ((hpk.feReady_eq pa size q op).trans hfe) hheld hrecords
  rw [access, claimDst_plain (s := advanced s s) (r := 0) rfl]
  exact accessTo_performed (hraw.trans (congrArg Except.ok (request_performed hnow harmed rfl)))

/-! ## CADD -/

theorem exec_cadd (ra rb : Reg) (sw : Bool) (s : State) : exec (.cadd ra rb sw) s =
    issue (.cadd ra rb sw) sw { a := some ra, b := some rb }
      (fun v s => access s .counterAdd v.a 8 8 none 0 (.cadd v.b) 0) s := rfl

/-- A counter add at its home. -/
def counterAdded (s : State) (pa : Nat) (v : Word) : State := homeWritten (noteRead s .lost pa 8) pa (readWord s pa + v)

theorem applyOp_cadd (s : State) (n pa : Nat) (v : Word) :
    (applyOp (noteAccess s n pa 8 (.cadd v)) pa 8 0 (.cadd v)).1 = counterAdded s pa v := rfl

/-- s with what a write at a home may change, as t has it: the first clause of sameButWatchers. -/
def homeAside (s t : State) : State :=
  { errorsAside s t with
    slot := t.slot, cores := t.cores, tlb := t.tlb, mem := t.mem, empty := t.empty, others := t.others, clusters := t.clusters,
    inflight := t.inflight, farWatches := t.farWatches, answered := t.answered }

def WrittenAtHome (s t : State) : Prop := t = homeAside s t

theorem WrittenAtHome.trans {s t u : State} (h : WrittenAtHome s t) (h' : WrittenAtHome t u) : WrittenAtHome s u := by
  rw [WrittenAtHome, h] at h'
  exact h'

theorem writeWord_writtenAtHome (s : State) (a : Nat) (v : Word) : WrittenAtHome s (writeWord s a v) := by
  rw [writeWord_mem_only]
  rfl

theorem Woken.writtenAtHome {s t : State} (h : Woken s t) : WrittenAtHome s t := by
  rw [h.device]
  rfl

theorem Looked.writtenAtHome {s t : State} (h : Looked s t) : WrittenAtHome s t := by
  rw [h]
  rfl

theorem writeWord_empty (s : State) (a : Nat) (v : Word) : (writeWord s a v).empty = s.empty := by rw [writeWord_mem_only]

theorem writeWord_cores (s : State) (a : Nat) (v : Word) : (writeWord s a v).cores = s.cores := by rw [writeWord_mem_only]

theorem Woken.empty {s t : State} (h : Woken s t) : t.empty = s.empty := by rw [h.device]

theorem Completed.empty {s t : State} (h : Completed s t) : t.empty = s.empty := by rw [h.device]

theorem counterAdded_writtenAtHome (s : State) (pa : Nat) (v : Word) : WrittenAtHome s (counterAdded s pa v) :=
  WrittenAtHome.trans (t := noteRead s .lost pa 8) rfl
    ((writeWord_writtenAtHome _ _ _).trans (afterWrite_woken _).writtenAtHome)

theorem counterAdded_empty (s : State) (pa : Nat) (v : Word) : (counterAdded s pa v).empty = s.empty :=
  (afterWrite_woken _).empty.trans (writeWord_empty _ _ _)

theorem counterAdded_coreAt (s : State) (pa : Nat) (v : Word) (c : Nat) : (counterAdded s pa v).coreAt c = s.coreAt c :=
  ((afterWrite_woken _).coreAt c).trans (congrArg (·.get Core.reset c) (writeWord_cores _ _ _))

/-- What completion does to a core leaves what tracing records, too. -/
theorem Completed.untraced_coreAt {s t : State} (h : Completed s t) (c : Nat) : untraced (t.coreAt c) = untraced (s.coreAt c) := by
  rw [untraced, h.ports c]
  rfl

theorem counterAdded_sum {s n : State} (hm : n.mem = s.mem) (pa : Nat) (v : Word) :
    readWord (counterAdded n pa v) pa = readWord s pa + v :=
  (homeWritten_same pa _).trans (congrArg (· + v) (readWord_congr hm pa))

/-- CADD adds rb to the counter, and changes nothing else that a program sees. -/
theorem cadd_adds (ra rb : Reg) (sw : Bool) (pa : Nat) (s : State) (hs : Calm s) (ha : s.t.active = true)
    (hplain : ∀ r ∈ [ra, rb], plainCode s.t r = true) (hreach : Reaches s .counterAdd (plainRead s.t ra) 8 8 none 0 true pa) :
    ∃ t, exec (.cadd ra rb sw) s = .next t ∧ t.t.pc = s.t.pc + 4 ∧ readWord t pa = readWord s pa + plainRead s.t rb
      ∧ sameOutside s t pa 8 ∧ sameCodes s t ∧ sameSpecial s t ∧ sameTiles s t ∧ sameFlags s t ∧ sameMask s t ∧ sameFrames s t
      ∧ t.empty = s.empty ∧ sameButWatchers s t := by
  have hi : Issues (.cadd ra rb sw) { a := some ra, b := some rb } s s (plainVals s.t { a := some ra, b := some rb }) :=
    issues_plain hs ((Bool.or_false _).trans ha) hplain rfl rfl rfl Bool.noConfusion
  obtain ⟨n, hpk, hlook, hacc⟩ := access_performed (op := .cadd (plainRead s.t rb)) hreach rfl
  rw [applyOp_cadd] at hacc
  have hwait : n.t.wait = none := (congrArg Task.wait hpk.task).trans hs.awake
  have htask : (counterAdded n pa (plainRead s.t rb)).t = n.t := homeWritten_task pa _ hwait
  rw [exec_cadd]
  refine (issue_completed (sw := sw) (body := fun v s => access s .counterAdd v.a 8 8 none 0 (.cadd v.b) 0) hs hi rfl rfl
    hacc ((congrArg Task.wait htask).trans hwait)).imp fun t h => ?_
  have hc : Completed (counterAdded n pa (plainRead s.t rb)) t := h.2
  have hgoes := hc.goesOn (htask.trans hpk.task)
  exact ⟨h.1, hgoes.pc, (readWord_congr hc.mem pa).trans (counterAdded_sum hpk.mem pa _),
    fun a ha => (readByte_congr hc.mem a).trans ((homeWritten_outside pa _ ha).trans (readByte_congr (s := s) hpk.mem a)),
    hgoes.codes, hgoes.special, hgoes.tiles, hgoes.flags, hgoes.mask, hgoes.frames,
    hc.empty.trans ((counterAdded_empty n pa _).trans hpk.empty),
    (hlook.writtenAtHome.trans (counterAdded_writtenAtHome n pa _)).trans hc.looked.writtenAtHome,
    fun c => (hc.untraced_coreAt c).trans (congrArg untraced ((counterAdded_coreAt n pa _ c).trans (hpk.coreAt c)))⟩

/-! ## CWAIT -/

theorem exec_cwait (ra rb : Reg) (sw : Bool) (s : State) : exec (.cwait ra rb sw) s =
    issue (.cwait ra rb sw) sw { a := some ra, b := some rb } (fun v s => cwaitAt v.a v.b s) s := rfl

/-- A wait on a counter is met at once exactly when the counter has reached the target. -/
theorem parkOn_counter_met (s : State) (pa : Nat) (v : Word) :
    (parkOn s (.counter pa v)).t.met = decide (v.toNat ≤ readNat s pa 8) := rfl

/-- Nor has a parked instruction changed the mask or the frames. -/
theorem Parks.mask {s s2 t : State} {pc : Pc} {w : Wait} (h : Parks s2 pc w t) (ht : s2.t = (advanced s s).t) : sameMask s t := by
  obtain ⟨_, _, htask⟩ := h.task
  rw [sameMask, htask, ht]
  exact ⟨rfl, rfl⟩

theorem Parks.frames {s s2 t : State} {pc : Pc} {w : Wait} (h : Parks s2 pc w t) (ht : s2.t = (advanced s s).t) : sameFrames s t := by
  obtain ⟨_, _, htask⟩ := h.task
  rw [sameFrames, htask, ht]
  exact ⟨rfl, rfl⟩

/-- An instruction that parks on a counter below its target is not met. -/
theorem issue_parks_unmet {i : Instr} {sw : Bool} {u : Use} {v : Vals} {s s2 t : State} {pa : Nat} {target : Word}
    {body : Vals → State → Eff} (hi : Issues i u s s v) (hb : body v (advanced s s) = .error (.park s2 (.counter pa target)))
    (hless : readNat s2 pa 8 < target.toNat) (ht : issue i sw u body s = .next t) : t.t.met = false := by
  rw [issue_of_issues hi sw body, hb] at ht
  injection ht with ht
  rw [← ht]
  exact (parkOn_counter_met _ _ _).trans (decide_eq_false (Nat.not_le.2 hless))

section
variable {ra rb : Reg} {pa fl : Nat} {s s2 : State} (hs : Calm s) (ha : s.t.active = true)
  (hplain : ∀ r ∈ [ra, rb], plainCode s.t r = true)
  (hplace : locate s s.asker .counterRead (plainRead s.t ra) 8 8 none 0 = .ok (s2, .mem pa fl))
  (hdata : dataMatch s.slot [(plainRead s.t ra, false)] = none) (hblock : requestBlocked s pa 8 = false)

include hs ha hplain in
theorem cwait_issues (sw : Bool) :
    Issues (.cwait ra rb sw) { a := some ra, b := some rb } s s (plainVals s.t { a := some ra, b := some rb }) :=
  issues_plain hs ((Bool.or_false _).trans ha) hplain rfl rfl rfl Bool.noConfusion

include hplace hdata hblock in
/-- The counter of a CWAIT is read where its address leads, at its home, and decides how the CWAIT ends. -/
theorem cwaitAt_reads : ∃ n, Peeked (advanced s s) n ∧ Looked (advanced s s) n
    ∧ cwaitAt (plainRead s.t ra) (plainRead s.t rb) (advanced s s)
      = if (plainRead s.t rb).toNat ≤ readNat s pa 8 then .ok n else .error (.park n (.counter pa (plainRead s.t rb))) := by
  have hloc := locate_advanced hplace
  have hpk := locate_peeked hloc
  have hcounter : counterPlace (plainRead s.t ra) (advanced s s) = .ok (s2.setT (advanced s s).t, .mem pa fl) := by
    simp only [counterPlace, hloc, checkData_unwatched (s := advanced s s) hdata]
  have hb : requestBlocked (s2.setT (advanced s s).t) pa 8 = false := (hpk.requestBlocked pa 8).trans hblock
  have hread : readWord (s2.setT (advanced s s).t) pa = readWord s pa := readWord_congr hpk.mem pa
  refine ⟨noteMine (s2.setT (advanced s s).t) pa 8, hpk.trans (noteRead_peeked _ _ _ _),
    (locate_looked hloc).trans rfl, ?_⟩
  simp only [cwaitAt, hcounter, hb, hread, BitVec.le_def, readWord_toNat, Bool.false_eq_true, if_false]

variable (sw : Bool)
include hs ha hplain hplace hdata hblock

/-- A counter that has reached the target lets the CWAIT go on. -/
theorem cwait_met (hmet : (plainRead s.t rb).toNat ≤ readNat s pa 8) :
    ∃ t, exec (.cwait ra rb sw) s = .next t ∧ t.t.pc = s.t.pc + 4 ∧ keepsData s t ∧ sameMask s t ∧ sameFrames s t
      ∧ t = { errorsAside s t with slot := t.slot, cores := t.cores, tlb := t.tlb } := by
  obtain ⟨n, hpk, hlook, hwait⟩ := cwaitAt_reads (rb := rb) hplace hdata hblock
  rw [if_pos hmet] at hwait
  rw [exec_cwait]
  refine (issue_completed (sw := sw) (body := fun v s => cwaitAt v.a v.b s) hs (cwait_issues hs ha hplain sw) rfl rfl hwait
    ((congrArg Task.wait hpk.task).trans hs.awake)).imp fun t h => ?_
  have hc : Completed n t := h.2
  have hgoes := hc.goesOn hpk.task
  exact ⟨h.1, hgoes.pc, hgoes.data (hc.mem.trans hpk.mem), hgoes.mask, hgoes.frames, hlook.trans hc.looked⟩

/-- A counter below the target parks the CWAIT at its home. -/
theorem cwait_parks (hless : readNat s pa 8 < (plainRead s.t rb).toNat) :
    ∃ t, exec (.cwait ra rb sw) s = .next t ∧ t.t.pc = s.t.pc ∧ t.t.wait = some (.counter pa (plainRead s.t rb)) ∧ t.t.met = false
      ∧ keepsData s t ∧ sameMask s t ∧ sameFrames s t := by
  obtain ⟨n, hpk, -, hwait⟩ := cwaitAt_reads (rb := rb) hplace hdata hblock
  rw [if_neg (Nat.not_le.2 hless)] at hwait
  have hi := cwait_issues (rb := rb) hs ha hplain sw
  rw [exec_cwait]
  refine (issue_parks (sw := sw) (body := fun v s => cwaitAt v.a v.b s) hi hwait).imp fun t h => ?_
  have hpark : Parks n s.t.pc (.counter pa (plainRead s.t rb)) t := h.2
  exact ⟨h.1, hpark.pc, hpark.wait,
    issue_parks_unmet (body := fun v s => cwaitAt v.a v.b s) hi hwait (readNat_congr (s := s) hpk.mem pa 8 ▸ hless) h.1,
    hpark.data hpk.task hpk.mem, hpark.mask hpk.task, hpark.frames hpk.task⟩

end

/-! ## The end of the wait -/

/-- The parked instruction of a slot in no strand waits at most for its own results when it has completed (R86). -/
theorem completeWait_wait {s : State} (hl : s.t.leader = none) (hf : s.t.followers = []) {pa : Nat} {target : Word} :
    (completeWait s).t.wait ≠ some (.counter pa target) := by
  have hfwd : (forwardTo s.t).filter (fun n => s.t.followers.contains n) = [] := by rw [forwardTo, hf, ite_self]; rfl
  have hw := (complete_unforwarded (s0 := s) (s := (dropWatch s s.cur).setT { s.t with wait := none, met := false, pc := s.t.pc + 4 })
    s.t.waitWord (s.t.waitWord.getLsbD 0) (u := {}) (by rw [Task.follows, hl]; rfl) hfwd rfl rfl).2
  obtain hw | ⟨-, hw⟩ := hw <;> exact fun he => absurd (hw.symm.trans he) nofun

theorem makeHot_replyWaits (s : State) (n home : Nat) :
    replyWaits (s.makeHot n) (s.makeHot n).core home = replyWaits s (coreOf n) home := by
  rw [makeHot_device]
  rfl

/-- A wait on a counter that has reached its target ends, once no reply of the home comes first. -/
theorem wakeStep_counter {s : State} {pa : Nat} {target : Word} (hw : s.t.wait = some (.counter pa target))
    (hmet : target.toNat ≤ readNat s pa 8) (hreply : replyWaits s s.core (homeOf pa) = false) : wakeStep s = completeWait s := by
  have hholds : waitHolds s s.cur (.counter pa target) = true := decide_eq_true hmet
  have hbehind : wakeBehind s (.counter pa target) = false := hreply
  simp only [wakeStep, hw, hholds, hbehind, Bool.not_true, Bool.and_false, Bool.false_or, Bool.false_eq_true, if_false]

/-- An operation that completes the wait of a slot in no strand is seen in the slot. -/
theorem withSlot_completeWait {s : State} {n : Nat} {f : State → State} (h : f (s.makeHot n) = completeWait (s.makeHot n))
    (hl : (s.makeHot n).t.leader = none) (hf : (s.makeHot n).t.followers = []) :
    ((withSlot s n f).slotAt n).t = (completeWait (s.makeHot n)).t ∧ sameBytes s (withSlot s n f) := by
  obtain ⟨-, -, hcur, hmem⟩ := completeWait_alone hl hf
  exact ⟨(congrArg Slot.t (withSlot_slot ((congrArg State.cur h).trans (hcur.trans (makeHot_cur s n))))).trans (congrArg State.t h),
    readByte_congr ((withSlot_mem s n f).trans ((congrArg State.mem h).trans (hmem.trans (makeHot_mem s n))))⟩

section
variable {slot pa : Nat} {target : Word} {s : State} (hw : (s.slotAt slot).t.wait = some (.counter pa target))
  (hmet : target.toNat ≤ readNat s pa 8) (hl : (s.slotAt slot).t.leader = none) (hf : (s.slotAt slot).t.followers = [])
  (hreply : replyWaits s (coreOf slot) (homeOf pa) = false)
include hw hmet hl hf hreply

/-- The slot goes on to the instruction after its CWAIT. -/
theorem withSlot_wakeStep_counter : ((withSlot s slot wakeStep).slotAt slot).t.pc = (s.slotAt slot).t.pc + 4
    ∧ ((withSlot s slot wakeStep).slotAt slot).t.wait ≠ some (.counter pa target) ∧ sameBytes s (withSlot s slot wakeStep) := by
  have ht : (s.makeHot slot).t = (s.slotAt slot).t := congrArg Slot.t (makeHot_slot s slot)
  have hl : (s.makeHot slot).t.leader = none := (congrArg Task.leader ht).trans hl
  have hf : (s.makeHot slot).t.followers = [] := (congrArg Task.followers ht).trans hf
  have hwake := wakeStep_counter ((congrArg Task.wait ht).trans hw) (hmet.trans (readNat_congr (makeHot_mem s slot) pa 8).ge)
    ((makeHot_replyWaits s slot (homeOf pa)).trans hreply)
  obtain ⟨hslot, hbytes⟩ := withSlot_completeWait hwake hl hf
  exact ⟨(congrArg Task.pc hslot).trans ((completeWait_alone hl hf).1.trans (congrArg (·.pc + 4) ht)),
    fun he => completeWait_wait hl hf ((congrArg Task.wait hslot).symm.trans he), hbytes⟩

end

theorem exec_watchWake {slot : Nat} {s : State} (h : slotHeld s slot = false) :
    exec (.watchWake slot) s = .next (withSlot s slot wakeStep) := by
  have hmay : mayWake s slot = true := by simp [mayWake, h]
  show execWatchWake slot s = _
  rw [execWatchWake, hmay, if_pos rfl]

/-- A waiter without a watch entry may ask its home again. -/
theorem exec_watchRepoll {slot : Nat} {s : State} (h : slotHeld s slot = false) (hw : ∃ w ∈ s.watches, w.slot = slot ∧ w.entry = false) :
    exec (.watchRepoll slot) s = .next (withSlot s slot wakeStep) := by
  obtain ⟨w, hmem, hslot, hentry⟩ := hw
  have hany : s.watches.any (fun w => w.slot = slot && !w.entry) = true :=
    List.any_eq_true.2 ⟨w, hmem, Bool.and_eq_true_iff.2 ⟨decide_eq_true hslot, congrArg not hentry⟩⟩
  show execWatchRepoll slot s = _
  rw [execWatchRepoll, h, hany]
  rfl

/-- Settles O25: the add is the operation of its home, the wait is decided by the counter as it was, and either way of waking completes it. -/
theorem countersAddAndAreWaitedFor : Obligations.CountersAddAndAreWaitedFor := by
  refine ⟨cadd_adds, fun ra rb sw pa fl s s2 hs ha hplain hplace hdata hblock =>
    ⟨cwait_met hs ha hplain hplace hdata hblock sw, cwait_parks hs ha hplain hplace hdata hblock sw⟩,
    fun slot pa target s hw hmet hheld hl hf hreply => ?_⟩
  have hwakes := withSlot_wakeStep_counter hw hmet hl hf hreply
  exact ⟨⟨_, exec_watchWake hheld, hwakes⟩, fun hrepoll => ⟨_, exec_watchRepoll hheld hrepoll, hwakes⟩⟩

end Sys2Proof.Machine
end

section
/-! Rings: the checks of the block and of its entry, and what ENQ and DEQ leave (R180, R340, R341). -/
namespace Sys2Proof.Machine

/-! ## The checks -/

/-- The checks of a ring's block, where they have not failed, have only read. -/
def OkPeeked (s : State) (r : Except Stop (State × Nat)) : Prop := ∀ s1 pa, r = .ok (s1, pa) → Peeked s s1

theorem okPeeked_error (s : State) (e : Stop) : OkPeeked s (.error e) := fun _ _ h => by cases h

theorem ringBlock_peeked (a : Word) (s : State) : OkPeeked s (ringBlock a s) := by
  unfold ringBlock
  rcases hloc : locate s s.asker .ring a 64 64 none 0 with c | ⟨n, pa | _ | _ | _⟩
  case error | ok.ro | ok.reg | ok.remote => exact okPeeked_error _ _
  refine iteInduction (motive := OkPeeked s) (fun _ => okPeeked_error _ _) fun _ => ?_
  induction checkData s [(a, true)]
  case error => exact okPeeked_error _ _
  refine iteInduction (motive := OkPeeked s) (fun _ => okPeeked_error _ _) fun _ => ?_
  intro _ _ h
  injection h with h
  injection h with hs _
  exact hs ▸ (locate_peeked hloc).trans (noteRead_peeked n .lost pa 64)

/-- So have those of its entry. -/
def SomePeeked (s : State) (r : Option (State × Nat)) : Prop := ∀ s1 pa, r = some (s1, pa) → Peeked s s1

theorem somePeeked_none (s : State) : SomePeeked s none := fun _ _ h => by cases h

theorem ringPlace_peeked (s : State) (k : Access) (ws : List Word) (i : Word) : SomePeeked s (ringPlace s k ws i) := by
  unfold ringPlace
  refine iteInduction (motive := SomePeeked s) (fun _ => somePeeked_none _) fun _ => ?_
  rcases hbase : locate s s.asker .ringRead (ringBase ws) 8 8 none 0 with c | ⟨n, p⟩
  · exact somePeeked_none _
  dsimp only
  rcases hentry : locate n n.asker k (ringEntry ws i) 8 8 none 0 with _ | ⟨m, pa | _ | _ | _⟩
  case error | ok.ro | ok.reg | ok.remote => exact somePeeked_none _
  refine iteInduction (motive := SomePeeked s) (fun _ => somePeeked_none _) fun _ => ?_
  intro _ _ h
  injection h with h
  injection h with hs _
  exact hs ▸ (locate_peeked hbase).trans (locate_peeked hentry)

theorem ring_peeked {a i : Word} {s s1 s2 : State} {k : Access} {ws : List Word} {pa e : Nat} (h : ringBlock a s = .ok (s1, pa))
    (hplace : ringPlace s1 k ws i = some (s2, e)) : Peeked s s2 := (ringBlock_peeked _ _ _ _ h).trans (ringPlace_peeked _ _ _ _ _ _ hplace)

/-! ## What an effect does of its block -/

/-- What ENQ does of the ring at pa, of words ws and tail i, when it has looked for the place of the entry. -/
def enqPlaced (rd : Reg) (v : Word) (s1 : State) (pa : Nat) (ws : List Word) (i : Word) : Option (State × Nat) → Eff
  | none => result s1 rd 2
  | some (s2, e) =>
    if ringFill ws = 2 ^ ringLog ws then result s2 rd 1
    else if owned s2 e 8 then .error (.park s2 (.ring pa e 8))
    else result (afterWrite (writeWord (writeWord s2 e v) (pa + 24) (i + 1))) rd 0

/-- What DEQ does of it, its head being i. -/
def deqPlaced (rd rb : Reg) (s1 : State) (pa : Nat) (ws : List Word) (i : Word) : Option (State × Nat) → Eff
  | none => result2 s1 rd rb 0 2
  | some (s2, e) =>
    if ringFill ws = 0 then result2 s2 rd rb 0 1
    else if owned s2 e 8 then .error (.park s2 (.ring pa e 8))
    else result2 (afterWrite (writeWord (noteMine s2 e 8) (pa + 16) (i + 1))) rd rb (readWord s2 e) 0

section
variable {a : Word} {s s1 s2 : State} {pa e : Nat} (h : ringBlock a (advanced s s) = .ok (s1, pa))
include h

/-- ENQ and DEQ find the ring's words as they are at issue. -/
theorem readWord_ringBlock (b : Nat) : readWord s1 b = readWord s b := readWord_congr (s := s) (ringBlock_peeked _ _ _ _ h).mem b

theorem readWords_ringBlock : readWords s1 pa 8 = readWords s pa 8 := readWords_congr (s := s) (ringBlock_peeked _ _ _ _ h).mem pa 8

theorem enqAt_placed (rd : Reg) (v : Word) : enqAt rd a v (advanced s s)
    = enqPlaced rd v s1 pa (readWords s pa 8) (readWord s (pa + 24))
      (ringPlace s1 .ring (readWords s1 pa 8) (readWord s (pa + 24))) := by
  rw [← readWord_ringBlock h, ← readWords_ringBlock h, enqAt, h]
  rfl

theorem enqAt_malformed (rd : Reg) (v : Word) (hplace : ringPlace s1 .ring (readWords s1 pa 8) (readWord s (pa + 24)) = none) :
    enqAt rd a v (advanced s s) = result s1 rd 2 := by
  rw [enqAt_placed h, hplace]
  rfl

theorem enqAt_full (rd : Reg) (v : Word) (hplace : ringPlace s1 .ring (readWords s1 pa 8) (readWord s (pa + 24)) = some (s2, e))
    (hfull : ringFill (readWords s pa 8) = 2 ^ ringLog (readWords s pa 8)) : enqAt rd a v (advanced s s) = result s2 rd 1 := by
  rw [enqAt_placed h, hplace, enqPlaced, if_pos hfull]

/-- A ring with room takes the word at its tail. -/
theorem enqAt_puts (rd : Reg) (v : Word) (hplace : ringPlace s1 .ring (readWords s1 pa 8) (readWord s (pa + 24)) = some (s2, e))
    (hroom : ringFill (readWords s pa 8) ≠ 2 ^ ringLog (readWords s pa 8)) (hown : owned s2 e 8 = false) : enqAt rd a v (advanced s s)
      = result (homeWritten (writeWord s2 e v) (pa + 24) (readWord s (pa + 24) + 1)) rd 0 := by
  rw [enqAt_placed h, hplace, enqPlaced, if_neg hroom, if_neg (ne_true_of_eq_false hown)]
  rfl

theorem deqAt_placed (rd rb : Reg) : deqAt rd rb a (advanced s s)
    = deqPlaced rd rb s1 pa (readWords s pa 8) (readWord s (pa + 16))
      (ringPlace s1 .ringRead (readWords s1 pa 8) (readWord s (pa + 16))) := by
  rw [← readWord_ringBlock h, ← readWords_ringBlock h, deqAt, h]
  rfl

theorem deqAt_malformed (rd rb : Reg) (hplace : ringPlace s1 .ringRead (readWords s1 pa 8) (readWord s (pa + 16)) = none) :
    deqAt rd rb a (advanced s s) = result2 s1 rd rb 0 2 := by
  rw [deqAt_placed h, hplace]
  rfl

theorem deqAt_empty (rd rb : Reg) (hplace : ringPlace s1 .ringRead (readWords s1 pa 8) (readWord s (pa + 16)) = some (s2, e))
    (hempty : ringFill (readWords s pa 8) = 0) : deqAt rd rb a (advanced s s) = result2 s2 rd rb 0 1 := by
  rw [deqAt_placed h, hplace, deqPlaced, if_pos hempty]

/-- A ring with a word gives the one at its head. -/
theorem deqAt_takes (rd rb : Reg) (hplace : ringPlace s1 .ringRead (readWords s1 pa 8) (readWord s (pa + 16)) = some (s2, e))
    (hfill : ringFill (readWords s pa 8) ≠ 0) (hown : owned s2 e 8 = false) : deqAt rd rb a (advanced s s)
      = result2 (homeWritten (noteMine s2 e 8) (pa + 16) (readWord s (pa + 16) + 1)) rd rb (readWord s2 e) 0 := by
  rw [deqAt_placed h, hplace, deqPlaced, if_neg hfill, if_neg (ne_true_of_eq_false hown)]
  rfl

end

/-! ## ENQ -/

theorem exec_enq (rd ra rb : Reg) (sw : Bool) (s : State) : exec (.enq rd ra rb sw) s =
    issue (.enq rd ra rb sw) sw (use2 rd ra rb) (fun v s => enqAt rd v.a v.b s) s := rfl

section
variable {rd ra rb : Reg} (sw : Bool) {pa : Nat} {s s1 : State} (hs : Calm s) (ha : s.t.active = true)
  (hplain : ∀ r ∈ [ra, rb, rd], plainCode s.t r = true) (hblock : ringBlock (plainRead s.t ra) (advanced s s) = .ok (s1, pa))
include hs ha hplain

/-- An ENQ that ends with a status completes with it. -/
theorem enq_status {s2 : State} {w : Word} (ht : s2.t = (advanced s s).t)
    (henq : enqAt rd (plainRead s.t ra) (plainRead s.t rb) (advanced s s) = result s2 rd w) :
    ∃ t, Writes s s2 (wrote s rd w) (exec (.enq rd ra rb sw) s) t := by
  have hi : Issues (.enq rd ra rb sw) (use2 rd ra rb) s s (plainVals s.t (use2 rd ra rb)) :=
    issues_plain hs ((Bool.or_false _).trans ha) hplain rfl rfl rfl Bool.noConfusion
  have hrd : plainCode s.t rd = true := hplain rd (.tail _ (.tail _ (.head _)))
  rw [exec_enq]
  exact issue_writesCodes (body := fun v s => enqAt rd v.a v.b s) hs hi rfl rfl (plainWrite_sameButValues _ _ _)
    (henq.trans (result_plain w hrd ht))

/-- An ENQ that puts nothing into the ring gives its status. -/
theorem enq_refuses {s2 : State} {w : Word} (hpk : Peeked (advanced s s) s2)
    (henq : enqAt rd (plainRead s.t ra) (plainRead s.t rb) (advanced s s) = result s2 rd w) :
    ∃ t, exec (.enq rd ra rb sw) s = .next t ∧ t.t.pc = s.t.pc + 4 ∧ (rd ≠ 0 → plainRead t.t rd = w) ∧ sameCodesBut s t rd
      ∧ sameBytes s t :=
  (enq_status sw hs ha hplain hpk.task henq).imp fun _ h =>
    ⟨h.next, h.pc, h.value (hplain rd (.tail _ (.tail _ (.head _)))), h.others, h.bytes hpk.mem⟩

include hblock

/-- A malformed block gives status 2. -/
theorem enq_malformed (hplace : ringPlace s1 .ring (readWords s1 pa 8) (readWord s (pa + 24)) = none) :
    ∃ t, exec (.enq rd ra rb sw) s = .next t ∧ t.t.pc = s.t.pc + 4 ∧ (rd ≠ 0 → plainRead t.t rd = 2) ∧ sameCodesBut s t rd
      ∧ sameBytes s t :=
  enq_refuses sw hs ha hplain (ringBlock_peeked _ _ _ _ hblock)
    (enqAt_malformed hblock rd _ hplace)

variable {s2 : State} {e : Nat} (hplace : ringPlace s1 .ring (readWords s1 pa 8) (readWord s (pa + 24)) = some (s2, e))
include hplace

/-- A full ring gives status 1. -/
theorem enq_full (hfull : ringFill (readWords s pa 8) = 2 ^ ringLog (readWords s pa 8)) :
    ∃ t, exec (.enq rd ra rb sw) s = .next t ∧ t.t.pc = s.t.pc + 4 ∧ (rd ≠ 0 → plainRead t.t rd = 1) ∧ sameCodesBut s t rd
      ∧ sameBytes s t :=
  enq_refuses sw hs ha hplain (ring_peeked hblock hplace)
    (enqAt_full hblock rd _ hplace hfull)

/-- A ring with room takes rb at its tail, which advances. -/
theorem enq_puts (hroom : ringFill (readWords s pa 8) ≠ 2 ^ ringLog (readWords s pa 8)) (hown : owned s e 8 = false)
    (hapart : e + 8 ≤ pa + 24 ∨ pa + 32 ≤ e) :
    ∃ t, exec (.enq rd ra rb sw) s = .next t ∧ t.t.pc = s.t.pc + 4 ∧ (rd ≠ 0 → plainRead t.t rd = 0) ∧ sameCodesBut s t rd
      ∧ sameSpecial s t ∧ readWord t e = plainRead s.t rb ∧ readWord t (pa + 24) = readWord s (pa + 24) + 1
      ∧ ∀ a, (a < e ∨ e + 8 ≤ a) → (a < pa + 24 ∨ pa + 32 ≤ a) → readByte t a = readByte s a := by
  have hpk := ring_peeked hblock hplace
  have htask : (homeWritten (writeWord s2 e (plainRead s.t rb)) (pa + 24) (readWord s (pa + 24) + 1)).t = (advanced s s).t :=
    (homeWritten_task _ _ ((congrArg (·.t.wait) (writeWord_slot _ _)).trans ((congrArg Task.wait hpk.task).trans hs.awake))).trans
      ((congrArg Slot.t (writeWord_slot _ _)).trans hpk.task)
  refine (enq_status sw hs ha hplain htask (enqAt_puts hblock rd _ hplace hroom ((hpk.owned_eq e 8).trans hown))).imp fun _ h => ?_
  exact ⟨h.next, h.pc, h.value (hplain rd (.tail _ (.tail _ (.head _)))), h.others, h.special,
    (readWord_congr h.mem e).trans ((homeWritten_other _ hapart).trans (readWord_writeWord _ _ _)),
    (readWord_congr h.mem _).trans (homeWritten_same _ _),
    fun a h1 h2 => (readByte_congr h.mem a).trans ((homeWritten_outside _ _ h2).trans
      ((readByte_writeWord_outside _ _ _ _ h1).trans (readByte_congr (s := s) hpk.mem a)))⟩

end


/-! ## DEQ -/

theorem exec_deq (rd ra rb : Reg) (sw : Bool) (s : State) : exec (.deq rd ra rb sw) s =
    issue (.deq rd ra rb sw) sw { a := some ra, d := [rd, rb] } (fun v s => deqAt rd rb v.a s) s := rfl

/-- The status goes to a register other than z (R92). -/
theorem statusReg_register {r : Reg} (h : statusReg r = true) : r ≠ 0 ∧ r.toNat < 56 := by
  rw [statusReg, Bool.and_eq_true, bne_iff_ne, isQueueCode, Bool.not_eq_true', decide_eq_false_iff_not, Nat.not_le] at h
  exact h

/-- What stands behind a register is the same after a write. -/
theorem plainCode_plainWrite {t : Task} {r : Reg} (q : Reg) (v : Word) (h : r.toNat < 56) :
    plainCode (plainWrite t q v) r = plainCode t r := by
  have hframe : (plainWrite t q v).frame = t.frame := congrArg (List.headD · _) (plainWrite_frames t q v)
  obtain ⟨-, -, -, hstream⟩ := low_facts h
  rw [plainCode, plainCode, hstream, outOfFrame, outOfFrame, hframe]
  rfl

/-- The task of s as a DEQ leaves it: its value goes to rd, and then its status to rb (R340). -/
def wroteBoth (s : State) (rd rb : Reg) (v w : Word) : Task := plainWrite (wrote s rd v) rb w

theorem wroteBoth_sameButValues (s : State) (rd rb : Reg) (v w : Word) : SameButValues (advanced s s).t (wroteBoth s rd rb v w) :=
  (plainWrite_sameButValues _ _ _).trans (plainWrite_sameButValues _ _ _)

theorem result2_plain {s s2 : State} {rd rb : Reg} (v w : Word) (hrd : plainCode s.t rd = true) (hrb : plainCode s.t rb = true)
    (hlow : rb.toNat < 56) (ht : s2.t = (advanced s s).t) : result2 s2 rd rb v w = .ok (s2.setT (wroteBoth s rd rb v w)) := by
  rw [result2, result_plain v hrd ht]
  exact putReg_plain (s2.setT (wrote s rd v)) w ((plainCode_plainWrite rd v hlow).trans hrb)

section
variable {s s2 t : State} {rd rb : Reg} {v w : Word} {o : Out} (h : Writes s s2 (wroteBoth s rd rb v w) o t)
include h

theorem Writes.status (hrb : statusReg rb = true) : plainRead t.t rb = w :=
  (h.codes rb).trans (plainRead_plainWrite_same _ _ _ (statusReg_register hrb).1 (.inl (statusReg_register hrb).2))

theorem Writes.first (hrd : plainCode s.t rd = true) (h0 : rd ≠ 0) (hne : rd ≠ rb) : plainRead t.t rd = v :=
  (h.codes rd).trans ((plainRead_plainWrite_other _ _ _ _ hne).trans (plainRead_plainWrite_same _ _ _ h0 (register_or_stream hrd)))

theorem Writes.rest (r : Reg) (hnd : r ≠ rd) (hnb : r ≠ rb) : plainRead t.t r = plainRead s.t r :=
  (h.codes r).trans ((plainRead_plainWrite_other _ _ _ _ hnb).trans
    ((plainRead_plainWrite_other _ _ _ _ hnd).trans (plainRead_advanced s r)))

end

/-- A first value of 0 is also what z reads as. -/
theorem Writes.first_zero {s s2 t : State} {rd rb : Reg} {w : Word} {o : Out} (h : Writes s s2 (wroteBoth s rd rb 0 w) o t)
    (hrd : plainCode s.t rd = true) (hne : rd ≠ rb) : plainRead t.t rd = 0 := by
  by_cases h0 : rd = 0
  · rw [h0, plainRead_zero _ _ rfl]
  · exact h.first hrd h0 hne

section
variable {rd ra rb : Reg} (sw : Bool) {pa : Nat} {s s1 : State} (hs : Calm s) (ha : s.t.active = true)
  (hplain : ∀ r ∈ [ra, rd, rb], plainCode s.t r = true) (hstatus : statusReg rb = true)
  (hblock : ringBlock (plainRead s.t ra) (advanced s s) = .ok (s1, pa))
include hs ha hplain hstatus

/-- A DEQ that ends with a value and a status completes with them. -/
theorem deq_status {s2 : State} {v w : Word} (ht : s2.t = (advanced s s).t)
    (hdeq : deqAt rd rb (plainRead s.t ra) (advanced s s) = result2 s2 rd rb v w) :
    ∃ t, Writes s s2 (wroteBoth s rd rb v w) (exec (.deq rd ra rb sw) s) t := by
  have hi : Issues (.deq rd ra rb sw) { a := some ra, d := [rd, rb] } s s (plainVals s.t { a := some ra, d := [rd, rb] }) :=
    issues_plain hs ((Bool.or_false _).trans ha) hplain hstatus rfl rfl Bool.noConfusion
  have hrd : plainCode s.t rd = true := hplain rd (.tail _ (.head _))
  have hrb : plainCode s.t rb = true := hplain rb (.tail _ (.tail _ (.head _)))
  rw [exec_deq]
  exact issue_writesCodes (body := fun v s => deqAt rd rb v.a s) hs hi rfl rfl (wroteBoth_sameButValues _ _ _ _ _)
    (hdeq.trans (result2_plain v w hrd hrb (statusReg_register hstatus).2 ht))

/-- A DEQ that takes nothing gives 0 with its status. -/
theorem deq_refuses {s2 : State} {w : Word} (hpk : Peeked (advanced s s) s2)
    (hdeq : deqAt rd rb (plainRead s.t ra) (advanced s s) = result2 s2 rd rb 0 w) :
    ∃ t, exec (.deq rd ra rb sw) s = .next t ∧ t.t.pc = s.t.pc + 4 ∧ plainRead t.t rb = w ∧ (rd ≠ rb → plainRead t.t rd = 0)
      ∧ (∀ r, r ≠ rd → r ≠ rb → plainRead t.t r = plainRead s.t r) ∧ sameBytes s t :=
  (deq_status sw hs ha hplain hstatus hpk.task hdeq).imp fun _ h =>
    ⟨h.next, h.pc, h.status hstatus, h.first_zero (hplain rd (.tail _ (.head _))), h.rest, h.bytes hpk.mem⟩

include hblock

/-- A malformed block gives status 2. -/
theorem deq_malformed (hplace : ringPlace s1 .ringRead (readWords s1 pa 8) (readWord s (pa + 16)) = none) :
    ∃ t, exec (.deq rd ra rb sw) s = .next t ∧ t.t.pc = s.t.pc + 4 ∧ plainRead t.t rb = 2 ∧ (rd ≠ rb → plainRead t.t rd = 0)
      ∧ (∀ r, r ≠ rd → r ≠ rb → plainRead t.t r = plainRead s.t r) ∧ sameBytes s t :=
  deq_refuses sw hs ha hplain hstatus (ringBlock_peeked _ _ _ _ hblock) (deqAt_malformed hblock rd rb hplace)

variable {s2 : State} {e : Nat} (hplace : ringPlace s1 .ringRead (readWords s1 pa 8) (readWord s (pa + 16)) = some (s2, e))
include hplace

/-- An empty ring gives status 1. -/
theorem deq_empty (hempty : ringFill (readWords s pa 8) = 0) :
    ∃ t, exec (.deq rd ra rb sw) s = .next t ∧ t.t.pc = s.t.pc + 4 ∧ plainRead t.t rb = 1 ∧ (rd ≠ rb → plainRead t.t rd = 0)
      ∧ (∀ r, r ≠ rd → r ≠ rb → plainRead t.t r = plainRead s.t r) ∧ sameBytes s t :=
  deq_refuses sw hs ha hplain hstatus (ring_peeked hblock hplace) (deqAt_empty hblock rd rb hplace hempty)

/-- A ring with a word gives the one at its head, which advances. -/
theorem deq_takes (hfill : ringFill (readWords s pa 8) ≠ 0) (hown : owned s e 8 = false) :
    ∃ t, exec (.deq rd ra rb sw) s = .next t ∧ t.t.pc = s.t.pc + 4 ∧ plainRead t.t rb = 0
      ∧ (rd ≠ 0 → rd ≠ rb → plainRead t.t rd = readWord s e) ∧ (∀ r, r ≠ rd → r ≠ rb → plainRead t.t r = plainRead s.t r)
      ∧ sameSpecial s t ∧ readWord t (pa + 16) = readWord s (pa + 16) + 1 ∧ sameOutside s t (pa + 16) 8 := by
  have hpk := ring_peeked hblock hplace
  have hmine : (noteMine s2 e 8).t = (advanced s s).t := hpk.task
  have htask := (homeWritten_task (pa + 16) (readWord s (pa + 16) + 1) ((congrArg Task.wait hmine).trans hs.awake)).trans hmine
  refine (deq_status sw hs ha hplain hstatus htask (deqAt_takes hblock rd rb hplace hfill ((hpk.owned_eq e 8).trans hown))).imp fun _ h => ?_
  exact ⟨h.next, h.pc, h.status hstatus,
    fun h0 hne => (h.first (hplain rd (.tail _ (.head _))) h0 hne).trans (readWord_congr (s := s) hpk.mem e), h.rest, h.special,
    (readWord_congr h.mem (pa + 16)).trans (homeWritten_same (pa + 16) _),
    fun a h1 => (readByte_congr h.mem a).trans ((homeWritten_outside _ _ h1).trans (readByte_congr (s := s) hpk.mem a))⟩

end

/-- Settles O27: each clause is one way in which the ring's operation ends, on the block and the entry that its checks find. -/
theorem ringsQueueAndDequeue : Obligations.RingsQueueAndDequeue :=
  ⟨fun _ _ _ sw _ _ _ hs ha hplain hblock => ⟨enq_malformed sw hs ha hplain hblock, fun _ _ hplace =>
      ⟨enq_full sw hs ha hplain hblock hplace, enq_puts sw hs ha hplain hblock hplace⟩⟩,
    fun _ _ _ sw _ _ _ hs ha hplain hstatus hblock => ⟨deq_malformed sw hs ha hplain hstatus hblock, fun _ _ hplace =>
      ⟨deq_empty sw hs ha hplain hstatus hblock hplace, deq_takes sw hs ha hplain hstatus hblock hplace⟩⟩⟩

end Sys2Proof.Machine
end
